-- ==== Sys2Proof/Word.lean ====
section
/-! DEFINITION. The word types of the SX9 and their plainest arithmetic: bytes, 32-bit lane words,
64-bit scalar words, 256-bit capability-sized data is a record and lives in State. -/

namespace Sys2Proof

/-- One byte of memory. -/
abbrev Byte := BitVec 8

/-- A vector register in one lane (R13). -/
abbrev W32 := BitVec 32

/-- A scalar register (R13). -/
abbrev W64 := BitVec 64

/-- All ones, the value several instructions write for "none". -/
def allOnes64 : W64 := BitVec.allOnes 64

/-- The bits `[hi:lo]` of a natural number, as the spec writes a field of a word. -/
def bits (n hi lo : Nat) : Nat := (n / 2 ^ lo) % 2 ^ (hi + 1 - lo)

/-- Bit `i` of a natural number. -/
def bitOf (n i : Nat) : Bool := (n / 2 ^ i) % 2 == 1

/-- 1 for true, 0 for false. -/
def natOf (b : Bool) : Nat := if b then 1 else 0

/-- `n` rounded up to a multiple of `m`. -/
def roundUp (n m : Nat) : Nat := if m = 0 then n else (n + m - 1) / m * m

/-- Ceiling of `a / b`. -/
def ceilDiv (a b : Nat) : Nat := if b = 0 then 0 else (a + b - 1) / b

end Sys2Proof
end

