-- ==== Sys2Proof/Syntax.lean ====
section
/-! DEFINITION. The instruction set as syntax: the fields every instruction shares (word 0, Table 3.2),
the operand kinds of Table 3.3, the argument records of the five forms (Tables 3.5 to 3.8), and `Instr`,
one constructor per row of the opcode table. The rows that name no opcode are EVENTS of the device or of
the world outside (an issue, a retirement, a Scribe pass, a host access); their arguments are what the
device or the world chooses. -/

namespace Sys2Proof

/-- The fields of word 0 that mean the same in every instruction (R45 to R48). -/
structure Hdr where
  /-- extra clk before the warp's next issue, 0 to 7 -/
  stall : Nat := 0
  /-- bit `c` set: wait for counter `cc`c to reach zero -/
  wait : Nat := 0
  /-- the guard predicate register -/
  pg : Nat := 0
  /-- invert the guard -/
  pn : Bool := false
  /-- yield hint -/
  y : Bool := false
  deriving DecidableEq, Repr

/-- Type suffixes, Table 3.6. -/
inductive Ty where
  | dflt | b8 | b16 | b32 | b64 | i8 | i16 | i32 | i64 | n8 | n16 | n32 | n64
  | f16 | bf16 | f32 | e4m3 | e5m2 | e2m1 | lq4
  | i16x2 | n16x2 | b16x2 | f16x2 | bf16x2 | i8x4 | n8x4 | b8x4 | e4m3x4 | e5m2x4 | e2m1x4
  deriving DecidableEq, Repr

/-- Rounding modes, Table 3.5. -/
inductive Rnd where
  | rn | rz | rp | rm | rs
  deriving DecidableEq, Repr

/-- The forms that share one argument record: A (no extension word), B and C (one extension word). -/
inductive Form where
  | a | b | c
  deriving DecidableEq, Repr

/-- An operand field, read by its kind of Table 3.3. -/
inductive Opd where
  /-- unused: the field is 0 -/
  | none
  /-- a vector register -/
  | v (r : Nat)
  /-- a vector pair, named by its even register -/
  | vp (r : Nat)
  /-- a scalar register -/
  | s (r : Nat)
  /-- a scalar pair, named by its even register -/
  | sp (r : Nat)
  /-- a predicate register -/
  | p (r : Nat)
  /-- a capability register -/
  | k (r : Nat)
  /-- a completion counter -/
  | c (r : Nat)
  /-- a group of the frame -/
  | g (r : Nat)
  /-- a special register -/
  | x (r : Nat)
  deriving DecidableEq, Repr

/-- The arguments of a form A, B or C instruction (R51, R53). In form C `b` and `c` are `none`, `imm`
stands for B, and `sub` stands in the B field. In form A everything after `m0` has its default. -/
structure AluArgs where
  form : Form := .a
  d : Opd := .none
  a : Opd := .none
  b : Opd := .none
  c : Opd := .none
  /-- M[0]: B names a scalar register -/
  m0 : Bool := false
  ty : Ty := .dflt
  ty2 : Ty := .dflt
  rnd : Rnd := .rn
  sat : Bool := false
  sub : Nat := 0
  imm : W32 := 0
  deriving DecidableEq, Repr

/-- One slot of `WAITC` (R55): `none` is counter 15, an unused slot. -/
structure WaitSlot where
  ctr : Nat
  threshold : Nat
  deriving DecidableEq, Repr

/-- The arguments of `WAITC`: its four slots in order (R55). -/
structure WaitcArgs where
  s0 : Option WaitSlot := none
  s1 : Option WaitSlot := none
  s2 : Option WaitSlot := none
  s3 : Option WaitSlot := none
  deriving DecidableEq, Repr

/-- The arguments of `SMOVI` (R53, R54): form C sign-extends 32 bits, the wide form holds 64. -/
structure SmoviArgs where
  d : Nat := 0
  wide : Bool := false
  imm : W64 := 0
  deriving DecidableEq, Repr

/-- Scopes, Table 3.7 and R166; `dflt` is the entry's default scope. -/
inductive Scope where
  | dflt | wp | fr | by_ | dv | sy
  deriving DecidableEq, Repr

/-- The ORD field of Table 3.7. -/
inductive MOrd where
  | plain | acq | rel | free
  deriving DecidableEq, Repr

/-- The arguments of a form M instruction (R56). -/
structure MemArgs where
  d : Opd := .none
  ty : Ty := .dflt
  mop : Nat := 0
  base : Opd := .none
  m0 : Bool := false
  /-- M[1]: the operand is in scratchpad -/
  scr : Bool := false
  k : Nat := 0
  cc : Nat := 0
  /-- SZ: the access size is `2^sz` bytes -/
  sz : Nat := 0
  ord : MOrd := .plain
  scope : Scope := .dflt
  /-- displacement in units of the access size -/
  disp : Int := 0
  deriving DecidableEq, Repr

/-- How a form E instruction completes (R58, Table 3.8). -/
inductive Done where
  | none
  | ctr (c : Nat)
  | tag (t : Nat)
  deriving DecidableEq, Repr

/-- The per-instruction part of X (Tables 8.6, 6.7, 6.9, 7.2 and R191, R194, R195). -/
inductive XArg where
  | none
  | copy (dk sk : Nat) (dx sx : Bool) (cnt : Nat) (cr : Bool) (group : Nat) (dep : Bool)
  /-- ring code: bit 6 set, engine ring; else bay ring -/
  | ring (code : Nat)
  /-- a capability register at X[23:19] -/
  | cap (k : Nat)
  | loop (group count prio : Nat)
  | grp (group : Nat)
  | tld (group capk : Nat)
  | tst (group capk : Nat) (rnd : Rnd) (sat rs cs msk act : Bool) (tbl start : Nat) (rel : Bool)
  /-- `MXOPEN`'s b -/
  | mxbits (b : Nat)
  | mxlook (dmax capk : Nat)
  /-- a capability register at X[31:27] -/
  | mxcap (capk : Nat)
  deriving DecidableEq, Repr

/-- The arguments of a form E instruction (R57). -/
structure ExtArgs where
  d : Opd := .none
  a : Opd := .none
  b : Opd := .none
  m0 : Bool := false
  sub : Nat := 0
  fin : Done := .none
  x : XArg := .none
  deriving DecidableEq, Repr

/-- A warp of the device: its frame and its index within the frame. -/
structure WarpId where
  fid : Nat
  idx : Nat
  deriving DecidableEq, Repr

/-- One access of an agent outside the device (a host hart, an NVMe drive, a peer node): a read of `len`
bytes, a write of bytes, or an atomic operation of Table 8.4 on a word of 4 or 8 bytes. -/
inductive BusOp where
  | read (len : Nat)
  | write (data : List Byte)
  | rmw (mop size : Nat) (x : Nat)
  deriving DecidableEq, Repr

/-- An access from outside, with what the fabric says of it. -/
structure BusAccess where
  addr : Nat
  op : BusOp
  /-- the node and the context id an inbound Purlin access carries; 0 for the host -/
  node : Nat := 0
  ctx : Nat := 0
  deriving DecidableEq, Repr

/-- Where Felzen places a frame: the choice R233 leaves to it. -/
structure Placement where
  /-- PROGRAM record index -/
  prog : Nat
  /-- frame index within the launch -/
  frame : Nat
  /-- bay -/
  bay : Nat
  /-- for each warp of the frame: core within the device, partition and slot -/
  slots : List (Nat × Nat × Nat)
  deriving DecidableEq, Repr

/-- What the secure-boot chain finds at a conventional reset (R299 to R301): the failing stage if one
fails, and the digests that it extends the measurement registers by. -/
structure BootInput where
  failStage : Option Nat := none
  digests : List (Nat × BitVec 512) := []
  deriving DecidableEq, Repr

/-- A firmware bundle as Felzen B finds it (R338). -/
structure FwBundle where
  version : Nat
  verified : Bool
  tableOk : Bool
  digest : BitVec 512 := 0
  deriving DecidableEq, Repr

/-- The instructions and events of `spec/opcode_table.json`, one constructor per row. -/
inductive Instr where
  /-- `PARTITION_ISSUE`, R219. -/
  | partitionIssue (part : Nat)
  /-- `WARP_HOLD_RELEASE`, R225. -/
  | warpHoldRelease (w : WarpId)
  /-- `SLEEP_EXPIRY`, R223. -/
  | sleepExpiry (w : WarpId)
  /-- `USER_INTERRUPT_DELIVERY`, R197. -/
  | userInterruptDelivery (w : WarpId)
  /-- `COUNTER_RETIRE`, R179. -/
  | counterRetire (w : WarpId) (ctr : Nat)
  /-- `TAG_LANE_PERFORMED`, R184. -/
  | tagLanePerformed (opId : Nat) (lane : Nat)
  /-- `CPYG_COLLECTIVE_START`, R185. -/
  | cpygCollectiveStart (fid g : Nat)
  /-- `TRUSS_GRANT`, R229. -/
  | trussGrant (bay : Nat)
  /-- `TRUSS_OP_COMPLETE`, R121. -/
  | trussOpComplete (bay : Nat)
  /-- `ENGINE_JOB_START`, R137. -/
  | engineJobStart (die eng : Nat)
  /-- `ENGINE_RING_RESUME`, R139. -/
  | engineRingResume (die eng : Nat)
  /-- `ENGINE_JOB_COMPLETE`, R138. -/
  | engineJobComplete (die eng : Nat)
  /-- `PAGE_RESPONSE_DOORBELL`, R316. -/
  | pageResponseDoorbell (port : Nat) (value : Nat)
  /-- `PEER_TIMEOUT`, R320. -/
  | peerTimeout (w : WarpId) (ctr : Nat)
  /-- `PEER_ERROR_RESPONSE`, R320. -/
  | peerErrorResponse (w : WarpId) (ctr : Nat)
  /-- `PEER_INBOUND_ACCESS`, R320. -/
  | peerInboundAccess (acc : BusAccess)
  /-- `HOST_CXL_ACCESS`, R213. -/
  | hostCxlAccess (acc : BusAccess)
  /-- `LINK_DOWN`, R333. -/
  | linkDown (link : Nat)
  /-- `LINK_RETRAINED`, R333. -/
  | linkRetrained (link : Nat)
  /-- `PLANBASE`, R245. -/
  | planbase (value : Nat)
  /-- `CONFIG_REGISTER_WRITE`, R245. -/
  | configRegisterWrite (port off : Nat) (value : Nat)
  /-- `QIFCFG`, R295. -/
  | qifcfg (port i : Nat) (value : Nat)
  /-- `FRAME_PLACEMENT`, R233. -/
  | framePlacement (p : Placement)
  /-- `SAVE_REQ`, R237. -/
  | saveReq (fid : Nat)
  /-- `FRAME_OUT`, R242. -/
  | frameOut (fid : Nat)
  /-- `FRAME_RELAUNCH`, R329. -/
  | frameRelaunch (fid : Nat) (p : Placement)
  /-- `TAIL_WRITE`, R294. -/
  | tailWrite (port page off : Nat) (value : Nat) (ide : Bool)
  /-- `BAY_WAKE`, R266. -/
  | bayWake (bay : Nat)
  /-- `BAY_POWER_GATE`, R302. -/
  | bayPowerGate (bay : Nat)
  /-- `SHOOTDOWN_FILE_WRITE`, R290. -/
  | shootdownFileWrite (port off : Nat) (value : Nat)
  /-- `FIRMWARE_UPDATE`, R338. -/
  | firmwareUpdate (b : FwBundle)
  /-- `CONVENTIONAL_RESET`, R299. -/
  | conventionalReset (b : BootInput)
  /-- `LOCK_INTERFACE_REQUEST`, R298. -/
  | lockInterfaceRequest (iface : Nat) (nonce : Nat)
  /-- `START_INTERFACE_REQUEST`, R298. -/
  | startInterfaceRequest (iface : Nat) (nonce : Nat)
  /-- `STOP_INTERFACE_REQUEST`, R298. -/
  | stopInterfaceRequest (iface : Nat)
  /-- `TDI_ERROR`, R298. -/
  | tdiError (iface : Nat)
  /-- `GET_MEASUREMENTS`, R300. -/
  | getMeasurements (index : Nat)
  /-- `SADD`, R90. -/
  | sadd (h : Hdr) (o : AluArgs)
  /-- `SSUB`, R90. -/
  | ssub (h : Hdr) (o : AluArgs)
  /-- `SMUL`, R90. -/
  | smul (h : Hdr) (o : AluArgs)
  /-- `SMULHI`, R90. -/
  | smulhi (h : Hdr) (o : AluArgs)
  /-- `SDIV`, R91. -/
  | sdiv (h : Hdr) (o : AluArgs)
  /-- `SMOD`, R91. -/
  | smod (h : Hdr) (o : AluArgs)
  /-- `SAND`, R90. -/
  | sand (h : Hdr) (o : AluArgs)
  /-- `SOR`, R90. -/
  | sor (h : Hdr) (o : AluArgs)
  /-- `SXOR`, R90. -/
  | sxor (h : Hdr) (o : AluArgs)
  /-- `SSHL`, R90. -/
  | sshl (h : Hdr) (o : AluArgs)
  /-- `SSHR`, R90. -/
  | sshr (h : Hdr) (o : AluArgs)
  /-- `SSAR`, R90. -/
  | ssar (h : Hdr) (o : AluArgs)
  /-- `SMIN`, R90. -/
  | smin (h : Hdr) (o : AluArgs)
  /-- `SMAX`, R90. -/
  | smax (h : Hdr) (o : AluArgs)
  /-- `SBFX`, R91. -/
  | sbfx (h : Hdr) (o : AluArgs)
  /-- `SBFI`, R91. -/
  | sbfi (h : Hdr) (o : AluArgs)
  /-- `SPOPC`, R90. -/
  | spopc (h : Hdr) (o : AluArgs)
  /-- `SCLZ`, R90. -/
  | sclz (h : Hdr) (o : AluArgs)
  /-- `SCTZ`, R90. -/
  | sctz (h : Hdr) (o : AluArgs)
  /-- `SCMP`, R90. -/
  | scmp (h : Hdr) (o : AluArgs)
  /-- `SSEL`, R90. -/
  | ssel (h : Hdr) (o : AluArgs)
  /-- `SMOV`, R90. -/
  | smov (h : Hdr) (o : AluArgs)
  /-- `SMOVI`, R54. -/
  | smovi (h : Hdr) (o : SmoviArgs)
  /-- `SLEA`, R90. -/
  | slea (h : Hdr) (o : AluArgs)
  /-- `VADD`, R92. -/
  | vadd (h : Hdr) (o : AluArgs)
  /-- `VSUB`, R92. -/
  | vsub (h : Hdr) (o : AluArgs)
  /-- `VMUL`, R92. -/
  | vmul (h : Hdr) (o : AluArgs)
  /-- `VMULHI`, R92. -/
  | vmulhi (h : Hdr) (o : AluArgs)
  /-- `VMAD`, R92. -/
  | vmad (h : Hdr) (o : AluArgs)
  /-- `VAND`, R92. -/
  | vand (h : Hdr) (o : AluArgs)
  /-- `VOR`, R92. -/
  | vor (h : Hdr) (o : AluArgs)
  /-- `VXOR`, R92. -/
  | vxor (h : Hdr) (o : AluArgs)
  /-- `VSHL`, R92. -/
  | vshl (h : Hdr) (o : AluArgs)
  /-- `VSHR`, R92. -/
  | vshr (h : Hdr) (o : AluArgs)
  /-- `VSAR`, R92. -/
  | vsar (h : Hdr) (o : AluArgs)
  /-- `VMIN`, R92. -/
  | vmin (h : Hdr) (o : AluArgs)
  /-- `VMAX`, R92. -/
  | vmax (h : Hdr) (o : AluArgs)
  /-- `VABS`, R92. -/
  | vabs (h : Hdr) (o : AluArgs)
  /-- `VBFX`, R92. -/
  | vbfx (h : Hdr) (o : AluArgs)
  /-- `VBFI`, R92. -/
  | vbfi (h : Hdr) (o : AluArgs)
  /-- `VPOPC`, R92. -/
  | vpopc (h : Hdr) (o : AluArgs)
  /-- `VCLZ`, R92. -/
  | vclz (h : Hdr) (o : AluArgs)
  /-- `VCMP`, R93. -/
  | vcmp (h : Hdr) (o : AluArgs)
  /-- `VSEL`, R93. -/
  | vsel (h : Hdr) (o : AluArgs)
  /-- `VMOV`, R92. -/
  | vmov (h : Hdr) (o : AluArgs)
  /-- `VMOVI`, R92. -/
  | vmovi (h : Hdr) (o : AluArgs)
  /-- `VLEA`, R94. -/
  | vlea (h : Hdr) (o : AluArgs)
  /-- `FADD`, R95. -/
  | fadd (h : Hdr) (o : AluArgs)
  /-- `FSUB`, R95. -/
  | fsub (h : Hdr) (o : AluArgs)
  /-- `FMUL`, R95. -/
  | fmul (h : Hdr) (o : AluArgs)
  /-- `FFMA`, R95. -/
  | ffma (h : Hdr) (o : AluArgs)
  /-- `FMIN`, R96. -/
  | fmin (h : Hdr) (o : AluArgs)
  /-- `FMAX`, R96. -/
  | fmax (h : Hdr) (o : AluArgs)
  /-- `FCMP`, R96. -/
  | fcmp (h : Hdr) (o : AluArgs)
  /-- `FCLASS`, R97. -/
  | fclass (h : Hdr) (o : AluArgs)
  /-- `FRND`, R95. -/
  | frnd (h : Hdr) (o : AluArgs)
  /-- `FDOT2`, R95. -/
  | fdot2 (h : Hdr) (o : AluArgs)
  /-- `FRCP`, R98. -/
  | frcp (h : Hdr) (o : AluArgs)
  /-- `FSQRT`, R98. -/
  | fsqrt (h : Hdr) (o : AluArgs)
  /-- `FRSQ`, R98. -/
  | frsq (h : Hdr) (o : AluArgs)
  /-- `FEXP2`, R98. -/
  | fexp2 (h : Hdr) (o : AluArgs)
  /-- `FLOG2`, R98. -/
  | flog2 (h : Hdr) (o : AluArgs)
  /-- `FSIN`, R98. -/
  | fsin (h : Hdr) (o : AluArgs)
  /-- `FCOS`, R98. -/
  | fcos (h : Hdr) (o : AluArgs)
  /-- `FACT`, R100. -/
  | fact (h : Hdr) (o : AluArgs)
  /-- `FTLOAD`, R101. -/
  | ftload (h : Hdr) (o : AluArgs)
  /-- `CVT`, R102. -/
  | cvt (h : Hdr) (o : AluArgs)
  /-- `CVTPK2`, R103. -/
  | cvtpk2 (h : Hdr) (o : AluArgs)
  /-- `CVTPK4`, R103. -/
  | cvtpk4 (h : Hdr) (o : AluArgs)
  /-- `CVTUP`, R103. -/
  | cvtup (h : Hdr) (o : AluArgs)
  /-- `QSCALE_CODE`, R104. -/
  | qscaleCode (h : Hdr) (o : AluArgs)
  /-- `QSCALE_APPLY`, R104. -/
  | qscaleApply (h : Hdr) (o : AluArgs)
  /-- `QLQ4_NIB`, R105. -/
  | qlq4Nib (h : Hdr) (o : AluArgs)
  /-- `QLQ4_QCODE`, R105. -/
  | qlq4Qcode (h : Hdr) (o : AluArgs)
  /-- `QLQ4_BSCALE`, R105. -/
  | qlq4Bscale (h : Hdr) (o : AluArgs)
  /-- `QMX`, R106. -/
  | qmx (h : Hdr) (o : AluArgs)
  /-- `PAND`, R107. -/
  | pand (h : Hdr) (o : AluArgs)
  /-- `POR`, R107. -/
  | por (h : Hdr) (o : AluArgs)
  /-- `PXOR`, R107. -/
  | pxor (h : Hdr) (o : AluArgs)
  /-- `PNOT`, R107. -/
  | pnot (h : Hdr) (o : AluArgs)
  /-- `PFROMV`, R107. -/
  | pfromv (h : Hdr) (o : AluArgs)
  /-- `PTOV`, R107. -/
  | ptov (h : Hdr) (o : AluArgs)
  /-- `PVOTE`, R107. -/
  | pvote (h : Hdr) (o : AluArgs)
  /-- `PCNT`, R107. -/
  | pcnt (h : Hdr) (o : AluArgs)
  /-- `XPERM`, R108. -/
  | xperm (h : Hdr) (o : AluArgs)
  /-- `XBCAST`, R108. -/
  | xbcast (h : Hdr) (o : AluArgs)
  /-- `XROT`, R108. -/
  | xrot (h : Hdr) (o : AluArgs)
  /-- `XSCAN`, R109. -/
  | xscan (h : Hdr) (o : AluArgs)
  /-- `XRED`, R109. -/
  | xred (h : Hdr) (o : AluArgs)
  /-- `ELECT`, R108. -/
  | elect (h : Hdr) (o : AluArgs)
  /-- `V2S`, R108. -/
  | v2s (h : Hdr) (o : AluArgs)
  /-- `S2V`, R108. -/
  | s2v (h : Hdr) (o : AluArgs)
  /-- `MFS`, R89. -/
  | mfs (h : Hdr) (o : AluArgs)
  /-- `MTS`, R89. -/
  | mts (h : Hdr) (o : AluArgs)
  /-- `GMASK`, R108. -/
  | gmask (h : Hdr) (o : AluArgs)
  /-- `LD`, R169. -/
  | ld (h : Hdr) (o : MemArgs)
  /-- `ST`, R169. -/
  | st (h : Hdr) (o : MemArgs)
  /-- `LDU`, R169. -/
  | ldu (h : Hdr) (o : MemArgs)
  /-- `STU`, R169. -/
  | stu (h : Hdr) (o : MemArgs)
  /-- `LDX`, R169. -/
  | ldx (h : Hdr) (o : MemArgs)
  /-- `STX`, R169. -/
  | stx (h : Hdr) (o : MemArgs)
  /-- `ATOM`, R173. -/
  | atom (h : Hdr) (o : MemArgs)
  /-- `ACAS`, R174. -/
  | acas (h : Hdr) (o : MemArgs)
  /-- `XATOM`, R173. -/
  | xatom (h : Hdr) (o : MemArgs)
  /-- `FENCE`, R175. -/
  | fence (h : Hdr) (o : MemArgs)
  /-- `PFETCH`, R176. -/
  | pfetch (h : Hdr) (o : MemArgs)
  /-- `SHJOIN`, R177. -/
  | shjoin (h : Hdr) (o : MemArgs)
  /-- `SHLEAVE`, R178. -/
  | shleave (h : Hdr) (o : MemArgs)
  /-- `CPY`, R183. -/
  | cpy (h : Hdr) (e : ExtArgs)
  /-- `CPYG`, R185. -/
  | cpyg (h : Hdr) (e : ExtArgs)
  /-- `CPYW`, R186. -/
  | cpyw (h : Hdr) (e : ExtArgs)
  /-- `TAGCLR`, R188. -/
  | tagclr (h : Hdr) (e : ExtArgs)
  /-- `TAGWALL`, R188. -/
  | tagwall (h : Hdr) (e : ExtArgs)
  /-- `TAGWANY`, R188. -/
  | tagwany (h : Hdr) (e : ExtArgs)
  /-- `TAGFF`, R188. -/
  | tagff (h : Hdr) (e : ExtArgs)
  /-- `RGRSV`, R191. -/
  | rgrsv (h : Hdr) (e : ExtArgs)
  /-- `RGPUB`, R191. -/
  | rgpub (h : Hdr) (e : ExtArgs)
  /-- `RGAWT`, R191. -/
  | rgawt (h : Hdr) (e : ExtArgs)
  /-- `RGREL`, R191. -/
  | rgrel (h : Hdr) (e : ExtArgs)
  /-- `RGQRY_STATE`, R192. -/
  | rgqryState (h : Hdr) (e : ExtArgs)
  /-- `RGQRY_BIND`, R192. -/
  | rgqryBind (h : Hdr) (e : ExtArgs)
  /-- `RGQRY_UNBIND`, R192. -/
  | rgqryUnbind (h : Hdr) (e : ExtArgs)
  /-- `RGQRY_WAITERS`, R192. -/
  | rgqryWaiters (h : Hdr) (e : ExtArgs)
  /-- `DEPDEC`, R194. -/
  | depdec (h : Hdr) (e : ExtArgs)
  /-- `DEPDEC_SET`, R194. -/
  | depdecSet (h : Hdr) (e : ExtArgs)
  /-- `RLPUSH`, R195. -/
  | rlpush (h : Hdr) (e : ExtArgs)
  /-- `RLPOP`, R195. -/
  | rlpop (h : Hdr) (e : ExtArgs)
  /-- `WAITC`, R180. -/
  | waitc (h : Hdr) (o : WaitcArgs)
  /-- `UISET_VEC`, R196. -/
  | uisetVec (h : Hdr) (o : AluArgs)
  /-- `UISET_TAGS`, R196. -/
  | uisetTags (h : Hdr) (o : AluArgs)
  /-- `UISET_RING`, R196. -/
  | uisetRing (h : Hdr) (o : AluArgs)
  /-- `UIMASK`, R196. -/
  | uimask (h : Hdr) (o : AluArgs)
  /-- `UIRET`, R197. -/
  | uiret (h : Hdr) (o : AluArgs)
  /-- `BRA`, R223. -/
  | bra (h : Hdr) (o : AluArgs)
  /-- `BRX`, R223. -/
  | brx (h : Hdr) (o : AluArgs)
  /-- `CALL`, R223. -/
  | call (h : Hdr) (o : AluArgs)
  /-- `RET`, R223. -/
  | ret (h : Hdr) (o : AluArgs)
  /-- `JOIN`, R222. -/
  | join (h : Hdr) (o : AluArgs)
  /-- `EXIT`, R224. -/
  | exit (h : Hdr) (o : AluArgs)
  /-- `NOP`, R223. -/
  | nop (h : Hdr) (o : AluArgs)
  /-- `YIELD`, R223. -/
  | yield (h : Hdr) (o : AluArgs)
  /-- `UTRAP`, R312. -/
  | utrap (h : Hdr) (o : AluArgs)
  /-- `BKPT`, R223. -/
  | bkpt (h : Hdr) (o : AluArgs)
  /-- `SLEEP`, R223. -/
  | sleep (h : Hdr) (o : AluArgs)
  /-- `BAR`, R227. -/
  | bar (h : Hdr) (o : AluArgs)
  /-- `BARA`, R227. -/
  | bara (h : Hdr) (o : AluArgs)
  /-- `BARW`, R227. -/
  | barw (h : Hdr) (o : AluArgs)
  /-- `GRPQ_COUNT`, R227. -/
  | grpqCount (h : Hdr) (o : AluArgs)
  /-- `GRPQ_ARRIVED`, R227. -/
  | grpqArrived (h : Hdr) (o : AluArgs)
  /-- `GRPQ_GEN`, R227. -/
  | grpqGen (h : Hdr) (o : AluArgs)
  /-- `GRPQ_MEM`, R227. -/
  | grpqMem (h : Hdr) (o : AluArgs)
  /-- `FCOMMIT`, R327. -/
  | fcommit (h : Hdr) (o : AluArgs)
  /-- `FABORT`, R327. -/
  | fabort (h : Hdr) (o : AluArgs)
  /-- `BARSV`, R239. -/
  | barsv (h : Hdr) (o : AluArgs)
  /-- `BARRS`, R239. -/
  | barrs (h : Hdr) (o : AluArgs)
  /-- `MLOOP`, R124. -/
  | mloop (h : Hdr) (e : ExtArgs)
  /-- `MSTEP`, R124. -/
  | mstep (h : Hdr) (e : ExtArgs)
  /-- `TLD`, R128. -/
  | tld (h : Hdr) (e : ExtArgs)
  /-- `TST`, R129. -/
  | tst (h : Hdr) (e : ExtArgs)
  /-- `TZERO`, R128. -/
  | tzero (h : Hdr) (e : ExtArgs)
  /-- `TREL`, R128. -/
  | trel (h : Hdr) (e : ExtArgs)
  /-- `TMASK`, R128. -/
  | tmask (h : Hdr) (e : ExtArgs)
  /-- `TMASK_CLR`, R128. -/
  | tmaskClr (h : Hdr) (e : ExtArgs)
  /-- `TQRY_FREE`, R133. -/
  | tqryFree (h : Hdr) (e : ExtArgs)
  /-- `TQRY_SLOTS`, R133. -/
  | tqrySlots (h : Hdr) (e : ExtArgs)
  /-- `TQRY_FAULT`, R133. -/
  | tqryFault (h : Hdr) (e : ExtArgs)
  /-- `TQRY_PEND`, R133. -/
  | tqryPend (h : Hdr) (e : ExtArgs)
  /-- `INFL`, R145. -/
  | infl (h : Hdr) (e : ExtArgs)
  /-- `XCOD`, R147. -/
  | xcod (h : Hdr) (e : ExtArgs)
  /-- `TOKZ`, R150. -/
  | tokz (h : Hdr) (e : ExtArgs)
  /-- `DTOK`, R151. -/
  | dtok (h : Hdr) (e : ExtArgs)
  /-- `MXOPEN`, R152. -/
  | mxopen (h : Hdr) (e : ExtArgs)
  /-- `MXAPP`, R154. -/
  | mxapp (h : Hdr) (e : ExtArgs)
  /-- `MXLOOK`, R155. -/
  | mxlook (h : Hdr) (e : ExtArgs)
  /-- `MXSTAT_MATCH`, R156. -/
  | mxstatMatch (h : Hdr) (e : ExtArgs)
  /-- `MXSTAT_LEN`, R156. -/
  | mxstatLen (h : Hdr) (e : ExtArgs)
  /-- `MXSTAT_FILL`, R156. -/
  | mxstatFill (h : Hdr) (e : ExtArgs)
  /-- `MXSAVE`, R157. -/
  | mxsave (h : Hdr) (e : ExtArgs)
  /-- `MXLOAD`, R157. -/
  | mxload (h : Hdr) (e : ExtArgs)
  /-- `MXDROP`, R157. -/
  | mxdrop (h : Hdr) (e : ExtArgs)
  /-- `SFCOMP`, R159. -/
  | sfcomp (h : Hdr) (e : ExtArgs)
  /-- `SFSCAN`, R160. -/
  | sfscan (h : Hdr) (e : ExtArgs)
  /-- `SFMASK`, R160. -/
  | sfmask (h : Hdr) (e : ExtArgs)
  /-- `SFSTOP`, R161. -/
  | sfstop (h : Hdr) (e : ExtArgs)
  /-- `CAPLD`, R281. -/
  | capld (h : Hdr) (o : AluArgs)
  /-- `CAPNAR`, R282. -/
  | capnar (h : Hdr) (o : AluArgs)
  /-- `CAPVW`, R283. -/
  | capvw (h : Hdr) (o : AluArgs)
  /-- `CAPDRP`, R284. -/
  | capdrp (h : Hdr) (o : AluArgs)
  /-- `CAPQRY_LEN`, R285. -/
  | capqryLen (h : Hdr) (o : AluArgs)
  /-- `CAPQRY_BASE`, R285. -/
  | capqryBase (h : Hdr) (o : AluArgs)
  /-- `CAPQRY_ATTR`, R285. -/
  | capqryAttr (h : Hdr) (o : AluArgs)
  /-- `CAPQRY_VALID`, R285. -/
  | capqryValid (h : Hdr) (o : AluArgs)
  /-- `CAPCLR`, R280. -/
  | capclr (h : Hdr) (o : AluArgs)
  /-- `CAPSV`, R240. -/
  | capsv (h : Hdr) (o : AluArgs)
  /-- `CAPRS`, R240. -/
  | caprs (h : Hdr) (o : AluArgs)
  /-- `TRET`, R309. -/
  | tret (h : Hdr) (o : AluArgs)
  /-- `TRET_SKIP`, R309. -/
  | tretSkip (h : Hdr) (o : AluArgs)
  /-- `TRET_IMG`, R241. -/
  | tretImg (h : Hdr) (o : AluArgs)
  /-- `CCSV`, R238. -/
  | ccsv (h : Hdr) (o : AluArgs)
  /-- `CCSV_DRAIN`, R238. -/
  | ccsvDrain (h : Hdr) (o : AluArgs)
  /-- `FLTQ_LANES`, R311. -/
  | fltqLanes (h : Hdr) (o : AluArgs)
  /-- `FLTQ_LANE`, R311. -/
  | fltqLane (h : Hdr) (o : AluArgs)
  /-- `FLTQ_ILEN`, R311. -/
  | fltqIlen (h : Hdr) (o : AluArgs)
  /-- `FLTQ_ERR`, R311. -/
  | fltqErr (h : Hdr) (o : AluArgs)
  /-- `FLTQ_RPC`, R311. -/
  | fltqRpc (h : Hdr) (o : AluArgs)
  /-- `SPDM_SESSION_START`, R297. -/
  | spdmSessionStart
  /-- `MEMORY_SCRUB`, R332. -/
  | memoryScrub (addr : Nat)
  /-- `FTLOAD_FLIP`, R101. -/
  | ftloadFlip
  /-- `PAGE_REQUEST_SEND`, R316. -/
  | pageRequestSend
  /-- `PAGE_RETRY_DELAY_EXPIRY`, R318. -/
  | pageRetryDelayExpiry
  /-- `TOUCH`, R245. -/
  | touch
  /-- `SCRIBE_PASS`, R252. -/
  | scribePass
  /-- `PROGRAM_BUILD`, R40. -/
  | programBuild
  /-- `MAPPING_DRAIN_COMPLETE`, R255. -/
  | mappingDrainComplete
  /-- `CONTEXT_DRAIN_COMPLETE`, R255. -/
  | contextDrainComplete
  /-- `QUEUE_RESIZE`, R263. -/
  | queueResize
  /-- `QUEUE_CLOSE_DRAIN`, R264. -/
  | queueCloseDrain
  /-- `QUEUE_MESSAGE_PLACE`, R262. -/
  | queueMessagePlace
  /-- `SHOOTDOWN_ACK`, R291. -/
  | shootdownAck
  /-- `SNAPSHOT_STEP`, R336. -/
  | snapshotStep
  /-- `SNAPSHOT_RESTORE`, R337. -/
  | snapshotRestore
  /-- `FAILOVER`, R339. -/
  | failover
  /-- `SPDM_SESSION_EXPIRY`, R298. -/
  | spdmSessionExpiry
  /-- `CHUNK_CLAIM_TAKEOVER`, R336. -/
  | chunkClaimTakeover
  /-- `IN_CONTROLLER_COPY_DONE`, R336. -/
  | inControllerCopyDone
  deriving DecidableEq, Repr

end Sys2Proof
end

