-- ==== Sys2Proof/Machine/Float.lean ====
section
/-! DEFINITION. The number formats of chapter 4 and the function Convert (R70 to R82). A result is formed
from an EXACT value, a rational with a sign or an infinity or NaN, by one rounding. The special functions of
R98 enclose their exact value between two rationals and round it once the two round alike. -/

namespace Sys2Proof.Machine

/-! ### Exact values -/

/-- An exact intermediate value: NaN, an infinity, or `±num/den` (a zero keeps its sign, R71). -/
inductive XVal where
  | nan
  | inf (neg : Bool)
  | fin (neg : Bool) (num den : Nat)
  deriving DecidableEq, Repr

/-- A signed zero. -/
def XVal.zero (neg : Bool) : XVal := .fin neg 0 1

def XVal.isNan : XVal → Bool
  | .nan => true
  | _ => false

/-- An integer as an exact value. -/
def XVal.ofInt (n : Int) : XVal := .fin (decide (n < 0)) n.natAbs 1

/-- An exact rational, zero positive. -/
def XVal.ofRat (n : Int) (d : Nat) : XVal := .fin (decide (n < 0)) n.natAbs d

def XVal.neg : XVal → XVal
  | .nan => .nan
  | .inf s => .inf (!s)
  | .fin s n d => .fin (!s) n d

def XVal.abs : XVal → XVal
  | .nan => .nan
  | .inf _ => .inf false
  | .fin _ n d => .fin false n d

/-- The numerator with its sign. -/
def signed (s : Bool) (n : Nat) : Int := if s then -(n : Int) else n

/-- Exact sum; ∞ − ∞ is invalid. A zero sum of unlike signs is +0, and −0 under `.rm` (IEEE 754-2019). -/
def XVal.add (rm : Bool) : XVal → XVal → XVal
  | .nan, _ => .nan
  | _, .nan => .nan
  | .inf a, .inf b => if a = b then .inf a else .nan
  | .inf a, _ => .inf a
  | _, .inf b => .inf b
  | .fin sa na da, .fin sb nb db =>
    if na = 0 && nb = 0 then .zero (if sa = sb then sa else rm)
    else
      let n := signed sa na * db + signed sb nb * da
      if n = 0 then .zero rm else .ofRat n (da * db)

/-- Exact product; 0 × ∞ is invalid. -/
def XVal.mul : XVal → XVal → XVal
  | .nan, _ => .nan
  | _, .nan => .nan
  | .inf a, .inf b => .inf (a != b)
  | .inf a, .fin b n _ => if n = 0 then .nan else .inf (a != b)
  | .fin a n _, .inf b => if n = 0 then .nan else .inf (a != b)
  | .fin a na da, .fin b nb db => .fin (a != b) (na * nb) (da * db)

/-- Exact quotient; 0 ÷ 0 and ∞ ÷ ∞ are invalid, a nonzero finite value ÷ 0 is an infinity. -/
def XVal.div : XVal → XVal → XVal
  | .nan, _ => .nan
  | _, .nan => .nan
  | .inf _, .inf _ => .nan
  | .inf a, .fin b _ _ => .inf (a != b)
  | .fin a _ _, .inf b => .zero (a != b)
  | .fin a na da, .fin b nb db =>
    if nb = 0 then if na = 0 then .nan else .inf (a != b)
    else .fin (a != b) (na * db) (da * nb)

/-- An exact value times `2^e`. -/
def XVal.scale (x : XVal) (e : Int) : XVal :=
  match x with
  | .fin s n d => if 0 ≤ e then .fin s (n * 2 ^ e.toNat) d else .fin s n (d * 2 ^ (-e).toNat)
  | x => x

/-- Comparison of two values neither of which is NaN; the zeros compare equal (R96). -/
def XVal.cmp : XVal → XVal → Ordering
  | .inf a, .inf b => if a = b then .eq else if a then .lt else .gt
  | .inf a, _ => if a then .lt else .gt
  | _, .inf b => if b then .gt else .lt
  | .fin sa na da, .fin sb nb db => compare (signed sa na * db) (signed sb nb * da)
  | _, _ => .eq

/-! ### Formats (R70, Tables 4.1 and 4.2) -/

/-- The floating-point formats. -/
inductive Fmt where
  | f32 | f16 | bf16 | e5m2 | e4m3 | e2m1
  deriving DecidableEq, Repr

/-- Fraction width F. -/
def Fmt.frac : Fmt → Nat
  | .f32 => 23 | .f16 => 10 | .bf16 => 7 | .e5m2 => 2 | .e4m3 => 3 | .e2m1 => 1

/-- Exponent width. -/
def Fmt.expo : Fmt → Nat
  | .f32 => 8 | .f16 => 5 | .bf16 => 8 | .e5m2 => 5 | .e4m3 => 4 | .e2m1 => 2

def Fmt.bias : Fmt → Nat
  | .f32 => 127 | .f16 => 15 | .bf16 => 127 | .e5m2 => 15 | .e4m3 => 7 | .e2m1 => 1

/-- Width in bits. -/
def Fmt.width (f : Fmt) : Nat := 1 + f.expo + f.frac

def Fmt.hasInf : Fmt → Bool
  | .f32 | .f16 | .bf16 | .e5m2 => true
  | .e4m3 | .e2m1 => false

def Fmt.hasNan : Fmt → Bool
  | .e2m1 => false
  | _ => true

/-- Table 4.2, canonical NaN. -/
def Fmt.canonNan : Fmt → Nat
  | .f32 => 0x7FC00000 | .f16 => 0x7E00 | .bf16 => 0x7FC0 | .e5m2 => 0x7E | .e4m3 => 0x7F | .e2m1 => 0

/-- Table 4.2, largest finite, as a code without sign. -/
def Fmt.maxCode : Fmt → Nat
  | .f32 => 0x7F7FFFFF | .f16 => 0x7BFF | .bf16 => 0x7F7F | .e5m2 => 0x7B | .e4m3 => 0x7E | .e2m1 => 7

/-- A code with its sign. -/
def Fmt.withSign (f : Fmt) (s : Bool) (c : Nat) : Nat := c + if s then 2 ^ (f.width - 1) else 0

/-- The code of an infinity. -/
def Fmt.infCode (f : Fmt) (s : Bool) : Nat := f.withSign s ((2 ^ f.expo - 1) * 2 ^ f.frac)

/-- The value of a code (R70, Table 4.2). Bits above the width are ignored. -/
def Fmt.value (f : Fmt) (code : Nat) : XVal :=
  let s := bitOf code (f.width - 1)
  let e := (code / 2 ^ f.frac) % 2 ^ f.expo
  let m := code % 2 ^ f.frac
  let top := 2 ^ f.expo - 1
  if e = top && f.hasInf then if m = 0 then .inf s else .nan
  else if e = top && f = .e4m3 && m = 7 then .nan
  else if e = 0 then XVal.scale (.fin s m 1) (1 - (f.bias : Int) - f.frac)
  else XVal.scale (.fin s (2 ^ f.frac + m) 1) ((e : Int) - f.bias - f.frac)

/-! ### Convert (R78) -/

/-- `⌊log₂ (n/d)⌋` of a positive rational. -/
def floorLog2 (n d : Nat) : Int :=
  let e : Int := (Nat.log2 n : Int) - Nat.log2 d
  let ge := if 0 ≤ e then decide (d * 2 ^ e.toNat ≤ n) else decide (d ≤ n * 2 ^ (-e).toNat)
  if ge then e else e - 1

/-- The exponent of Quantum(f, a): the spacing of the format at the magnitude, with an unbounded exponent
above and the subnormal spacing below. -/
def Fmt.quantum (f : Fmt) (n d : Nat) : Int :=
  max (floorLog2 n d) (1 - (f.bias : Int)) - f.frac

/-- `(n/d) ÷ 2^t` as a fraction. -/
def divPow (n d : Nat) (t : Int) : Nat × Nat :=
  if 0 ≤ t then (n, d * 2 ^ t.toNat) else (n * 2 ^ (-t).toNat, d)

/-- `n/d` rounded to a whole number in a mode, for a value of sign `s`, with the random operand `r`
(R77, R78). -/
def roundNat (m : Rnd) (s : Bool) (r : W32) (n d : Nat) : Nat :=
  let fl := n / d
  let ce := if n % d = 0 then fl else fl + 1
  match m with
  | .rn => if 2 * (n % d) < d then fl else if d < 2 * (n % d) then fl + 1 else fl + fl % 2
  | .rz => fl
  | .rp => if s then fl else ce
  | .rm => if s then ce else fl
  | .rs => (n * 2 ^ 32 + r.toNat * d) / (d * 2 ^ 32)

/-- The code of `k × 2^t`, which the format represents. -/
def Fmt.encode (f : Fmt) (s : Bool) (k : Nat) (t : Int) : Nat :=
  if k = 0 then f.withSign s 0
  else
    let lg : Int := (Nat.log2 k : Int) + t
    if lg < 1 - (f.bias : Int) then
      -- subnormal: units of 2^(1 - bias - F)
      let sh := t - (1 - (f.bias : Int) - f.frac)
      f.withSign s (k * 2 ^ sh.toNat)
    else
      let sh := t - (lg - f.frac)
      let sig := if 0 ≤ sh then k * 2 ^ sh.toNat else k / 2 ^ (-sh).toNat
      f.withSign s ((lg + f.bias).toNat * 2 ^ f.frac + (sig - 2 ^ f.frac))

/-- `k × 2^t` is above the largest finite value. -/
def Fmt.above (f : Fmt) (k : Nat) (t : Int) : Bool :=
  match f.value f.maxCode with
  | .fin _ n d =>
    let (a, b) := if 0 ≤ t then (k * 2 ^ t.toNat, 1) else (k, 2 ^ (-t).toNat)
    decide (n * b < a * d)
  | _ => false

/-- R78 for a floating-point format: the code and the count. -/
def convertF (x : XVal) (f : Fmt) (m : Rnd) (sat : Bool) (r : W32) : Nat × Nat :=
  match x with
  | .nan => if f.hasNan then (f.canonNan, 0) else (0, 1)
  | .inf s => if f.hasInf && !sat then (f.infCode s, 0) else (f.withSign s f.maxCode, 1)
  | .fin s n d =>
    if n = 0 then (f.withSign s 0, 0)
    else
      let t := f.quantum n d
      let (a, b) := divPow n d t
      let k := roundNat m s r a b
      if f.above k t then
        if sat || !f.hasInf then (f.withSign s f.maxCode, 1)
        else if m = .rn || m = .rs || (m = .rp && !s) || (m = .rm && s) then (f.infCode s, 0)
        else (f.withSign s f.maxCode, 0)
      else (f.encode s k t, 0)

/-- An integer format: its width and whether it is signed (R72). -/
structure IFmt where
  width : Nat
  signed : Bool
  deriving DecidableEq, Repr

/-- The ends of an integer format's range. -/
def IFmt.hi (f : IFmt) : Nat := if f.signed then 2 ^ (f.width - 1) - 1 else 2 ^ f.width - 1
def IFmt.lo (f : IFmt) : Int := if f.signed then -(2 ^ (f.width - 1) : Nat) else 0

/-- R78 and R80 for an integer format: the value and the count. It always saturates. -/
def convertI (x : XVal) (f : IFmt) (m : Rnd) (r : W32) : Int × Nat :=
  match x with
  | .nan => (0, 1)
  | .inf s => (if s then f.lo else f.hi, 1)
  | .fin s n d =>
    let y := signed s (roundNat m s r n d)
    if y < f.lo then (f.lo, 1) else if (f.hi : Int) < y then (f.hi, 1) else (y, 0)

/-- RoundF32 (R75): Convert to FP32 with `.rn`, as an exact value again. -/
def roundF32 (x : XVal) : XVal := Fmt.f32.value (convertF x .f32 .rn false 0).1

/-- An FP32 word from an exact value, `.rn`. -/
def f32Of (x : XVal) : W32 := BitVec.ofNat 32 (convertF x .f32 .rn false 0).1

/-- The value of an FP32 word. -/
def f32Val (w : W32) : XVal := Fmt.f32.value w.toNat

/-! ### Comparison and minimum (R96) -/

/-- `FMIN` and `FMAX`: NaN if either is NaN, −0 below +0; the answer is one of the operands. -/
def fminmax (isMax : Bool) (a b : XVal) : XVal :=
  match a, b with
  | .nan, _ => .nan
  | _, .nan => .nan
  | a, b =>
    let aLess := match a.cmp b with
      | .lt => true
      | .gt => false
      | .eq => match a with | .fin s _ _ => s | _ => true
    if aLess = isMax then b else a

/-- The conditions of `FCMP` (R96). -/
def fcmp (cond : Nat) (a b : XVal) : Bool :=
  if a.isNan || b.isNan then cond == 1 || cond == 6
  else
    match cond, a.cmp b with
    | 0, o => o == .eq
    | 1, o => o != .eq
    | 2, o => o == .lt
    | 3, o => o != .gt
    | 4, o => o == .gt
    | 5, o => o != .lt
    | 6, _ => false
    | _, _ => true

/-- `FCLASS` (R97): the class mask of a code in a format with infinities. -/
def fclass (f : Fmt) (code : Nat) : Nat :=
  let s := bitOf code (f.width - 1)
  let e := (code / 2 ^ f.frac) % 2 ^ f.expo
  let m := code % 2 ^ f.frac
  if e = 2 ^ f.expo - 1 then
    if m = 0 then if s then 1 else 2 ^ 7
    else if bitOf m (f.frac - 1) then 2 ^ 9 else 2 ^ 8
  else if e = 0 then
    if m = 0 then if s then 2 ^ 3 else 2 ^ 4
    else if s then 2 ^ 2 else 2 ^ 5
  else if s then 2 ^ 1 else 2 ^ 6

/-! ### Special functions (R98): correctly rounded -/

/-- The integer square root by bisection of its bits: `k` bits below the current one. -/
def isqrtGo (n : Nat) : Nat → Nat → Nat
  | 0, acc => acc
  | k + 1, acc => if (acc + 2 ^ k) * (acc + 2 ^ k) ≤ n then isqrtGo n k (acc + 2 ^ k) else isqrtGo n k acc

/-- `⌊√n⌋`. -/
def isqrt (n : Nat) : Nat := isqrtGo n (Nat.log2 n / 2 + 1) 0

/-- A value that rounds as `√(n/d)` does in any format of at most 24 significant bits: the square root
itself when it is exact at the working precision, else the middle of the interval of `2^-p` it lies in. -/
def sqrtVal (n d : Nat) : XVal :=
  -- scale so that the root has at least 40 bits
  let p := 200
  let q := n * 2 ^ (2 * p) / d
  let m := isqrt q
  if m * m * d = n * 2 ^ (2 * p) then .fin false m (2 ^ p) else .fin false (2 * m + 1) (2 ^ (p + 1))

/-- Sum of `2 z^(2k+1)/(2k+1)` for z = num/den, in units of `2^-p`: 2 atanh z, truncated below. -/
def atanh2Go (z2n z2d : Nat) : Nat → Nat → Nat → Nat → Nat
  | 0, _, _, acc => acc
  | f + 1, k, t, acc => atanh2Go z2n z2d f (k + 2) (t * z2n / z2d) (acc + t / k)

/-- `2 atanh (n/d)` in units of `2^-p`, 0 ≤ n/d ≤ 1/3; the truncation is less than `2^8` units. -/
def atanh2 (p n d : Nat) : Nat :=
  atanh2Go (n * n) (d * d) (p / 3 + 8) 1 (2 * n * 2 ^ p / d) 0

/-- ln 2 in units of `2^-p`. -/
def ln2Fix (p : Nat) : Nat := atanh2 p 1 3

/-- `e^(x/2^p)` in units of `2^-p` for 0 ≤ x < 2^p, by its series. -/
def expGo (p x : Nat) : Nat → Nat → Nat → Nat → Nat
  | 0, _, _, acc => acc
  | f + 1, k, t, acc => expGo p x f (k + 1) (t * x / 2 ^ p / k) (acc + t)

def expFix (p x : Nat) : Nat := expGo p x (p / 2 + 8) 1 (2 ^ p) 0

/-- sin and cos of `x/2^p` in units of `2^-p`, 0 ≤ x < 2 × 2^p, by their series: (positive terms, negative
terms) of the sum that starts with term `t` of index `k`. -/
def trigGo (p x2 : Nat) : Nat → Nat → Nat → Bool → Nat × Nat → Nat × Nat
  | 0, _, _, _, acc => acc
  | f + 1, k, t, s, (a, b) =>
    trigGo p x2 f (k + 2) (t * x2 / 2 ^ p / ((k + 1) * (k + 2))) (!s) (if s then (a, b + t) else (a + t, b))

def sinFix (p x : Nat) : Int :=
  let (a, b) := trigGo p (x * x / 2 ^ p) (p / 2 + 8) 1 x false (0, 0)
  (a : Int) - b

def cosFix (p x : Nat) : Int :=
  let (a, b) := trigGo p (x * x / 2 ^ p) (p / 2 + 8) 0 (2 ^ p) false (0, 0)
  (a : Int) - b

/-- `atan (1/m)` in units of `2^-p`: (positive, negative terms). -/
def atanInvGo (m2 : Nat) : Nat → Nat → Nat → Bool → Nat × Nat → Nat × Nat
  | 0, _, _, _, acc => acc
  | f + 1, k, t, s, (a, b) =>
    atanInvGo m2 f (k + 2) (t / m2) (!s) (if s then (a, b + t / k) else (a + t / k, b))

def atanInv (p m : Nat) : Int :=
  let (a, b) := atanInvGo (m * m) (p / 2 + 8) 1 (2 ^ p / m) false (0, 0)
  (a : Int) - b

/-- π in units of `2^-p` (Machin's formula), within `2^12` units. -/
def piFix (p : Nat) : Nat := (16 * atanInv p 5 - 4 * atanInv p 239).toNat

/-- The width of the error interval of every approximation below, as a power of two of units. -/
def errBits : Nat := 16

/-- `2^(n/d)` for a rational exponent of sign `s`: lower and upper bound. Whole exponents are exact. -/
def exp2Bounds (p : Nat) (s : Bool) (n d : Nat) : XVal × XVal :=
  let x := signed s n
  let i := x / (d : Int)
  let f := x - i * d
  if f = 0 then (XVal.scale (.fin false 1 1) i, XVal.scale (.fin false 1 1) i)
  else
    let y := expFix p (f.toNat * ln2Fix p / d)
    (XVal.scale (.fin false (y - 2 ^ errBits) (2 ^ p)) i, XVal.scale (.fin false (y + 2 ^ errBits) (2 ^ p)) i)

/-- log₂ (n/d) of a positive rational: lower and upper bound. Powers of two are exact. -/
def log2Bounds (p : Nat) (n d : Nat) : XVal × XVal :=
  let e := floorLog2 n d
  let (a, b) := divPow n d e        -- 1 ≤ a/b < 2
  if a = b then (XVal.ofInt e, XVal.ofInt e)
  else
    let lm := atanh2 p (a - b) (a + b)
    let y : Int := e * 2 ^ p + (lm * 2 ^ p / ln2Fix p : Nat)
    (XVal.ofRat (y - 2 ^ errBits) (2 ^ p), XVal.ofRat (y + 2 ^ errBits) (2 ^ p))

/-- sin or cos of a rational `±n/d`, reduced exactly by π/2: lower and upper bound. -/
def trigBounds (p : Nat) (isCos : Bool) (s : Bool) (n d : Nat) : XVal × XVal :=
  -- enough bits of π for the magnitude
  let q := p + Nat.log2 (n / d + 1) + 8
  let pi2 := piFix q / 2
  let x := n * 2 ^ q / d
  let k := x / pi2
  let r := (x - k * pi2) / 2 ^ (q - p)
  let quad := if isCos then (k + 1) % 4 else k % 4
  -- quadrant 0: sin r, 1: cos r, 2: -sin r, 3: -cos r
  let v := if quad % 2 = 0 then sinFix p r else cosFix p r
  let v := if 2 ≤ quad then -v else v
  let v := if s && !isCos then -v else v
  (XVal.ofRat (v - 2 ^ errBits) (2 ^ p), XVal.ofRat (v + 2 ^ errBits) (2 ^ p))

/-- Round an enclosed value to FP32 once its bounds round alike, at growing precision (PRESUMED, log 14). -/
def roundEnclosed (bounds : Nat → XVal × XVal) : List Nat → W32
  | [] => f32Of (bounds 1280).1
  | p :: ps =>
    let (lo, hi) := bounds p
    if f32Of lo = f32Of hi then f32Of lo else roundEnclosed bounds ps

/-- The working precisions. -/
def precs : List Nat := [256, 512, 1024]

/-- The special functions. -/
inductive SpecFn where
  | rcp | sqrt | rsq | exp2 | log2 | sin | cos
  deriving DecidableEq, Repr

def canonNan32 : W32 := 0x7FC00000#32

def inf32 (neg : Bool) : W32 := if neg then 0xFF800000#32 else 0x7F800000#32

def zero32 (neg : Bool) : W32 := if neg then 0x80000000#32 else 0#32

def one32 : W32 := 0x3F800000#32

/-- R98 and Table 5.8. -/
def specFn (fn : SpecFn) (w : W32) : W32 :=
  match f32Val w with
  | .nan => canonNan32
  | .inf s =>
    match fn with
    | .rcp => zero32 s
    | .sqrt => if s then canonNan32 else inf32 false
    | .rsq => if s then canonNan32 else zero32 false
    | .exp2 => if s then zero32 false else inf32 false
    | .log2 => if s then canonNan32 else inf32 false
    | .sin => canonNan32
    | .cos => canonNan32
  | .fin s n d =>
    if n = 0 then
      match fn with
      | .rcp => inf32 s
      | .sqrt => zero32 s
      | .rsq => inf32 s
      | .exp2 => one32
      | .log2 => inf32 true
      | .sin => zero32 s
      | .cos => one32
    else
      match fn with
      | .rcp => f32Of (.fin s d n)
      | .sqrt => if s then canonNan32 else f32Of (sqrtVal n d)
      | .rsq => if s then canonNan32 else f32Of (sqrtVal d n)
      | .exp2 =>
        -- beyond ±200 the result overflows or underflows whatever its bits
        if 200 * d < n then if s then zero32 false else inf32 false
        else roundEnclosed (fun p => exp2Bounds p s n d) precs
      | .log2 => if s then canonNan32 else roundEnclosed (fun p => log2Bounds p n d) precs
      | .sin => roundEnclosed (fun p => trigBounds p false s n d) precs
      | .cos => roundEnclosed (fun p => trigBounds p true s n d) precs

/-! ### Scaled formats (R73 to R75) -/

/-- Table 4.4: the level table of LQ4, as BF16 codes. -/
def lq4Level (i : Nat) : Nat :=
  [0x3D2C, 0x3E02, 0x3E5D, 0x3E9F, 0x3ED5, 0x3F0B, 0x3F35, 0x3F80].getD (i % 8) 0

/-- The value of an LQ4 code (R74). -/
def lq4Value (c : Nat) : XVal :=
  if 8 ≤ c then Fmt.bf16.value (lq4Level (c - 8)) else (Fmt.bf16.value (lq4Level (7 - c))).neg

/-- R73: element code and scale byte to BF16. -/
def decodeMX (e c : Nat) : Nat :=
  if e = 0xFF then 0x7FC0
  else (convertF ((Fmt.e2m1.value c).scale ((e : Int) - 127)) .bf16 .rn false 0).1

/-- The block scale of R75: RoundF32(RoundF32(q × S) ÷ 255). -/
def lq4BlockScale (q : Nat) (s : W32) : XVal :=
  roundF32 ((roundF32 ((XVal.ofInt q).mul (f32Val s))).div (.ofInt 255))

/-- R75: superscale, block code and element code to FP32. -/
def decodeLQ4 (s : W32) (q c : Nat) : W32 := f32Of ((lq4Value c).mul (lq4BlockScale q s))

/-! ### Formats by type code -/

/-- The floating-point format a type names. -/
def tyFmt : Ty → Option Fmt
  | .f32 => some .f32
  | .f16 | .f16x2 => some .f16
  | .bf16 | .bf16x2 => some .bf16
  | .e4m3 | .e4m3x4 => some .e4m3
  | .e5m2 | .e5m2x4 => some .e5m2
  | .e2m1 | .e2m1x4 => some .e2m1
  | _ => none

/-- The integer format of one element of a type (R72); raw bits count as unsigned (R90). -/
def tyIfmt : Ty → Option IFmt
  | .i8 | .i8x4 => some ⟨8, true⟩
  | .i16 | .i16x2 => some ⟨16, true⟩
  | .i32 => some ⟨32, true⟩
  | .i64 => some ⟨64, true⟩
  | .n8 | .n8x4 | .b8 | .b8x4 => some ⟨8, false⟩
  | .n16 | .n16x2 | .b16 | .b16x2 => some ⟨16, false⟩
  | .n32 | .b32 => some ⟨32, false⟩
  | .n64 | .b64 => some ⟨64, false⟩
  | _ => none

/-- The value of the low bits of a word read as an integer format. -/
def IFmt.value (f : IFmt) (n : Nat) : Int :=
  let m := n % 2 ^ f.width
  if f.signed && decide (2 ^ (f.width - 1) ≤ m) then (m : Int) - 2 ^ f.width else m

/-- An integer as the bits of a word of `w` bits, two's complement. -/
def intBits (w : Nat) (x : Int) : Nat := (x % (2 ^ w : Nat)).toNat

end Sys2Proof.Machine
end

