-- ==== Sys2Proof/Machine/Arith.lean ====
section
/-! DEFINITION. Integer arithmetic of the scalar and vector families, on one element of a given format (R72,
R90 to R94): operands and results are bit patterns of the element's width; the count is that of R81. -/

namespace Sys2Proof.Machine

/-- An exact result wrapped to the format. -/
def wrapI (f : IFmt) (x : Int) : Nat × Nat := (intBits f.width x, 0)

/-- An exact result clamped to the format's range, with a count of 1 when it clamps (R80, R90, R92). -/
def clampI (f : IFmt) (x : Int) : Nat × Nat :=
  if x < f.lo then (intBits f.width f.lo, 1)
  else if (f.hi : Int) < x then (intBits f.width f.hi, 1)
  else (intBits f.width x, 0)

def fitI (sat : Bool) (f : IFmt) (x : Int) : Nat × Nat := if sat then clampI f x else wrapI f x

def addI (sat : Bool) (f : IFmt) (a b : Nat) : Nat × Nat := fitI sat f (f.value a + f.value b)
def subI (sat : Bool) (f : IFmt) (a b : Nat) : Nat × Nat := fitI sat f (f.value a - f.value b)
def mulI (sat : Bool) (f : IFmt) (a b : Nat) : Nat × Nat := fitI sat f (f.value a * f.value b)

/-- High w bits of the 2w-bit product. -/
def mulHiI (f : IFmt) (a b : Nat) : Nat := intBits f.width (f.value a * f.value b / (2 ^ f.width : Nat))

def madI (f : IFmt) (a b c : Nat) : Nat := intBits f.width (f.value a * f.value b + f.value c)

/-- SDIV (R91): toward zero; by 0 all ones; the most negative by −1 is itself. -/
def divI (f : IFmt) (a b : Nat) : Nat :=
  if b % 2 ^ f.width = 0 then 2 ^ f.width - 1 else intBits f.width (Int.tdiv (f.value a) (f.value b))

/-- SMOD (R91): the sign of a; by 0 gives a. -/
def modI (f : IFmt) (a b : Nat) : Nat :=
  if b % 2 ^ f.width = 0 then a % 2 ^ f.width else intBits f.width (Int.tmod (f.value a) (f.value b))

def andI (f : IFmt) (a b : Nat) : Nat := (a &&& b) % 2 ^ f.width
def orI (f : IFmt) (a b : Nat) : Nat := (a ||| b) % 2 ^ f.width
def xorI (f : IFmt) (a b : Nat) : Nat := (a ^^^ b) % 2 ^ f.width

/-- Shifts take their amount modulo the width (R90, R92). -/
def shlI (f : IFmt) (a b : Nat) : Nat := (a % 2 ^ f.width * 2 ^ (b % f.width)) % 2 ^ f.width
def shrI (f : IFmt) (a b : Nat) : Nat := (a % 2 ^ f.width) / 2 ^ (b % f.width)
def sarI (f : IFmt) (a b : Nat) : Nat :=
  intBits f.width ((IFmt.value ⟨f.width, true⟩ a) / (2 ^ (b % f.width) : Nat))

def minI (f : IFmt) (a b : Nat) : Nat := intBits f.width (min (f.value a) (f.value b))
def maxI (f : IFmt) (a b : Nat) : Nat := intBits f.width (max (f.value a) (f.value b))

/-- VABS: the most negative value maps to itself, or to the maximum with a count under `.sat`. -/
def absI (sat : Bool) (f : IFmt) (a : Nat) : Nat × Nat := fitI sat f ((f.value a).natAbs : Int)

/-- Field extract (R91): `len` bits from `pos`; bits at or above the width read as 0; extended by the
signedness from bit `len − 1`. -/
def bfxI (f : IFmt) (a pos len : Nat) : Nat :=
  if len = 0 then 0
  else intBits f.width (IFmt.value ⟨len, f.signed⟩ ((a % 2 ^ f.width) / 2 ^ pos % 2 ^ len))

/-- Field insert (R91): `len` low bits of `a` into `d` at `pos`; bits at or above the width are dropped. -/
def bfiI (f : IFmt) (d a pos len : Nat) : Nat :=
  ((List.range f.width).foldl
    (fun n i => n + if (if pos ≤ i && i < pos + len then bitOf a (i - pos) else bitOf d i) then 2 ^ i else 0) 0)

/-- Number of ones, leading zeros and trailing zeros within the width (the width for a zero source). -/
def popcI (f : IFmt) (a : Nat) : Nat := ((List.range f.width).filter fun i => bitOf a i).length
def clzI (f : IFmt) (a : Nat) : Nat := if a % 2 ^ f.width = 0 then f.width else f.width - 1 - Nat.log2 (a % 2 ^ f.width)
def ctzI (f : IFmt) (a : Nat) : Nat := ((List.range f.width).find? fun i => bitOf a i).getD f.width

/-- The compare conditions: SUB 0 `.eq` to 5 `.ge` (R90). -/
def cmpI (f : IFmt) (cond a b : Nat) : Bool :=
  let x := f.value a
  let y := f.value b
  if cond = 0 then decide (x = y) else if cond = 1 then decide (x ≠ y) else if cond = 2 then decide (x < y)
  else if cond = 3 then decide (x ≤ y) else if cond = 4 then decide (y < x) else decide (y ≤ x)

/-- The integer format of a type, 64-bit signed for a type without one. -/
def intFmt (ty : Ty) : IFmt := (tyIfmt ty).getD ⟨64, true⟩

/-- A result of a scalar instruction in its register: sign-extended under a signed type, zero-extended
otherwise (R90). -/
def extendS (f : IFmt) (n : Nat) : W64 := BitVec.ofInt 64 (f.value n)

end Sys2Proof.Machine
end

