-- ==== Sys2Proof/WellFormed.lean ====
section
/-! DEFINITION. The checks that make an instruction term well formed: every field fits the bits the
encoding gives it (Tables 3.2, 3.5, 3.7, 3.8 and the tables of the per-instruction parts), the parts of a
form that has no place for a field hold that field's default, and a row that is one sub-operation of an
opcode carries that sub-operation. Which operand kinds and suffixes an opcode permits is the decoder's
business (`Instr.admitted`). -/

namespace Sys2Proof

/-- The number an operand field holds (R49). -/
def Opd.raw : Opd → Nat
  | .none => 0
  | .v r | .vp r | .s r | .sp r | .p r | .k r | .c r | .g r | .x r => r

/-- Word 0's common fields fit (Table 3.2). -/
def Hdr.wf (h : Hdr) : Bool := h.stall < 8 && h.wait < 4096 && h.pg < 16

/-- An operand fits its 10-bit field (R49). -/
def Opd.wf (o : Opd) : Bool := o.raw < 1024

/-- Form A holds nothing after word 0, form C neither B, C nor suffixes, form B no immediate (R51, R53). -/
def AluArgs.formWf (o : AluArgs) : Bool :=
  match o.form with
  | .a => o.ty == .dflt && o.ty2 == .dflt && o.rnd == .rn && !o.sat && o.sub == 0 && o.c.raw == 0 && o.imm == 0
  | .b => o.imm == 0
  | .c => o.ty == .dflt && o.ty2 == .dflt && o.rnd == .rn && !o.sat && !o.m0 && o.b == .none && o.c == .none

def AluArgs.wf (o : AluArgs) : Bool :=
  o.d.wf && o.a.wf && o.b.wf && o.c.wf && o.sub < 256 && o.formWf

/-- A slot names a counter and a threshold of 0 to 63 (R55). -/
def WaitSlot.wf (w : WaitSlot) : Bool := w.ctr < 12 && w.threshold < 64

def WaitcArgs.wf (o : WaitcArgs) : Bool :=
  o.s0.all WaitSlot.wf && o.s1.all WaitSlot.wf && o.s2.all WaitSlot.wf && o.s3.all WaitSlot.wf

/-- The form C immediate is the sign-extension of its low half (R53). -/
def SmoviArgs.wf (o : SmoviArgs) : Bool :=
  o.d < 96 && (o.wide || (o.imm.setWidth 32).signExtend 64 == o.imm)

def MemArgs.wf (o : MemArgs) : Bool :=
  o.d.wf && o.base.wf && o.mop < 32 && o.k < 32 && o.cc < 16 && o.sz < 6 &&
  decide (-8192 ≤ o.disp) && decide (o.disp ≤ 8191)

def Done.wf : Done → Bool
  | .none => true
  | .ctr c => c < 16
  | .tag t => t < 64

/-- The per-instruction part of X fits its fields. -/
def XArg.wf : XArg → Bool
  | .none => true
  | .copy dk sk _ _ cnt _ group _ => dk < 32 && sk < 32 && cnt < 64 && group < 256
  | .ring code => code < 128
  | .cap k => k < 32
  | .loop group count prio => group < 256 && count < 4096 && prio < 4
  | .grp group => group < 256
  | .tld group capk => group < 256 && capk < 32
  | .tst group capk _ _ _ _ _ _ tbl start _ => group < 256 && capk < 32 && tbl < 4 && start < 64
  | .mxbits b => b < 32
  | .mxlook dmax capk => dmax < 256 && capk < 32
  | .mxcap capk => capk < 32

def ExtArgs.wf (e : ExtArgs) : Bool :=
  e.d.wf && e.a.wf && e.b.wf && e.sub < 256 && e.fin.wf && e.x.wf

/-- The arguments of an instruction, by form. -/
inductive Body where
  | alu (o : AluArgs)
  | waitc (o : WaitcArgs)
  | smovi (o : SmoviArgs)
  | mem (o : MemArgs)
  | ext (e : ExtArgs)
  deriving DecidableEq, Repr

def Body.wf : Body → Bool
  | .alu o => o.wf
  | .waitc o => o.wf
  | .smovi o => o.wf
  | .mem o => o.wf
  | .ext e => e.wf

/-- An instruction as its major opcode (Table 3.11), its header and its arguments; `none` for an event. -/
def Instr.parts : Instr → Option (Nat × Hdr × Body)
  | .partitionIssue _ => none
  | .warpHoldRelease _ => none
  | .sleepExpiry _ => none
  | .userInterruptDelivery _ => none
  | .counterRetire _ _ => none
  | .tagLanePerformed _ _ => none
  | .cpygCollectiveStart _ _ => none
  | .trussGrant _ => none
  | .trussOpComplete _ => none
  | .engineJobStart _ _ => none
  | .engineRingResume _ _ => none
  | .engineJobComplete _ _ => none
  | .pageResponseDoorbell _ _ => none
  | .peerTimeout _ _ => none
  | .peerErrorResponse _ _ => none
  | .peerInboundAccess _ => none
  | .hostCxlAccess _ => none
  | .linkDown _ => none
  | .linkRetrained _ => none
  | .planbase _ => none
  | .configRegisterWrite _ _ _ => none
  | .qifcfg _ _ _ => none
  | .framePlacement _ => none
  | .saveReq _ => none
  | .frameOut _ => none
  | .frameRelaunch _ _ => none
  | .tailWrite _ _ _ _ _ => none
  | .bayWake _ => none
  | .bayPowerGate _ => none
  | .shootdownFileWrite _ _ _ => none
  | .firmwareUpdate _ => none
  | .conventionalReset _ => none
  | .lockInterfaceRequest _ _ => none
  | .startInterfaceRequest _ _ => none
  | .stopInterfaceRequest _ => none
  | .tdiError _ => none
  | .getMeasurements _ => none
  | .sadd h o => some (0x00, h, .alu o)
  | .ssub h o => some (0x01, h, .alu o)
  | .smul h o => some (0x02, h, .alu o)
  | .smulhi h o => some (0x03, h, .alu o)
  | .sdiv h o => some (0x04, h, .alu o)
  | .smod h o => some (0x05, h, .alu o)
  | .sand h o => some (0x06, h, .alu o)
  | .sor h o => some (0x07, h, .alu o)
  | .sxor h o => some (0x08, h, .alu o)
  | .sshl h o => some (0x09, h, .alu o)
  | .sshr h o => some (0x0A, h, .alu o)
  | .ssar h o => some (0x0B, h, .alu o)
  | .smin h o => some (0x0C, h, .alu o)
  | .smax h o => some (0x0D, h, .alu o)
  | .sbfx h o => some (0x0E, h, .alu o)
  | .sbfi h o => some (0x0F, h, .alu o)
  | .spopc h o => some (0x10, h, .alu o)
  | .sclz h o => some (0x11, h, .alu o)
  | .sctz h o => some (0x12, h, .alu o)
  | .scmp h o => some (0x13, h, .alu o)
  | .ssel h o => some (0x14, h, .alu o)
  | .smov h o => some (0x15, h, .alu o)
  | .smovi h o => some (0x16, h, .smovi o)
  | .slea h o => some (0x17, h, .alu o)
  | .vadd h o => some (0x20, h, .alu o)
  | .vsub h o => some (0x21, h, .alu o)
  | .vmul h o => some (0x22, h, .alu o)
  | .vmulhi h o => some (0x23, h, .alu o)
  | .vmad h o => some (0x24, h, .alu o)
  | .vand h o => some (0x25, h, .alu o)
  | .vor h o => some (0x26, h, .alu o)
  | .vxor h o => some (0x27, h, .alu o)
  | .vshl h o => some (0x28, h, .alu o)
  | .vshr h o => some (0x29, h, .alu o)
  | .vsar h o => some (0x2A, h, .alu o)
  | .vmin h o => some (0x2B, h, .alu o)
  | .vmax h o => some (0x2C, h, .alu o)
  | .vabs h o => some (0x2D, h, .alu o)
  | .vbfx h o => some (0x2E, h, .alu o)
  | .vbfi h o => some (0x2F, h, .alu o)
  | .vpopc h o => some (0x30, h, .alu o)
  | .vclz h o => some (0x31, h, .alu o)
  | .vcmp h o => some (0x32, h, .alu o)
  | .vsel h o => some (0x33, h, .alu o)
  | .vmov h o => some (0x34, h, .alu o)
  | .vmovi h o => some (0x35, h, .alu o)
  | .vlea h o => some (0x36, h, .alu o)
  | .fadd h o => some (0x40, h, .alu o)
  | .fsub h o => some (0x41, h, .alu o)
  | .fmul h o => some (0x42, h, .alu o)
  | .ffma h o => some (0x43, h, .alu o)
  | .fmin h o => some (0x44, h, .alu o)
  | .fmax h o => some (0x45, h, .alu o)
  | .fcmp h o => some (0x46, h, .alu o)
  | .fclass h o => some (0x47, h, .alu o)
  | .frnd h o => some (0x48, h, .alu o)
  | .fdot2 h o => some (0x49, h, .alu o)
  | .frcp h o => some (0x4A, h, .alu o)
  | .fsqrt h o => some (0x4B, h, .alu o)
  | .frsq h o => some (0x4C, h, .alu o)
  | .fexp2 h o => some (0x4D, h, .alu o)
  | .flog2 h o => some (0x4E, h, .alu o)
  | .fsin h o => some (0x4F, h, .alu o)
  | .fcos h o => some (0x50, h, .alu o)
  | .fact h o => some (0x51, h, .alu o)
  | .ftload h o => some (0x52, h, .alu o)
  | .cvt h o => some (0x60, h, .alu o)
  | .cvtpk2 h o => some (0x61, h, .alu o)
  | .cvtpk4 h o => some (0x62, h, .alu o)
  | .cvtup h o => some (0x63, h, .alu o)
  | .qscaleCode h o => some (0x64, h, .alu o)
  | .qscaleApply h o => some (0x64, h, .alu o)
  | .qlq4Nib h o => some (0x65, h, .alu o)
  | .qlq4Qcode h o => some (0x65, h, .alu o)
  | .qlq4Bscale h o => some (0x65, h, .alu o)
  | .qmx h o => some (0x66, h, .alu o)
  | .pand h o => some (0x68, h, .alu o)
  | .por h o => some (0x69, h, .alu o)
  | .pxor h o => some (0x6A, h, .alu o)
  | .pnot h o => some (0x6B, h, .alu o)
  | .pfromv h o => some (0x6C, h, .alu o)
  | .ptov h o => some (0x6D, h, .alu o)
  | .pvote h o => some (0x6E, h, .alu o)
  | .pcnt h o => some (0x6F, h, .alu o)
  | .xperm h o => some (0x70, h, .alu o)
  | .xbcast h o => some (0x71, h, .alu o)
  | .xrot h o => some (0x72, h, .alu o)
  | .xscan h o => some (0x73, h, .alu o)
  | .xred h o => some (0x74, h, .alu o)
  | .elect h o => some (0x75, h, .alu o)
  | .v2s h o => some (0x76, h, .alu o)
  | .s2v h o => some (0x77, h, .alu o)
  | .mfs h o => some (0x78, h, .alu o)
  | .mts h o => some (0x79, h, .alu o)
  | .gmask h o => some (0x7A, h, .alu o)
  | .ld h o => some (0x80, h, .mem o)
  | .st h o => some (0x81, h, .mem o)
  | .ldu h o => some (0x82, h, .mem o)
  | .stu h o => some (0x83, h, .mem o)
  | .ldx h o => some (0x84, h, .mem o)
  | .stx h o => some (0x85, h, .mem o)
  | .atom h o => some (0x86, h, .mem o)
  | .acas h o => some (0x87, h, .mem o)
  | .xatom h o => some (0x88, h, .mem o)
  | .fence h o => some (0x89, h, .mem o)
  | .pfetch h o => some (0x8A, h, .mem o)
  | .shjoin h o => some (0x8B, h, .mem o)
  | .shleave h o => some (0x8C, h, .mem o)
  | .cpy h e => some (0x90, h, .ext e)
  | .cpyg h e => some (0x91, h, .ext e)
  | .cpyw h e => some (0x92, h, .ext e)
  | .tagclr h e => some (0x93, h, .ext e)
  | .tagwall h e => some (0x94, h, .ext e)
  | .tagwany h e => some (0x95, h, .ext e)
  | .tagff h e => some (0x96, h, .ext e)
  | .rgrsv h e => some (0x97, h, .ext e)
  | .rgpub h e => some (0x98, h, .ext e)
  | .rgawt h e => some (0x99, h, .ext e)
  | .rgrel h e => some (0x9A, h, .ext e)
  | .rgqryState h e => some (0x9B, h, .ext e)
  | .rgqryBind h e => some (0x9B, h, .ext e)
  | .rgqryUnbind h e => some (0x9B, h, .ext e)
  | .rgqryWaiters h e => some (0x9B, h, .ext e)
  | .depdec h e => some (0x9C, h, .ext e)
  | .depdecSet h e => some (0x9C, h, .ext e)
  | .rlpush h e => some (0x9D, h, .ext e)
  | .rlpop h e => some (0x9E, h, .ext e)
  | .waitc h o => some (0xA0, h, .waitc o)
  | .uisetVec h o => some (0xA1, h, .alu o)
  | .uisetTags h o => some (0xA1, h, .alu o)
  | .uisetRing h o => some (0xA1, h, .alu o)
  | .uimask h o => some (0xA2, h, .alu o)
  | .uiret h o => some (0xA3, h, .alu o)
  | .bra h o => some (0xA4, h, .alu o)
  | .brx h o => some (0xA5, h, .alu o)
  | .call h o => some (0xA6, h, .alu o)
  | .ret h o => some (0xA7, h, .alu o)
  | .join h o => some (0xA8, h, .alu o)
  | .exit h o => some (0xA9, h, .alu o)
  | .nop h o => some (0xAA, h, .alu o)
  | .yield h o => some (0xAB, h, .alu o)
  | .utrap h o => some (0xAC, h, .alu o)
  | .bkpt h o => some (0xAD, h, .alu o)
  | .sleep h o => some (0xAE, h, .alu o)
  | .bar h o => some (0xB0, h, .alu o)
  | .bara h o => some (0xB1, h, .alu o)
  | .barw h o => some (0xB2, h, .alu o)
  | .grpqCount h o => some (0xB3, h, .alu o)
  | .grpqArrived h o => some (0xB3, h, .alu o)
  | .grpqGen h o => some (0xB3, h, .alu o)
  | .grpqMem h o => some (0xB3, h, .alu o)
  | .fcommit h o => some (0xB4, h, .alu o)
  | .fabort h o => some (0xB5, h, .alu o)
  | .barsv h o => some (0xB6, h, .alu o)
  | .barrs h o => some (0xB7, h, .alu o)
  | .mloop h e => some (0xC0, h, .ext e)
  | .mstep h e => some (0xC1, h, .ext e)
  | .tld h e => some (0xC2, h, .ext e)
  | .tst h e => some (0xC3, h, .ext e)
  | .tzero h e => some (0xC4, h, .ext e)
  | .trel h e => some (0xC5, h, .ext e)
  | .tmask h e => some (0xC6, h, .ext e)
  | .tmaskClr h e => some (0xC6, h, .ext e)
  | .tqryFree h e => some (0xC7, h, .ext e)
  | .tqrySlots h e => some (0xC7, h, .ext e)
  | .tqryFault h e => some (0xC7, h, .ext e)
  | .tqryPend h e => some (0xC7, h, .ext e)
  | .infl h e => some (0xD0, h, .ext e)
  | .xcod h e => some (0xD1, h, .ext e)
  | .tokz h e => some (0xD2, h, .ext e)
  | .dtok h e => some (0xD3, h, .ext e)
  | .mxopen h e => some (0xD4, h, .ext e)
  | .mxapp h e => some (0xD5, h, .ext e)
  | .mxlook h e => some (0xD6, h, .ext e)
  | .mxstatMatch h e => some (0xD7, h, .ext e)
  | .mxstatLen h e => some (0xD7, h, .ext e)
  | .mxstatFill h e => some (0xD7, h, .ext e)
  | .mxsave h e => some (0xD8, h, .ext e)
  | .mxload h e => some (0xD9, h, .ext e)
  | .mxdrop h e => some (0xDA, h, .ext e)
  | .sfcomp h e => some (0xDB, h, .ext e)
  | .sfscan h e => some (0xDC, h, .ext e)
  | .sfmask h e => some (0xDD, h, .ext e)
  | .sfstop h e => some (0xDE, h, .ext e)
  | .capld h o => some (0xE0, h, .alu o)
  | .capnar h o => some (0xE1, h, .alu o)
  | .capvw h o => some (0xE2, h, .alu o)
  | .capdrp h o => some (0xE3, h, .alu o)
  | .capqryLen h o => some (0xE4, h, .alu o)
  | .capqryBase h o => some (0xE4, h, .alu o)
  | .capqryAttr h o => some (0xE4, h, .alu o)
  | .capqryValid h o => some (0xE4, h, .alu o)
  | .capclr h o => some (0xE5, h, .alu o)
  | .capsv h o => some (0xE6, h, .alu o)
  | .caprs h o => some (0xE7, h, .alu o)
  | .tret h o => some (0xE8, h, .alu o)
  | .tretSkip h o => some (0xE8, h, .alu o)
  | .tretImg h o => some (0xE8, h, .alu o)
  | .ccsv h o => some (0xE9, h, .alu o)
  | .ccsvDrain h o => some (0xE9, h, .alu o)
  | .fltqLanes h o => some (0xEA, h, .alu o)
  | .fltqLane h o => some (0xEA, h, .alu o)
  | .fltqIlen h o => some (0xEA, h, .alu o)
  | .fltqErr h o => some (0xEA, h, .alu o)
  | .fltqRpc h o => some (0xEA, h, .alu o)
  | .spdmSessionStart => none
  | .memoryScrub _ => none
  | .ftloadFlip => none
  | .pageRequestSend => none
  | .pageRetryDelayExpiry => none
  | .touch => none
  | .scribePass => none
  | .programBuild => none
  | .mappingDrainComplete => none
  | .contextDrainComplete => none
  | .queueResize => none
  | .queueCloseDrain => none
  | .queueMessagePlace => none
  | .shootdownAck => none
  | .snapshotStep => none
  | .snapshotRestore => none
  | .failover => none
  | .spdmSessionExpiry => none
  | .chunkClaimTakeover => none
  | .inControllerCopyDone => none

/-- A row that is one sub-operation of its opcode carries that sub-operation. -/
def Instr.subOk : Instr → Bool
  | .partitionIssue _ => true
  | .warpHoldRelease _ => true
  | .sleepExpiry _ => true
  | .userInterruptDelivery _ => true
  | .counterRetire _ _ => true
  | .tagLanePerformed _ _ => true
  | .cpygCollectiveStart _ _ => true
  | .trussGrant _ => true
  | .trussOpComplete _ => true
  | .engineJobStart _ _ => true
  | .engineRingResume _ _ => true
  | .engineJobComplete _ _ => true
  | .pageResponseDoorbell _ _ => true
  | .peerTimeout _ _ => true
  | .peerErrorResponse _ _ => true
  | .peerInboundAccess _ => true
  | .hostCxlAccess _ => true
  | .linkDown _ => true
  | .linkRetrained _ => true
  | .planbase _ => true
  | .configRegisterWrite _ _ _ => true
  | .qifcfg _ _ _ => true
  | .framePlacement _ => true
  | .saveReq _ => true
  | .frameOut _ => true
  | .frameRelaunch _ _ => true
  | .tailWrite _ _ _ _ _ => true
  | .bayWake _ => true
  | .bayPowerGate _ => true
  | .shootdownFileWrite _ _ _ => true
  | .firmwareUpdate _ => true
  | .conventionalReset _ => true
  | .lockInterfaceRequest _ _ => true
  | .startInterfaceRequest _ _ => true
  | .stopInterfaceRequest _ => true
  | .tdiError _ => true
  | .getMeasurements _ => true
  | .sadd _ _ => true
  | .ssub _ _ => true
  | .smul _ _ => true
  | .smulhi _ _ => true
  | .sdiv _ _ => true
  | .smod _ _ => true
  | .sand _ _ => true
  | .sor _ _ => true
  | .sxor _ _ => true
  | .sshl _ _ => true
  | .sshr _ _ => true
  | .ssar _ _ => true
  | .smin _ _ => true
  | .smax _ _ => true
  | .sbfx _ _ => true
  | .sbfi _ _ => true
  | .spopc _ _ => true
  | .sclz _ _ => true
  | .sctz _ _ => true
  | .scmp _ _ => true
  | .ssel _ _ => true
  | .smov _ _ => true
  | .smovi _ _ => true
  | .slea _ _ => true
  | .vadd _ _ => true
  | .vsub _ _ => true
  | .vmul _ _ => true
  | .vmulhi _ _ => true
  | .vmad _ _ => true
  | .vand _ _ => true
  | .vor _ _ => true
  | .vxor _ _ => true
  | .vshl _ _ => true
  | .vshr _ _ => true
  | .vsar _ _ => true
  | .vmin _ _ => true
  | .vmax _ _ => true
  | .vabs _ _ => true
  | .vbfx _ _ => true
  | .vbfi _ _ => true
  | .vpopc _ _ => true
  | .vclz _ _ => true
  | .vcmp _ _ => true
  | .vsel _ _ => true
  | .vmov _ _ => true
  | .vmovi _ _ => true
  | .vlea _ _ => true
  | .fadd _ _ => true
  | .fsub _ _ => true
  | .fmul _ _ => true
  | .ffma _ _ => true
  | .fmin _ _ => true
  | .fmax _ _ => true
  | .fcmp _ _ => true
  | .fclass _ _ => true
  | .frnd _ _ => true
  | .fdot2 _ _ => true
  | .frcp _ _ => true
  | .fsqrt _ _ => true
  | .frsq _ _ => true
  | .fexp2 _ _ => true
  | .flog2 _ _ => true
  | .fsin _ _ => true
  | .fcos _ _ => true
  | .fact _ _ => true
  | .ftload _ _ => true
  | .cvt _ _ => true
  | .cvtpk2 _ _ => true
  | .cvtpk4 _ _ => true
  | .cvtup _ _ => true
  | .qscaleCode _ o => o.sub == 0
  | .qscaleApply _ o => o.sub == 1
  | .qlq4Nib _ o => o.sub ≤ 7
  | .qlq4Qcode _ o => o.sub == 8
  | .qlq4Bscale _ o => o.sub == 9
  | .qmx _ _ => true
  | .pand _ _ => true
  | .por _ _ => true
  | .pxor _ _ => true
  | .pnot _ _ => true
  | .pfromv _ _ => true
  | .ptov _ _ => true
  | .pvote _ _ => true
  | .pcnt _ _ => true
  | .xperm _ _ => true
  | .xbcast _ _ => true
  | .xrot _ _ => true
  | .xscan _ _ => true
  | .xred _ _ => true
  | .elect _ _ => true
  | .v2s _ _ => true
  | .s2v _ _ => true
  | .mfs _ _ => true
  | .mts _ _ => true
  | .gmask _ _ => true
  | .ld _ _ => true
  | .st _ _ => true
  | .ldu _ _ => true
  | .stu _ _ => true
  | .ldx _ _ => true
  | .stx _ _ => true
  | .atom _ _ => true
  | .acas _ _ => true
  | .xatom _ _ => true
  | .fence _ _ => true
  | .pfetch _ _ => true
  | .shjoin _ _ => true
  | .shleave _ _ => true
  | .cpy _ _ => true
  | .cpyg _ _ => true
  | .cpyw _ _ => true
  | .tagclr _ _ => true
  | .tagwall _ _ => true
  | .tagwany _ _ => true
  | .tagff _ _ => true
  | .rgrsv _ _ => true
  | .rgpub _ _ => true
  | .rgawt _ _ => true
  | .rgrel _ _ => true
  | .rgqryState _ e => e.sub == 0
  | .rgqryBind _ e => e.sub == 1
  | .rgqryUnbind _ e => e.sub == 2
  | .rgqryWaiters _ e => e.sub == 3
  | .depdec _ e => e.sub == 0
  | .depdecSet _ e => e.sub == 1
  | .rlpush _ _ => true
  | .rlpop _ _ => true
  | .waitc _ _ => true
  | .uisetVec _ o => o.sub == 0
  | .uisetTags _ o => o.sub == 1
  | .uisetRing _ o => o.sub == 2
  | .uimask _ _ => true
  | .uiret _ _ => true
  | .bra _ _ => true
  | .brx _ _ => true
  | .call _ _ => true
  | .ret _ _ => true
  | .join _ _ => true
  | .exit _ _ => true
  | .nop _ _ => true
  | .yield _ _ => true
  | .utrap _ _ => true
  | .bkpt _ _ => true
  | .sleep _ _ => true
  | .bar _ _ => true
  | .bara _ _ => true
  | .barw _ _ => true
  | .grpqCount _ o => o.sub == 0
  | .grpqArrived _ o => o.sub == 1
  | .grpqGen _ o => o.sub == 2
  | .grpqMem _ o => o.sub == 3
  | .fcommit _ _ => true
  | .fabort _ _ => true
  | .barsv _ _ => true
  | .barrs _ _ => true
  | .mloop _ _ => true
  | .mstep _ _ => true
  | .tld _ _ => true
  | .tst _ _ => true
  | .tzero _ _ => true
  | .trel _ _ => true
  | .tmask _ e => e.sub == 0
  | .tmaskClr _ e => e.sub == 1
  | .tqryFree _ e => e.sub == 0
  | .tqrySlots _ e => e.sub == 1
  | .tqryFault _ e => e.sub == 2
  | .tqryPend _ e => e.sub == 3
  | .infl _ _ => true
  | .xcod _ _ => true
  | .tokz _ _ => true
  | .dtok _ _ => true
  | .mxopen _ _ => true
  | .mxapp _ _ => true
  | .mxlook _ _ => true
  | .mxstatMatch _ e => e.sub == 0
  | .mxstatLen _ e => e.sub == 1
  | .mxstatFill _ e => e.sub == 2
  | .mxsave _ _ => true
  | .mxload _ _ => true
  | .mxdrop _ _ => true
  | .sfcomp _ _ => true
  | .sfscan _ _ => true
  | .sfmask _ _ => true
  | .sfstop _ _ => true
  | .capld _ _ => true
  | .capnar _ _ => true
  | .capvw _ _ => true
  | .capdrp _ _ => true
  | .capqryLen _ o => o.sub == 0
  | .capqryBase _ o => o.sub == 1
  | .capqryAttr _ o => o.sub == 2
  | .capqryValid _ o => o.sub == 3
  | .capclr _ _ => true
  | .capsv _ _ => true
  | .caprs _ _ => true
  | .tret _ o => o.sub == 0
  | .tretSkip _ o => o.sub == 2
  | .tretImg _ o => o.sub == 1
  | .ccsv _ o => o.sub == 0
  | .ccsvDrain _ o => o.sub == 1
  | .fltqLanes _ o => o.sub == 0
  | .fltqLane _ o => o.sub == 1
  | .fltqIlen _ o => o.sub == 2
  | .fltqErr _ o => o.sub == 3
  | .fltqRpc _ o => o.sub == 4
  | .spdmSessionStart => true
  | .memoryScrub _ => true
  | .ftloadFlip => true
  | .pageRequestSend => true
  | .pageRetryDelayExpiry => true
  | .touch => true
  | .scribePass => true
  | .programBuild => true
  | .mappingDrainComplete => true
  | .contextDrainComplete => true
  | .queueResize => true
  | .queueCloseDrain => true
  | .queueMessagePlace => true
  | .shootdownAck => true
  | .snapshotStep => true
  | .snapshotRestore => true
  | .failover => true
  | .spdmSessionExpiry => true
  | .chunkClaimTakeover => true
  | .inControllerCopyDone => true

/-- An instruction is well formed. An event is well formed: it has no encoding. -/
def Instr.wf (i : Instr) : Bool :=
  match i.parts with
  | some (_, h, b) => h.wf && b.wf && i.subOk
  | none => true

end Sys2Proof
end

