-- ==== Sys2Proof/Decode.lean ====
section
/-! DEFINITION. The decoder and the encoder, both written from the encoding tables of chapter 3 and the
entries of chapters 5 to 8, 11 and 16 to 18. A word is unpacked field by field, low bits first, from the
list of field widths its table gives; the operand fields are read by the kinds of Table 3.3; what is left
is the list of legality checks of R64. `decodeWords` is total: what is no instruction is rejected by name. -/

namespace Sys2Proof

/-! ### Fields of a word -/

/-- A word from its fields, low bits first: (width, value). -/
def pack : List (Nat × Nat) → Nat
  | [] => 0
  | (w, v) :: r => v + 2 ^ w * pack r

/-- The fields of a word, low bits first, by their widths. -/
def unpack : List Nat → Nat → List Nat
  | [], _ => []
  | w :: ws, n => n % 2 ^ w :: unpack ws (n / 2 ^ w)

/-- Table 3.2: LEN OP STALL WAIT PG PN Y 0 D A B M. -/
def w0Layout : List Nat := [2, 8, 3, 12, 4, 1, 1, 1, 10, 10, 10, 2]

/-- Table 3.5: C SUB S RND TYPE2 TYPE. -/
def bLayout : List Nat := [10, 8, 1, 3, 5, 5]

/-- Table 3.7: K CC SZ ORD SCOPE DISP. -/
def mLayout : List Nat := [5, 4, 3, 3, 3, 14]

/-- Table 3.8: TAG CC TS SUB and the per-instruction part. -/
def xLayout : List Nat := [6, 4, 1, 8, 45]

/-! ### Codes -/

/-- Table 3.6. -/
def Ty.code : Ty → Nat
  | .dflt => 0 | .b8 => 1 | .b16 => 2 | .b32 => 3 | .b64 => 4 | .i8 => 5 | .i16 => 6 | .i32 => 7
  | .i64 => 8 | .n8 => 9 | .n16 => 10 | .n32 => 11 | .n64 => 12 | .f16 => 13 | .bf16 => 14 | .f32 => 15
  | .e4m3 => 16 | .e5m2 => 17 | .e2m1 => 18 | .lq4 => 19 | .i16x2 => 20 | .n16x2 => 21 | .b16x2 => 22
  | .f16x2 => 23 | .bf16x2 => 24 | .i8x4 => 25 | .n8x4 => 26 | .b8x4 => 27 | .e4m3x4 => 28
  | .e5m2x4 => 29 | .e2m1x4 => 30

/-- Table 3.6; 31 is reserved. -/
def Ty.ofCode : Nat → Option Ty
  | 0 => some .dflt | 1 => some .b8 | 2 => some .b16 | 3 => some .b32 | 4 => some .b64 | 5 => some .i8
  | 6 => some .i16 | 7 => some .i32 | 8 => some .i64 | 9 => some .n8 | 10 => some .n16 | 11 => some .n32
  | 12 => some .n64 | 13 => some .f16 | 14 => some .bf16 | 15 => some .f32 | 16 => some .e4m3
  | 17 => some .e5m2 | 18 => some .e2m1 | 19 => some .lq4 | 20 => some .i16x2 | 21 => some .n16x2
  | 22 => some .b16x2 | 23 => some .f16x2 | 24 => some .bf16x2 | 25 => some .i8x4 | 26 => some .n8x4
  | 27 => some .b8x4 | 28 => some .e4m3x4 | 29 => some .e5m2x4 | 30 => some .e2m1x4 | _ => none

/-- Table 3.5, RND. -/
def Rnd.code : Rnd → Nat
  | .rn => 0 | .rz => 1 | .rp => 2 | .rm => 3 | .rs => 4

/-- Table 3.5, RND; 5 to 7 are reserved. -/
def Rnd.ofCode : Nat → Option Rnd
  | 0 => some .rn | 1 => some .rz | 2 => some .rp | 3 => some .rm | 4 => some .rs | _ => none

/-- Table 3.7, SCOPE. -/
def Scope.code : Scope → Nat
  | .dflt => 0 | .wp => 1 | .fr => 2 | .by_ => 3 | .dv => 4 | .sy => 5

/-- Table 3.7, SCOPE; 6 and 7 are reserved. -/
def Scope.ofCode : Nat → Option Scope
  | 0 => some .dflt | 1 => some .wp | 2 => some .fr | 3 => some .by_ | 4 => some .dv | 5 => some .sy
  | _ => none

/-- Table 3.7, ORD. -/
def MOrd.code : MOrd → Nat
  | .plain => 0 | .acq => 1 | .rel => 2 | .free => 3

/-- Table 3.7, ORD; 4 to 7 are reserved. -/
def MOrd.ofCode : Nat → Option MOrd
  | 0 => some .plain | 1 => some .acq | 2 => some .rel | 3 => some .free | _ => none

/-- The bytes of memory one element or packed word of a type takes as an access (R170); `none` for a type
that is no access size. -/
def Ty.bytes : Ty → Option Nat
  | .b8 | .i8 | .n8 | .e4m3 | .e5m2 => some 1
  | .b16 | .i16 | .n16 | .f16 | .bf16 | .e2m1x4 => some 2
  | .b32 | .i32 | .n32 | .f32 | .i16x2 | .n16x2 | .b16x2 | .f16x2 | .bf16x2 | .i8x4 | .n8x4 | .b8x4
  | .e4m3x4 | .e5m2x4 => some 4
  | .b64 | .i64 | .n64 => some 8
  | .dflt | .e2m1 | .lq4 => none

/-! ### What an opcode admits -/

/-- What the legality of an encoding depends on besides its bits: the decoder table of the launch (R63),
whether the warp runs as a privileged routine (R61), the groups of the frame (Table 3.3), the warp's width
(Table 7.2) and the end of the text (R196). -/
structure DecCtx where
  encver : Nat := 5
  priv : Bool := false
  ngroups : Nat := 256
  width : Nat := 64
  textEnd : Nat := 2 ^ 32
  deriving DecidableEq, Repr

/-- Operand field kinds of Table 3.3. `kd` is a capability destination, `vq` a vector register that must be
a multiple of 4 (R103), `cl` a load counter (R101), `vs` a vector register, or a scalar one with M[0] = 1. -/
inductive Kind where
  | none | v | vp | vq | s | sp | p | k | kd | cl | g | x | vs
  deriving DecidableEq, Repr

/-- The kinds of the four operand fields. -/
structure Kinds where
  d : Kind
  a : Kind
  b : Kind
  c : Kind
  deriving DecidableEq, Repr

/-- The forms an opcode admits (Table 3.12). -/
inductive OpClass where
  | alu (a b c : Bool)
  | waitc
  | smovi
  | mem
  | ext
  deriving DecidableEq, Repr

/-- Table 3.11 with Table 3.12: the forms of an assigned opcode; `none` for an unassigned one. -/
def opClass (op : Nat) : Option OpClass :=
  if op = 0x16 then some .smovi
  else if op ≤ 0x17 then some (.alu true true (!(op == 0x10 || op == 0x11 || op == 0x12 || op == 0x15)))
  else if op < 0x20 then none
  else if op ≤ 0x36 then
    some (.alu (!(op == 0x24 || op == 0x2F || op == 0x33 || op == 0x35)) (op != 0x35)
      ([0x20, 0x21, 0x22, 0x23, 0x25, 0x26, 0x27, 0x28, 0x29, 0x2A, 0x2B, 0x2C, 0x2E, 0x32, 0x35, 0x36].contains op))
  else if op < 0x40 then none
  else if op ≤ 0x52 then
    some (.alu (!(op == 0x43 || op == 0x49 || op == 0x51 || op == 0x52)) true
      ([0x40, 0x41, 0x42, 0x44, 0x45, 0x46].contains op))
  else if op < 0x60 then none
  else if op ≤ 0x66 then some (.alu true true false)
  else if op = 0x67 then none
  else if op ≤ 0x6F then some (.alu true true false)
  else if op ≤ 0x7A then some (.alu (!(op == 0x70 || op == 0x71)) true false)
  else if op < 0x80 then none
  else if op ≤ 0x8C then some .mem
  else if op < 0x90 then none
  else if op ≤ 0x9E then some .ext
  else if op = 0x9F then none
  else if op = 0xA0 then some .waitc
  else if op ≤ 0xAE then
    if [0xA1, 0xA4, 0xA6, 0xAC, 0xAE].contains op then some (.alu false false true)
    else some (.alu true true false)
  else if op < 0xB0 then none
  else if op ≤ 0xB7 then some (.alu true true false)
  else if op < 0xC0 then none
  else if op ≤ 0xC7 then some .ext
  else if op < 0xD0 then none
  else if op ≤ 0xDE then some .ext
  else if op < 0xE0 then none
  else if op ≤ 0xEA then some (.alu true true (op == 0xE0))
  else none

/-- Table 3.13: the opcodes an older encoding version leaves unassigned. -/
def assignedIn (encver op : Nat) : Bool :=
  (opClass op).isSome &&
  !(encver ≤ 4 && (op == 0x66 || (0xD4 ≤ op && op ≤ 0xDE))) &&
  !(encver ≤ 3 && (op == 0x91 || op == 0xB4 || op == 0xB5))

/-- R61. -/
def privilegedOp (op : Nat) : Bool := op == 0xB6 || op == 0xB7 || (0xE6 ≤ op && op ≤ 0xEA)

/-- The SUB or MOP values an opcode assigns (R51, R56 and the entries). -/
def subAssigned (op sub : Nat) : Bool :=
  if op = 0x13 || op = 0x32 then sub ≤ 5                       -- SCMP, VCMP
  else if op = 0x46 then sub ≤ 7                               -- FCMP
  else if op = 0x17 || op = 0x36 then sub ≤ 7                  -- SLEA, VLEA
  else if op = 0x51 || op = 0x52 then sub ≤ 3                  -- FACT, FTLOAD
  else if op = 0x62 || op = 0x66 then sub ≤ 1                  -- CVTPK4, QMX
  else if op = 0x63 then sub ≤ 3                               -- CVTUP
  else if op = 0x64 then sub ≤ 1                               -- QSCALE
  else if op = 0x65 then sub ≤ 9                               -- QLQ4
  else if op = 0x6D then sub ≤ 1                               -- PTOV
  else if op = 0x6E then sub ≤ 2                               -- PVOTE
  else if op = 0x70 || op = 0x71 then sub ≤ 1                  -- XPERM, XBCAST
  else if op = 0x73 then sub ≤ 10 || (16 ≤ sub && sub ≤ 26)    -- XSCAN
  else if op = 0x74 then sub ≤ 10                              -- XRED
  else if op = 0x78 then sub ≤ 1                               -- MFS
  else if op = 0x7A then sub ≤ 4                               -- GMASK
  else if op = 0x81 || op = 0x8A then sub ≤ 1                  -- ST, PFETCH
  else if op = 0x86 then sub ≤ 10                              -- ATOM
  else if op = 0x88 then sub ≤ 8                               -- XATOM
  else if op = 0x97 || op = 0x99 then sub ≤ 1                  -- RGRSV, RGAWT
  else if op = 0x9B then sub ≤ 3                               -- RGQRY
  else if op = 0x9C then sub ≤ 1                               -- DEPDEC
  else if op = 0xA1 then sub ≤ 2                               -- UISET
  else if op = 0xA2 then sub ≤ 1                               -- UIMASK
  else if op = 0xAD then sub ≤ 255                             -- BKPT
  else if op = 0xB3 then sub ≤ 3                               -- GRPQ
  else if op = 0xC0 || op = 0xC1 || op = 0xC3 || op = 0xC6 then sub ≤ 1  -- MLOOP, MSTEP, TST, TMASK
  else if op = 0xC7 then sub ≤ 3                               -- TQRY
  else if op = 0xD7 then sub ≤ 2                               -- MXSTAT
  else if op = 0xE4 then sub ≤ 3                               -- CAPQRY
  else if op = 0xE8 then sub ≤ 2                               -- TRET
  else if op = 0xE9 then sub ≤ 1                               -- CCSV
  else if op = 0xEA then sub ≤ 4                               -- FLTQ
  else sub = 0

/-- The kinds of the operand fields of an opcode of forms A, B and C (Tables 5.2 to 5.14, 11.2, 11.5,
11.6, 16.3 and 17.2). -/
def aluKinds (op sub : Nat) (ty : Ty) : Kinds :=
  if op ≤ 0x17 then
    if op = 0x10 || op = 0x11 || op = 0x12 || op = 0x15 then ⟨.s, .s, .none, .none⟩
    else if op = 0x14 then ⟨.s, .s, .s, .s⟩
    else ⟨.s, .s, .s, .none⟩
  else if op ≤ 0x36 then
    if op = 0x24 || op = 0x2F then ⟨.v, .v, .vs, .v⟩
    else if op = 0x2D || op = 0x30 || op = 0x31 || op = 0x34 then ⟨.v, .v, .none, .none⟩
    else if op = 0x32 then ⟨.p, .v, .vs, .none⟩
    else if op = 0x33 then ⟨.v, .v, .vs, .p⟩
    else if op = 0x35 then ⟨.v, .none, .none, .none⟩
    else if op = 0x36 then
      if ty = .i64 || ty = .n64 then ⟨.vp, .vp, .vs, .none⟩ else ⟨.v, .v, .vs, .none⟩
    else ⟨.v, .v, .vs, .none⟩
  else if op ≤ 0x52 then
    if op = 0x43 || op = 0x49 then ⟨.v, .v, .vs, .v⟩
    else if op = 0x46 then ⟨.p, .v, .vs, .none⟩
    else if op = 0x52 then ⟨.none, .k, .s, .cl⟩
    else if op = 0x47 || op = 0x48 || (0x4A ≤ op && op ≤ 0x51) then ⟨.v, .v, .none, .none⟩
    else ⟨.v, .v, .vs, .none⟩
  else if op ≤ 0x66 then
    if op = 0x60 || op = 0x63 then ⟨.v, .v, .none, .none⟩
    else if op = 0x61 then ⟨.v, .v, .v, .none⟩
    else if op = 0x62 then ⟨.v, .vq, .none, .none⟩
    else if op = 0x66 then ⟨.v, .vq, .vs, .none⟩
    else ⟨.v, .v, .vs, .none⟩
  else if op ≤ 0x6F then
    if op ≤ 0x6A then ⟨.p, .p, .p, .none⟩
    else if op = 0x6B then ⟨.p, .p, .none, .none⟩
    else if op = 0x6C then ⟨.p, .v, .none, .none⟩
    else if op = 0x6D then ⟨.v, .p, .none, .none⟩
    else ⟨.s, .p, .none, .none⟩
  else if op ≤ 0x7A then
    if op = 0x70 then ⟨.v, .v, .vs, if sub = 1 then .v else .none⟩
    else if op = 0x71 then ⟨.v, .v, .s, if sub = 1 then .v else .none⟩
    else if op = 0x72 then ⟨.v, .v, .s, .none⟩
    else if op = 0x73 then ⟨.v, .v, .none, .none⟩
    else if op = 0x74 then ⟨.s, .v, .none, .none⟩
    else if op = 0x75 then ⟨.p, .none, .none, .none⟩
    else if op = 0x76 then ⟨.s, if ty = .b64 then .vp else .v, .none, .none⟩
    else if op = 0x77 then ⟨if ty = .b64 then .vp else .v, .s, .none, .none⟩
    else if op = 0x78 then ⟨if sub = 1 then .v else .s, .x, .none, .none⟩
    else if op = 0x79 then ⟨.x, .s, .none, .none⟩
    else ⟨.s, .none, .none, .none⟩
  else if op = 0xA1 then ⟨.none, if sub = 1 then .s else .none, .none, .none⟩
  else if op = 0xA5 || op = 0xA7 then ⟨.none, .none, .vs, .none⟩
  else if op = 0xA6 then ⟨.v, .none, .none, .none⟩
  else if op = 0xA8 then ⟨.none, .p, .none, .none⟩
  else if 0xB0 ≤ op && op ≤ 0xB2 then ⟨.none, .g, .none, .none⟩
  else if op = 0xB3 then ⟨.s, .g, if sub = 3 then .s else .none, .none⟩
  else if op = 0xB6 || op = 0xB7 then ⟨.none, .k, .s, .none⟩
  else if op = 0xE0 then ⟨.kd, .none, .s, .none⟩
  else if op = 0xE1 then ⟨.kd, .k, .sp, .none⟩
  else if op = 0xE2 || op = 0xE3 then ⟨.kd, .k, .s, .none⟩
  else if op = 0xE4 then ⟨.s, .k, .none, .none⟩
  else if op = 0xE5 then ⟨.kd, .none, .none, .none⟩
  else if op = 0xE6 then ⟨.k, .k, .s, .none⟩
  else if op = 0xE7 then ⟨.kd, .k, .s, .none⟩
  else if op = 0xE8 then if sub = 1 then ⟨.none, .k, .s, .none⟩ else ⟨.none, .none, .none, .none⟩
  else if op = 0xE9 then if sub = 0 then ⟨.none, .k, .s, .none⟩ else ⟨.none, .none, .none, .none⟩
  else if op = 0xEA then
    if sub = 3 then ⟨.sp, .none, .s, .none⟩ else if sub = 4 then ⟨.s, .none, .s, .none⟩
    else ⟨.s, .none, .none, .none⟩
  else ⟨.none, .none, .none, .none⟩

/-- In form C the immediate stands in place of B, and C does not exist (R53). -/
def formKinds (f : Form) (ks : Kinds) : Kinds :=
  match f with
  | .c => { ks with b := .none, c := .none }
  | _ => ks

/-- An operand field read by its kind (Table 3.3); `none` is ILLEGAL_FIELD. -/
def readOpd (ngroups : Nat) (m0 : Bool) (kind : Kind) (n : Nat) : Option Opd :=
  match kind with
  | .none => if n = 0 then some .none else none
  | .v => some (.v n)
  | .vp => if n % 2 = 0 then some (.vp n) else none
  | .vq => if n % 4 = 0 then some (.v n) else none
  | .s => if n < 96 then some (.s n) else none
  | .sp => if n < 96 && n % 2 = 0 then some (.sp n) else none
  | .p => if n < 16 then some (.p n) else none
  | .k => if n < 32 then some (.k n) else none
  | .kd => if 0 < n && n < 32 then some (.k n) else none
  | .cl => if n < 4 then some (.c n) else none
  | .g => if n < ngroups && n < 256 then some (.g n) else none
  | .x => if n < 17 then some (.x n) else none
  | .vs => if m0 then (if n < 96 then some (.s n) else none) else some (.v n)

/-- R50: M[0] = 1 only where B may be a scalar register; where B is always scalar it is 0 in the scalar and
matrix families and 1 elsewhere (R86, R101, R124, R135, R238, R280). -/
def m0Ok (op : Nat) (kb : Kind) (m0 : Bool) : Bool :=
  match kb with
  | .vs => true
  | .s | .sp => m0 == !(op ≤ 0x17 || (0xC0 ≤ op && op ≤ 0xC7))
  | _ => !m0

/-- The default type of an opcode (R90, R92, R95, R102 to R107, Table 5.14). `V2S` and `S2V` name no default: it is `.b32`
(DESIGN CHOICE, log 46). -/
def dfltTy (op : Nat) : Ty :=
  if op = 0x17 then .b64
  else if op ≤ 0x17 then .i64
  else if op ≤ 0x36 then .i32
  else if op = 0x49 then .bf16x2
  else if op ≤ 0x51 then .f32
  else if op = 0x60 then .f32
  else if op = 0x61 then .bf16x2
  else if op = 0x62 then .e4m3x4
  else if op = 0x63 then .bf16x2
  else if op = 0x64 then .e2m1
  else if op = 0x6C || op = 0x6D then .b32
  else if op = 0x76 || op = 0x77 then .b32
  else .dflt

/-- The default second type (R102, R103). -/
def dfltTy2 (op : Nat) : Ty :=
  if op = 0x60 || op = 0x61 || op = 0x62 then .f32
  else if op = 0x63 then .e4m3x4
  else .dflt

/-- The type an instruction works in: its own, or its opcode's default (R52). -/
def AluArgs.tyOf (op : Nat) (o : AluArgs) : Ty := if o.ty = .dflt then dfltTy op else o.ty

def AluArgs.ty2Of (op : Nat) (o : AluArgs) : Ty := if o.ty2 = .dflt then dfltTy2 op else o.ty2

def scalarTys : List Ty := [.i64, .n64, .b64, .i32, .n32, .b32]
def vectorTys : List Ty := [.i32, .n32, .b32, .i16x2, .n16x2, .b16x2, .i8x4, .n8x4, .b8x4]
def cvtTys : List Ty := [.f32, .f16, .bf16, .e4m3, .e5m2, .e2m1, .i8, .i16, .i32, .n8, .n16, .n32]
def intTys : List Ty := [.i8, .i16, .i32, .n8, .n16, .n32]

/-- The types an opcode permits beside code 0 (R90, R92, R95, R102 to R107, Table 5.14). `PTOV.raw` takes the types of
`PTOV`, `V2S` and `S2V` an explicit `.b32`, and `FTLOAD` none (DESIGN CHOICE, log 46). -/
def typesOf (op : Nat) : List Ty :=
  if op = 0x16 then []
  else if op = 0x17 then [.b64]
  else if op ≤ 0x17 then scalarTys
  else if op = 0x35 then []
  else if op = 0x2E || op = 0x2F then [.i32, .n32, .b32]
  else if op = 0x36 then [.i32, .n32, .b32, .i64, .n64]
  else if op ≤ 0x36 then vectorTys
  else if op = 0x49 then [.bf16x2, .f16x2]
  else if op ≤ 0x48 then [.f32, .f16x2, .bf16x2]
  else if op ≤ 0x51 then [.f32]
  else if op = 0x60 then cvtTys
  else if op = 0x61 || op = 0x63 then [.bf16x2, .f16x2]
  else if op = 0x62 then [.e4m3x4, .e5m2x4, .e2m1x4]
  else if op = 0x64 then [.e2m1, .e4m3, .e5m2]
  else if op = 0x6C || op = 0x6D then [.b32, .b16x2, .b8x4]
  else if op = 0x76 || op = 0x77 then [.b32, .b64]
  else []

/-- The second types a conversion permits (R102, R103). `CVTPK4` takes an explicit `.f32` (DESIGN CHOICE, log 46). -/
def types2Of (op : Nat) : List Ty :=
  if op = 0x60 then cvtTys
  else if op = 0x61 || op = 0x62 then [.f32]
  else if op = 0x63 then [.e4m3x4, .e5m2x4, .e2m1x4]
  else []

/-- The rounding modes an opcode permits (R90, R92, R95, R102 to R106). `QSCALE.code` and `CVTUP` take every mode and use
none (DESIGN CHOICE, log 46). -/
def rndOk (op : Nat) (r : Rnd) : Bool :=
  if r = .rn then true
  else if [0x40, 0x41, 0x42, 0x43, 0x49, 0x60, 0x61, 0x62, 0x63, 0x64, 0x66].contains op then true
  else if op = 0x48 then r != .rs
  else false

/-- The opcodes that permit `.sat` (R90, R92, R95, R102 to R105). `QSCALE.code` and `CVTUP` take it and do not use it
(DESIGN CHOICE, log 46). -/
def satOk (op : Nat) : Bool :=
  [0x00, 0x01, 0x02, 0x20, 0x21, 0x22, 0x2D, 0x40, 0x41, 0x42, 0x43, 0x49,
   0x60, 0x61, 0x62, 0x63, 0x64].contains op

/-- Table 5.10: destination and source. -/
def cvtPairOk (d s : Ty) : Bool :=
  if s = .f32 then [.f32, .f16, .bf16, .e4m3, .e5m2, .e2m1].contains d || intTys.contains d
  else if d = .f32 then true
  else if s = .f16 then d == .bf16 || intTys.contains d
  else if s = .bf16 then d == .f16 || intTys.contains d
  else if intTys.contains s then d == .f16 || d == .bf16 || intTys.contains d
  else false

/-- The checks an entry adds to those of the tables (R89, R102 to R104, R196, R223, R281). -/
def aluExtra (c : DecCtx) (op : Nat) (o : AluArgs) : Bool :=
  if op = 0x60 then cvtPairOk (o.tyOf op) (o.ty2Of op)
  else if op = 0x62 then o.sub == 0 || o.tyOf op == .e2m1x4
  else if op = 0x63 then o.sub ≤ 1 || o.ty2Of op == .e2m1x4
  else if op = 0x64 then o.sub == 0 || o.tyOf op == dfltTy op
  else if op = 0x78 then o.sub == 1 || o.a.raw != 0
  else if op = 0x79 then o.d.raw == 9 || o.d.raw == 12 || (c.priv && 13 ≤ o.d.raw && o.d.raw ≤ 15)
  else if op = 0xA1 then
    if o.sub = 0 then o.imm == 0 || (o.imm.toNat % 4 == 0 && 0x100 ≤ o.imm.toNat && o.imm.toNat < c.textEnd)
    else if o.sub = 1 then o.imm == 0
    else o.imm.toNat < 128 || (o.imm.toNat < 256 && (o.imm.toNat % 128 < 32 || 64 ≤ o.imm.toNat % 128))
  else if op = 0xA4 || op = 0xA6 then o.imm.toNat % 4 == 0
  else if op = 0xE0 then o.form != .c || o.imm.toNat < 65536
  else true

/-- AnyFieldIllegal of R64 for the forms A, B and C, beyond the operand kinds. -/
def aluLegal (c : DecCtx) (op : Nat) (o : AluArgs) : Bool :=
  (o.ty == .dflt || (typesOf op).contains o.ty) &&
  (o.ty2 == .dflt || (types2Of op).contains o.ty2) &&
  rndOk op o.rnd && (!o.sat || satOk op) &&
  (o.form == .c || m0Ok op (aluKinds op o.sub o.ty).b o.m0) &&
  aluExtra c op o

/-! ### Form M -/

/-- The kind of D of a memory instruction (Tables 8.3 and 8.4, R174 to R178). -/
def memDKind (op : Nat) : Kind :=
  if op = 0x82 || op = 0x83 || op = 0x8B then .s
  else if op = 0x89 || op = 0x8A || op = 0x8C then .none
  else .v

/-- The kind of the base (R169, R173 to R178). -/
def memBaseKind (op : Nat) : Kind :=
  if op = 0x89 then .none
  else if op = 0x82 || op = 0x83 || op = 0x84 || op = 0x85 || op = 0x8B || op = 0x8C then .s
  else .vs

/-- How many vector registers D names (R170, R173, R174). -/
def memRegs (op sz : Nat) : Nat :=
  let z := 2 ^ sz / 4
  if op = 0x87 then 2 * max 1 z else max 1 z

/-- The completion counters of a memory instruction (Table 8.3, R173 to R177). -/
def memCtrOk (op cc : Nat) : Bool :=
  if op = 0x80 || op = 0x82 || op = 0x84 then cc < 4 || cc == 11
  else if op = 0x81 || op = 0x83 || op = 0x85 || op = 0x86 || op = 0x87 || op = 0x88 then
    cc == 4 || cc == 5 || cc == 11
  else cc == 0

/-- The access sizes of a memory instruction (Table 8.3, Table 8.4, R174 to R177). -/
def memSzOk (op mop sz : Nat) : Bool :=
  if op = 0x80 || op = 0x81 || op = 0x84 || op = 0x85 || op = 0x8A then sz ≤ 5
  else if op = 0x82 || op = 0x83 then sz ≤ 3
  else if op = 0x86 || op = 0x88 then sz == 2 || (sz == 3 && mop != 1)
  else if op = 0x87 then sz == 2 || sz == 3
  else sz == 0

/-- `.acq` on loads and atomics, `.rel` on stores and atomics (R165); FENCE takes any (R175). -/
def memOrdOk (op : Nat) (r : MOrd) : Bool :=
  if op = 0x80 || op = 0x82 || op = 0x84 then r != .rel
  else if op = 0x81 || op = 0x83 || op = 0x85 then r != .acq
  else if op = 0x86 || op = 0x87 || op = 0x88 || op = 0x89 then true
  else r == .plain

/-- AnyFieldIllegal of R64 for form M (R56, R169 to R178). -/
def memLegal (op : Nat) (o : MemArgs) : Bool :=
  memSzOk op o.mop o.sz && memOrdOk op o.ord && memCtrOk op o.cc &&
  (!o.scr || o.k == 0) &&
  (o.ty == .dflt || o.ty.bytes == some (2 ^ o.sz)) &&
  (memDKind op != .v || o.d.raw % memRegs op o.sz == 0) &&
  m0Ok op (memBaseKind op) o.m0 &&
  (if op = 0x89 then !o.scr && o.k == 0 && o.disp == 0 && o.ty == .dflt
   else if op = 0x8A then o.scope == .dflt
   else if op = 0x8B then !o.scr && 2 ≤ o.k && o.scope == .dflt && o.disp == 0 && o.ty == .dflt
   else if op = 0x8C then !o.scr && o.k == 0 && o.scope == .dflt && o.disp == 0 && o.ty == .dflt
   else true)

/-! ### Form E -/

/-- The shape of the per-instruction part of X. -/
inductive XShape where
  | none | copy | ring | cap | loop | grp | tld | tst | mxbits | mxlook | mxcap
  deriving DecidableEq, Repr

/-- Which table lays out the per-instruction part (Tables 8.6, 6.7, 6.8, 6.9, 7.2, R191, R194, R195). -/
def xShape (op : Nat) : XShape :=
  if 0x90 ≤ op && op ≤ 0x92 then .copy
  else if 0x97 ≤ op && op ≤ 0x9B then .ring
  else if 0x9C ≤ op && op ≤ 0x9E then .cap
  else if op = 0xC0 || op = 0xC1 then .loop
  else if op = 0xC2 then .tld
  else if op = 0xC3 then .tst
  else if op = 0xC4 || op = 0xC6 then .grp
  else if op = 0xD4 then .mxbits
  else if op = 0xD6 then .mxlook
  else if op = 0xD8 || op = 0xD9 then .mxcap
  else .none

/-- The per-instruction part of X read by its table; `none` is ILLEGAL_FIELD. -/
def readX (sh : XShape) (n : Nat) : Option XArg :=
  match sh with
  | .none => if n = 0 then some .none else none
  | .copy =>
    match unpack [5, 5, 1, 1, 6, 1, 8, 1, 17] n with
    | [dk, sk, dx, sx, cnt, cr, g, dep, 0] =>
      some (.copy dk sk (dx == 1) (sx == 1) cnt (cr == 1) g (dep == 1))
    | _ => none
  | .ring => match unpack [7, 38] n with | [c, 0] => some (.ring c) | _ => none
  | .cap => match unpack [5, 40] n with | [k, 0] => some (.cap k) | _ => none
  | .loop => match unpack [8, 12, 2, 23] n with | [g, c, p, 0] => some (.loop g c p) | _ => none
  | .grp => match unpack [8, 37] n with | [g, 0] => some (.grp g) | _ => none
  | .tld => match unpack [8, 5, 32] n with | [g, k, 0] => some (.tld g k) | _ => none
  | .tst =>
    match unpack [8, 5, 3, 1, 1, 1, 1, 1, 2, 6, 1, 15] n with
    | [g, k, r, sat, rs, cs, msk, act, tbl, start, rel, 0] =>
      (Rnd.ofCode r).map fun r =>
        .tst g k r (sat == 1) (rs == 1) (cs == 1) (msk == 1) (act == 1) tbl start (rel == 1)
    | _ => none
  | .mxbits => match unpack [5, 40] n with | [b, 0] => some (.mxbits b) | _ => none
  | .mxlook => match unpack [8, 5, 32] n with | [d, k, 0] => some (.mxlook d k) | _ => none
  | .mxcap => match unpack [8, 5, 32] n with | [0, k, 0] => some (.mxcap k) | _ => none

/-- The per-instruction part of X, written by the same tables. -/
def writeX : XArg → Nat
  | .none => 0
  | .copy dk sk dx sx cnt cr g dep =>
    pack [(5, dk), (5, sk), (1, natOf dx), (1, natOf sx), (6, cnt), (1, natOf cr), (8, g), (1, natOf dep)]
  | .ring c => pack [(7, c)]
  | .cap k => pack [(5, k)]
  | .loop g c p => pack [(8, g), (12, c), (2, p)]
  | .grp g => pack [(8, g)]
  | .tld g k => pack [(8, g), (5, k)]
  | .tst g k r sat rs cs msk act tbl start rel =>
    pack [(8, g), (5, k), (3, r.code), (1, natOf sat), (1, natOf rs), (1, natOf cs), (1, natOf msk),
      (1, natOf act), (2, tbl), (6, start), (1, natOf rel)]
  | .mxbits b => pack [(5, b)]
  | .mxlook d k => pack [(8, d), (5, k)]
  | .mxcap k => pack [(8, 0), (5, k)]

/-- The counters a form E instruction may complete on, and whether a tag may stand in their place
(Table 3.9); no counter is completion "none". -/
def extDone (op : Nat) : List Nat × Bool :=
  if 0x90 ≤ op && op ≤ 0x92 then ([6, 7], true)
  else if op = 0x9C then ([4, 5], false)
  else if op = 0xC5 || op = 0xC7 || op = 0xD7 then ([], false)
  else if 0xC0 ≤ op && op ≤ 0xC6 then ([8, 9], false)
  else if 0xD0 ≤ op && op ≤ 0xDE then ([10], true)
  else ([], false)

/-- The completion part of X read by Table 3.9; `none` is ILLEGAL_FIELD (R58). -/
def readDone (op tag cc ts : Nat) : Option Done :=
  let (ctrs, tagOk) := extDone op
  if ctrs = [] then if tag = 0 && cc = 0 && ts = 0 then some .none else none
  else if ts = 1 then if tagOk && cc = 0 then some (.tag tag) else none
  else if tag = 0 && ctrs.contains cc then some (.ctr cc) else none

/-- The completion part of X: TAG, CC, TS. -/
def Done.fields : Done → Nat × Nat × Nat
  | .none => (0, 0, 0)
  | .ctr c => (0, c, 0)
  | .tag t => (t, 0, 1)

/-- The kinds of D, A and B of a form E instruction (Tables 6.6, 6.8, 6.10, 7.1, 8.5, 8.7, 8.9, R193 to
R195). A copy's B is read only with CR = 1 (R182). -/
def extKinds (op sub : Nat) (x : XArg) : Kinds :=
  if 0x90 ≤ op && op ≤ 0x92 then
    ⟨.v, .v, match x with | .copy _ _ _ _ _ true _ _ => .vs | _ => .none, .none⟩
  else if op = 0x93 || op = 0x94 then ⟨.none, .s, .none, .none⟩
  else if op = 0x95 || op = 0x96 then ⟨.s, .s, .none, .none⟩
  else if op = 0x97 || op = 0x99 then ⟨.s, .none, .none, .none⟩
  else if op = 0x98 || op = 0x9A then ⟨.none, .s, .none, .none⟩
  else if op = 0x9B then
    if sub = 0 then ⟨.sp, .none, .none, .none⟩
    else if sub = 3 then ⟨.s, .none, .none, .none⟩
    else ⟨.none, .s, .none, .none⟩
  else if op = 0x9C then ⟨.none, if sub = 0 then .s else .none, .s, .none⟩
  else if op = 0x9D then ⟨.none, .s, .none, .none⟩
  else if op = 0x9E then ⟨.sp, .none, .none, .none⟩
  else if op = 0xC0 || op = 0xC1 then ⟨.s, .sp, .sp, .none⟩
  else if op = 0xC2 then ⟨.s, .sp, .none, .none⟩
  else if op = 0xC3 then ⟨.s, .sp, .s, .none⟩
  else if op = 0xC4 || op = 0xC5 then ⟨.s, .none, .none, .none⟩
  else if op = 0xC6 then ⟨.s, if sub = 0 then .s else .none, .none, .none⟩
  else if op = 0xC7 then
    if sub = 1 then ⟨.sp, .none, .none, .none⟩
    else if sub = 3 then ⟨.s, .g, .none, .none⟩
    else ⟨.s, .none, .none, .none⟩
  else if op = 0xD4 then ⟨.s, .k, .none, .none⟩
  else if op = 0xD5 then ⟨.s, .s, .s, .none⟩
  else if op = 0xD6 then ⟨.s, .s, .vs, .none⟩
  else if op = 0xD7 || op = 0xDA then ⟨.s, .s, .none, .none⟩
  else if op = 0xD8 then ⟨.s, .s, .s, .none⟩
  else ⟨.s, .k, .s, .none⟩

/-- AnyFieldIllegal of R64 for form E, beyond kinds, completion and reserved bits (R129, R135, R182,
R191, Tables 6.7 and 7.2). -/
def extLegal (c : DecCtx) (op : Nat) (e : ExtArgs) : Bool :=
  m0Ok op (extKinds op e.sub e.x).b e.m0 &&
  match e.x with
  | .copy dk sk dx sx cnt cr g _ =>
    cnt ≤ 32 && (!cr || cnt == 0) && (!sx || sk == 0) && (!dx || dk == 0) && !(op == 0x92 && dx) &&
    (if op = 0x91 then g < c.ngroups else g == 0)
  | .ring code => code < 32 || 64 ≤ code
  | .loop g count _ => g < c.ngroups && (op == 0xC0 || count == 0)
  | .grp g => g < c.ngroups
  | .tld g _ => g < c.ngroups
  | .tst g _ _ _ _ _ _ _ _ _ _ => g < c.ngroups
  | .mxbits b => 4 ≤ b && b ≤ 16
  | .mxlook d k => e.m0 || (k == 0 && d ≤ c.width)
  | _ => true

/-! ### From parts to instructions -/

/-- The alu instruction of an opcode and its arguments; a sub-operation with a row of its own has its own constructor. -/
def buildAlu (op : Nat) (h : Hdr) (o : AluArgs) : Option Instr :=
  match op with
  | 0x00 => some (.sadd h o)
  | 0x01 => some (.ssub h o)
  | 0x02 => some (.smul h o)
  | 0x03 => some (.smulhi h o)
  | 0x04 => some (.sdiv h o)
  | 0x05 => some (.smod h o)
  | 0x06 => some (.sand h o)
  | 0x07 => some (.sor h o)
  | 0x08 => some (.sxor h o)
  | 0x09 => some (.sshl h o)
  | 0x0A => some (.sshr h o)
  | 0x0B => some (.ssar h o)
  | 0x0C => some (.smin h o)
  | 0x0D => some (.smax h o)
  | 0x0E => some (.sbfx h o)
  | 0x0F => some (.sbfi h o)
  | 0x10 => some (.spopc h o)
  | 0x11 => some (.sclz h o)
  | 0x12 => some (.sctz h o)
  | 0x13 => some (.scmp h o)
  | 0x14 => some (.ssel h o)
  | 0x15 => some (.smov h o)
  | 0x17 => some (.slea h o)
  | 0x20 => some (.vadd h o)
  | 0x21 => some (.vsub h o)
  | 0x22 => some (.vmul h o)
  | 0x23 => some (.vmulhi h o)
  | 0x24 => some (.vmad h o)
  | 0x25 => some (.vand h o)
  | 0x26 => some (.vor h o)
  | 0x27 => some (.vxor h o)
  | 0x28 => some (.vshl h o)
  | 0x29 => some (.vshr h o)
  | 0x2A => some (.vsar h o)
  | 0x2B => some (.vmin h o)
  | 0x2C => some (.vmax h o)
  | 0x2D => some (.vabs h o)
  | 0x2E => some (.vbfx h o)
  | 0x2F => some (.vbfi h o)
  | 0x30 => some (.vpopc h o)
  | 0x31 => some (.vclz h o)
  | 0x32 => some (.vcmp h o)
  | 0x33 => some (.vsel h o)
  | 0x34 => some (.vmov h o)
  | 0x35 => some (.vmovi h o)
  | 0x36 => some (.vlea h o)
  | 0x40 => some (.fadd h o)
  | 0x41 => some (.fsub h o)
  | 0x42 => some (.fmul h o)
  | 0x43 => some (.ffma h o)
  | 0x44 => some (.fmin h o)
  | 0x45 => some (.fmax h o)
  | 0x46 => some (.fcmp h o)
  | 0x47 => some (.fclass h o)
  | 0x48 => some (.frnd h o)
  | 0x49 => some (.fdot2 h o)
  | 0x4A => some (.frcp h o)
  | 0x4B => some (.fsqrt h o)
  | 0x4C => some (.frsq h o)
  | 0x4D => some (.fexp2 h o)
  | 0x4E => some (.flog2 h o)
  | 0x4F => some (.fsin h o)
  | 0x50 => some (.fcos h o)
  | 0x51 => some (.fact h o)
  | 0x52 => some (.ftload h o)
  | 0x60 => some (.cvt h o)
  | 0x61 => some (.cvtpk2 h o)
  | 0x62 => some (.cvtpk4 h o)
  | 0x63 => some (.cvtup h o)
  | 0x64 => if o.sub = 0 then some (.qscaleCode h o) else if o.sub = 1 then some (.qscaleApply h o) else none
  | 0x65 => if o.sub ≤ 7 then some (.qlq4Nib h o) else if o.sub = 8 then some (.qlq4Qcode h o) else if o.sub = 9 then some (.qlq4Bscale h o) else none
  | 0x66 => some (.qmx h o)
  | 0x68 => some (.pand h o)
  | 0x69 => some (.por h o)
  | 0x6A => some (.pxor h o)
  | 0x6B => some (.pnot h o)
  | 0x6C => some (.pfromv h o)
  | 0x6D => some (.ptov h o)
  | 0x6E => some (.pvote h o)
  | 0x6F => some (.pcnt h o)
  | 0x70 => some (.xperm h o)
  | 0x71 => some (.xbcast h o)
  | 0x72 => some (.xrot h o)
  | 0x73 => some (.xscan h o)
  | 0x74 => some (.xred h o)
  | 0x75 => some (.elect h o)
  | 0x76 => some (.v2s h o)
  | 0x77 => some (.s2v h o)
  | 0x78 => some (.mfs h o)
  | 0x79 => some (.mts h o)
  | 0x7A => some (.gmask h o)
  | 0xA1 => if o.sub = 0 then some (.uisetVec h o) else if o.sub = 1 then some (.uisetTags h o) else if o.sub = 2 then some (.uisetRing h o) else none
  | 0xA2 => some (.uimask h o)
  | 0xA3 => some (.uiret h o)
  | 0xA4 => some (.bra h o)
  | 0xA5 => some (.brx h o)
  | 0xA6 => some (.call h o)
  | 0xA7 => some (.ret h o)
  | 0xA8 => some (.join h o)
  | 0xA9 => some (.exit h o)
  | 0xAA => some (.nop h o)
  | 0xAB => some (.yield h o)
  | 0xAC => some (.utrap h o)
  | 0xAD => some (.bkpt h o)
  | 0xAE => some (.sleep h o)
  | 0xB0 => some (.bar h o)
  | 0xB1 => some (.bara h o)
  | 0xB2 => some (.barw h o)
  | 0xB3 => if o.sub = 0 then some (.grpqCount h o) else if o.sub = 1 then some (.grpqArrived h o) else if o.sub = 2 then some (.grpqGen h o) else if o.sub = 3 then some (.grpqMem h o) else none
  | 0xB4 => some (.fcommit h o)
  | 0xB5 => some (.fabort h o)
  | 0xB6 => some (.barsv h o)
  | 0xB7 => some (.barrs h o)
  | 0xE0 => some (.capld h o)
  | 0xE1 => some (.capnar h o)
  | 0xE2 => some (.capvw h o)
  | 0xE3 => some (.capdrp h o)
  | 0xE4 => if o.sub = 0 then some (.capqryLen h o) else if o.sub = 1 then some (.capqryBase h o) else if o.sub = 2 then some (.capqryAttr h o) else if o.sub = 3 then some (.capqryValid h o) else none
  | 0xE5 => some (.capclr h o)
  | 0xE6 => some (.capsv h o)
  | 0xE7 => some (.caprs h o)
  | 0xE8 => if o.sub = 0 then some (.tret h o) else if o.sub = 2 then some (.tretSkip h o) else if o.sub = 1 then some (.tretImg h o) else none
  | 0xE9 => if o.sub = 0 then some (.ccsv h o) else if o.sub = 1 then some (.ccsvDrain h o) else none
  | 0xEA => if o.sub = 0 then some (.fltqLanes h o) else if o.sub = 1 then some (.fltqLane h o) else if o.sub = 2 then some (.fltqIlen h o) else if o.sub = 3 then some (.fltqErr h o) else if o.sub = 4 then some (.fltqRpc h o) else none
  | _ => none

/-- The mem instruction of an opcode and its arguments; a sub-operation with a row of its own has its own constructor. -/
def buildMem (op : Nat) (h : Hdr) (o : MemArgs) : Option Instr :=
  match op with
  | 0x80 => some (.ld h o)
  | 0x81 => some (.st h o)
  | 0x82 => some (.ldu h o)
  | 0x83 => some (.stu h o)
  | 0x84 => some (.ldx h o)
  | 0x85 => some (.stx h o)
  | 0x86 => some (.atom h o)
  | 0x87 => some (.acas h o)
  | 0x88 => some (.xatom h o)
  | 0x89 => some (.fence h o)
  | 0x8A => some (.pfetch h o)
  | 0x8B => some (.shjoin h o)
  | 0x8C => some (.shleave h o)
  | _ => none

/-- The ext instruction of an opcode and its arguments; a sub-operation with a row of its own has its own constructor. -/
def buildExt (op : Nat) (h : Hdr) (e : ExtArgs) : Option Instr :=
  match op with
  | 0x90 => some (.cpy h e)
  | 0x91 => some (.cpyg h e)
  | 0x92 => some (.cpyw h e)
  | 0x93 => some (.tagclr h e)
  | 0x94 => some (.tagwall h e)
  | 0x95 => some (.tagwany h e)
  | 0x96 => some (.tagff h e)
  | 0x97 => some (.rgrsv h e)
  | 0x98 => some (.rgpub h e)
  | 0x99 => some (.rgawt h e)
  | 0x9A => some (.rgrel h e)
  | 0x9B => if e.sub = 0 then some (.rgqryState h e) else if e.sub = 1 then some (.rgqryBind h e) else if e.sub = 2 then some (.rgqryUnbind h e) else if e.sub = 3 then some (.rgqryWaiters h e) else none
  | 0x9C => if e.sub = 0 then some (.depdec h e) else if e.sub = 1 then some (.depdecSet h e) else none
  | 0x9D => some (.rlpush h e)
  | 0x9E => some (.rlpop h e)
  | 0xC0 => some (.mloop h e)
  | 0xC1 => some (.mstep h e)
  | 0xC2 => some (.tld h e)
  | 0xC3 => some (.tst h e)
  | 0xC4 => some (.tzero h e)
  | 0xC5 => some (.trel h e)
  | 0xC6 => if e.sub = 0 then some (.tmask h e) else if e.sub = 1 then some (.tmaskClr h e) else none
  | 0xC7 => if e.sub = 0 then some (.tqryFree h e) else if e.sub = 1 then some (.tqrySlots h e) else if e.sub = 2 then some (.tqryFault h e) else if e.sub = 3 then some (.tqryPend h e) else none
  | 0xD0 => some (.infl h e)
  | 0xD1 => some (.xcod h e)
  | 0xD2 => some (.tokz h e)
  | 0xD3 => some (.dtok h e)
  | 0xD4 => some (.mxopen h e)
  | 0xD5 => some (.mxapp h e)
  | 0xD6 => some (.mxlook h e)
  | 0xD7 => if e.sub = 0 then some (.mxstatMatch h e) else if e.sub = 1 then some (.mxstatLen h e) else if e.sub = 2 then some (.mxstatFill h e) else none
  | 0xD8 => some (.mxsave h e)
  | 0xD9 => some (.mxload h e)
  | 0xDA => some (.mxdrop h e)
  | 0xDB => some (.sfcomp h e)
  | 0xDC => some (.sfscan h e)
  | 0xDD => some (.sfmask h e)
  | 0xDE => some (.sfstop h e)
  | _ => none

/-- The instruction of an opcode, a header and arguments; the inverse of `Instr.parts`. -/
def buildInstr (op : Nat) (h : Hdr) : Body → Option Instr
  | .alu o => buildAlu op h o
  | .waitc o => if op = 0xA0 then some (.waitc h o) else none
  | .smovi o => if op = 0x16 then some (.smovi h o) else none
  | .mem o => buildMem op h o
  | .ext e => buildExt op h e

/-! ### Decoding -/

/-- Why bytes are no instruction: the traps ILLEGAL_OP and ILLEGAL_FIELD of R64, a fetch pad (R43), and
bytes that end before the instruction does. -/
inductive DecErr where
  | illegalOp
  | illegalField
  | pad
  | truncated
  deriving DecidableEq, Repr

/-- A check of R64 that raises ILLEGAL_OP. -/
def opCheck (b : Bool) (k : Except DecErr α) : Except DecErr α := if b then k else .error .illegalOp

/-- A check of R64 that raises ILLEGAL_FIELD. -/
def fieldCheck (b : Bool) (k : Except DecErr α) : Except DecErr α := if b then k else .error .illegalField

/-- A field that ILLEGAL_FIELD rejects when it cannot be read. -/
def fieldGet (o : Option α) (k : α → Except DecErr β) : Except DecErr β :=
  match o with
  | some x => k x
  | none => .error .illegalField

/-- Forms A, B and C: the suffix fields `[C, SUB, S, RND, TYPE2, TYPE]` and the immediate as they are
for the form (R51, R53), the kinds, then the legality checks. -/
def decodeAlu (c : DecCtx) (op : Nat) (h : Hdr) (r31 d a b m : Nat) (f : Form) (w1 : Nat) :
    Except DecErr Instr :=
  let m0 := m % 2 == 1
  match f with
  | .c =>
    opCheck (subAssigned op (b % 256)) <|
    fieldCheck (r31 == 0 && b / 256 == 0 && !m0) <|
    let ks := formKinds .c (aluKinds op (b % 256) .dflt)
    fieldGet (readOpd c.ngroups false ks.d d) fun d =>
    fieldGet (readOpd c.ngroups false ks.a a) fun a =>
    let o : AluArgs := { form := .c, d := d, a := a, sub := b % 256, imm := BitVec.ofNat 32 w1 }
    fieldCheck (aluLegal c op o) <|
    match buildAlu op h o with | some i => .ok i | none => .error .illegalOp
  | f =>
    match unpack bLayout (if f = .a then 0 else w1) with
    | [cc, sub, s, rnd, t2, t] =>
      opCheck (subAssigned op sub) <|
      fieldCheck (r31 == 0 && m < 2) <|
      fieldGet (Ty.ofCode t) fun ty =>
      fieldGet (Ty.ofCode t2) fun ty2 =>
      fieldGet (Rnd.ofCode rnd) fun rnd =>
      let ks := aluKinds op sub ty
      fieldGet (readOpd c.ngroups m0 ks.d d) fun d =>
      fieldGet (readOpd c.ngroups m0 ks.a a) fun a =>
      fieldGet (readOpd c.ngroups m0 ks.b b) fun b =>
      fieldGet (readOpd c.ngroups m0 ks.c cc) fun cc =>
      let o : AluArgs :=
        { form := f, d := d, a := a, b := b, c := cc, m0 := m0, ty := ty, ty2 := ty2, rnd := rnd,
          sat := s == 1, sub := sub }
      fieldCheck (aluLegal c op o) <|
      match buildAlu op h o with | some i => .ok i | none => .error .illegalOp
    | _ => .error .illegalField

/-- One slot of WAITC (R55): counter 15 with threshold 0 is unused, counters 12 to 14 are illegal. -/
def readSlot (n : Nat) : Option (Option WaitSlot) :=
  if n % 16 < 12 then some (some ⟨n % 16, n / 16⟩)
  else if n = 15 then some none
  else none

/-- The 10 bits of a slot of WAITC. -/
def writeSlot : Option WaitSlot → Nat
  | some s => s.ctr + 16 * s.threshold
  | none => 15

/-- WAITC, form C only, its B field read whole as slot 3 (R55). -/
def decodeWaitc (h : Hdr) (r31 d a b m : Nat) (w1 : Nat) : Except DecErr Instr :=
  match unpack [10, 10, 10, 2] w1 with
  | [n0, n1, n2, r] =>
    fieldCheck (r31 == 0 && d == 0 && a == 0 && m == 2 && r == 0) <|
    fieldGet (readSlot n0) fun s0 =>
    fieldGet (readSlot n1) fun s1 =>
    fieldGet (readSlot n2) fun s2 =>
    fieldGet (readSlot b) fun s3 =>
    .ok (.waitc h ⟨s0, s1, s2, s3⟩)
  | _ => .error .illegalField

/-- SMOVI in form C, or with a 64-bit immediate (R53, R54). -/
def decodeSmovi (h : Hdr) (r31 d a b m : Nat) (wide : Bool) (w1 w2 : Nat) : Except DecErr Instr :=
  opCheck (wide || b % 256 == 0) <|
  fieldCheck (r31 == 0 && d < 96 && a == 0 && b == 0 && m == (if wide then 0 else 2)) <|
  .ok (.smovi h
    { d := d, wide := wide
      imm := if wide then BitVec.ofNat 64 (w1 + 2 ^ 32 * w2) else (BitVec.ofNat 32 w1).signExtend 64 })

/-- A 14-bit two's complement displacement (Table 3.7). -/
def readDisp (n : Nat) : Int := if n < 8192 then n else (n : Int) - 16384

def writeDisp (d : Int) : Nat := (d % 16384).toNat

/-- Form M (R56). -/
def decodeMem (c : DecCtx) (op : Nat) (h : Hdr) (r31 d a b m : Nat) (w1 : Nat) : Except DecErr Instr :=
  match unpack mLayout w1 with
  | [k, cc, sz, ord, sc, disp] =>
    opCheck (subAssigned op (a % 32)) <|
    fieldCheck (r31 == 0 && sz < 6) <|
    fieldGet (Ty.ofCode (a / 32)) fun ty =>
    fieldGet (MOrd.ofCode ord) fun ord =>
    fieldGet (Scope.ofCode sc) fun sc =>
    fieldGet (readOpd c.ngroups false (memDKind op) d) fun d =>
    fieldGet (readOpd c.ngroups (m % 2 == 1) (memBaseKind op) b) fun b =>
    let o : MemArgs :=
      { d := d, ty := ty, mop := a % 32, base := b, m0 := m % 2 == 1, scr := m / 2 == 1, k := k, cc := cc,
        sz := sz, ord := ord, scope := sc, disp := readDisp disp }
    fieldCheck (memLegal op o) <|
    match buildMem op h o with | some i => .ok i | none => .error .illegalOp
  | _ => .error .illegalField

/-- Form E (R57, R58). -/
def decodeExt (c : DecCtx) (op : Nat) (h : Hdr) (r31 d a b m : Nat) (x : Nat) : Except DecErr Instr :=
  match unpack xLayout x with
  | [tag, cc, ts, sub, per] =>
    opCheck (subAssigned op sub) <|
    fieldCheck (r31 == 0 && m < 2) <|
    fieldGet (readDone op tag cc ts) fun fin =>
    fieldGet (readX (xShape op) per) fun x =>
    let ks := extKinds op sub x
    fieldGet (readOpd c.ngroups (m % 2 == 1) ks.d d) fun d =>
    fieldGet (readOpd c.ngroups (m % 2 == 1) ks.a a) fun a =>
    fieldGet (readOpd c.ngroups (m % 2 == 1) ks.b b) fun b =>
    let e : ExtArgs := { d := d, a := a, b := b, m0 := m % 2 == 1, sub := sub, fin := fin, x := x }
    fieldCheck (extLegal c op e) <|
    match buildExt op h e with | some i => .ok i | none => .error .illegalOp
  | _ => .error .illegalField

/-- The checks of R64 after the WAIT step, on the words of an instruction whose length LEN has been read:
opcode, form, privilege, sub-operation, fields. Words beyond the length are ignored. -/
def decodeWords (c : DecCtx) (w0 w1 w2 : Nat) : Except DecErr Instr :=
  match unpack w0Layout w0 with
  | [len, op, stall, wait, pg, pn, y, r31, d, a, b, m] =>
    let h : Hdr := { stall := stall, wait := wait, pg := pg, pn := pn == 1, y := y == 1 }
    let privOk := !privilegedOp op || c.priv
    opCheck (assignedIn c.encver op) <|
    match opClass op with
    | none => .error .illegalOp
    | some (.alu fa fb fc) =>
      let f : Form := if len = 0 then .a else if m / 2 = 1 then .c else .b
      opCheck (len == 0 && fa || len == 1 && m / 2 == 0 && fb || len == 1 && m / 2 == 1 && fc) <|
      opCheck privOk <| decodeAlu c op h r31 d a b m f w1
    | some .waitc => opCheck (len == 1 && m / 2 == 1) <| decodeWaitc h r31 d a b m w1
    | some .smovi =>
      opCheck (len == 2 || len == 1 && m / 2 == 1) <| decodeSmovi h r31 d a b m (len == 2) w1 w2
    | some .mem => opCheck (len == 1) <| decodeMem c op h r31 d a b m w1
    | some .ext => opCheck (len == 2) <| decodeExt c op h r31 d a b m (w1 + 2 ^ 32 * w2)
  | _ => .error .illegalOp

/-! ### Encoding -/

/-- The bytes of an instruction by its LEN code (Table 3.1). -/
def lenBytes (len : Nat) : Nat := if len = 0 then 8 else if len = 1 then 12 else if len = 2 then 16 else 4

/-- The length code of an instruction (Table 3.1). -/
def Body.len : Body → Nat
  | .alu o => if o.form = .a then 0 else 1
  | .waitc _ => 1
  | .smovi o => if o.wide then 2 else 1
  | .mem _ => 1
  | .ext _ => 2

/-- The length of an instruction in bytes; 0 for an event. -/
def Instr.bytes (i : Instr) : Nat :=
  match i.parts with
  | some (_, _, b) => lenBytes b.len
  | none => 0

/-- Word 0 from its fields (Table 3.2). -/
def packW0 (len op : Nat) (h : Hdr) (d a b m : Nat) : Nat :=
  pack [(2, len), (8, op), (3, h.stall), (12, h.wait), (4, h.pg), (1, natOf h.pn), (1, natOf h.y), (1, 0),
    (10, d), (10, a), (10, b), (2, m)]

/-- The words of an instruction: its length code, word 0, word 1 and word 2. -/
structure Words where
  len : Nat
  w0 : Nat
  w1 : Nat := 0
  w2 : Nat := 0
  deriving DecidableEq, Repr

/-- Encoding by the tables of chapter 3. -/
def encodeBody (op : Nat) (h : Hdr) (body : Body) : Words :=
  match body with
  | .alu o =>
    match o.form with
    | .a => ⟨0, packW0 0 op h o.d.raw o.a.raw o.b.raw (natOf o.m0), 0, 0⟩
    | .b => ⟨1, packW0 1 op h o.d.raw o.a.raw o.b.raw (natOf o.m0),
        pack [(10, o.c.raw), (8, o.sub), (1, natOf o.sat), (3, o.rnd.code), (5, o.ty2.code), (5, o.ty.code)], 0⟩
    | .c => ⟨1, packW0 1 op h o.d.raw o.a.raw o.sub 2, o.imm.toNat, 0⟩
  | .waitc o =>
    ⟨1, packW0 1 op h 0 0 (writeSlot o.s3) 2,
      pack [(10, writeSlot o.s0), (10, writeSlot o.s1), (10, writeSlot o.s2), (2, 0)], 0⟩
  | .smovi o =>
    if o.wide then ⟨2, packW0 2 op h o.d 0 0 0, o.imm.toNat % 2 ^ 32, o.imm.toNat / 2 ^ 32⟩
    else ⟨1, packW0 1 op h o.d 0 0 2, o.imm.toNat % 2 ^ 32, 0⟩
  | .mem o =>
    ⟨1, packW0 1 op h o.d.raw (o.mop + 32 * o.ty.code) o.base.raw (natOf o.m0 + 2 * natOf o.scr),
      pack [(5, o.k), (4, o.cc), (3, o.sz), (3, o.ord.code), (3, o.scope.code), (14, writeDisp o.disp)], 0⟩
  | .ext e =>
    let (tag, cc, ts) := e.fin.fields
    let x := pack [(6, tag), (4, cc), (1, ts), (8, e.sub), (45, writeX e.x)]
    ⟨2, packW0 2 op h e.d.raw e.a.raw e.b.raw (natOf e.m0), x % 2 ^ 32, x / 2 ^ 32⟩

/-- The words of an instruction; an event has none. -/
def encode (i : Instr) : Option Words :=
  (i.parts).map fun (op, h, b) => encodeBody op h b

/-- A word as little-endian bytes (R42). -/
def leBytes : Nat → Nat → List Byte
  | 0, _ => []
  | n + 1, w => BitVec.ofNat 8 w :: leBytes n (w / 256)

/-- Little-endian bytes as a number (R42). -/
def ofLe : List Byte → Nat
  | [] => 0
  | b :: r => b.toNat + 256 * ofLe r

/-- The bytes of the words, at ascending addresses (R42). -/
def Words.toBytes (w : Words) : List Byte :=
  (leBytes 8 w.w0 ++ leBytes 4 w.w1 ++ leBytes 4 w.w2).take (lenBytes w.len)

/-- The instruction at the head of a list of bytes, with its length (R42, R64). Total on any bytes. -/
def decodeBytes (c : DecCtx) (bs : List Byte) : Except DecErr (Instr × Nat) :=
  match bs with
  | [] => .error .truncated
  | b :: _ =>
    let len := b.toNat % 4
    if len = 3 then .error .pad
    else if bs.length < lenBytes len then .error .truncated
    else
      match decodeWords c (ofLe (bs.take 8)) (if len = 0 then 0 else ofLe ((bs.drop 8).take 4))
          (if len = 2 then ofLe ((bs.drop 12).take 4) else 0) with
      | .ok i => .ok (i, lenBytes len)
      | .error e => .error e

/-! ### What the encoding admits -/

/-- An operand is what its kind reads from the number it holds (Table 3.3). -/
def opdAdmitted (c : DecCtx) (m0 : Bool) (kind : Kind) (o : Opd) : Bool := readOpd c.ngroups m0 kind o.raw == some o

/-- The arguments of a form A, B or C instruction that an opcode admits in a context. -/
def aluAdmitted (c : DecCtx) (op : Nat) (o : AluArgs) : Bool :=
  let ks := formKinds o.form (aluKinds op o.sub o.ty)
  (match opClass op with
   | some (.alu fa fb fc) => match o.form with | .a => fa | .b => fb | .c => fc
   | _ => false) &&
  subAssigned op o.sub && opdAdmitted c o.m0 ks.d o.d && opdAdmitted c o.m0 ks.a o.a && opdAdmitted c o.m0 ks.b o.b &&
  opdAdmitted c o.m0 ks.c o.c && aluLegal c op o

/-- The arguments of a form M instruction that an opcode admits. -/
def memAdmitted (c : DecCtx) (op : Nat) (o : MemArgs) : Bool :=
  subAssigned op o.mop && opdAdmitted c false (memDKind op) o.d && opdAdmitted c o.m0 (memBaseKind op) o.base && memLegal op o

/-- The arguments of a form E instruction that an opcode admits. -/
def extAdmitted (c : DecCtx) (op : Nat) (e : ExtArgs) : Bool :=
  let ks := extKinds op e.sub e.x
  let (tag, cc, ts) := e.fin.fields
  subAssigned op e.sub && readDone op tag cc ts == some e.fin && readX (xShape op) (writeX e.x) == some e.x &&
    opdAdmitted c e.m0 ks.d e.d && opdAdmitted c e.m0 ks.a e.a && opdAdmitted c e.m0 ks.b e.b && extLegal c op e

/-- What the checks of R64 accept, said of an instruction instead of its words. -/
def Instr.admitted (c : DecCtx) (i : Instr) : Bool :=
  match i.parts with
  | none => false
  | some (op, _, b) =>
    assignedIn c.encver op && (!privilegedOp op || c.priv) &&
    match b with
    | .alu o => aluAdmitted c op o
    | .waitc _ => true
    | .smovi _ => true
    | .mem o => memAdmitted c op o
    | .ext e => extAdmitted c op e

/-! ### Registers named by an instruction, for REG_RANGE -/

/-- One register field: its number (0 D, 1 A, 2 B, 3 C), whether it names vector registers, the first
register and how many. -/
structure RegField where
  field : Nat
  vec : Bool
  first : Nat
  count : Nat
  deriving DecidableEq, Repr

def Opd.regField (field count : Nat) : Opd → Option RegField
  | .v r => some ⟨field, true, r, count⟩
  | .vp r => some ⟨field, true, r, 2⟩
  | .s r => some ⟨field, false, r, 1⟩
  | .sp r => some ⟨field, false, r, 2⟩
  | _ => Option.none

/-- The register fields in the order D, A, B, C (R64, R65). `CVTPK4` and `QMX` read A to A+3 (R103,
R106). -/
def Instr.regFields (i : Instr) : List RegField :=
  match i.parts with
  | none => []
  | some (op, _, .alu o) =>
    [o.d.regField 0 1, o.a.regField 1 (if op = 0x62 || op = 0x66 then 4 else 1), o.b.regField 2 1,
     o.c.regField 3 1].filterMap id
  | some (_, _, .waitc _) => []
  | some (_, _, .smovi o) => [⟨0, false, o.d, 1⟩]
  | some (op, _, .mem o) => [o.d.regField 0 (memRegs op o.sz), o.base.regField 2 1].filterMap id
  | some (_, _, .ext e) => [e.d.regField 0 1, e.a.regField 1 1, e.b.regField 2 1].filterMap id

/-- A register field reaches beyond the allocation (Table 3.3). In a privileged routine s92 to s95 exist
whatever the allocation (R235). -/
def RegField.beyond (vregs sregs : Nat) (priv : Bool) (f : RegField) : Bool :=
  if f.vec then vregs < f.first + f.count
  else sregs < f.first + f.count && !(priv && 92 ≤ f.first)

/-- TRAPVAL of REG_RANGE if a register is beyond the allocation (R64, Table 3.14). -/
def regRange (vregs sregs : Nat) (priv : Bool) (i : Instr) : Option Nat :=
  (i.regFields.find? (RegField.beyond vregs sregs priv)).map fun f => f.first + 1024 * f.field

/-! ### The opcode table's own numbering -/

/-- The instruction the decoder reads from bits numbered as the opcode table numbers them: bit 0 is the
least significant bit of word 0. Every bit from `nbits` up is 0. The context admits every privilege and
encoding version 5. -/
def decodeTableWord (nbits w : Nat) : Option Instr :=
  let n := w % 2 ^ nbits
  match decodeBytes { priv := true } (leBytes 16 n) with
  | .ok (i, _) => some i
  | .error _ => none

end Sys2Proof
end

