-- ==== Sys2Proof/Config.lean ====
section
/-! DEFINITION. What the device fixes for every run (R10 to R19, the constants of the rules) and the free
values: opaque constants with no body, which stand for a value or a choice the spec leaves open. Nothing can
be proved of a free value but what holds for every value. -/

namespace Sys2Proof.Config

/-- Compute dies, bays per die, cores per bay, partitions per core, warp slots per partition (R10, R13). -/
def dies : Nat := 8
def bays : Nat := 64
def baysPerDie : Nat := 8
def coresPerBay : Nat := 4
def partsPerCore : Nat := 8
def slotsPerPart : Nat := 16

/-- Vector register words, in 32-bit lane words, of one partition (R13). -/
def fileWords : Nat := 32768

/-- Bytes of device memory (R18) and of its spare region (R18, R336). -/
def devBytes : Nat := 288 * 2 ^ 30
def spareBytes : Nat := 8 * 2 ^ 30

/-- ABBASE: the as-built table lies in the top 8 MiB of the spare region (R256). -/
def abBase : Nat := devBytes - 8 * 2 ^ 20

/-- Bytes of one bay's scratchpad (R14). -/
def bayScratch : Nat := 4 * 2 ^ 20

/-- The first image offset of the text section (R39, R44). -/
def textStart : Nat := 0x100

/-- FREE: the random operand of `.rs` for the n-th element rounded (R79). -/
opaque randomOperand : Nat → BitVec 32

/-- FREE: `QLQ4.qcode` of an absolute maximum and a negative scale whose quotient is −1 or below, which no code
holds (R105; DESIGN CHOICE, log 15): by A and S. -/
opaque qcodeNegative : BitVec 32 → BitVec 32 → BitVec 32

/-- FREE: a byte of a register-sourced tile row beyond the registers of its chunk (R118; DESIGN CHOICE, log 18): by operation
and chunk offset. -/
opaque tileByte : Nat → Nat → Byte

/-- FREE: which of `n` enabled activities of the device happens next (DESIGN CHOICE, log 4). -/
opaque choose : Nat → Nat

/-- FREE: whether an asynchronous operation reads a 32-bit word as it was before a store that races with it, rather than as it
is (R122, R139; DESIGN CHOICE, log 50): by operation, step and word. -/
opaque readsOld : Nat → Nat → Nat → Bool

/-- FREE: whether the special-function unit of a core is busy for an instruction (R85, R218; DESIGN CHOICE, log 51): by clk and
core. -/
opaque sfuBusy : Nat → Nat → Bool

/-- FREE: the device-memory offset and the bits that a fault changes (R332; DESIGN CHOICE, log 52): by occurrence. -/
opaque faultAt : Nat → Nat
opaque faultBits : Nat → Byte

/-- FREE: the bytes of a launch parameter block, by launch and offset (DESIGN CHOICE, log 9). -/
opaque paramByte : Nat → Nat → Byte

/-- FREE: the length of a launch parameter block, by launch (DESIGN CHOICE, log 9). -/
opaque paramLength : Nat → Nat

/-- FREE: the index tables of the WHATWG Encoding Standard, by index name (0 jis0208, 1 jis0212, 2 euc-kr,
3 gb18030, 4 gb18030 ranges by pointer, 5 iso-2022-jp katakana) and pointer: the code point, or `none`
(DESIGN CHOICE, log 11). -/
opaque whatwgIndex : Nat → Nat → Option Nat

/-- FREE: the 64 opaque bytes that seal a capability: byte `i` of the seal numbered `n` (R240; DESIGN CHOICE, log 10). -/
opaque sealByte : Nat → Nat → Byte

/-- FREE: the digest by which a measured stage extends its register when the outside does not name it
(R299, R300; DESIGN CHOICE, log 6): by boot count and stage. -/
opaque bootDigest : Nat → Nat → BitVec 512

/-- FREE: the number by which this device claims chunk index entries (R336; DESIGN CHOICE, log 29). -/
opaque deviceId : Nat

/-- FREE: the security version held in fuses (R299; DESIGN CHOICE, log 6). -/
opaque fusedVersion : Nat

end Sys2Proof.Config
end

