-- ==== Sys2Proof/Machine/Sparse.lean ====
section
/-! DEFINITION. Finite maps with one canonical form: a list of (key, value) pairs, keys strictly rising, no
entry equal to the default. Memory, the register files and every table of the machine are such maps, so equal
contents are equal data. -/

namespace Sys2Proof

/-- A map from numbers to `α` with a default value, which no entry equals. -/
abbrev SMap (α : Type) := List (Nat × α)

/-- The value at a key; `d` where the map lists none. -/
def sget (d : α) : SMap α → Nat → α
  | [], _ => d
  | (k, v) :: r, q => if q = k then v else if q < k then d else sget d r q

/-- The map with the value at one key replaced; writing the default removes the entry. -/
def sset [DecidableEq α] (d : α) (q : Nat) (x : α) : SMap α → SMap α
  | [] => if x = d then [] else [(q, x)]
  | (k, v) :: r =>
    if q < k then if x = d then (k, v) :: r else (q, x) :: (k, v) :: r
    else if q = k then if x = d then r else (q, x) :: r
    else (k, v) :: sset d q x r

/-- Every key is above `lo`, keys rise, and no value is the default. -/
def swfFrom [DecidableEq α] (d : α) : Nat → SMap α → Bool
  | _, [] => true
  | lo, (k, v) :: r => decide (lo ≤ k) && decide (v ≠ d) && swfFrom d (k + 1) r

/-- The canonical form. -/
def swf [DecidableEq α] (d : α) (m : SMap α) : Bool := swfFrom d 0 m

/-- Several entries written in order. -/
def ssetMany [DecidableEq α] (d : α) (m : SMap α) : List (Nat × α) → SMap α
  | [] => m
  | (q, x) :: r => ssetMany d (sset d q x m) r

/-- Replace entry `i` of a list by `f` of it. -/
def modifyAt (f : α → α) : Nat → List α → List α
  | _, [] => []
  | 0, x :: r => f x :: r
  | i + 1, x :: r => x :: modifyAt f i r

/-- The first element of a list that satisfies `p`, replaced by `f` of it. -/
def modifyFirst (p : α → Bool) (f : α → α) : List α → List α
  | [] => []
  | x :: r => if p x then f x :: r else x :: modifyFirst p f r

end Sys2Proof
end

