-- ==== Sys2Proof/Machine/State.lean ====
section
/-! DEFINITION. The state of the SX9 as plain data: every piece of architectural state the spec names
(INVENTORY.md lists each with its rule), and the model's own fields, each marked as such. Also the two
reasons for which a step can stop. -/

namespace Sys2Proof.Machine

/-! ### Why a step stops -/

/-- The reasons a step stops with a fault. -/
inductive Fault where
  /-- Raised by every instruction when no warp is issuing (`State.cur` is none): an instruction has no
  meaning outside an issue. `step` never runs one there. Safe. -/
  | noIssue
  /-- Raised by every instruction when `State.cur` names a warp or frame that is not placed. `step` never
  runs one there. Safe. -/
  | noWarp
  deriving DecidableEq, Repr

/-- The reasons a step refuses. -/
inductive Refusal where
  /-- Raised by `exec` for an instruction the model gives no meaning yet. Safe. -/
  | notModelled (mnemonic : String)
  deriving DecidableEq, Repr

/-- The outcome of a step of this machine. -/
abbrev Out := Host.Outcome

/-! ### Capabilities (R277, R278) -/

/-- Ordering classes (Table 16.1). -/
inductive Cls where
  | strict | release | free
  deriving DecidableEq, Repr

/-- What a capability derives from, with the generation its source had then (Table 16.1, SOURCE). -/
inductive CapSrc where
  | none
  /-- an entry of a context's capability table -/
  | table (ctx tab gen : Nat)
  /-- membership of a share circle: the holder's slot and the number of joins of that slot, and for each
  of the eight slots the joins it had and whether it had a member when the capability was granted -/
  | circle (ctx circ slot joins : Nat) (grant : List (Nat × Bool))
  /-- a launch -/
  | launch (lid : Nat)
  /-- a frame -/
  | frame (fid : Nat)
  deriving DecidableEq, Repr

/-- What a capability reaches beyond its context's address space (Table 16.1, TARGET; R235, R278). -/
inductive CapTgt where
  | none
  | node (n : Nat)
  /-- a frame, named by PROGRAM and frame index -/
  | frame (prog idx : Nat)
  /-- the scratchpad of one frame whatever becomes of it: a copy that issued into a circle (R178). The model's own. -/
  | own (fid : Nat)
  | list (die idx : Nat)
  | circle (ctx circ : Nat)
  /-- the launch parameter block -/
  | param (lid : Nat)
  /-- the launch data area -/
  | data (lid : Nat)
  /-- a frame's slice of the save area of a mapping -/
  | slice (mapping : Nat) (at_ : Nat)
  deriving DecidableEq, Repr

/-- A capability register (Table 16.1). KIND 7 is a device region. -/
structure Cap where
  kind : Nat := 0
  base : Nat := 0
  len : Nat := 0
  perm : BitVec 5 := 0
  cls : Cls := .strict
  fmt : Nat := 0
  view : Nat := 0
  geom : Nat := 0
  src : CapSrc := .none
  tgt : CapTgt := .none
  /-- the context in whose address space a KIND 0 capability lies -/
  ctx : Nat := 0
  deriving DecidableEq, Repr

/-- The null capability (Table 16.1, after `CAPCLR`). -/
def Cap.null : Cap := {}

/-- One side of an access or a copy: scratchpad or a capability, and an offset. -/
structure MemRef where
  scr : Bool := false
  cap : Cap := Cap.null
  off : Nat := 0
  deriving DecidableEq, Repr

/-! ### Accesses in flight (R163, R204) -/

/-- The effective class of an access, and whether it is an acquire or a release (Table 8.2). -/
structure Effect where
  cls : Cls
  acq : Bool := false
  rel : Bool := false
  deriving DecidableEq, Repr

/-- Where a loaded value goes (R170): vector registers of a lane from `r` on (and of the other lane of its pair in a
protected frame), or a scalar register; values of fewer bytes than the register are sign- or zero-extended. -/
structure LoadDst where
  scalar : Bool := false
  bank : Bool := false
  r : Nat := 0
  lanes : List Nat := []
  signed : Bool := false
  deriving DecidableEq, Repr

/-- What performing one unit of an access does. -/
inductive UnitWork where
  /-- `n` bytes read through a reference whose pages are `m`, into registers -/
  | load (r : MemRef) (n : Nat) (m : List (Nat × Nat)) (dst : LoadDst)
  /-- bytes written at physical addresses -/
  | store (as : List Nat) (bs : List Byte)
  /-- a read-modify-write of the word at physical addresses: the operation of Table 8.4 on `x`, or with `cas` a store of
  `x` where the word equals it; the old value goes to registers; `off` is the capability offset -/
  | rmw (as : List Nat) (mop x : Nat) (cas : Option Nat) (dst : Option LoadDst) (off : Nat)
  /-- a `FENCE` of some lanes (R175) -/
  | fence (o : MOrd) (lanes : List Nat)
  deriving DecidableEq, Repr

/-- One single-copy atomic unit of an access that has issued and is not performed yet (R163, R204), or a fence between
such units: the counter operation it belongs to, its lane, its effective class, its SCOPE (`.by` by default in scratchpad)
and what performing it does. -/
structure MemUnit where
  op : Nat
  lane : Nat := 0
  eff : Effect := { cls := .release }
  scope : Scope := .dflt
  work : UnitWork
  deriving DecidableEq, Repr

/-! ### Warps -/

/-- Lane states (R12); live-active and live-idle are told apart by the issue in progress. -/
inductive LaneSt where
  | live | exited | absent
  deriving DecidableEq, Repr

/-- A lane's last-page register (R289). -/
structure LastPage where
  asid : Nat
  vmid : Nat
  vpn : Nat
  pa : Nat
  r : Bool
  w : Bool
  u : Bool
  d : Bool
  /-- the translation went through two stages, and the guest-physical page behind it -/
  two : Bool := false
  gpn : Nat := 0
  deriving DecidableEq, Repr

/-- One lane of a warp. -/
structure Lane where
  /-- the PC, an image offset (R11, R30) -/
  pc : Nat := 0
  st : LaneSt := .absent
  /-- waiting at a `JOIN` of this predicate (R222) -/
  waitJoin : Option Nat := none
  /-- waiting on the barrier of this group (R228) -/
  waitBar : Option Nat := none
  /-- miss count (R220) -/
  miss : Nat := 0
  /-- deferred by `YIELD` (R223) -/
  deferred : Bool := false
  /-- interrupt return PC (R197) -/
  retPc : Nat := 0
  /-- the PC and waiting flags a trap holds aside (R307) -/
  heldPc : Nat := 0
  heldJoin : Option Nat := none
  heldBar : Option Nat := none
  /-- the miss count as SAVE_REQ found it, for the warp image (R238) -/
  heldMiss : Nat := 0
  /-- it exited in the save routine, whose end that is (R242) -/
  ended : Bool := false
  /-- last-page register (R289) -/
  lastPage : Option LastPage := none
  deriving DecidableEq, Repr

/-- One register write. `bankS` and `bankK` name the routine bank (R235). -/
inductive RegWrite where
  | v (r lane : Nat) (x : W32)
  | s (r : Nat) (x : W64)
  | p (r lane : Nat) (x : BitVec 4)
  | k (r : Nat) (c : Cap)
  | bankS (r : Nat) (x : W64)
  | bankK (c : Cap)
  deriving DecidableEq, Repr

/-- A fixed-latency register write in flight (R85): it was issued at clk `from_` and lands at clk `land`. -/
structure Pend where
  land : Nat
  from_ : Nat := 0
  w : RegWrite
  deriving DecidableEq, Repr

/-- The part of a warp that runahead checkpoints and rolls back (R313, R315): lanes, registers, `SATCNT`,
`STATUS.xlane` and the fixed-latency writes in flight. Vector registers are keyed by register × 64 + lane,
predicate registers by register × 64 + lane (R13). -/
structure WCore where
  lanes : List Lane := []
  v : SMap W32 := []
  s : SMap W64 := []
  p : SMap (BitVec 4) := []
  satcnt : W32 := 0
  xlane : Bool := false
  pend : List Pend := []
  deriving DecidableEq, Repr

/-- An operation enrolled on a completion counter, in issue order (R179). `done`: once its units in `Warp.acc` are
performed it waits only to retire; `writes`: the registers it writes when it retires (R168); `err`: the error it retires
with (R181); `reg`: it is one of the operations of R306 item 3. -/
structure CtrOp where
  id : Nat
  ctr : Nat
  /-- the clk of its issue -/
  from_ : Nat := 0
  done : Bool := true
  writes : List RegWrite := []
  err : Option (Nat × Nat) := none
  reg : Bool := false
  /-- the peer addresses it accesses, per destination word (R320) -/
  peer : Option Nat := none
  deriving DecidableEq, Repr

/-- The routine a warp runs (R235). -/
inductive Mode where
  | user | save | restore | trap
  deriving DecidableEq, Repr

/-- The condition that holds a warp (Table 11.4). -/
inductive HoldWhy where
  /-- counters of a WAIT field or WAITC: each (counter, threshold) -/
  | counters (cs : List (Nat × Nat))
  | tagsAll (mask : Nat)
  | tagsAny (mask : Nat)
  /-- `RGRSV` and `RGAWT` on a ring code -/
  | ringRoom (code : Nat)
  | ringItem (code : Nat)
  | listRoom (die idx : Nat)
  /-- a full counter; a full tag count by so many lanes; a full die queue; Truss entry room -/
  | ctrRoom (ctr : Nat)
  | tagRoom (tag n : Nat)
  | queueRoom
  | trussRoom (group : Nat)
  /-- the special-function unit of the core is busy (R85) -/
  | sfu
  | sleep (until_ : Nat)
  /-- `TRET.img` before the frame's `BARRS` (R241) -/
  | barrs
  /-- a drain of `CCSV` (R238) -/
  | drain
  /-- the target frame of a window is not resident (R164) -/
  | window (prog idx : Nat)
  /-- a page-request group of this party number is out (R318) -/
  | page (party : Nat)
  /-- another warp of the partition runs ahead (R313) -/
  | undo
  /-- copies whose bytes were still to enter the buffer at an explicit or implicit commit, or an abort (R325, R327) -/
  | buffer (copies : List Nat)
  deriving DecidableEq, Repr

/-- A held issue: which condition, at which PC (after pads), by which lanes; `since` orders the warps held before issue on a
die's queue (R230). -/
structure Hold where
  why : HoldWhy
  pc : Nat
  lanes : List Nat
  since : Nat := 0
  deriving DecidableEq, Repr

/-- The trap context of a warp (R306, R309, R311): the trap lanes, the lowest failing lane (none when the
cause is not checked per lane), ILen, and whether the trap was delivered late. -/
structure TrapCtx where
  lanes : List Nat := []
  lane : Option Nat := none
  ilen : Nat := 0
  late : Bool := false
  deriving DecidableEq, Repr

/-- One collected page of runahead (R314, R317). -/
structure RunPage where
  page : Nat
  write : Bool
  stage2 : Bool
  lane : Nat
  issue : Nat
  pc : Nat
  /-- capability offset of the access's first byte on the page -/
  off : Nat := 0
  deriving DecidableEq, Repr

/-- A warp in runahead (R313 to R315): its checkpoint, the undo room used, the registers logged, the ghost
bits (keys as in `WCore`), the pages collected, the instructions issued, the runahead counters'
operations, and the faulting instruction's PC and lanes. -/
structure Run where
  ckpt : WCore
  undo : Nat := 0
  logged : List (Nat × Nat) := []
  ghostV : SMap Bool := []
  ghostS : SMap Bool := []
  ghostP : SMap (BitVec 4) := []
  pages : List RunPage := []
  issued : Nat := 0
  ops : List CtrOp := []
  pc : Nat := 0
  lanes : List Nat := []
  stop : Bool := false
  deriving DecidableEq, Repr

/-- A fault to be taken at the warp's next boundary (R320, R321): cause and TRAPVAL. -/
structure Late where
  cause : Nat
  val : Nat
  deriving DecidableEq, Repr

/-- A guard burst in progress (R221): the PCs still to issue, the lanes it may issue, and those issued in it. -/
structure Burst where
  pcs : List Nat
  /-- the runnable lanes at its start -/
  run : List Nat
  done : List Nat
  deriving DecidableEq, Repr

/-- A warp of a placed frame. -/
structure Warp where
  /-- WARP, its index within the frame -/
  idx : Nat
  /-- device-wide core, partition within it, warp slot (R10, R13) -/
  core : Nat
  part : Nat
  slot : Nat
  wc : WCore := {}
  /-- capability registers k0 to k31 -/
  k : SMap Cap := []
  /-- the routine bank s92 to s95 and k31 (R235) -/
  bankS : SMap W64 := []
  bankK : Cap := Cap.null
  /-- outstanding counter operations in issue order (R179), and the pending errors by counter (R181) -/
  ops : List CtrOp := []
  /-- units of accesses that have issued and are not performed yet, and the fences between them, in program order -/
  acc : List MemUnit := []
  errs : SMap (Option (Nat × Nat)) := []
  uivec : W64 := 0
  /-- armed tag mask and armed ring code (R196) -/
  uitags : W64 := 0
  uiring : Option Nat := none
  /-- in an interrupt handler; `STATUS.uim` (R197) -/
  inUi : Bool := false
  uim : Bool := false
  /-- dependency target: capability and offset (R194) -/
  dep : Option (Cap × Nat) := none
  mode : Mode := .user
  trapCause : Nat := 0
  trapPc : W64 := 0
  trapVal : W64 := 0
  trap : TrapCtx := {}
  /-- the clk before which the warp does not issue (R46) -/
  nextIssue : Nat := 0
  /-- ineligible at the partition's next issue opportunity (R47) -/
  yHint : Bool := false
  hold : Option Hold := none
  burst : Option Burst := none
  /-- lanes this warp counted on each tag and not yet performed (R238) -/
  tagCnt : SMap Nat := []
  /-- collective copies this warp has issued, by group (R185) -/
  cpygSeq : SMap Nat := []
  run : Option Run := none
  late : Option Late := none
  /-- the warp takes SAVE_REQ at its next boundary (R237); the warp is stopped in place (R236) -/
  saveReq : Bool := false
  stopped : Bool := false
  /-- the latest faulted TST or TLD: cause and row (R133) -/
  trussFault : Option (Nat × Nat) := none
  /-- every lane had exited and the slot is freed (R224) -/
  gone : Bool := false
  deriving DecidableEq, Repr

/-! ### Launches and frames -/

/-- A launch: what PROGRAM_BUILD took from the record and the image header (R16, R39, R44). Its text, data
area and parameter block are regions of `State.mem`. -/
structure Launch where
  lid : Nat
  prog : Nat
  version : Nat := 0
  ctx : Nat := 0
  encver : Nat := 5
  width : Nat := 16
  vregs : Nat := 8
  sregs : Nat := 8
  /-- the group table: entry g lists the warps of group g; entry 0 is every warp (R15) -/
  groups : List (List Nat) := []
  textEnd : Nat := 0x100
  entry : Nat := 0x100
  restart : Nat := 0
  scratch : Nat := 0
  dataSize : Nat := 0
  /-- capability list: (register, table index); `none` is the data area (R33) -/
  caps : List (Nat × Option Nat) := []
  resident : Bool := false
  guarded : Bool := false
  prot : Bool := false
  routine : Bool := false
  frames : Nat := 1
  threads : Nat := 16
  prio : Nat := 0
  /-- mapping of the restart records (R328) -/
  rstmap : Option Nat := none
  /-- the launch has not been removed or marked DONE -/
  live : Bool := true
  deriving DecidableEq, Repr

/-- The barrier of one group (R226): its generation and the warps that have arrived. -/
structure Barrier where
  gen : Nat := 0
  arrived : List Nat := []
  deriving DecidableEq, Repr

/-- Where a frame stands. -/
inductive FramePhase where
  /-- placed and running -/
  | resident
  /-- its save routine runs -/
  | saving
  /-- pre-empted and out (R242) -/
  | out
  /-- stopped to be relaunched; it leaves when its operations are done (R329) -/
  | relaunching
  /-- being removed, killed or deleted (R243, R255) -/
  | removing
  deriving DecidableEq, Repr

/-- A ring (Table 8.8): its descriptor, the published and released sequences that have not yet moved WR and
RD, the context that bound it and, for a bay ring, the frame. -/
structure Ring where
  base : Nat := 0
  /-- `none`: scratchpad of the binding frame; else the capability copied at binding -/
  cap : Option Cap := none
  /-- the capability register the descriptor names -/
  creg : Nat := 0
  logn : Nat := 0
  size8 : Nat := 1
  rsv : Nat := 0
  wr : Nat := 0
  tk : Nat := 0
  rd : Nat := 0
  pub : List Nat := []
  rel : List Nat := []
  ctx : Nat := 0
  fid : Nat := 0
  deriving DecidableEq, Repr

/-- What the restart record of a frame holds (Table 18.2), with the progress bytes at the last mismatch
relaunch (R331). -/
structure Restart where
  count : Nat := 0
  cause : Nat := 0
  shrep : Nat := 0
  time : Nat := 0
  bay : Nat := 0
  lastProgress : Option Nat := none
  deriving DecidableEq, Repr

/-- A frame. -/
structure Frame where
  fid : Nat
  lid : Nat
  /-- FRAME, its index within the launch -/
  idx : Nat := 0
  bay : Nat := 0
  phase : FramePhase := .resident
  warps : List Warp := []
  barriers : List Barrier := []
  /-- the barrier state frozen at SAVE_REQ; whether BARRS has run since the restore (R237, R239, R241) -/
  frozen : Option (List Barrier) := none
  barrsDone : Bool := false
  /-- the frame store buffer: byte by physical address (R324); how often it was committed or dropped -/
  fsb : SMap (Option Byte) := []
  closes : Nat := 0
  /-- save slice number (R235) -/
  slice : Option Nat := none
  restart : Restart := {}
  /-- bay rings carried through pre-emption (R242) -/
  carried : List (Nat × Ring) := []
  /-- next collective to perform, by group (R185) -/
  collNext : SMap Nat := []
  /-- L1 TLB sets per core: (core, sets) (R14, R288) -/
  tlbSets : List (Nat × Nat) := []
  /-- the cause a pending relaunch records, and whether the frame is out and waits to be placed again (R329) -/
  relaunchCause : Nat := 0
  again : Bool := false
  /-- the page-request group out for its restart record, and whether the last was refused (R319, R329) -/
  wait : Option Nat := none
  deny : Bool := false
  /-- a suspension stopped the frame in place (R236) -/
  stopped : Bool := false
  deriving DecidableEq, Repr

/-- The issue in progress: a warp, the PC of its instruction (after pads) and the issue group (R221). The
model's own field: `step` picks the issue first and executes it next (DESIGN CHOICE, log 8). -/
structure Issue where
  fid : Nat
  widx : Nat
  pc : Nat
  len : Nat
  lanes : List Nat
  /-- the hold out of which the instruction goes on (R225): it does not issue again -/
  after : Option HoldWhy := none
  deriving DecidableEq, Repr

/-! ### Cores and bays -/

/-- An issue partition (R13, R219). -/
structure Part where
  width : Nat := 0
  ptr : Nat := 0
  last : Option Nat := none
  deriving DecidableEq, Repr

/-- A copy tag (R187), with a pending error (R319). -/
structure Tag where
  count : Nat := 0
  issued : Bool := false
  err : Option (Nat × Nat) := none
  deriving DecidableEq, Repr

/-- A bank of an activation table (R99): BASE, SHIFT, the 768 coefficient words, and its owner. -/
structure ActBank where
  loaded : Bool := false
  valid : Bool := true
  owner : Nat := 0
  base : Nat := 0
  shift : Nat := 0
  coef : List W32 := []
  deriving DecidableEq, Repr

/-- An activation table (R99): two banks and which is active. -/
structure ActTable where
  b0 : ActBank := {}
  b1 : ActBank := {}
  active : Bool := false
  deriving DecidableEq, Repr

/-- An accumulator slot (R110, R112). A slot that is not free has an entry in its bay. -/
structure Slot where
  owner : Nat := 0
  released : Bool := false
  words : SMap W32 := []
  mask : SMap Bool := []
  deriving DecidableEq, Repr

/-- A tile locator (Tables 6.2 and 6.3). -/
structure Locator where
  reg : Bool := false
  fmt : Nat := 0
  rot : Nat := 0
  rpitch : Nat := 0
  base : Nat := 0
  vc : Nat := 1
  vr : Nat := 1
  tpitch : Int := 0
  deriving DecidableEq, Repr

/-- What a queued Truss operation does. -/
inductive TrussWork where
  | loop (a b : Locator) (steps done : Nat) (zero : Bool) (prio : Nat)
  | tld (l : Locator) (cap : Option Cap)
  | tzero
  | tmask (off : Option Nat)
  | tst (l : Locator) (cap : Option Cap) (int : Bool) (rnd : Rnd) (sat rs cs msk : Bool) (act : Option ActBank)
      (rsOff csOff start : Nat) (rel : Bool)
  deriving DecidableEq, Repr

/-- A queued Truss operation (R119, R121). -/
structure TrussOp where
  id : Nat
  fid : Nat
  widx : Nat
  ctr : Nat
  slot : Nat
  work : TrussWork
  /-- complete, and how: an error cause, its address and the row -/
  err : Option (Nat × Nat × Nat) := none
  fin : Bool := false
  /-- paused at a row for a page-request party (R132) -/
  paused : Option Nat := none
  row : Nat := 0
  pc : Nat := 0
  /-- its pass has begun and is not over; what a `TST` writes, row by row, and its overflow count -/
  busy : Bool := false
  out : List (List Byte) := []
  count : Nat := 0
  /-- memory as its frame saw it, and its warp's vector registers, when it was issued: the old values of R122 -/
  old : List Host.Cell := []
  oldV : SMap W32 := []
  deriving DecidableEq, Repr

/-- A reservation entry (Table 6.5, R229). -/
structure TrussEntry where
  fid : Nat
  group : Nat
  created : Nat
  loss : Nat := 0
  urgentAt : Option Nat := none
  ops : List TrussOp := []
  deriving DecidableEq, Repr

/-- Power states of a bay (R302, R266). -/
inductive Power where
  | on | gated | waking
  deriving DecidableEq, Repr

/-- A bay: its Truss, activation tables, rings and power. -/
structure Bay where
  slots : List (Nat × Slot) := []
  entries : List TrussEntry := []
  tables : SMap ActTable := []
  rings : List (Nat × Ring) := []
  power : Power := .on
  /-- passes granted, to order urgency (R229) -/
  passes : Nat := 0
  deriving DecidableEq, Repr

/-! ### Engines -/

/-- The engines of a die (Table 1.5). -/
inductive Eng where
  | inflate | transcode | tokenise | mortise | scarf
  deriving DecidableEq, Repr

/-- What a queued engine job does: a descriptor job with its 64 bytes and the capabilities they name, or a
Mortise job (R136). -/
inductive JobWork where
  | desc (op : Nat) (d : List Byte) (inCap outCap tabCap : Cap)
  | mxopen (log : Cap) (b : Nat)
  | mxapp (h : Nat) (c : Nat)
  | mxlook (h : Nat) (dmax : Nat) (dst : Option (Cap × Nat)) (vreg : Nat)
  | mxsave (h : Nat) (img : Cap) (off : Nat)
  | mxload (log : Cap) (img : Cap) (off : Nat)
  | mxdrop (h : Nat)
  deriving DecidableEq, Repr

/-- Where a job stands. -/
inductive JobPhase where
  | queued | running | waitIn | waitOut | waitQuar | paused | finished
  deriving DecidableEq, Repr

/-- What `MXSTAT` reads of a handle: its registers after the jobs that completed (R156). -/
structure MxPub where
  /-- the job it stems from -/
  job : Nat := 0
  open_ : Bool := false
  gen : Nat := 0
  ctx : Nat := 0
  found : Nat := 0
  len : Nat := 0
  fill : Nat := 0
  deriving DecidableEq, Repr

/-- Why a job fails: reason, offset, stage and counts (R138, R144). -/
structure JobErr where
  reason : Nat
  off : Nat := 0
  stage : Nat := 0
  /-- the partial count, and the output bytes of the quarantine record -/
  part : Nat := 0
  bytes : Nat := 0
  deriving DecidableEq, Repr

/-- An engine job (R136 to R143). -/
structure Job where
  jid : Nat
  ctx : Nat
  fid : Nat
  widx : Nat
  pc : Nat := 0
  eng : Eng
  fin : Done
  opId : Nat
  core : Nat := 0
  /-- the register of the result word, and whether it is the routine bank's -/
  dreg : Nat
  bank : Bool := false
  width : Nat := 16
  /-- the lanes of a pair hold one visible lane (R330) -/
  paired : Bool := false
  encver : Nat := 5
  bay : Nat := 0
  work : JobWork
  /-- the clk of its issue, and memory then: the old values of R139 -/
  from_ : Nat := 0
  old : List Host.Cell := []
  phase : JobPhase := .queued
  /-- the start checks of R140 have passed -/
  checked : Bool := false
  /-- the input taken so far, and whether all of it was; the reason and offset that end the input early -/
  input : List Byte := []
  lastIn : Bool := false
  badIn : Option (Nat × Nat) := none
  /-- bytes of tables, images, logs and records read: (which, offset, length), none where the access failed -/
  cache : List ((Nat × Nat × Nat) × Option (List Byte)) := []
  err : Option JobErr := none
  /-- the offset or address whose page a response with STATUS 1 refused (R319) -/
  deny : Option Nat := none
  /-- output bytes already written or published; whether the final slot went out -/
  sent : Nat := 0
  lastOut : Bool := false
  /-- entries of a Mortise image written so far, or positions appended -/
  at_ : Nat := 0
  result : W64 := 0
  writes : List RegWrite := []
  /-- a handle's index and registers as the job leaves them, published when it completes (R156) -/
  pub : Option (Nat × MxPub) := none
  deriving DecidableEq, Repr

/-- A Mortise entry (Table 7.12). -/
structure MxEntry where
  h : W64
  rung : Nat
  p : Nat
  deriving DecidableEq, Repr

/-- A Mortise handle (R152); entries are keyed by 4 × bucket + way. -/
structure MxHandle where
  open_ : Bool := false
  gen : Nat := 0
  ctx : Nat := 0
  log : Cap := Cap.null
  bits : Nat := 4
  n : Nat := 0
  ml : Nat := 0
  mp : Nat := 0
  mrung : Nat := 0
  t : Nat := 0
  entries : SMap (Option MxEntry) := []
  deriving DecidableEq, Repr

/-- A ready list (R195): its binding, the at most 1024 oldest items, which are in hardware, and its spill area: where it
lies in device memory, how many items it can hold, the place of its oldest item and how many it holds. -/
structure ReadyList where
  bound : Bool := false
  ctx : Nat := 0
  mapping : Nat := 0
  area : Nat := 0
  spill : Nat := 0
  items : List W64 := []
  first : Nat := 0
  spilled : Nat := 0
  deriving DecidableEq, Repr

/-- A compute die. -/
structure Die where
  rings : List (Nat × Ring) := []
  jobs : List Job := []
  accepted : Nat := 0
  handles : SMap MxHandle := []
  pubs : SMap MxPub := []
  lists : SMap ReadyList := []
  deriving DecidableEq, Repr

/-! ### Work in flight outside the Truss and the engines -/

/-- One lane of a copy (R183). -/
structure CopyLane where
  lane : Nat
  src : MemRef
  n : Nat
  dst : MemRef
  fin : Bool := false
  err : Option (Nat × Nat) := none
  paused : Option Nat := none
  deriving DecidableEq, Repr

/-- A copy in flight (R182 to R186). -/
structure CopyOp where
  id : Nat
  fid : Nat
  widx : Nat
  core : Nat
  pc : Nat := 0
  fin : Done
  /-- `CPYG`: group and collective number -/
  coll : Option (Nat × Nat) := none
  started : Bool := true
  window : Bool := false
  /-- the error that ends every member's operation of a collective (R319) -/
  err : Option (Nat × Nat) := none
  /-- the decrement still to be made once every lane is performed (R194), and the error it ended with -/
  dep : Option (Cap × Nat) := none
  derr : Option (Nat × Nat) := none
  /-- the lane whose tag decrement waits for the decrement -/
  last : Option Nat := none
  /-- what a commit (true) or an abort since its issue makes of the bytes that would enter the frame store buffer (R327) -/
  fate : Option Bool := none
  lanes : List CopyLane := []
  deriving DecidableEq, Repr

/-- An `FTLOAD` in flight (R101). -/
structure FtOp where
  id : Nat
  fid : Nat
  widx : Nat
  ctr : Nat
  bay : Nat
  table : Nat
  lid : Nat
  cap : Cap
  off : Nat
  paused : Option Nat := none
  pc : Nat := 0
  deriving DecidableEq, Repr

/-- A decrement of a dependency record in flight (R193, R194): of `DEPDEC`, of a `.dep` store or of a copy; the operation
or copy it belongs to, the record and the amount. -/
structure DepOp where
  id : Nat
  fid : Nat
  widx : Nat
  pc : Nat := 0
  cap : Cap
  off : Nat
  amount : W64
  paused : Option Nat := none
  deriving DecidableEq, Repr

/-- Who waits for a page-request group (R316, R319, R344). -/
inductive Party where
  | warp (w : WarpId)
  | copy (id lane : Nat)
  | truss (id : Nat)
  | ft (id : Nat)
  | dep (id : Nat)
  | job (opId : Nat)
  | build (prog : Nat)
  /-- the restart record of a frame that is relaunched -/
  | relaunch (fid : Nat)
  /-- a queue's close and resize (`out`), or the bringing in of its messages -/
  | queue (q : Nat) (out : Bool)
  deriving DecidableEq, Repr

/-- Where a page-request group stands. -/
inductive PagePhase where
  /-- to be written to the request ring -/
  | toSend
  /-- written; waits for its response -/
  | sent
  /-- answered with STATUS 2; resumes at this clk -/
  | retry (at_ : Nat)
  deriving DecidableEq, Repr

/-- A page-request group (R316, R317): number of the party's wait, party, port, group id, context, records
(page, WRITE, STAGE2, JOB, lane, PC). -/
structure PageGroup where
  num : Nat
  party : Party
  port : Nat := 0
  group : Nat := 0
  ctx : Nat := 0
  recs : List (Nat × Bool × Bool × Bool × Nat × Nat) := []
  phase : PagePhase := .toSend
  /-- where the faulting instruction raises PAGE_ABSENT on STATUS 1: TRAPVAL, and the lane -/
  val : Nat := 0
  lane : Nat := 0
  deriving DecidableEq, Repr

/-- One slot of a share circle (R177, R178): how often it was joined, and its member frame. -/
structure CircSlot where
  joins : Nat := 0
  member : Option Nat := none
  deriving DecidableEq, Repr

/-- A share circle of a context. -/
structure Circle where
  ctx : Nat
  num : Nat
  slots : List CircSlot := []
  deriving DecidableEq, Repr

/-- A cached translation (R288): in the L1 TLB of a core, the L2 TLB of a bay or the walk cache of a die. -/
inductive TlbAt where
  | l1 (core : Nat)
  | l2 (bay : Nat)
  | walk (die : Nat)
  deriving DecidableEq, Repr

structure TlbEnt where
  at_ : TlbAt
  fid : Nat := 0
  asid : Nat
  vmid : Nat
  /-- 4 KiB page number, physical page, permissions and dirty -/
  vpn : Nat
  ppn : Nat
  /-- whether it went through two stages, and the guest-physical page behind it -/
  two : Bool := false
  gpn : Nat := 0
  /-- for a walk-cache entry: the level of the table it names; `vpn` is then the address above that level and
  `ppn` the table -/
  level : Nat := 0
  r : Bool
  w : Bool
  d : Bool
  deriving DecidableEq, Repr

/-! ### The control side -/

/-- A queue interface's registers (R293). -/
structure QifRegs where
  cfg : W64 := 0
  msib : W64 := 0
  msit : W64 := 0
  deriving DecidableEq, Repr

/-- A shootdown request in hand (R291): CONS and ACK to be written for it, the PROD to go on to, and the frames whose store
buffers held stores when it was taken, with the times each was closed before. -/
structure ShootWait where
  cons : Nat
  ack : Nat
  prod : Nat
  olds : List (Nat × Nat) := []
  deriving DecidableEq, Repr

/-- The registers of one host port (R290, R293, R316). -/
structure Port where
  sdbase : W64 := 0
  sdn : W64 := 0
  prbase : W64 := 0
  prn : W64 := 0
  prsbase : W64 := 0
  prsn : W64 := 0
  qif : SMap QifRegs := []
  /-- page-request groups sent (R316) -/
  groups : Nat := 0
  /-- the shootdown request in hand -/
  shoot : Option ShootWait := none
  deriving DecidableEq, Repr

/-- As-built states (Table 12.11). -/
inductive AbState where
  | absent | building | built | draining | waiting | unsettled | faulted | done
  deriving DecidableEq, Repr

/-- An as-built entry (Table 12.10) with what the Scribe remembers of its record. -/
structure AbEntry where
  version : Nat := 0
  st : AbState := .absent
  live : Bool := false
  suspended : Bool := false
  swapped : Bool := false
  wake : Bool := false
  fault : Nat := 0
  detail : Nat := 0
  /-- the version last examined; the version being built or whose deletion is under way -/
  seen : Nat := 0
  target : Nat := 0
  /-- a replace follows the drain -/
  replace : Bool := false
  /-- the context and the mappings that the last body read names (R255) -/
  ofCtx : Option Nat := none
  names : List Nat := []
  /-- for a PROGRAM, whether that body has ATTR routine (R235) -/
  rtn : Option Bool := none
  /-- a revocation whose earlier accesses are still to be performed: table key and generation (R279) -/
  revoke : Option (Nat × Nat) := none
  /-- the frames whose store buffers held stores then, with the times each was closed before -/
  olds : List (Nat × Nat) := []
  /-- what follows it is a deletion -/
  deleting : Bool := false
  deriving DecidableEq, Repr

/-- A CONTEXT object (Table 12.6). `none` is 0xFFFF or 0xFFFF_FFFF. -/
structure CtxObj where
  root : W64 := 0
  hgatp : W64 := 0
  save : Option Nat := none
  restore : Option Nat := none
  trap : Option Nat := none
  savemap : Option Nat := none
  retmap : Option Nat := none
  quarmap : Option Nat := none
  scrmap : Option Nat := none
  prioceil : Nat := 0
  run : Nat := 0
  saveslice : Nat := 0
  deriving DecidableEq, Repr

/-- A MAPPING object (Table 12.6). -/
structure MapObj where
  ctx : Nat := 0
  tabidx : Nat := 0
  base : Nat := 0
  len : Nat := 0
  perm : BitVec 5 := 0
  cls : Cls := .strict
  fmt : Nat := 0
  view : Nat := 0
  geom : Nat := 0
  target : Nat := 0
  node : Nat := 0
  tprog : Nat := 0
  tframe : Nat := 0
  deriving DecidableEq, Repr

/-- A tail write that was accepted (R294): virtual address and packets still to place. -/
structure Announce where
  port : Nat
  qif : Nat
  qnum : Nat
  va : Nat
  left : Nat
  /-- whether the write came over IDE (R298) -/
  ide : Bool := true
  deriving DecidableEq, Repr

/-- A QUEUE object (Table 12.6, R261). -/
structure QueueObj where
  ctx : Nat := 0
  ringmap : Nat := 0
  count : Nat := 1
  consumer : Nat := 0
  port : Nat := 0
  qif : Nat := 0
  qnum : Nat := 0
  flags : Nat := 0
  tail : Nat := 0
  epoch : Nat := 0
  closed : Bool := false
  /-- the COUNT of a pending resize (R263) -/
  newCount : Option Nat := none
  headBad : Bool := false
  anns : List Announce := []
  /-- tail writes latched for a gated bay (R266) -/
  latch : List Announce := []
  /-- the control block is written -/
  made : Bool := false
  /-- the reason of a close under way (R264); the message claimed for the return ring; messages discarded -/
  reason : Nat := 0
  claimed : Option (Nat × List Byte) := none
  discarded : Nat := 0
  /-- the page-request groups out for messages brought in and for the rest, and whether the last was refused (R344) -/
  inWait : Option Nat := none
  inDeny : Option Nat := none
  outWait : Option Nat := none
  outDeny : Option Nat := none
  deriving DecidableEq, Repr

/-- A PROGRAM object (Table 12.6): its record and the launch built from it. -/
structure ProgObj where
  digest : BitVec 512 := 0
  ctx : Nat := 0
  imgmap : Nat := 0
  imgoff : Nat := 0
  frames : Nat := 1
  threads : Nat := 1
  width : Nat := 16
  prio : Nat := 0
  attr : Nat := 0
  rstmap : Nat := 0
  /-- the launch, once built; whether the build is still to be done (R40) -/
  lid : Option Nat := none
  pending : Bool := false
  /-- the page-request group out for a read of the image, and whether the last was refused (R40) -/
  wait : Option Nat := none
  deny : Bool := false
  /-- restart records written so far (R328); the indices of the frames placed so far -/
  recs : Nat := 0
  placed : List Nat := []
  /-- a version whose FRAMES or PRIO is being applied in place -/
  target : Nat := 0
  deriving DecidableEq, Repr

/-- Where a snapshot operation stands (R336 to R338). -/
inductive SnapPhase where
  /-- its contexts are being suspended -/
  | suspending
  /-- chunks are staged in the spare region and drained to the drive -/
  | moving
  /-- a restore: the set is to be checked; its chunks are written back -/
  | checking
  | restoring
  /-- a firmware update -/
  | updating
  | done
  | failed
  deriving DecidableEq, Repr

/-- One chunk of a snapshot (R336): the position of its context among the used CTX entries, its mapping, its number and
length there, the slot of the spare region that holds it, and what the drain has found: digest and chunk number. -/
structure SnapChunk where
  pos : Nat
  map : Nat
  num : Nat
  len : Nat
  slot : Option Nat := none
  digest : Option (BitVec 512) := none
  chunk : Option Nat := none
  deriving DecidableEq, Repr

/-- A SNAPSHOT object (Table 12.6) and its progress. -/
structure SnapObj where
  ctxs : List Nat := []
  step_ : Nat := 0
  tgtmap : Nat := 0
  op : Nat := 0
  domain : Nat := 0
  phase : SnapPhase := .suspending
  /-- the contexts it holds suspended -/
  held : List Nat := []
  chunks : List SnapChunk := []
  /-- shards written so far, or chunks restored -/
  next_ : Nat := 0
  /-- the index entry this drain has claimed, with the word it claimed it by; the entry claimed by another that it waits
  on (R336) -/
  mine : Option (Nat × Nat) := none
  waits : Option Nat := none
  /-- the submission entry given to the drive and not completed yet, and the commands submitted so far (R334) -/
  sub : Option (List Byte) := none
  cmds : Nat := 0
  deriving DecidableEq, Repr

/-- A plan header that passed the checks of R246 (Table 12.3): where the plumb mark, the rings and, by kind from 1, the record
arrays lie in the physical map, and their lengths. -/
structure PlanHdr where
  plumb : Nat := 0
  conflicts : Nat × Nat := (0, 0)
  errors : Nat × Nat := (0, 0)
  arrays : List (Nat × Nat) := []
  deriving DecidableEq, Repr

/-- The Scribe's own state (Table 12.13, R252, R259). -/
structure Scribe where
  passes : Nat := 0
  lastG : Nat := 0
  plumbed : Nat := 0
  hdrbad : Bool := false
  /-- the header that the last good pass read -/
  hdr : PlanHdr := {}
  /-- the CONS last taken of each report ring, by its address (R267) -/
  cons : SMap Nat := []
  refused : SMap Nat := []
  /-- as-built entries, keyed by kind × 2^20 + id -/
  entries : SMap AbEntry := []
  ctxs : SMap (Option CtxObj) := []
  maps : SMap (Option MapObj) := []
  queues : SMap (Option QueueObj) := []
  progs : SMap (Option ProgObj) := []
  snaps : SMap (Option SnapObj) := []
  /-- contexts that a failed restore left half written (R337) -/
  torn : List Nat := []
  /-- capability tables, keyed by context × 2^16 + TABIDX: generation, installed mapping (R279) -/
  tab : SMap (Nat × Option Nat) := []
  deriving DecidableEq, Repr

/-- TDI states (R297). -/
inductive TdiSt where
  | unlocked | locked | run | error
  deriving DecidableEq, Repr

structure Tdi where
  st : TdiSt := .unlocked
  nonce : Nat := 0
  deriving DecidableEq, Repr

/-- A live SPDM session (R297, R298): the clk of the last secured message. -/
structure Spdm where
  last : Nat
  deriving DecidableEq, Repr

/-- What the device last answered to the outside (an event's reply). The model's own field. -/
inductive Reply where
  | none
  | data (bs : List Byte)
  | error
  | nonce (n : Nat)
  | measurement (m : List (BitVec 512))
  | refused
  deriving DecidableEq, Repr

/-- The machine. -/
structure State where
  /-- clk since device reset: CLOCK (R89) -/
  now : Nat := 0
  /-- the issue in progress. The model's own field (DESIGN CHOICE, log 8). -/
  cur : Option Issue := none
  /-- events still to happen, the next first: the inputs of the outside world. The model's own (DESIGN CHOICE, log 4). -/
  agenda : List Instr := []
  /-- counts the uses of free values and the ids given out. The model's own (DESIGN CHOICE, log 8). -/
  fresh : Nat := 0
  /-- every byte of memory, by physical address (see `Machine/Memory.lean` for the regions) -/
  mem : List Host.Cell := []
  /-- by address ÷ 64, what a fault has left between the check a line carries and that of its bytes (R332): 0 where it holds -/
  bad : SMap (BitVec 16) := []
  /-- base of device memory in host physical space (DESIGN CHOICE, log 5) -/
  hdmBase : Nat := 0x4000_0000_0000
  frames : List Frame := []
  launches : List Launch := []
  /-- issue partitions, keyed by core × 8 + partition -/
  parts : SMap Part := []
  /-- copy tags, keyed by core × 64 + tag -/
  tags : SMap Tag := []
  bays : SMap Bay := []
  dies : SMap Die := []
  copies : List CopyOp := []
  ftops : List FtOp := []
  deps : List DepOp := []
  pages : List PageGroup := []
  circles : List Circle := []
  tlb : List TlbEnt := []
  /-- PLANBASE and the plan-touch latch (R245) -/
  planbase : W64 := 0
  touched : Bool := false
  /-- the two host ports -/
  ports : SMap Port := []
  scribe : Scribe := {}
  /-- BOOTSTAT (R301) and the measurement registers (R300), keyed by number -/
  bootstat : W64 := 0
  meas : SMap (BitVec 512) := []
  /-- conventional resets so far -/
  boots : Nat := 0
  tdis : SMap Tdi := []
  spdm : Option Spdm := none
  /-- the active Felzen's I/O die (R21, R339) -/
  felzen : Nat := 0
  /-- Purlin links that are down, by number (R333) -/
  linksDown : SMap Bool := []
  /-- writes to peers that were reported after 1 ms, and may still be performed (R320) -/
  strays : List UnitWork := []
  reply : Reply := .none
  /-- the capability seals made since the boot: number, context and capability (R240). The model's own (DESIGN CHOICE, log 10). -/
  seals : List (Nat × Nat × Cap) := []
  deriving DecidableEq, Repr

/-- The outcome of a step of this machine. -/
abbrev Res := Host.Outcome State Fault Refusal

/-- The machine at conventional reset, before the boot chain has run: nothing is placed, the plan is not
attached (R245), every as-built entry is ABSENT at version 0 (R256), every tag is clear (R187), every slot is
free (R112), the measurement registers are zero (R300) and no stage is verified (R301). The values the spec
does not give are named in log entries 1, 2, 3, 5 and 6. -/
def State.reset : State := {}

end Sys2Proof.Machine
end

