-- ==== Sys2Proof/Machine/Memory.lean ====
section
/-! DEFINITION. Memory: one map from physical addresses to bytes that covers every space of the spec (Table
1.4, R33, R44), what an unlisted address reads as, and the byte, word and range operations over it. Byte order
is decided here once: little-endian (R7). -/

namespace Sys2Proof.Machine

/-! ### Regions of the physical map -/

/-- The spaces of the map. Device memory lies inside host physical space at `State.hdmBase` (CXL.mem). -/
inductive Region where
  | host
  | peer (node : Nat)
  | scratch (fid : Nat)
  | text (lid : Nat)
  | data (lid : Nat)
  | param (lid : Nat)
  /-- a namespace of the NVMe drives, by byte (R334 to R336) -/
  | drive (nsid : Nat)
  deriving DecidableEq, Repr

/-- The number of a region; address `a` of the region is `2^64 × number + a`. -/
def Region.num : Region → Nat
  | .host => 0
  | .peer n => 7 * n + 1
  | .scratch f => 7 * f + 2
  | .text l => 7 * l + 3
  | .data l => 7 * l + 4
  | .param l => 7 * l + 5
  | .drive n => 7 * n + 6

/-- A physical address of the map. -/
def Region.at (r : Region) (a : Nat) : Nat := 2 ^ 64 * r.num + a

/-- The physical address of a device-memory offset. -/
def State.dev (s : State) (off : Nat) : Nat := s.hdmBase + off

/-- A physical address in device memory. -/
def State.isDevice (s : State) (a : Nat) : Bool := s.hdmBase ≤ a && a < s.hdmBase + Config.devBytes

/-- A physical address in host memory or in a peer's (R166). -/
def State.isFar (s : State) (a : Nat) : Bool :=
  let r := a / 2 ^ 64
  (r == 0 && !s.isDevice a) || r % 7 == 1

/-- The GDDR device that holds a device-memory offset, and the compute die of its home L2 slice (R18). -/
def gddrDevice (off : Nat) : Nat := off / 4096 % 48
def homeSlice (off : Nat) : Nat := gddrDevice off % 8

/-- What an unlisted address reads as: 0 (R256 for the as-built table, R292 for scratchpads, R44 and R33 for
text and data that an image does not fill; elsewhere log 3), and in a launch parameter block the free bytes of
log 9. -/
def unlisted (a : Nat) : Byte :=
  let r := a / 2 ^ 64
  if r % 7 = 5 then Config.paramByte (r / 7) (a % 2 ^ 64) else 0

/-- An address of a launch parameter block (read only, R278). -/
def isParam (a : Nat) : Bool := (a / 2 ^ 64) % 7 == 5

/-- An address outside the launches and frames: host physical space, a peer node or a drive. -/
def isOutside (a : Nat) : Bool :=
  let r := a / 2 ^ 64
  r == 0 || r % 7 == 1 || r % 7 == 6

/-- One byte read. -/
def readByte (m : List Host.Cell) (a : Nat) : Byte :=
  if isParam a then unlisted a else sget 0 m a

/-- One byte written; a parameter block is never written. -/
def writeByte (m : List Host.Cell) (a : Nat) (b : Byte) : List Host.Cell :=
  if isParam a then m else sset 0 a b m

/-- The memory's form: addresses rising, no entry equal to what an unlisted address reads as. -/
def Memory.wf (m : List Host.Cell) : Bool := swf (0 : Byte) m

/-- `n` bytes from an address up. -/
def readBytes (m : List Host.Cell) (a : Nat) : Nat → List Byte
  | 0 => []
  | n + 1 => readByte m a :: readBytes m (a + 1) n

/-- Bytes written from an address up. -/
def writeBytes (m : List Host.Cell) (a : Nat) : List Byte → List Host.Cell
  | [] => m
  | b :: r => writeBytes (writeByte m a b) (a + 1) r

/-- `n` bytes as a little-endian number (R7). -/
def readNat (m : List Host.Cell) (a n : Nat) : Nat := ofLe (readBytes m a n)

/-- A number as `n` little-endian bytes (R7). -/
def writeNat (m : List Host.Cell) (a n v : Nat) : List Host.Cell := writeBytes m a (leBytes n v)

/-- Scattered byte writes in order. -/
def writeCells (m : List Host.Cell) : List Host.Cell → List Host.Cell
  | [] => m
  | (a, b) :: r => writeCells (writeByte m a b) r

/-- Memory cleared over a range: what an unlisted address reads as. -/
def clearRange (m : List Host.Cell) (a n : Nat) : List Host.Cell :=
  m.filter fun (k, _) => k < a || a + n ≤ k

/-- Every listed byte of a region moved away: the region reads as unlisted. -/
def clearRegion (m : List Host.Cell) (r : Region) : List Host.Cell := clearRange m (r.at 0) (2 ^ 64)

/-- The listed bytes of one range, as (offset, byte). -/
def listedIn (m : List Host.Cell) (a n : Nat) : List Host.Cell :=
  (m.filter fun (k, _) => a ≤ k && k < a + n).map fun (k, b) => (k - a, b)

/-! ### State-level shorthands -/

def State.setMem (s : State) (m : List Host.Cell) : State := { s with mem := m }

/-- A number read from the state's memory. -/
def State.rd (s : State) (a n : Nat) : Nat := readNat s.mem a n

/-- A number written to the state's memory. -/
def State.wr (s : State) (a n v : Nat) : State := s.setMem (writeNat s.mem a n v)

/-- One bit into a CRC-16 with polynomial 0x8BB7, most significant bit first. -/
def lineCrcBit (c : BitVec 16) : BitVec 16 := if c.getLsbD 15 then (c <<< 1) ^^^ 0x8BB7#16 else c <<< 1

/-- A bit step applied `n` times. -/
def lineCrcBits : Nat → BitVec 16 → BitVec 16
  | 0, c => c
  | n + 1, c => lineCrcBits n (lineCrcBit c)

/-- The line check of 64 bytes: initial value 0, no reflection (R332). -/
def lineCrc (bs : List Byte) : BitVec 16 :=
  bs.foldl (fun c b => lineCrcBits 8 (c ^^^ (b ++ 0#8))) 0

/-- The line check that a line carries: that of its bytes but for what `State.bad` says a fault has left in it. -/
def State.lineCheck (s : State) (a : Nat) : BitVec 16 :=
  lineCrc (readBytes s.mem (a / 64 * 64) 64) ^^^ sget 0 s.bad (a / 64)

/-- A line's end-to-end check fails: the check it carries is not that of its bytes (R332). -/
def State.lineBad (s : State) (a : Nat) : Bool := sget 0 s.bad (a / 64) != 0

/-- Bytes at an address are changed by a fault, not by an access: the line keeps the check it carries (R332). -/
def State.corrupt (s : State) (a : Nat) (flip : Byte) : State :=
  let l := a / 64
  let m := writeByte s.mem a (readByte s.mem a ^^^ flip)
  let d := lineCrc (readBytes s.mem (64 * l) 64) ^^^ lineCrc (readBytes m (64 * l) 64)
  { s with mem := m, bad := sset 0 l (sget 0 s.bad l ^^^ d) s.bad }

/-- A line whose check cannot be made good: an uncorrectable error (R321, R332). -/
def State.spoil (s : State) (l : Nat) : State :=
  { s with bad := sset 0 l (if sget 0 s.bad l = 0 then 1 else sget 0 s.bad l) s.bad }

/-- Lines wholly written get a new check (R332). -/
def State.heal (s : State) (as : List Nat) : State :=
  if s.bad = [] then s
  else { s with bad := s.bad.filter fun (l, _) => !(List.range 64).all fun i => as.contains (64 * l + i) }

/-- A range touches a line whose check fails. -/
def State.rangeBad (s : State) (a : Nat) : Nat → Bool
  | 0 => false
  | n + 1 => s.lineBad (a + n) || s.rangeBad a n

end Sys2Proof.Machine
end

