-- ==== Sys2Proof/Machine/AsBuilt.lean ====
section
/-! DEFINITION. The as-built table (R256), the status block (R258), and the report rings reached by plan
address (R245, R267): what every part of the machine that reports writes through. -/

namespace Sys2Proof.Machine

/-- Device time in ns (R256). -/
def State.timeNs (s : State) : Nat := s.now * 5 / 9

/-- The key of an entry in `Scribe.entries`. -/
def abKey (kind id : Nat) : Nat := kind * 2 ^ 20 + id

/-- OFF(k) of R256, by kind code. -/
def abOff (kind : Nat) : Nat :=
  if kind = 1 then 0 else if kind = 2 then 0x8000 else if kind = 3 then 0x208000
  else if kind = 4 then 0x408000 else 0x428000

/-- Table 12.11. -/
def AbState.code : AbState → Nat
  | .absent => 0 | .building => 1 | .built => 2 | .draining => 3 | .waiting => 4 | .unsettled => 5
  | .faulted => 6 | .done => 7

/-- An entry's E0 (Table 12.10). -/
def AbEntry.e0 (kind : Nat) (e : AbEntry) : Nat :=
  e.version % 2 ^ 40 + 2 ^ 40 * e.st.code +
  2 ^ 48 * (natOf e.live + 2 * natOf e.suspended + 4 * natOf e.swapped + 8 * natOf e.wake) + 2 ^ 56 * kind

/-- An entry of the Scribe. -/
def State.entry (s : State) (kind id : Nat) : AbEntry := sget {} s.scribe.entries (abKey kind id)

/-- An entry changed, and written to the as-built table (R256): bytes 8 to 31, then E0. -/
def State.setEntry (s : State) (kind id : Nat) (e : AbEntry) : State :=
  let a := s.dev (Config.abBase + abOff kind + 32 * id)
  let s := { s with scribe := { s.scribe with entries := sset {} (abKey kind id) e s.scribe.entries } }
  let s := s.wr (a + 8) 4 (if e.st = .faulted then e.fault else 0)
  let s := s.wr (a + 12) 4 e.detail
  let s := s.wr (a + 16) 8 s.timeNs
  let s := s.wr (a + 24) 8 s.scribe.lastG
  s.wr a 8 (e.e0 kind)

/-- The entry's object is built: BUILT, or FAULTED or UNSETTLED while the object of an earlier version runs unchanged (Table
12.14). -/
def AbEntry.stands (e : AbEntry) : Bool := e.st == .built || (e.live && (e.st == .faulted || e.st == .unsettled))

/-- An entry that faults at run time (R257, R308): only one that is BUILT or BUILDING moves, with LIVE = 1. -/
def State.faultEntry (s : State) (kind id cause : Nat) : State :=
  let e := s.entry kind id
  if e.st = .built || e.st = .building then s.setEntry kind id { e with st := .faulted, fault := cause, live := true } else s

/-- DETAIL of a PROGRAM's entry is the frames placed, but for the states that have a use of their own for it (Table 12.10). -/
def AbEntry.countsFrames (e : AbEntry) : Bool :=
  e.st != .waiting && e.st != .absent && !(e.st == .faulted && e.fault == 0x104)

/-- BOOTSTAT[4]: the boot chain failed (R299): the device exposes its DVSEC only. -/
def State.bootFailed (s : State) : Bool := s.bootstat.getLsbD 4

/-- A plan address (R245): bit 63 chooses device memory. -/
def State.planAddr (s : State) (a : Nat) : Nat :=
  if bitOf a 63 then s.dev (a % 2 ^ 63) else a % 2 ^ 63

/-- Where the plan header lies, once attached (Table 12.2). -/
def State.planHeader (s : State) : Option Nat :=
  let p := s.planbase.toNat
  if bitOf p 0 then some (s.planAddr (p - p % 4096)) else none

/-- The CONS of a report ring (R267): what its consumer wrote when that lies between the value taken last and PROD, else PROD. -/
def State.ringCons (s : State) (base prod cons : Nat) : Nat :=
  let last := sget 0 s.scribe.cons base
  if (cons + 2 ^ 64 - last) % 2 ^ 64 ≤ (prod + 2 ^ 64 - last) % 2 ^ 64 then cons else prod

/-- The CONS taken of a report ring remembered. -/
def State.noteCons (s : State) (base cons : Nat) : State :=
  { s with scribe := { s.scribe with cons := sset 0 base cons s.scribe.cons } }

/-- A report ring written (R267): `none` when it is full. -/
def appendReport (s : State) (base size n : Nat) (rec : List Byte) : Option State :=
  if n = 0 then none
  else
    let prod := s.rd base 8
    let cons := s.ringCons base prod (s.rd (base + 8) 8)
    let used := (prod + 2 ^ 64 - cons) % 2 ^ 64
    let s := s.noteCons base cons
    if used = n then none
    else
      let s := s.setMem (writeBytes s.mem (base + 64 + size * (prod % n)) rec)
      some (s.wr base 8 ((prod + 1) % 2 ^ 64))

/-- A record of the conflict or error ring; on a full ring it is dropped and counted (R267). -/
def appendOrDrop (s : State) (base n : Nat) (rec : List Byte) : State :=
  match appendReport s base 64 n rec with
  | some s => s
  | none => s.wr (base + 16) 8 ((s.rd (base + 16) 8 + 1) % 2 ^ 64)

/-- A 64-byte record from (offset, width, value) fields over zeros. -/
def recordOf (size : Nat) (fields : List (Nat × Nat × Nat)) : List Byte :=
  fields.foldl (fun bs (o, w, v) => bs.take o ++ leBytes w v ++ bs.drop (o + w)) (List.replicate size 0)

/-- An error record (Table 12.18): CODE, bytes 4 to 7, bytes 8 to 15, TIME, bytes 24 to 31. The ring lies where the plan
header placed it that the last good pass read: a record raised between passes, or after a bad header, goes there too, and
before the first good pass there is no ring (DEDUCED, log 48). -/
def State.errorRecord (s : State) (code b4 b8 b24 : Nat) : State :=
  let (base, n) := s.scribe.hdr.errors
  if n = 0 then s
  else appendOrDrop s base n (recordOf 64 [(0, 2, code), (4, 4, b4), (8, 8, b8), (16, 8, s.timeNs), (24, 8, b24)])

/-- REFUSED of an interface (Table 12.13), rewritten in the status block. -/
def State.addRefused (s : State) (port qif : Nat) : State :=
  let i := 8 * port + qif
  let v := sget 0 s.scribe.refused i + 1
  let s := { s with scribe := { s.scribe with refused := sset 0 i v s.scribe.refused } }
  s.wr (s.dev (Config.abBase + 0x428800 + 64 + 8 * i)) 8 v

end Sys2Proof.Machine
end

