-- ==== Sys2Proof/Machine/Parts.lean ====
section
/-! DEFINITION. The parts of the machine by name: trap causes, finding the issuing warp, reading and writing registers,
fixed-latency writes and their landing, lanes and guards. -/

namespace Sys2Proof.Machine

/-! ### Causes (Table 17.1) -/

/-- Trap and fault causes. -/
inductive Cause where
  | illegalOp | illegalField | illegalPad | regRange | misalign | scratchBounds | capBounds | capPerm
  | capRevoked | perm | pageAbsent | remoteFault | poison | guardFull | shadowMismatch | saveReq | actTable
  | slotsExhausted | slotBad | locatorBad | countRange | ringBad | depUnset | badImage | breakpoint | user
  | depBad
  | badEncver | badHeader | badRecord | conflict | duplicate | digest | badRoutine | routineTrap
  | shadowRepeat | tdiLost | restoreMixed | fwReject
  deriving DecidableEq, Repr

/-- The 16-bit codes of Table 17.1. -/
def Cause.code : Cause → Nat
  | .illegalOp => 1 | .illegalField => 2 | .illegalPad => 3 | .regRange => 4 | .misalign => 5
  | .scratchBounds => 6 | .capBounds => 7 | .capPerm => 8 | .capRevoked => 9 | .perm => 0xA
  | .pageAbsent => 0xB | .remoteFault => 0xC | .poison => 0xD | .guardFull => 0xE | .shadowMismatch => 0xF
  | .saveReq => 0x10 | .actTable => 0x11 | .slotsExhausted => 0x12 | .slotBad => 0x13 | .locatorBad => 0x14
  | .countRange => 0x15 | .ringBad => 0x16 | .depUnset => 0x17 | .badImage => 0x18 | .breakpoint => 0x19
  | .user => 0x1A | .depBad => 0x1B | .badEncver => 0x101 | .badHeader => 0x102 | .badRecord => 0x103
  | .conflict => 0x104 | .duplicate => 0x105 | .digest => 0x106 | .badRoutine => 0x107
  | .routineTrap => 0x108 | .shadowRepeat => 0x109 | .tdiLost => 0x10A | .restoreMixed => 0x10B
  | .fwReject => 0x10C

/-- Every cause, for reading a code back. -/
def Cause.all : List Cause :=
  [.illegalOp, .illegalField, .illegalPad, .regRange, .misalign, .scratchBounds, .capBounds, .capPerm,
   .capRevoked, .perm, .pageAbsent, .remoteFault, .poison, .guardFull, .shadowMismatch, .saveReq, .actTable,
   .slotsExhausted, .slotBad, .locatorBad, .countRange, .ringBad, .depUnset, .badImage, .breakpoint, .user,
   .depBad, .badEncver, .badHeader, .badRecord, .conflict, .duplicate, .digest, .badRoutine, .routineTrap,
   .shadowRepeat, .tdiLost, .restoreMixed, .fwReject]

/-- The cause of a code of Table 17.1. -/
def Cause.ofCode (n : Nat) : Cause := (Cause.all.find? fun c => c.code == n).getD .illegalOp

/-! ### Finding and replacing parts of the state -/

def State.frame? (s : State) (fid : Nat) : Option Frame := s.frames.find? (fun f => f.fid == fid)

def State.setFrame (s : State) (f : Frame) : State :=
  { s with frames := modifyFirst (fun g => g.fid == f.fid) (fun _ => f) s.frames }

def Frame.warp? (f : Frame) (idx : Nat) : Option Warp := f.warps.find? (fun w => w.idx == idx)

def Frame.setWarp (f : Frame) (w : Warp) : Frame :=
  { f with warps := modifyFirst (fun v => v.idx == w.idx) (fun _ => w) f.warps }

def State.warp? (s : State) (i : WarpId) : Option Warp := (s.frame? i.fid).bind fun f => f.warp? i.idx

/-- The warp of a frame replaced. -/
def State.setWarp (s : State) (fid : Nat) (w : Warp) : State :=
  { s with frames := modifyFirst (fun g => g.fid == fid) (fun f => f.setWarp w) s.frames }

/-- The warp of a frame changed. -/
def State.modWarp (s : State) (i : WarpId) (g : Warp → Warp) : State :=
  let inFrame (f : Frame) : Frame := { f with warps := modifyFirst (fun w => w.idx == i.idx) g f.warps }
  { s with frames := modifyFirst (fun f => f.fid == i.fid) inFrame s.frames }

def State.launch? (s : State) (lid : Nat) : Option Launch := s.launches.find? (fun l => l.lid == lid)

def State.bay (s : State) (b : Nat) : Bay := sget {} s.bays b
def State.setBay (s : State) (b : Nat) (x : Bay) : State := { s with bays := sset {} b x s.bays }
def State.die (s : State) (d : Nat) : Die := sget {} s.dies d
def State.setDie (s : State) (d : Nat) (x : Die) : State := { s with dies := sset {} d x s.dies }
def State.part (s : State) (p : Nat) : Part := sget {} s.parts p
def State.setPart (s : State) (p : Nat) (x : Part) : State := { s with parts := sset {} p x s.parts }
def State.tag (s : State) (core t : Nat) : Tag := sget {} s.tags (64 * core + t)
def State.setTag (s : State) (core t : Nat) (x : Tag) : State := { s with tags := sset {} (64 * core + t) x s.tags }
def State.port (s : State) (p : Nat) : Port := sget {} s.ports p
def State.setPort (s : State) (p : Nat) (x : Port) : State := { s with ports := sset {} p x s.ports }
def State.ctxObj (s : State) (c : Nat) : Option CtxObj := sget none s.scribe.ctxs c
def State.mapObj (s : State) (i : Nat) : Option MapObj := sget none s.scribe.maps i
def State.queueObj (s : State) (i : Nat) : Option QueueObj := sget none s.scribe.queues i
def State.progObj (s : State) (i : Nat) : Option ProgObj := sget none s.scribe.progs i
def State.snapObj (s : State) (i : Nat) : Option SnapObj := sget none s.scribe.snaps i

/-- A fresh number: an id, or the index of a free value. -/
def State.tick (s : State) : State := { s with fresh := s.fresh + 1 }

/-- The die of a bay (R10). -/
def dieOf (bay : Nat) : Nat := bay / Config.baysPerDie

/-! ### The issuing warp -/

/-- What an instruction's meaning works with: the issue, its frame and warp, the launch of the frame, and the
launch whose text the warp runs (a routine's own in a routine, R235). -/
structure Env where
  c : Issue
  f : Frame
  w : Warp
  l : Launch
  t : Launch
  deriving DecidableEq, Repr

/-- The launch built from a routine PROGRAM of a context. -/
def State.routineOf (s : State) (prog : Option Nat) : Option Launch :=
  prog.bind fun p => (s.progObj p).bind fun o => o.lid.bind s.launch?

/-- The launch whose text a warp runs (R63, R235). -/
def State.textLaunch (s : State) (l : Launch) (w : Warp) : Launch :=
  let r := match w.mode with
    | .user => none
    | .save => (s.ctxObj l.ctx).bind fun c => s.routineOf c.save
    | .restore => (s.ctxObj l.ctx).bind fun c => s.routineOf c.restore
    | .trap => (s.ctxObj l.ctx).bind fun c => s.routineOf c.trap
  r.getD l

/-- The environment of the issue in progress. -/
def State.env (s : State) : Option Env :=
  match s.cur with
  | none => none
  | some c =>
    match s.frame? c.fid with
    | none => none
    | some f =>
      match f.warp? c.widx, s.launch? f.lid with
      | some w, some l => some ⟨c, f, w, l, s.textLaunch l w⟩
      | _, _ => none

/-- An instruction's meaning over the issue in progress; outside one it faults. -/
def withEnv (s : State) (k : Env → Res) : Res :=
  match s.cur with
  | none => .fault .noIssue
  | some _ =>
    match s.env with
    | none => .fault .noWarp
    | some e => k e

/-- The warp's width W. -/
def Env.width (e : Env) : Nat := e.l.width

def Env.id (e : Env) : WarpId := ⟨e.c.fid, e.c.widx⟩

/-- STATUS.priv: the warp runs as a routine (R235). -/
def Warp.priv (w : Warp) : Bool := w.mode != .user

/-! ### Registers (R13, R25, R235) -/

def vKey (r lane : Nat) : Nat := 64 * r + lane

/-- A vector register in one lane. -/
def Warp.rdV (w : Warp) (r lane : Nat) : W32 := sget 0 w.wc.v (vKey r lane)

/-- A scalar register; in a routine s92 to s95 name the routine bank (R235). -/
def Warp.rdS (w : Warp) (r : Nat) : W64 :=
  if w.priv && decide (92 ≤ r) then sget 0 w.bankS r else sget 0 w.wc.s r

/-- A predicate register in one lane; p0 reads all ones (R25). -/
def Warp.rdP (w : Warp) (r lane : Nat) : BitVec 4 := if r = 0 then 15 else sget 0 w.wc.p (vKey r lane)

/-- A capability register; in a routine k31 names the routine bank (R235). -/
def Warp.rdK (w : Warp) (r : Nat) : Cap :=
  if w.priv && decide (r = 31) then w.bankK else sget Cap.null w.k r

/-- A scalar pair, the low register low (R69). -/
def Warp.rdSP (w : Warp) (r : Nat) : Nat := (w.rdS r).toNat + 2 ^ 64 * (w.rdS (r + 1)).toNat

/-- One register write. Writes to p0 are discarded (R25). -/
def Warp.put (w : Warp) : RegWrite → Warp
  | .v r lane x => { w with wc := { w.wc with v := sset 0 (vKey r lane) x w.wc.v } }
  | .s r x => { w with wc := { w.wc with s := sset 0 r x w.wc.s } }
  | .p r lane x => if r = 0 then w else { w with wc := { w.wc with p := sset 0 (vKey r lane) x w.wc.p } }
  | .k r c => { w with k := sset Cap.null r c w.k }
  | .bankS r x => { w with bankS := sset 0 r x w.bankS }
  | .bankK c => { w with bankK := c }

def Warp.putAll (w : Warp) (ws : List RegWrite) : Warp := ws.foldl Warp.put w

/-- The write that names scalar register `r` in the warp's mode (R235). -/
def Warp.sWrite (w : Warp) (r : Nat) (x : W64) : RegWrite :=
  if w.priv && decide (92 ≤ r) then .bankS r x else .s r x

/-- The write that names capability register `r` in the warp's mode (R235). -/
def Warp.kWrite (w : Warp) (r : Nat) (c : Cap) : RegWrite :=
  if w.priv && decide (r = 31) then .bankK c else .k r c

/-! ### Fixed-latency writes (R85) -/

/-- A write enters the list after every write that lands no later: among equal landing times the younger
lands last. -/
def insertPend (p : Pend) : List Pend → List Pend
  | [] => [p]
  | q :: r => if q.land ≤ p.land then q :: insertPend p r else p :: q :: r

/-- Registers written at clk `now + L`, one clk later at W = 64 (R85). -/
def Warp.post (w : Warp) (now lat width : Nat) (ws : List RegWrite) : Warp :=
  let land := now + lat + if width = 64 then 1 else 0
  { w with wc := { w.wc with pend := ws.foldl (fun ps x => insertPend ⟨land, now, x⟩ ps) w.wc.pend } }

/-- Every write whose landing time has come. -/
def Warp.landDue (w : Warp) (now : Nat) : Warp :=
  let due := w.wc.pend.filter fun p => p.land ≤ now
  let rest := w.wc.pend.filter fun p => !(p.land ≤ now)
  { w with wc := { w.wc with pend := rest } } |>.putAll (due.map Pend.w)

/-- Every write in flight lands (R85, before a routine's first instruction). -/
def Warp.landAll (w : Warp) : Warp :=
  { w with wc := { w.wc with pend := [] } } |>.putAll (w.wc.pend.map Pend.w)

/-! ### Lanes -/

def Warp.lane (w : Warp) (l : Nat) : Lane := w.wc.lanes.getD l {}

def Warp.setLanes (w : Warp) (ls : List Lane) : Warp := { w with wc := { w.wc with lanes := ls } }

/-- Every lane of a set changed. -/
def Warp.mapLanes (w : Warp) (set : List Nat) (g : Nat → Lane → Lane) : Warp :=
  w.setLanes (w.wc.lanes.mapIdx fun i l => if set.contains i then g i l else l)

/-- Every live lane changed. -/
def Warp.mapLive (w : Warp) (g : Lane → Lane) : Warp :=
  w.setLanes (w.wc.lanes.map fun l => if l.st = .live then g l else l)

/-- The live lanes. -/
def Warp.liveLanes (w : Warp) : List Nat :=
  (List.range w.wc.lanes.length).filter fun i => (w.lane i).st == .live

/-- Blocked by a JOIN or a barrier (R220); a hold blocks the whole warp. -/
def Lane.waiting (l : Lane) : Bool := l.waitJoin.isSome || l.waitBar.isSome

/-- The runnable lanes (R220), with the warp itself not held. -/
def Warp.runnable (w : Warp) : List Nat :=
  w.liveLanes.filter fun i => !(w.lane i).waiting

/-! ### The guard (R48) and the executing lanes (R83) -/

def Warp.guard (w : Warp) (h : Hdr) (lane : Nat) : Bool := (w.rdP h.pg lane).getLsbD 0 != h.pn

/-- The lanes of the issue group whose guard is true. -/
def Env.exec (e : Env) (h : Hdr) : List Nat := e.c.lanes.filter fun l => e.w.guard h l

/-- In a protected frame a pair of lanes is one visible lane, named by its even lane (R330). -/
def Env.visible (e : Env) (ls : List Nat) : List Nat := if e.l.prot then ls.filter (fun l => l % 2 == 0) else ls

/-! ### Classes and scopes (R165, R166) -/

/-- Table 8.2: the class of the capability and the ORD field; a scratchpad operand goes as through a release-class one. -/
def effective : Cls → MOrd → Effect
  | .strict, _ => { cls := .strict }
  | .release, .plain => { cls := .release }
  | .free, .plain => { cls := .free }
  | _, .acq => { cls := .release, acq := true }
  | _, .rel => { cls := .release, rel := true }
  | _, .free => { cls := .free }

/-- The default scope of an access: scratchpad, host or peer memory, and any other target (R166). -/
def scopeOf (sc : Scope) (scratch far : Bool) : Scope :=
  match sc with
  | .dflt => if scratch then .by_ else if far then .sy else .dv
  | s => s

/-- Scopes nest (R166); the smaller of two. -/
def scopeRank : Scope → Nat
  | .wp => 0 | .fr => 1 | .by_ => 2 | .dflt => 3 | .dv => 3 | .sy => 4

def scopeMin (a b : Scope) : Scope := if scopeRank a ≤ scopeRank b then a else b

end Sys2Proof.Machine
end

