-- ==== Sys2Proof/Machine/Views.lean ====
section
/-! DEFINITION. Where a capability leads: its source and whether it is current (R277 to R279), the space behind it and its
windows (R164, R178), formatted views (R76, R171), and reading and writing a range whose pages are known, through the
frame store buffer (R324 to R326). -/

namespace Sys2Proof.Machine

/-! ### Currency of a capability (R279) -/

/-- The generation of a context's table entry. -/
def State.tabGen (s : State) (ctx tab : Nat) : Nat := (sget (0, none) s.scribe.tab (ctx * 2 ^ 16 + tab)).1

/-- A share circle of a context, empty until it is joined. -/
def State.circle (s : State) (ctx num : Nat) : Circle :=
  (s.circles.find? fun c => c.ctx == ctx && c.num == num).getD { ctx := ctx, num := num, slots := List.replicate 8 {} }

/-- The source holds the generation the capability was derived at (R279). -/
def State.current (s : State) (c : Cap) : Bool :=
  match c.src with
  | .none => true
  | .table ctx tab gen => s.tabGen ctx tab == gen
  | .circle ctx circ slot joins _ =>
    let x := (s.circle ctx circ).slots.getD slot {}
    x.joins == joins && x.member.isSome
  | .launch lid => match s.launch? lid with | some l => l.live | none => false
  | .frame fid => (s.frame? fid).isSome

/-! ### Where a capability leads -/

/-- The space behind a capability. -/
inductive Space where
  /-- a context's address space -/
  | va (ctx : Nat)
  /-- a linear region of the map -/
  | lin (r : Region)
  /-- the scratchpad of a frame -/
  | win (prog idx : Nat)
  /-- the scratchpad of one frame, for a copy already issued (R178) -/
  | own (fid : Nat)
  /-- the scratchpads of a circle's members, with what each slot held when the capability was granted -/
  | circ (ctx circ : Nat) (grant : List (Nat × Bool))
  | regs (prog idx : Nat)
  | slots (prog idx : Nat)
  | list
  deriving DecidableEq, Repr

/-- The space, and what to add to a capability's addresses to get the space's. -/
def State.space (s : State) (c : Cap) : Space × Nat :=
  match c.kind, c.tgt with
  | 0, _ => (.va c.ctx, 0)
  | 1, .node n => (.lin (.peer n), 0)
  | 2, .frame p i => (.win p i, 0)
  | 2, .own f => (.own f, 0)
  | 3, .frame p i => (.regs p i, 0)
  | 4, .frame p i => (.slots p i, 0)
  | 5, _ => (.list, 0)
  | 6, .circle x n => (.circ x n (match c.src with | .circle _ _ _ _ g => g | _ => []), 0)
  | 7, .param l => (.lin (.param l), 0)
  | 7, .data l => (.lin (.data l), 0)
  | 7, .slice m a => match s.mapObj m with
    | some o => (.va o.ctx, o.base + a)
    | none => (.list, 0)
  | _, _ => (.list, 0)

/-- The frame of a PROGRAM and a frame index, when it exists. -/
def State.frameNamed (s : State) (prog idx : Nat) : Option Frame :=
  s.frames.find? fun f => f.idx == idx && (match s.launch? f.lid with | some l => l.prog == prog && l.live | none => false)

/-- The frame is on a bay and no restore routine of it runs, so its scratchpad and registers can be reached through a
window (R164). -/
def Frame.resident (f : Frame) : Bool :=
  f.phase != .out && !f.warps.any fun w => w.mode == .restore

/-! ### Formatted views (R73 to R76, R171, R283) -/

/-- The pairings of Table 4.6. -/
def viewOk (fmt view : Nat) : Bool :=
  ((fmt == 16 || fmt == 17) && (view == 13 || view == 14)) || ((fmt == 18 || fmt == 19) && view == 14)

/-- Bytes of a stored row (R283). -/
def storedRow (fmt geom : Nat) : Nat :=
  if fmt = 18 then ceilDiv geom 1024 * 576 else if fmt = 19 then ceilDiv geom 16384 * 8512 else geom

/-- Bytes of a row in the register format: FP16 and BF16 take two bytes an element. -/
def viewRow (geom : Nat) : Nat := 2 * geom

/-- The stored bytes an element of a formatted view is decoded from. Rows count from address 0 of the space
(DEDUCED, log 16). -/
def storedBytes (fmt geom i : Nat) : List Nat :=
  let row := i / geom * storedRow fmt geom
  let j := i % geom
  if fmt = 18 then
    let g := row + j / 1024 * 576
    [g + j % 1024 / 32, g + 64 + j % 1024 / 2]
  else if fmt = 19 then
    let g := row + j / 16384 * 8512
    [g, g + 1, g + 2, g + 3, g + 64 + j % 16384 / 64, g + 320 + j % 16384 / 2]
  else [row + j]

/-- The element decoded from those bytes, as a 16-bit code (Table 4.6). Table 12.6 lets a MAPPING give a FMT and VIEW that are
no pairing of Table 4.6; the model then decodes any FMT but 16 to 18 as LQ4 and any VIEW but 13 as BF16 (DESIGN CHOICE,
log 47). -/
def decodeStored (fmt view geom i : Nat) (bs : List Byte) : Nat :=
  let b := fun k => (bs.getD k 0).toNat
  let reg : Fmt := if view = 13 then .f16 else .bf16
  let nib := fun k => if i % geom % 2 = 0 then b k % 16 else b k / 16
  if fmt = 16 then (convertF (Fmt.e4m3.value (b 0)) reg .rn false 0).1
  else if fmt = 17 then (convertF (Fmt.e5m2.value (b 0)) reg .rn false 0).1
  else if fmt = 18 then decodeMX (b 0) (nib 1)
  else
    let x := decodeLQ4 (BitVec.ofNat 32 (ofLe (bs.take 4))) (b 4) (nib 5)
    (convertF (f32Val x) .bf16 .rn false 0).1

/-- The addresses in the space of the bytes behind `n` view bytes at address `a` (that is, BASE plus the
offset). -/
def rawAddrs (c : Cap) (a n : Nat) : List Nat :=
  if c.view = 0 then (List.range n).map fun i => a + i
  else ((List.range n).map fun i => storedBytes c.fmt c.geom ((a + i) / 2)).flatten

/-- The view bytes, from what each address of the space holds. -/
def viewBytes (c : Cap) (a n : Nat) (rd : Nat → Byte) : List Byte :=
  if c.view = 0 then (List.range n).map fun i => rd (a + i)
  else (List.range n).map fun i =>
    let x := decodeStored c.fmt c.view c.geom ((a + i) / 2) ((storedBytes c.fmt c.geom ((a + i) / 2)).map rd)
    BitVec.ofNat 8 (x / 256 ^ ((a + i) % 2))
/-! ### Reading and writing a range whose pages are known -/

/-- Physical bases of the 4 KiB pages of a space that an access touches. -/
abbrev PMap := List (Nat × Nat)

/-- The physical address of an address of the space. -/
def PMap.phys (m : PMap) (a : Nat) : Nat :=
  match m.find? fun (p, _) => p == a / 4096 with
  | some (_, b) => b + a % 4096
  | none => 0
/-- A byte as a frame sees it: from its store buffer, else from memory (R326). -/
def State.seen (s : State) (f : Frame) (a : Nat) : Byte :=
  match sget none f.fsb a with
  | some b => b
  | none => readByte s.mem a

/-- The addresses of the space behind a reference. -/
def MemRef.add (s : State) (r : MemRef) : Nat := if r.scr then 0 else (s.space r.cap).2

/-- The bytes of a checked range, as the frame sees them. -/
def State.fetch (s : State) (f : Frame) (r : MemRef) (n : Nat) (m : PMap) : List Byte :=
  if r.scr then (List.range n).map fun i => s.seen f (m.phys (r.off + i))
  else viewBytes r.cap (r.cap.base + r.off) n fun a => s.seen f (m.phys (a + r.add s))

/-- The physical addresses of a checked range of raw bytes, in order. -/
def State.physOf (s : State) (r : MemRef) (n : Nat) (m : PMap) : List Nat :=
  let base := if r.scr then r.off else r.cap.base + r.off + r.add s
  (List.range n).map fun i => m.phys (base + i)

/-- The physical addresses a checked range depends on, for the end-to-end check. -/
def State.physRead (s : State) (r : MemRef) (n : Nat) (m : PMap) : List Nat :=
  if r.scr then s.physOf r n m
  else (rawAddrs r.cap (r.cap.base + r.off) n).map fun a => m.phys (a + r.add s)

/-- Stores through this reference enter the frame store buffer of a guarded frame (R324): memory through a
capability of class release or free, but no scratchpad and no peer. -/
def MemRef.buffered (l : Launch) (r : MemRef) : Bool :=
  l.guarded && !r.scr && r.cap.cls != .strict && (r.cap.kind == 0 || r.cap.kind == 7)

/-- The accesses of a guarded frame that first commit its buffer (R325). -/
def MemRef.commits (l : Launch) (r : MemRef) (cc11 atomic : Bool) : Bool :=
  l.guarded && (atomic || cc11 || (!r.scr && r.cap.cls == .strict))

/-- The lines a buffer occupies. -/
def fsbLines (b : SMap (Option Byte)) : List Nat := (b.map fun (a, _) => a / 64).eraseDups

/-- Lines the buffer would hold with some more addresses. -/
def fsbRoom (b : SMap (Option Byte)) (as : List Nat) : Bool := (fsbLines b ++ (as.map fun a => a / 64)).eraseDups.length ≤ 512

/-- Bytes stored by a frame at physical addresses: into its buffer, or into memory. -/
def State.storeAt (s : State) (fid : Nat) (buf : Bool) (as : List Nat) (bs : List Byte) : State :=
  if buf then
    match s.frame? fid with
    | none => s
    | some f => s.setFrame { f with fsb := ssetMany none f.fsb ((as.zip bs).map fun (a, b) => (a, some b)) }
  else (s.setMem (writeCells s.mem (as.zip bs))).heal as

end Sys2Proof.Machine
end

