-- ==== Sys2Proof/Machine/Perform.lean ====
section
/-! DEFINITION. Performing accesses (R163, R168, R201, R204, R205): an issued load, store or atomic is a list of single-copy
atomic units that wait in program order in `Warp.acc`; a unit may be performed once no earlier one that preserved program
order or coherence puts before it is left. Also what an end-to-end failure does at a core (R321, R332), and the decrement
of the counter operations that a unit belongs to. -/

namespace Sys2Proof.Machine

/-! ### End-to-end checks at a core (R321, R332) -/

/-- The device-memory offset of a physical address. -/
def State.devOff (s : State) (a : Nat) : Nat := a - s.hdmBase

/-- A line whose check failed was consumed at a point: one error record with CODE 7 (R332). -/
def State.lineError (s : State) (a point : Nat) : State := s.errorRecord 7 0 (s.devOff (a / 64 * 64)) point

/-- A late cause set unless one is already pending (R320, R321). -/
def Warp.setLate (w : Warp) (cause : Cause) (val : Nat) : Warp :=
  if w.late.isSome then w else { w with late := some ⟨cause.code, val⟩ }

/-- The first byte of a range that lies on a bad line, by its index: the addresses are those the bytes depend on, in order. -/
def State.firstBad (s : State) (as : List Nat) : Option (Nat × Nat) :=
  (as.zipIdx.find? fun x => s.lineBad x.1).map fun x => (x.2, x.1)

/-- The capability offset of a poisoned line (Table 17.1): that of the line's first byte, or 0 where the capability begins
inside the line; through a formatted view, of the first view byte that depends on the line. The access starts at `off`,
`per` bytes of memory stand behind each of its bytes, and its `i`-th lies on the line at `a`. -/
def poisonOff (off per i a : Nat) : Nat := if per ≤ 1 then off + i - a % 64 else off + i / per

/-- A bad line consumed by the warp: the record, and POISON at the next boundary (R321). -/
def consumeBad (s : State) (w : Warp) (bad : Option (Nat × Nat)) : State × Warp :=
  match bad with
  | none => (s, w)
  | some (a, off) => (s.lineError a 2, w.setLate .poison off)

/-! ### Table 8.4 -/

/-- The new value of a word of `8 × n` bits. -/
def atomicOp (mop n old x : Nat) : Nat :=
  let sg : IFmt := ⟨8 * n, true⟩
  let us : IFmt := ⟨8 * n, false⟩
  if mop = 0 then (old + x) % 2 ^ (8 * n)
  else if mop = 1 then (convertF (XVal.add false (Fmt.f32.value old) (Fmt.f32.value x)) .f32 .rn false 0).1
  else if mop = 2 then minI sg old x
  else if mop = 3 then maxI sg old x
  else if mop = 4 then minI us old x
  else if mop = 5 then maxI us old x
  else if mop = 6 then andI us old x
  else if mop = 7 then orI us old x
  else if mop = 8 then xorI us old x
  else if mop = 9 then x % 2 ^ (8 * n)
  else if 0 ≤ sg.value old then (old + 1) % 2 ^ (8 * n) else old

/-! ### What a unit writes to registers (R170) -/

/-- The words that a loaded value of fewer than 8 bytes, or each word of a longer one, makes. -/
def loadedWords (signed : Bool) (bs : List Byte) : List W32 :=
  if bs.length < 4 then [BitVec.ofInt 32 (IFmt.value ⟨8 * bs.length, signed⟩ (ofLe bs))]
  else (List.range (bs.length / 4)).map fun i => BitVec.ofNat 32 (ofLe ((bs.drop (4 * i)).take 4))

/-- The register writes of a loaded value: words in vector registers, or the value extended to a scalar register. -/
def LoadDst.writes (d : LoadDst) (bs : List Byte) : List RegWrite :=
  if d.scalar then
    let x : W64 := BitVec.ofInt 64 (IFmt.value ⟨8 * bs.length, d.signed⟩ (ofLe bs))
    [if d.bank then .bankS d.r x else .s d.r x]
  else d.lanes.flatMap fun l => (loadedWords d.signed bs).zipIdx.map fun (x, i) => RegWrite.v (d.r + i) l x

/-- The words of a load that a bad line reaches read as all ones, whatever its size (R321). -/
def LoadDst.poisoned (d : LoadDst) (bs : List Byte) (bad : Nat → Bool) : List RegWrite :=
  let hit (i : Nat) : Bool := (List.range 4).any fun k => bad (4 * i + k)
  (d.writes bs).mapIdx fun i x =>
    match x with
    | .v r l _ => if hit (i % max 1 (loadedWords d.signed bs).length) then .v r l 0xFFFFFFFF else x
    | .s r v => .s r (onesWhere hit v)
    | .bankS r v => .bankS r (onesWhere hit v)
    | x => x
where
  /-- The 32-bit words of a scalar value that a bad line reaches, as ones. -/
  onesWhere (hit : Nat → Bool) (v : W64) : W64 :=
    BitVec.ofNat 64 ((if hit 0 then 0xFFFFFFFF else v.toNat % 2 ^ 32) + 2 ^ 32 * (if hit 1 then 0xFFFFFFFF else v.toNat / 2 ^ 32))

/-! ### Order among the units of a warp (R201, R205) -/

/-- The physical addresses a unit accesses. -/
def State.unitAddrs (s : State) (u : MemUnit) : List Nat :=
  match u.work with
  | .load r n m _ => s.physRead r n m
  | .store as _ => as
  | .rmw as .. => as
  | .fence .. => []

def UnitWork.reads : UnitWork → Bool
  | .load .. | .rmw .. => true
  | _ => false

def UnitWork.writes : UnitWork → Bool
  | .store .. | .rmw .. => true
  | _ => false

def MemUnit.free (u : MemUnit) : Bool := u.eff.cls == .free
def MemUnit.strict (u : MemUnit) : Bool := u.eff.cls == .strict

/-- The fence is an event of this lane. -/
def UnitWork.fenceOf : UnitWork → Nat → Option MOrd
  | .fence o ls, l => if ls.contains l then some o else none
  | _, _ => none

/-- A fence that comes between two accesses of one thread orders them (rows 7 to 9 of Table 9.2); a `FENCE.free` keeps
free-class accesses on their side of it, so that what it publishes is performed first (R210). -/
def fenceOrders (o : MOrd) (a b : MemUnit) : Bool :=
  match o with
  | .plain => !a.free && !b.free
  | .acq => !a.free && !b.free && a.work.reads
  | .rel => !a.free && !b.free && b.work.writes
  | .free => a.free || b.free

/-- `a` comes before `b` in program order and must be performed first: both are of one thread, and they meet at a location
(R205), or rows 1 to 6 of Table 9.2 order them; or they are lanes of one instruction that meet (R170, R173). -/
def State.ordered (s : State) (a b : MemUnit) : Bool :=
  let meet := (a.work.writes || b.work.writes || !b.free) && (s.unitAddrs a).any (s.unitAddrs b).contains
  let plain := !a.free && !b.free
  if a.lane == b.lane then
    meet || (plain && a.work.reads) || (plain && b.work.writes && b.eff.rel) || a.strict || b.strict
  else a.op == b.op && meet

/-- No earlier unit holds this one back: `seen` are the units before it, the youngest first, with the fences between. -/
def State.clear (s : State) (u : MemUnit) : List MemUnit → List MOrd → Bool
  | [], _ => true
  | a :: r, fs =>
    match a.work with
    | .fence o ls => s.clear u r (if ls.contains u.lane then o :: fs else fs)
    | _ => !s.ordered a u && !(a.lane == u.lane && fs.any fun o => fenceOrders o a u) && s.clear u r fs

/-- The units of a warp that may be performed now, by their places in `Warp.acc`. -/
def State.performable (s : State) (w : Warp) : List Nat :=
  (List.range w.acc.length).filter fun k =>
    match w.acc[k]? with
    | some u => (match u.work with | .fence .. => false | _ => true) && s.clear u (w.acc.take k).reverse []
    | none => false

/-! ### Performing a unit -/

/-- Fences with no unit left before them have nothing to order. -/
def dropFences : List MemUnit → List MemUnit
  | [] => []
  | u :: r => match u.work with | .fence .. => dropFences r | _ => u :: r

/-- Register writes that become part of what a counter operation writes when it retires (R168). -/
def Warp.opWrites (w : Warp) (id : Nat) (ws : List RegWrite) : Warp :=
  { w with ops := modifyFirst (fun o => o.id == id) (fun o => { o with writes := o.writes ++ ws }) w.ops }

/-- One unit performed: what it does to memory, the register writes it makes, and a bad line it met: the physical address
and the capability offset. A bad line is not modified by an atomic, which reads as ones (R321). -/
def State.unitEffect (s : State) (fid : Nat) (u : MemUnit) : State × List RegWrite × Option (Nat × Nat) :=
  match u.work with
  | .load r n m d =>
    let as := s.physRead r n m
    let per := as.length / max n 1
    let bad (i : Nat) : Bool := ((as.drop (i * per)).take per).any s.lineBad
    let bs := match s.frame? fid with | some f => s.fetch f r n m | none => []
    let ws := match s.firstBad as with | none => d.writes bs | some _ => d.poisoned bs bad
    (s, ws, (s.firstBad as).map fun (i, a) => (a, poisonOff r.off per i a))
  | .store as bs => (s.storeAt fid false as bs, [], none)
  | .rmw as mop x cas d off =>
    let n := as.length
    match s.firstBad as with
    | some (i, a) =>
      (s, (d.map fun d => d.poisoned (List.replicate n 0xFF) fun _ => true).getD [], some (a, poisonOff off 1 i a))
    | none =>
      let bs := as.map fun a => readByte s.mem a
      let old := ofLe bs
      let new := match cas with
        | some y => if old = y then some x else none
        | none => some (atomicOp mop n old x)
      let s' := match new with
        | some v => s.setMem (writeCells s.mem (as.zip (leBytes n v)))
        | none => s
      (s', (d.map fun d => d.writes bs).getD [], none)
  | .fence .. => (s, [], none)

/-! ### Peers at the initiator (R320, R333) -/

/-- No link is left that a peer access could take (R333). -/
def State.noPath (s : State) : Bool := (List.range 16).all fun i => sget false s.linksDown i

/-- The words that a unit would write to registers, all ones. -/
def UnitWork.ones : UnitWork → List RegWrite
  | .load _ n _ d => d.poisoned (List.replicate n 0) fun _ => true
  | .rmw as _ _ _ (some d) _ => d.poisoned (List.replicate as.length 0) fun _ => true
  | _ => []

/-- A unit ends with an error at a peer (R320): the words of a read are all ones and REMOTE_FAULT is due at the next boundary;
a store's operation retires with the error. -/
def Warp.remoteFails (w : Warp) (u : MemUnit) (a : Nat) : Warp :=
  if u.work.ones = [] then
    { w with ops := modifyFirst (fun o => o.id == u.op) (fun o => { o with err := o.err.orElse fun _ => some (Cause.remoteFault.code, a) }) w.ops }
  else (w.opWrites u.op u.work.ones).setLate .remoteFault a

/-- The peer address of a unit's operation, while it can fail. -/
def Warp.peerOf (w : Warp) (u : MemUnit) : Option Nat := (w.ops.find? fun o => o.id == u.op).bind CtrOp.peer

/-- A unit of a warp performed (R163): it leaves `Warp.acc`, and its register writes wait for the counter (R168). With
`early` they appear at once as well: a read of the destination before the retirement finds the old value or the loaded
one. -/
def performUnit (s : State) (fid : Nat) (w : Warp) (k : Nat) (early : Bool) : State × Warp :=
  match w.acc[k]? with
  | none => (s, w)
  | some u =>
    let w := { w with acc := dropFences (w.acc.eraseIdx k) }
    match if s.noPath then w.peerOf u else none with
    | some a => (s, w.remoteFails u a)
    | none =>
      let (s, ws, bad) := s.unitEffect fid u
      let w := w.opWrites u.op ws
      let w := if early && w.run.isNone then w.putAll ws else w
      consumeBad s w bad

/-- The first `n` units of a warp performed in program order, which no rule forbids at any moment. -/
def performFirst (s : State) (fid : Nat) (w : Warp) : Nat → State × Warp
  | 0 => (s, w)
  | n + 1 => let (s, w) := performUnit s fid w 0 false; performFirst s fid w n

/-- The units of a warp up to its youngest read or fence. -/
def MemUnit.upToRead : List MemUnit → Nat
  | [] => 0
  | u :: r =>
    let n := MemUnit.upToRead r
    if n ≠ 0 then n + 1 else match u.work with | .store .. => 0 | _ => 1

/-- What a warp performs before an asynchronous operation issues, so that the order into the operation holds (rows 1 to 9 of
Table 9.2, R211): its reads and whatever a fence or a strict operation puts first; with `all` everything. -/
def performBefore (s : State) (fid : Nat) (w : Warp) (all : Bool) : State × Warp :=
  performFirst s fid w (if all then w.acc.length else max (MemUnit.upToRead w.acc) (strictPrefix w.acc))
where
  /-- The units up to the youngest strict one. -/
  strictPrefix : List MemUnit → Nat
    | [] => 0
    | u :: r =>
      let n := strictPrefix r
      if n ≠ 0 then n + 1 else if u.strict then 1 else 0

/-- An asynchronous operation meets stores its thread issued before it: those of the warp up to operation `id` are performed
when one of them touches its bytes, or with `all` (R183, R205, R211). -/
def State.performOlder (s : State) (i : WarpId) (id : Nat) (as : List Nat) (all : Bool) : State :=
  match s.warp? i with
  | none => s
  | some w =>
    let old := w.acc.takeWhile fun u => u.op < id
    if all || old.any fun u => (s.unitAddrs u).any as.contains then
      let (s, w) := performFirst s i.fid w old.length
      s.setWarp i.fid w
    else s

/-- Every unit of a warp performed. -/
def performAll (s : State) (fid : Nat) (w : Warp) : State × Warp := performFirst s fid w w.acc.length

/-- Every unit of a warp performed, in the state. -/
def State.performWarp (s : State) (i : WarpId) : State :=
  match s.warp? i with
  | none => s
  | some w => let (s, w) := performAll s i.fid w; s.setWarp i.fid w

/-- Every warp that has units in flight. -/
def State.busyWarps (s : State) : List WarpId :=
  s.frames.flatMap fun f => (f.warps.filter fun w => w.acc != []).map fun w => ⟨f.fid, w.idx⟩

/-- Every access in flight performed: what a revocation or a shootdown waits for (R279, R291). -/
def State.performEvery (s : State) : State := s.busyWarps.foldl State.performWarp s

/-! ### Counters (R179 to R181) -/

/-- Operations outstanding on a counter. -/
def Warp.outstanding (w : Warp) (c : Nat) : Nat := (w.ops.filter fun o => o.ctr == c).length

/-- An operation enrolled. -/
def Warp.enrol (w : Warp) (o : CtrOp) : Warp := { w with ops := w.ops ++ [o] }

/-- An operation has nothing left to do but to retire. -/
def Warp.opReady (w : Warp) (o : CtrOp) : Bool := o.done && !w.acc.any fun u => u.op == o.id

/-- A pending error set unless one is already pending (R181). -/
def Warp.setErr (w : Warp) (c : Nat) (x : Nat × Nat) : Warp :=
  if (sget none w.errs c).isSome then w else { w with errs := sset none c (some x) w.errs }

def Warp.clearErr (w : Warp) (c : Nat) : Warp := { w with errs := sset none c none w.errs }

/-- Two writes to one register (in one lane). -/
def RegWrite.same : RegWrite → RegWrite → Bool
  | .v r l _, .v q m _ => r == q && l == m
  | .s r _, .s q _ => r == q
  | .p r l _, .p q m _ => r == q && l == m
  | .k r _, .k q _ => r == q
  | .bankS r _, .bankS q _ => r == q
  | .bankK _, .bankK _ => true
  | _, _ => false

/-- The registers of an operation written as it retires: a fixed-latency write to one of them that was issued before the
operation and has not landed is older, and does not land over them (R85, R168, R306). -/
def WCore.retireWrites (c : WCore) (o : CtrOp) : WCore :=
  { c with pend := c.pend.filter fun p => !(p.from_ < o.from_ && o.writes.any fun x => x.same p.w) }

/-- An operation retires: it writes its registers and leaves its error. A register logged by runahead takes the value into
its checkpoint too (R315). -/
def Warp.retire (w : Warp) (o : CtrOp) : Warp :=
  let put (c : WCore) : WCore := (({ w with wc := c.retireWrites o } : Warp).putAll o.writes).wc
  let w := { w with ops := w.ops.filter fun p => p.id != o.id }
  let w := { w with run := w.run.map fun (r : Run) => { r with ckpt := put r.ckpt } }
  let w := ({ w with wc := w.wc.retireWrites o } : Warp).putAll o.writes
  match o.err with
  | some x => w.setErr o.ctr x
  | none => w

/-- The oldest operation on a counter retires if it is ready (R179). -/
def Warp.retireOne (w : Warp) (c : Nat) : Option Warp :=
  match w.ops.find? (fun o => o.ctr == c) with
  | none => none
  | some o => if w.opReady o then some (w.retire o) else none

/-- Operations of R306 item 3 retire and write their registers; an error stays pending (R181). -/
def Warp.retireRegs (w : Warp) : Warp := (w.ops.filter fun o => o.reg && w.opReady o).foldl Warp.retire w

/-- The operation with an id is done, with these writes and this error. -/
def Warp.opDone (w : Warp) (id : Nat) (writes : List RegWrite) (err : Option (Nat × Nat)) : Warp :=
  { w with ops := modifyFirst (fun o => o.id == id) (fun o => { o with done := true, writes := o.writes ++ writes, err := err }) w.ops }

end Sys2Proof.Machine
end

