-- ==== Sys2Proof/Machine/Ops.lean ====
section
/-! DEFINITION. The named operations every meaning is written with: advancing and holding a warp, the frame store buffer,
killing and relaunching a frame, and taking a trap and returning from it, each once. -/

namespace Sys2Proof.Machine

/-! ### Finishing an issue -/

/-- Occupancy in clk (R46). -/
def occupancy (width : Nat) : Nat := if width = 64 then 2 else 1

/-- The distance to the warp's next issue and the Y hint (R46, R47). -/
def Warp.stalled (w : Warp) (now width : Nat) (h : Hdr) : Warp :=
  { w with nextIssue := now + occupancy width + h.stall, yHint := w.yHint || h.y }

/-- The PCs of the issue group move past the instruction. -/
def Warp.advance (w : Warp) (c : Issue) : Warp :=
  w.mapLanes c.lanes fun _ l => { l with pc := c.pc + c.len }

/-- The issue ends with the warp as given. -/
def State.endIssue (s : State) (fid : Nat) (w : Warp) : State := { s.setWarp fid w with cur := none }

/-- The instruction is complete: the warp as given, its issue group past the instruction. -/
def finish (s : State) (e : Env) (h : Hdr) (w : Warp) : Res :=
  .next (s.endIssue e.c.fid ((w.stalled s.now e.width h).advance e.c))

/-- The instruction is complete and has set its lanes' PCs itself. -/
def finishAt (s : State) (e : Env) (h : Hdr) (w : Warp) : Res :=
  .next (s.endIssue e.c.fid (w.stalled s.now e.width h))

/-- The warp is held in the instruction, which goes on when the condition is true (R225). -/
def holdAt (s : State) (e : Env) (why : HoldWhy) : Res :=
  .next (s.endIssue e.c.fid { e.w with hold := some { why := why, pc := e.c.pc, lanes := e.c.lanes } })

/-! ### The frame store buffer (R324 to R327) -/

/-- A frame whose store buffer is cleared. -/
def Frame.emptied (f : Frame) : Frame := if f.fsb = [] then f else { f with fsb := [], closes := f.closes + 1 }

/-- Every buffered byte written to memory, and the buffer cleared. -/
def State.commit (s : State) (fid : Nat) : State :=
  match s.frame? fid with
  | none => s
  | some f =>
    let m := f.fsb.foldl (fun m (a, b) => match b with | some b => writeByte m a b | none => m) s.mem
    ({ s with mem := m }.heal (f.fsb.map Prod.fst)).setFrame f.emptied

/-- The buffer cleared without any write. -/
def State.dropBuffer (s : State) (fid : Nat) : State :=
  match s.frame? fid with
  | none => s
  | some f => s.setFrame f.emptied

/-- The frames of some launches whose buffers hold stores that are still to be performed for the outside (R326), each with the
times its buffer was closed. -/
def State.buffering (s : State) (p : Launch → Bool) : List (Nat × Nat) :=
  s.frames.filterMap fun f => if f.fsb != [] && (s.launch? f.lid).any p then some (f.fid, f.closes) else none

/-- Some of those buffers is still as it was. -/
def State.stillBuffering (s : State) (olds : List (Nat × Nat)) : Bool :=
  olds.any fun (fid, n) => (s.frame? fid).any fun f => f.closes == n && f.fsb != []

/-- Some byte of the copy is still to enter its frame's store buffer. -/
def CopyOp.entering (l : Launch) (c : CopyOp) : Bool := c.fate.isNone && c.lanes.any fun x => !x.fin && x.dst.buffered l

/-- The copies of a frame with bytes still to enter its buffer, by id. -/
def State.entering (s : State) (fid : Nat) (l : Launch) : List Nat :=
  (s.copies.filter fun c => c.fid == fid && c.entering l).map CopyOp.id

/-- Some copy of a list is not performed yet. -/
def State.copiesOpen (s : State) (ids : List Nat) : Bool :=
  s.copies.any fun c => ids.contains c.id && c.lanes.any fun x => !x.fin

/-- A commit, or with `keep` false an abort, of a frame's buffer as it stands at an instruction (R325, R327): what the buffer
holds is written or dropped now, and the bytes of copies issued before it share its fate when they are performed, which
the instruction waits for: the copies are returned. What enters afterwards is not affected. -/
def State.closeBuffer (s : State) (fid : Nat) (l : Launch) (keep : Bool) : State × List Nat :=
  let ids := s.entering fid l
  let s := if keep then s.commit fid else s.dropBuffer fid
  ({ s with copies := s.copies.map fun c => if ids.contains c.id then { c with fate := some keep } else c }, ids)

/-- Copies of a frame whose bytes a commit waits for (R327). -/
def State.committing (s : State) (fid : Nat) : Bool :=
  s.copies.any fun c => c.fid == fid && c.fate == some true && c.lanes.any fun x => !x.fin

/-- The instruction goes on out of a hold that it met after its own commit or abort. -/
def Env.closed (e : Env) : Bool :=
  match e.c.after with
  | some (.buffer _) | some .barrs => true
  | _ => false

/-- An access that first commits its frame's buffer (R325) waits, as `FCOMMIT` does, for the copy bytes already issued (R327). -/
def withCommit (s : State) (e : Env) (now : Bool) (k : State → Res) : Res :=
  if !(now && e.l.guarded) || e.closed then k s
  else
    let (s, ids) := s.closeBuffer e.c.fid e.l true
    if ids = [] then k s else holdAt s e (.buffer ids)

/-! ### Killing and relaunching a frame -/

/-- A warp that stops: no hold, no burst, no runahead, no pending request. -/
def Warp.halt (w : Warp) : Warp :=
  { w with hold := none, burst := none, run := none, saveReq := false, stopped := true, late := none }

/-- A table entry whose mapping reaches a frame is advanced to its next generation. -/
def advanceWindow (hit : Nat → Bool) (x : Nat × Nat × Option Nat) : Nat × Nat × Option Nat :=
  if x.2.2.any hit then (x.1, x.2.1 + 1, x.2.2) else x

/-- The window capabilities onto a frame end with it (R278): what passed its checks before is performed (R279). -/
def State.revokeWindows (s : State) (prog idx : Nat) : State :=
  let hit (m : Nat) : Bool := (s.mapObj m).any fun o => 2 ≤ o.target && o.target ≤ 4 && o.tprog == prog && o.tframe == idx
  if s.scribe.tab.any fun x => x.2.2.any hit then
    let s := s.performEvery
    { s with scribe := { s.scribe with tab := s.scribe.tab.map (advanceWindow hit) } }
  else s

/-- The frame is killed (R243): it is being removed, and its PROGRAM entry faults with a cause. -/
def killFrame (s : State) (fid : Nat) (cause : Cause) : State :=
  match s.frame? fid with
  | none => s
  | some f =>
    let s := s.setFrame { f.emptied with phase := .removing, warps := f.warps.map Warp.halt }
    match s.launch? f.lid with
    | none => s
    | some l => (s.revokeWindows l.prog f.idx).faultEntry 4 l.prog cause.code

/-- The frame is stopped to be relaunched (R329 steps 1 and 2); one that is leaving already is not. -/
def startRelaunch (s : State) (fid : Nat) (cause : Cause) : State :=
  match s.frame? fid with
  | none => s
  | some f =>
    if f.phase ≠ .resident ∧ f.phase ≠ .saving then s
    else s.setFrame { f.emptied with phase := .relaunching, relaunchCause := cause.code, warps := f.warps.map Warp.halt }

/-! ### Routines -/

/-- The capability on a frame's save slice, `k31` of a routine (R235); null without a slice. -/
def sliceCap (s : State) (f : Frame) (l : Launch) : Cap :=
  match f.slice, s.ctxObj l.ctx with
  | some i, some c =>
    match c.savemap.filter fun m => (s.entry 2 m).stands with
    | some m => { kind := 7, base := 0, len := c.saveslice, perm := 3, cls := .release, src := .frame f.fid, tgt := .slice m (i * c.saveslice), ctx := l.ctx }
    | none => Cap.null
  | _, _ => Cap.null

/-- A routine's image passes the check against a PROGRAM's width and allocation (R235). -/
def routineFits (r l : Launch) : Bool :=
  r.width == l.width && decide (r.vregs ≤ l.vregs) && decide (min r.sregs 92 ≤ l.sregs) && !r.caps.any fun c => c.1 == 31

/-- The bank of a routine at its entry (R235, R307): `s92`, WARP, FRAME, the frame's warp count, and k31. -/
def Warp.setBank (w : Warp) (s92 : Nat) (f : Frame) (k31 : Cap) : Warp :=
  { w with
    bankS := ssetMany 0 [] [(92, BitVec.ofNat 64 s92), (93, BitVec.ofNat 64 w.idx), (94, BitVec.ofNat 64 f.idx),
      (95, BitVec.ofNat 64 f.warps.length)]
    bankK := k31 }

/-- Live lanes as they stand are held aside (R307). -/
def Lane.holdAside (l : Lane) : Lane := { l with heldPc := l.pc, heldJoin := l.waitJoin, heldBar := l.waitBar, heldMiss := l.miss }

/-- A live lane enters a routine at its entry point (R235, R307). -/
def Lane.enter (entry : Nat) (l : Lane) : Lane :=
  { l with pc := entry, waitJoin := none, waitBar := none, miss := 0, deferred := false, lastPage := none }

/-! ### Runahead: rollback and the batch (R315 to R317) -/

/-- The warp as its checkpoint has it (R315); outside runahead unchanged. -/
def Warp.rollback (w : Warp) : Warp :=
  match w.run with
  | none => w
  | some r => { w with wc := r.ckpt, run := none, burst := none }

/-- The collected pages in the order of R317: by lane of first occurrence, then by issue. -/
def insertPage (p : RunPage) : List RunPage → List RunPage
  | [] => [p]
  | q :: r => if q.lane < p.lane || (q.lane == p.lane && q.issue ≤ p.issue) then q :: insertPage p r else p :: q :: r

def sortPages (ps : List RunPage) : List RunPage := ps.foldl (fun acc p => insertPage p acc) []

/-- A page, collected once; WRITE is set when any access to it writes (R317). -/
def addPage (ps : List RunPage) (p : RunPage) : List RunPage :=
  if ps.any fun q => q.page == p.page && q.stage2 == p.stage2 then
    ps.map fun q => if q.page == p.page && q.stage2 == p.stage2 then { q with write := q.write || p.write } else q
  else ps ++ [p]

/-- A page-request ring is enabled (R316). -/
def State.ringEnabled (s : State) (port : Nat) : Bool :=
  bitOf (s.port port).prbase.toNat 0 && decide (64 ≤ (s.port port).prn.toNat % 2 ^ 17)

/-- The port for a group: 0 when its ring is enabled, else 1 when that is (R316). -/
def State.requestPort (s : State) : Option Nat :=
  if s.ringEnabled 0 then some 0 else if s.ringEnabled 1 then some 1 else none

/-- A warp with pages to ask for is held and its group waits to be sent (R315, R316). -/
def askPages (s : State) (fid ctx : Nat) (w : Warp) (pc : Nat) (lanes : List Nat) (ps : List RunPage) : State :=
  let num := s.fresh
  let first := sortPages ps |>.find? fun p => p.issue == 0
  let recs := (sortPages ps).map fun p => (p.page, p.write, p.stage2, false, p.lane, p.pc)
  let g : PageGroup := { num := num, party := .warp ⟨fid, w.idx⟩, ctx := ctx, recs := recs, val := first.elim 0 RunPage.off, lane := first.elim 0 RunPage.lane }
  let s := { s.tick with pages := s.pages ++ [g], cur := none }
  s.setWarp fid { w with hold := some { why := .page num, pc := pc, lanes := lanes } }

/-- The stop of runahead: rollback, then the batch (R315). -/
def stopRun (s : State) (fid ctx : Nat) (w : Warp) : State :=
  match w.run with
  | none => s
  | some r => askPages s fid ctx w.rollback r.pc r.lanes r.pages

/-- TAKING AN EXCEPTION. The warp of the issue takes a trap at its instruction (R306, R307): its accesses in flight are
performed, older fixed-latency writes land, older loads retire, TRAPCAUSE, TRAPPC and TRAPVAL are set, every live lane's PC and
waiting flags are held aside and the lane enters the context's trap routine with the bank of R307. Inside a
routine the frame is killed with ROUTINE_TRAP, or relaunched if guarded (R243, R310); without a trap routine
it is killed with the cause (R308); POISON in a guarded frame and SHADOW_MISMATCH relaunch it (Table 17.1). -/
def takeTrap (s : State) (fid widx : Nat) (lanes : List Nat) (pc ilen : Nat) (cause : Cause) (val : Nat)
    (lane : Option Nat := none) (late : Bool := false) : State :=
  let s := { s with cur := none }.performWarp ⟨fid, widx⟩
  match s.frame? fid with
  | none => s
  | some f =>
    match f.warp? widx, s.launch? f.lid with
    | some w, some l =>
      let w := w.rollback.landAll.retireRegs
      if cause = .shadowMismatch || (cause = .poison && l.guarded) then startRelaunch (s.setWarp fid w) fid cause
      else if w.priv then
        if l.guarded then startRelaunch (s.setWarp fid w) fid cause
        else killFrame (s.setWarp fid w) fid .routineTrap
      else
        match (s.ctxObj l.ctx).bind fun c => s.routineOf c.trap with
        | none => killFrame (s.setWarp fid w) fid cause
        | some r =>
          if !routineFits r l then killFrame (s.setWarp fid w) fid .badRoutine
          else
            let w := w.mapLive Lane.holdAside
            let w := w.mapLive (Lane.enter r.entry)
            let w := w.setBank cause.code f (sliceCap s f l)
            let w := { w with
              mode := .trap, trapCause := cause.code, trapPc := BitVec.ofNat 64 pc, trapVal := BitVec.ofNat 64 val
              trap := ⟨lanes, lane, ilen, late⟩, hold := none, burst := none, run := none
              nextIssue := max w.nextIssue (s.now + occupancy l.width) }
            s.setWarp fid w
    | _, _ => s

/-- The instruction of the issue traps; in runahead it stops runahead instead (R314). -/
def trap (s : State) (e : Env) (cause : Cause) (val : Nat) (lane : Option Nat := none) : Res :=
  if e.w.run.isSome then .next (stopRun s e.c.fid e.l.ctx e.w)
  else .next (takeTrap s e.c.fid e.c.widx e.c.lanes e.c.pc e.c.len cause val lane)

/-- Word 0 of the instruction of the issue. -/
def Env.word0 (s : State) (e : Env) : Nat := s.rd ((Region.text e.t.lid).at e.c.pc) 8

/-- A trap whose TRAPVAL is word 0 (Table 17.1). -/
def trapWord (s : State) (e : Env) (cause : Cause) : Res := trap s e cause (e.word0 s)

/-- The warp enters its context's save routine (R237 steps 3 and 4): writes land, TRAPCAUSE := SAVE_REQ, the
bank of R235. Waiting lanes keep their PCs aside for CCSV. -/
def enterSave (s : State) (fid : Nat) (w : Warp) : State :=
  match s.frame? fid with
  | none => s
  | some f =>
    match s.launch? f.lid with
    | none => s
    | some l =>
      match (s.ctxObj l.ctx).bind fun c => s.routineOf c.save with
      | none => s
      | some r =>
        let w := w.rollback.landAll
        let w := (w.mapLive Lane.holdAside).mapLive (Lane.enter r.entry)
        let w := w.setBank 0 f (sliceCap s f l)
        s.setWarp fid { w with
          mode := .save, trapCause := Cause.saveReq.code, hold := none, burst := none, run := none, saveReq := false
          trap := {}, nextIssue := max w.nextIssue (s.now + occupancy l.width) }

/-- RETURN FROM A TRAP (R309): the trap lanes resume at TRAPPC as the routine left it, plus ILen when
skipping, the others at their held PCs, each with its held waiting flags; the bank is dropped and STATUS.priv
is 0. -/
def Warp.returnFromTrap (w : Warp) (skip : Bool) : Warp :=
  let pc := w.trapPc.toNat + if skip then w.trap.ilen else 0
  let ls := w.wc.lanes.mapIdx fun i l =>
    if l.st = .live then
      { l with pc := if w.trap.lanes.contains i then pc else l.heldPc, waitJoin := l.heldJoin, waitBar := l.heldBar }
    else l
  { w.setLanes ls with mode := .user, bankS := [], bankK := Cap.null }

/-! ### Groups (R15, R226) -/

/-- The warps of a group; group 0 is every warp of the frame. -/
def Env.members (e : Env) (g : Nat) : List Nat :=
  if g = 0 then e.f.warps.map Warp.idx else e.l.groups.getD g []

/-- The same for a frame and its launch. -/
def groupOf (f : Frame) (l : Launch) (g : Nat) : List Nat :=
  if g = 0 then f.warps.map Warp.idx else l.groups.getD g []

def Frame.barrier (f : Frame) (g : Nat) : Barrier := f.barriers.getD g {}

/-- A warp has exited: none of its lanes is live, and not because its save routine ended (R242). -/
def Warp.exited (w : Warp) : Bool := w.liveLanes.isEmpty && w.mode != .save

/-- A warp is done for a barrier's generation: it arrived, or all its live lanes have exited (R226). -/
def Warp.doneFor (w : Warp) (b : Barrier) : Bool := b.arrived.contains w.idx || w.exited

/-- The PC after the instruction at a PC of a launch's text. -/
def State.pcAfter (s : State) (lid pc : Nat) : Nat := pc + lenBytes (s.rd ((Region.text lid).at pc) 1 % 4)

/-- A lane that waits on a group moves past its barrier. -/
def Lane.passBar (g : Nat) (after : Nat → Nat) (x : Lane) : Lane :=
  if x.waitBar = some g then { x with waitBar := none, pc := after x.pc } else x

/-- The same for a lane held aside in a routine. -/
def Lane.passHeldBar (g : Nat) (after : Nat → Nat) (x : Lane) : Lane :=
  if x.heldBar = some g then { x with heldBar := none, heldPc := after x.heldPc } else x

/-- When every member of a group is done its generation completes in one step (R226): the generation adds 1,
the mask clears, every lane waiting on the group moves past its barrier. A group of which every member has exited completes
with the exit of the last, `gone`. While a member runs its restore routine, its lanes do not wait yet as they did (R241). -/
def completeBarrier (s : State) (f : Frame) (l : Launch) (gone : Option Nat) (g : Nat) : Frame :=
  let b := f.barrier g
  let mem := groupOf f l g
  let all (p : Warp → Bool) : Bool := mem.all fun i => match f.warp? i with | some w => p w | none => true
  if all (fun w => w.doneFor b && w.mode != .restore) && (!all Warp.exited || gone.any mem.contains) then
    let release (w : Warp) : Warp :=
      let own := s.pcAfter (s.textLaunch l w).lid
      w.setLanes (w.wc.lanes.map fun x => (x.passBar g own).passHeldBar g (s.pcAfter l.lid))
    { f with barriers := modifyAt (fun _ => ⟨(b.gen + 1) % 2 ^ 32, []⟩) g f.barriers, warps := f.warps.map release }
  else f

/-- Every group of a frame looked at again, after a warp arrived or resumed, or `gone` exited. From SAVE_REQ on the barrier
state of the frame is frozen (R237). -/
def State.settleBarriers (s : State) (fid : Nat) (gone : Option Nat := none) : State :=
  match s.frame? fid with
  | none => s
  | some f =>
    match s.launch? f.lid with
    | none => s
    | some l => if f.frozen.isSome then s else s.setFrame ((List.range f.barriers.length).foldl (fun f g => completeBarrier s f l gone g) f)

/-- The counters a WAIT field names (R47). -/
def waitCounters (wait : Nat) : List Nat := (List.range 12).filter fun c => bitOf wait c

end Sys2Proof.Machine
end

