-- ==== Sys2Proof/Machine/Operands.lean ====
section
/-! DEFINITION. Operand forms: what a vector, scalar, predicate or capability operand, a register pair and an
immediate supply to an instruction (R53, R69, R83), and the ghost bits they carry in runahead (R314). -/

namespace Sys2Proof.Machine

/-- The register number an operand names. -/
def regOf (o : Opd) : Nat := o.raw

/-- A scalar source: the whole register. -/
def Env.rdScalar (e : Env) : Opd → W64
  | .s r => e.w.rdS r
  | .sp r => e.w.rdS r
  | _ => 0

/-- A 32-bit source in one lane: a vector register, or bits [31:0] of a scalar register in every lane
(R83). -/
def Env.rdVec (e : Env) (o : Opd) (lane : Nat) : W32 :=
  match o with
  | .v r | .vp r => e.w.rdV r lane
  | .s r | .sp r => (e.w.rdS r).setWidth 32
  | _ => 0

/-- A 64-bit source in one lane: a vector pair, the even register low (R69). -/
def Env.rdPair (e : Env) (o : Opd) (lane : Nat) : W64 :=
  match o with
  | .v r | .vp r => e.w.rdV (r + 1) lane ++ e.w.rdV r lane
  | .s r | .sp r => e.w.rdS r
  | _ => 0

/-- A predicate source in one lane. -/
def Env.rdPred (e : Env) (o : Opd) (lane : Nat) : BitVec 4 :=
  match o with
  | .p r => e.w.rdP r lane
  | _ => 0

/-- A capability source. -/
def Env.rdCap (e : Env) (o : Opd) : Cap :=
  match o with
  | .k r => e.w.rdK r
  | _ => Cap.null

/-- Source B of a scalar instruction: the register, or the sign-extended immediate in form C (R53). -/
def Env.scalarB (e : Env) (o : AluArgs) : W64 :=
  if o.form = .c then o.imm.signExtend 64 else e.rdScalar o.b

/-- Source B of a vector or float instruction in one lane: the register, or the immediate in every lane
(R53). -/
def Env.vecB (e : Env) (o : AluArgs) (lane : Nat) : W32 :=
  if o.form = .c then o.imm else e.rdVec o.b lane

/-- The index a scalar count or mask operand supplies. -/
def Env.natS (e : Env) (o : Opd) : Nat := (e.rdScalar o).toNat

/-! ### Ghosts (R314) -/

/-- A source is ghost in a lane. Outside runahead nothing is. -/
def Env.ghost (e : Env) (o : Opd) (lane : Nat) : Bool :=
  match e.w.run with
  | none => false
  | some r =>
    match o with
    | .v n => sget false r.ghostV (vKey n lane)
    | .vp n => sget false r.ghostV (vKey n lane) || sget false r.ghostV (vKey (n + 1) lane)
    | .s n => sget false r.ghostS n
    | .sp n => sget false r.ghostS n || sget false r.ghostS (n + 1)
    | .p n => sget 0 r.ghostP (vKey n lane) != 0
    | _ => false

/-- Some operand of a list is ghost in a lane. -/
def Env.anyGhost (e : Env) (os : List Opd) (lane : Nat) : Bool := os.any fun o => e.ghost o lane

/-- The ghost bit of a written register follows the value (R314). A ghost predicate bit reads as 0; `p0` is never
written (R25). -/
def Run.mark (r : Run) (w : RegWrite) (g : Bool) : Run :=
  match w with
  | .v n l _ => { r with ghostV := sset false (vKey n l) g r.ghostV }
  | .s n _ => { r with ghostS := sset false n g r.ghostS }
  | .p n l _ => if n = 0 then r else { r with ghostP := sset 0 (vKey n l) (if g then 15 else 0) r.ghostP }
  | .bankS n _ => { r with ghostS := sset false n g r.ghostS }
  | _ => r

/-- The value a ghost write leaves. -/
def ghostValue (w : RegWrite) (g : Bool) : RegWrite :=
  match w with
  | .p n l x => .p n l (if g then 0 else x)
  | w => w

/-- Fixed-latency writes with their ghost bits. Outside runahead this is `Warp.post`. -/
def Warp.postG (w : Warp) (now lat width : Nat) (ws : List (RegWrite × Bool)) : Warp :=
  let w' := w.post now lat width (ws.map fun (x, g) => if w.run.isSome then ghostValue x g else x)
  match w.run with
  | none => w'
  | some r => { w' with run := some (ws.foldl (fun r (x, g) => r.mark x g) r) }

end Sys2Proof.Machine
end

