-- ==== Sys2Proof/Machine/Flags.lean ====
section
/-! DEFINITION. What an instruction counts and flags: the saturation count `SATCNT` (R81), `STATUS` and `GMASK`
(R88), the sticky cross-lane bit (R108), and the predicate bits of packed elements (R69, R93). -/

namespace Sys2Proof.Machine

/-- `SATCNT` grows and stops at its largest value (R81). -/
def addSat (c : W32) (n : Nat) : W32 := BitVec.ofNat 32 (min 0xFFFFFFFF (c.toNat + n))

def Warp.count (w : Warp) (n : Nat) : Warp := { w with wc := { w.wc with satcnt := addSat w.wc.satcnt n } }

/-- The sticky bit set when a cross-lane read met an exited or absent lane or an index beyond W (R108). -/
def Warp.flagXlane (w : Warp) (b : Bool) : Warp := { w with wc := { w.wc with xlane := w.wc.xlane || b } }

/-- STATUS (Table 5.3). -/
def statusOf (w : Warp) (l : Launch) : W64 :=
  BitVec.ofNat 64 (natOf w.wc.xlane + 2 ^ 4 * natOf w.uim + 2 ^ 5 * natOf (l.guarded || l.prot) +
    2 ^ 6 * natOf l.prot + 2 ^ 7 * natOf w.priv)

/-- The groups a warp is a member of besides group 0, ascending (R15). -/
def groupsOf (l : Launch) (widx : Nat) : List Nat :=
  ((List.range l.groups.length).filter fun g => g != 0 && (l.groups.getD g []).contains widx).take 4

/-- GMASK (Table 5.4). -/
def gmaskOf (l : Launch) (widx : Nat) : W64 :=
  let gs := groupsOf l widx
  let g := fun i => gs.getD i 0
  BitVec.ofNat 64 (g 0 + 2 ^ 8 * g 1 + 2 ^ 16 * g 2 + 2 ^ 24 * g 3 + 2 ^ 32 * gs.length)

/-- TAGREADY (R187): bit t set when tag t's count is 0 and its issued flag is set. -/
def tagReady (s : State) (core : Nat) : W64 :=
  BitVec.ofNat 64 ((List.range 64).foldl
    (fun n t => let g := s.tag core t; n + if g.count = 0 && g.issued then 2 ^ t else 0) 0)

/-! ### Packed elements (R69) -/

/-- How many elements a 32-bit word of a type holds, and their width. -/
def elemsOf (ty : Ty) : Nat × Nat :=
  match ty with
  | .i16x2 | .n16x2 | .b16x2 | .f16x2 | .bf16x2 => (2, 16)
  | .i8x4 | .n8x4 | .b8x4 | .e4m3x4 | .e5m2x4 => (4, 8)
  | .e2m1x4 => (4, 4)
  | _ => (1, 32)

/-- Element `i` of width `w` of a word. -/
def elem (x : W32) (w i : Nat) : Nat := (x.toNat / 2 ^ (w * i)) % 2 ^ w

/-- A word from its elements, element 0 lowest. -/
def ofElems (w : Nat) (es : List Nat) : W32 :=
  BitVec.ofNat 32 (es.foldr (fun x acc => x % 2 ^ w + 2 ^ w * acc) 0)

/-- A word computed element by element; the counts add. -/
def mapElems (ty : Ty) (f : Nat → Nat × Nat) : W32 × Nat :=
  let (n, w) := elemsOf ty
  let rs := (List.range n).map f
  (ofElems w (rs.map Prod.fst), (rs.map Prod.snd).sum)

/-- The predicate that holds one result per element: every byte bit of the element (R93). -/
def predOfElems (ty : Ty) (f : Nat → Bool) : BitVec 4 :=
  let per := 4 / (elemsOf ty).1
  BitVec.ofNat 4 ((List.range 4).foldl (fun n b => n + if f (b / per) then 2 ^ b else 0) 0)

/-- The bit of a predicate that governs element `i`: that of its lowest byte (R69). -/
def predBit (ty : Ty) (p : BitVec 4) (i : Nat) : Bool := p.getLsbD (i * (4 / (elemsOf ty).1))

/-! ### Random operands (R79) -/

/-- The random operand of the `i`-th element an instruction rounds: a free value. -/
def State.random (s : State) (i : Nat) : W32 := Config.randomOperand (s.fresh * 4096 + i)

end Sys2Proof.Machine
end

