-- ==== Sys2Proof/Machine/Lane.lean ====
section
/-! DEFINITION. The shared shapes of the instructions of chapter 5: a scalar result computed once per issue
(R84), a result per executing lane (R83), their latencies (R85, Table 5.1), counts (R81) and ghosts (R314). -/

namespace Sys2Proof.Machine

/-- The write that a destination operand and a lane name. -/
def Env.dst (e : Env) (d : Opd) (lane : Nat) (x : W64) : List RegWrite :=
  match d with
  | .v r => [.v r lane (x.setWidth 32)]
  | .vp r => [.v r lane (x.setWidth 32), .v (r + 1) lane ((x >>> 32).setWidth 32)]
  | .s r => [e.w.sWrite r x]
  | .p r => [.p r lane (x.setWidth 4)]
  | _ => []

/-- An instruction with a scalar destination: computed once when some lane executes (R84). `f` gives the result
and the count; `srcs` are the operands whose ghosts it takes. -/
def scalarResult (s : State) (h : Hdr) (lat : Nat) (d : Opd) (srcs : List Opd) (f : Env → W64 × Nat) : Res :=
  withEnv s fun e =>
    if e.exec h = [] then finish s e h e.w
    else
      let (x, n) := f e
      let g := e.anyGhost srcs 0
      let w := e.w.postG s.now lat e.width ((e.dst d 0 x).map fun y => (y, g))
      finish s e h (w.count (if g then 0 else n))

/-- An instruction that computes per executing lane (R83). `f` gives a lane's result and count; both lanes of a pair of a
protected frame count (R81, R330; DESIGN CHOICE, log 47). -/
def laneResult (s : State) (h : Hdr) (lat : Nat) (d : Opd) (srcs : List Opd) (f : Env → Nat → W64 × Nat) : Res :=
  withEnv s fun e =>
    let rs := (e.exec h).map fun l => (l, f e l, e.anyGhost srcs l)
    let ws := rs.flatMap fun (l, (x, _), g) => (e.dst d l x).map fun y => (y, g)
    let n := (rs.map fun (_, (_, n), g) => if g then 0 else n).sum
    finish s e h ((e.w.postG s.now lat e.width ws).count n)

/-- The source operands of an instruction in its form. -/
def srcsOf (o : AluArgs) : List Opd := if o.form = .c then [o.a] else [o.a, o.b, o.c]

/-! ### Scalar family (R90, R91) -/

/-- A scalar instruction of format `intFmt`, its result extended to 64 bits. -/
def scalarInt (s : State) (h : Hdr) (o : AluArgs) (op lat : Nat) (f : IFmt → Nat → Nat → Nat × Nat) : Res :=
  scalarResult s h lat o.d (srcsOf o) fun e =>
    let t := intFmt (o.tyOf op)
    let (x, n) := f t (e.rdScalar o.a).toNat (e.scalarB o).toNat
    (extendS t x, n)

/-- A pure result with no count. -/
def noCount (f : IFmt → Nat → Nat → Nat) (t : IFmt) (a b : Nat) : Nat × Nat := (f t a b, 0)

/-! ### Vector integer family (R92, R93) -/

/-- A vector integer instruction computed per packed element of a, b and c. -/
def vectorInt (s : State) (h : Hdr) (o : AluArgs) (op lat : Nat) (f : IFmt → Nat → Nat → Nat → Nat × Nat) : Res :=
  laneResult s h lat o.d (srcsOf o) fun e l =>
    let ty := o.tyOf op
    let t := intFmt ty
    let a := e.rdVec o.a l
    let b := e.vecB o l
    let c := e.rdVec o.c l
    let (x, n) := mapElems ty fun i => f t (elem a t.width i) (elem b t.width i) (elem c t.width i)
    (x.setWidth 64, n)

/-! ### Float family (R95) -/

/-- Element `i` of a word as an exact value. -/
def elemVal (ty : Ty) (f : Fmt) (x : W32) (i : Nat) : XVal := f.value (elem x (elemsOf ty).2 i)

/-- A float instruction whose result per element is Convert of an exact result. -/
def floatExact (s : State) (h : Hdr) (o : AluArgs) (op lat : Nat) (f : XVal → XVal → XVal → XVal) : Res :=
  laneResult (if o.rnd = .rs then s.tick else s) h lat o.d (srcsOf o) fun e l =>
    let ty := o.tyOf op
    let t := (tyFmt ty).getD .f32
    let a := e.rdVec o.a l
    let b := e.vecB o l
    let c := e.rdVec o.c l
    let (x, n) := mapElems ty fun i =>
      convertF (f (elemVal ty t a i) (elemVal ty t b i) (elemVal ty t c i)) t o.rnd o.sat (s.random (4 * l + i))
    (x.setWidth 64, n)

/-- A float instruction of one source word, element by element on codes. -/
def floatCode (s : State) (h : Hdr) (o : AluArgs) (op lat : Nat) (f : Fmt → Nat → Nat) : Res :=
  laneResult s h lat o.d (srcsOf o) fun e l =>
    let ty := o.tyOf op
    let t := (tyFmt ty).getD .f32
    let (x, _) := mapElems ty fun i => (f t (elem (e.rdVec o.a l) (elemsOf ty).2 i), 0)
    (x.setWidth 64, 0)

/-! ### Cross-lane reads (R108, R330) -/

/-- The index a lane answers to: in a protected frame, that of its pair. -/
def Env.visIdx (e : Env) (l : Nat) : Nat := if e.l.prot then l / 2 else l

/-- The lane an index names. -/
def Env.physLane (e : Env) (j : Nat) : Nat := if e.l.prot then 2 * j else j

/-- The width a program sees. -/
def Env.visWidth (e : Env) : Nat := if e.l.prot then e.l.width / 2 else e.l.width

/-- A cross-lane read of a vector register from index `j`: the value, whether the fill was taken, and the
ghost (R108). -/
def Env.xread (e : Env) (a : Opd) (j : Nat) (fill : W32) : W32 × Bool × Bool :=
  let p := e.physLane j
  if j < e.visWidth && (e.w.lane p).st == .live then (e.rdVec a p, false, e.ghost a p) else (fill, true, false)

/-- A set of lanes as the bits of a scalar, by the indices a program sees. -/
def Env.laneBits (e : Env) (ls : List Nat) : W64 :=
  BitVec.ofNat 64 ((e.visible ls).foldl (fun n l => n + 2 ^ e.visIdx l) 0)

end Sys2Proof.Machine
end

