-- ==== Sys2Proof/Machine/Convert.lean ====
section
/-! DEFINITION. Conversion and quantisation, opcodes 0x60 to 0x66 (R102 to R106). -/

namespace Sys2Proof.Machine

/-- A state whose next random operands are fresh, when the instruction draws any (R79). -/
def State.drawing (s : State) (o : AluArgs) : State := if o.rnd = .rs then s.tick else s

/-- The exact value of the low bits of a word read in a type (R102). -/
def valueOf (ty : Ty) (x : W32) : XVal :=
  match tyFmt ty with
  | some f => f.value (x.toNat % 2 ^ f.width)
  | none => match tyIfmt ty with
    | some f => .ofInt (f.value x.toNat)
    | none => .nan

/-- One element converted to a type (R78, R80, R102): a narrow float is zero-filled, an integer extended to 32
bits by its signedness. A negative value under an unsigned type is clamped and counted, in a widening too (R78; R80 calls a
widening exact; DESIGN CHOICE, log 47). -/
def convertTo (ty : Ty) (x : XVal) (m : Rnd) (sat : Bool) (r : W32) : W32 × Nat :=
  match tyFmt ty with
  | some f => let (c, n) := convertF x f m sat r; (BitVec.ofNat 32 c, n)
  | none =>
    let (v, n) := convertI x ((tyIfmt ty).getD ⟨32, true⟩) m r
    (BitVec.ofInt 32 v, n)

/-- `CVT` (R102). -/
def execCvt (h : Hdr) (o : AluArgs) (s : State) : Res :=
  laneResult (s.drawing o) h 6 o.d (srcsOf o) fun e l =>
    let (x, n) := convertTo (o.tyOf 0x60) (valueOf (o.ty2Of 0x60) (e.rdVec o.a l)) o.rnd o.sat (s.random (4 * l))
    (x.setWidth 64, n)

/-- `CVTPK2` (Table 5.11): a and b to the elements of a pair. -/
def execCvtpk2 (h : Hdr) (o : AluArgs) (s : State) : Res :=
  laneResult (s.drawing o) h 6 o.d (srcsOf o) fun e l =>
    let t := (tyFmt (o.tyOf 0x61)).getD .bf16
    let (x, n) := convertF (f32Val (e.rdVec o.a l)) t o.rnd o.sat (s.random (4 * l))
    let (y, m) := convertF (f32Val (e.rdVec o.b l)) t o.rnd o.sat (s.random (4 * l + 1))
    ((ofElems 16 [x, y]).setWidth 64, n + m)

/-- The four sources `v a` to `v a+3`. -/
def fourRegs (a : Opd) : List Opd := (List.range 4).map fun i => Opd.v (a.raw + i)

/-- Four element codes into D: all of it for 8-bit codes, one half for 4-bit codes (Table 5.11, R106). -/
def packFour (old : W32) (w half : Nat) (cs : List Nat) : W32 :=
  if w = 8 then ofElems 8 cs
  else
    let x := (ofElems 4 cs).toNat
    if half = 0 then BitVec.ofNat 32 (x + 2 ^ 16 * (old.toNat / 2 ^ 16)) else BitVec.ofNat 32 (old.toNat % 2 ^ 16 + 2 ^ 16 * x)

/-- `CVTPK4` (Table 5.11). -/
def execCvtpk4 (h : Hdr) (o : AluArgs) (s : State) : Res :=
  laneResult (s.drawing o) h 6 o.d (o.d :: fourRegs o.a) fun e l =>
    let t := (tyFmt (o.tyOf 0x62)).getD .e4m3
    let one := fun i => convertF (f32Val (e.w.rdV (o.a.raw + i) l)) t o.rnd o.sat (s.random (4 * l + i))
    let rs := (List.range 4).map one
    ((packFour (e.rdVec o.d l) t.width o.sub (rs.map Prod.fst)).setWidth 64, (rs.map Prod.snd).sum)

/-- `CVTUP` (Table 5.11): elements 2s and 2s+1 as a pair, exactly: the rounding and `.sat` that R103 lets it name change
nothing (DESIGN CHOICE, log 46). -/
def execCvtup (h : Hdr) (o : AluArgs) (s : State) : Res :=
  laneResult (s.drawing o) h 6 o.d (srcsOf o) fun e l =>
    let t := (tyFmt (o.tyOf 0x63)).getD .bf16
    let f := (tyFmt (o.ty2Of 0x63)).getD .e4m3
    let a := e.rdVec o.a l
    let one := fun i => (convertF (f.value (elem a f.width (2 * o.sub + i))) t .rn false 0).1
    ((ofElems 16 [one 0, one 1]).setWidth 64, 0)

/-- The E8M0 code of an element scale (R104, `.code`). -/
def scaleCode (emax : Nat) (x : W32) : Nat :=
  match f32Val x with
  | .nan => 0xFF
  | .inf _ => 0xFF
  | .fin _ n d =>
    if n = 0 then 0
    else
      let k : Int := floorLog2 n d - emax + 127
      if k < 0 then 0 else min 254 k.toNat

/-- emax of an element format (R104). -/
def emaxOf : Ty → Nat
  | .e4m3 => 8
  | .e5m2 => 15
  | _ => 2

/-- `QSCALE.code` (R104). -/
def execQscaleCode (h : Hdr) (o : AluArgs) (s : State) : Res :=
  laneResult s h 6 o.d (srcsOf o) fun e l => (BitVec.ofNat 64 (scaleCode (emaxOf (o.tyOf 0x64)) (e.rdVec o.a l)), 0)

/-- `A × 2^(127 − e)` as an exact value. -/
def scaled (x : W32) (e : Nat) : XVal := (f32Val x).scale (127 - (e : Int))

/-- `QSCALE.apply` (R104). -/
def execQscaleApply (h : Hdr) (o : AluArgs) (s : State) : Res :=
  laneResult (s.drawing o) h 6 o.d (srcsOf o) fun e l =>
    let c := (e.rdVec o.b l).toNat % 256
    if c = 0xFF then (canonNan32.setWidth 64, 0)
    else
      let (x, n) := convertF (scaled (e.rdVec o.a l) c) .f32 o.rnd o.sat (s.random (4 * l))
      (BitVec.ofNat 64 x, n)

/-- Comparison of exact values, NaN below none: `a < b`. -/
def xlt (a b : XVal) : Bool := XVal.cmp a b == .lt

/-- The LQ4 code whose value is nearest `t`, a tie to the higher code (R105). -/
def nearestLQ4 (t : XVal) : Nat :=
  (List.range 16).foldl (fun best c =>
    let dist := fun k => (XVal.add false (lq4Value k) t.neg).abs
    if xlt (dist best) (dist c) then best else c) 0

/-- The LQ4 code of an element and its count (R105, `.nib`). -/
def lq4Nib (a bs : W32) : Nat × Nat :=
  let t := (f32Val a).div (f32Val bs)
  if t.isNan then (8, 1)
  else if xlt (.ofInt 1) t then (15, 1)
  else if xlt t (.ofInt (-1)) then (0, 1)
  else (nearestLQ4 t, 0)

/-- `QLQ4.nib0` to `.nib7` (R105). -/
def execQlq4Nib (h : Hdr) (o : AluArgs) (s : State) : Res :=
  laneResult s h 6 o.d (o.d :: (srcsOf o)) fun e l =>
    let (c, n) := lq4Nib (e.rdVec o.a l) (e.rdVec o.b l)
    let old := (e.rdVec o.d l).toNat
    let k := 2 ^ (4 * o.sub)
    (BitVec.ofNat 64 (old - old / k % 16 * k + c * k), n)

/-- The block code q and its count (R105, `.qcode`). A quotient of −1 or below, from a negative S, has no code:
its q is a free value (DESIGN CHOICE, log 15). -/
def lq4Qcode (a sc : W32) : W32 × Nat :=
  match f32Val sc with
  | .fin _ 0 _ => (0, 0)
  | sv =>
    let x := ((f32Val a).abs.mul (.ofInt 255)).div sv
    match x with
    | .nan => (0, 1)
    | .inf neg => if neg then (Config.qcodeNegative a sc, 0) else (255, 1)
    | .fin neg n d =>
      if neg then (if n < d then 0 else Config.qcodeNegative a sc, 0)
      else if 255 * d < n then (255, 1) else (BitVec.ofNat 32 (ceilDiv n d), 0)

/-- `QLQ4.qcode` (R105). -/
def execQlq4Qcode (h : Hdr) (o : AluArgs) (s : State) : Res :=
  laneResult s h 6 o.d (srcsOf o) fun e l =>
    let (q, n) := lq4Qcode (e.rdVec o.a l) (e.rdVec o.b l)
    (q.setWidth 64, n)

/-- `QLQ4.bscale` (R105): the block scale of R75. -/
def execQlq4Bscale (h : Hdr) (o : AluArgs) (s : State) : Res :=
  laneResult s h 6 o.d (srcsOf o) fun e l =>
    ((f32Of (lq4BlockScale ((e.rdVec o.a l).toNat % 256) (e.rdVec o.b l))).setWidth 64, 0)

/-- `QMX` (R106). -/
def execQmx (h : Hdr) (o : AluArgs) (s : State) : Res :=
  laneResult (s.drawing o) h 6 o.d (o.d :: o.b :: fourRegs o.a) fun e l =>
    let c := (e.rdVec o.b l).toNat % 256
    let one := fun i =>
      if c = 0xFF then (0, 1)
      else convertF (scaled (e.w.rdV (o.a.raw + i) l) c) .e2m1 o.rnd true (s.random (4 * l + i))
    let rs := (List.range 4).map one
    ((packFour (e.rdVec o.d l) 4 o.sub (rs.map Prod.fst)).setWidth 64, (rs.map Prod.snd).sum)

end Sys2Proof.Machine
end

