-- ==== Sys2Proof/Machine/CrossLane.lean ====
section
/-! DEFINITION. Cross-lane instructions and the moves of special registers, opcodes 0x70 to 0x7A (R87 to R89,
R108, R109). -/

namespace Sys2Proof.Machine

/-- A cross-lane read per executing lane: `idx` names the source lane, `fill` the value where there is none
(R108). A lane with a ghost index or source is ghost. -/
def crossRead (s : State) (h : Hdr) (o : AluArgs) (idx : Env → Nat → Nat) (fill : Env → Nat → W32) : Res :=
  withEnv s fun e =>
    let one := fun l =>
      let (x, miss, g) := e.xread o.a (idx e l) (fill e l)
      (l, x, miss, g || e.ghost o.b l || e.ghost o.c l)
    let rs := (e.exec h).map one
    let ws := rs.flatMap fun (l, x, _, g) => (e.dst o.d l (x.setWidth 64)).map fun y => (y, g)
    let missed := rs.any fun (l, _, miss, _) => miss && !e.ghost o.b l
    finish s e h ((e.w.postG s.now 8 e.width ws).flagXlane missed)

/-- The fill: 0, or the reading lane's C under `.fill` (R108). -/
def fillOf (o : AluArgs) (e : Env) (l : Nat) : W32 := if o.sub = 1 then e.rdVec o.c l else 0

/-- `XPERM` (Table 5.14). -/
def execXperm (h : Hdr) (o : AluArgs) (s : State) : Res :=
  crossRead s h o (fun e l => (e.rdVec o.b l).toNat) (fillOf o)

/-- `XBCAST` (Table 5.14): one uniform index. -/
def execXbcast (h : Hdr) (o : AluArgs) (s : State) : Res :=
  crossRead s h o (fun e l => (e.rdVec o.b l).toNat) (fillOf o)

/-- `XROT` (Table 5.14): lane (l + b) mod W. -/
def execXrot (h : Hdr) (o : AluArgs) (s : State) : Res :=
  crossRead s h o (fun e l => (e.visIdx l + (e.rdVec o.b l).toNat) % e.visWidth) (fun _ _ => 0)

/-! ### Scans and reductions (R109) -/

/-- Table 5.15: the identity of an operation. -/
def scanIdentity (k : Nat) : W32 :=
  if k = 1 then 0x80000000#32 else if k = 2 then 0x7FFFFFFF#32 else if k = 3 then 0x80000000#32
  else if k = 4 || k = 6 then 0xFFFFFFFF#32 else if k = 9 then 0x7F800000#32 else if k = 10 then 0xFF800000#32 else 0

/-- Table 5.15: the operation. -/
def scanOp (k : Nat) (a b : W32) : W32 :=
  let i32 : IFmt := ⟨32, true⟩
  let n32 : IFmt := ⟨32, false⟩
  let num := fun f => BitVec.ofNat 32 (f : Nat)
  if k = 0 then a + b
  else if k = 1 then f32Of (XVal.add false (f32Val a) (f32Val b))
  else if k = 2 then num (minI i32 a.toNat b.toNat)
  else if k = 3 then num (maxI i32 a.toNat b.toNat)
  else if k = 4 then num (minI n32 a.toNat b.toNat)
  else if k = 5 then num (maxI n32 a.toNat b.toNat)
  else if k = 6 then a &&& b
  else if k = 7 then a ||| b
  else if k = 8 then a ^^^ b
  else if k = 9 then f32Of (fminmax false (f32Val a) (f32Val b))
  else f32Of (fminmax true (f32Val a) (f32Val b))

/-- The combination of the values of some lanes in order, from the identity. -/
def scanOver (k : Nat) (xs : List W32) : W32 := xs.foldl (scanOp k) (scanIdentity k)

/-- `XSCAN` (R109): inclusive, or exclusive under SUB[4]. -/
def execXscan (h : Hdr) (o : AluArgs) (s : State) : Res :=
  withEnv s fun e =>
    let vis := e.visible (e.exec h)
    let k := o.sub % 16
    let below := fun l => vis.filter fun j => if 16 ≤ o.sub then e.visIdx j < e.visIdx l else e.visIdx j ≤ e.visIdx l
    let ws := (e.exec h).flatMap fun l =>
      let ls := below l
      let x := scanOver k (ls.map fun j => e.rdVec o.a j)
      (e.dst o.d l (x.setWidth 64)).map fun y => (y, ls.any fun j => e.ghost o.a j)
    finish s e h (e.w.postG s.now 12 e.width ws)

/-- A scalar formed from the executing lanes (R84). -/
def lanesToScalar (s : State) (h : Hdr) (lat : Nat) (d a : Opd) (f : Env → List Nat → W64 × Bool) : Res :=
  withEnv s fun e =>
    let vis := e.visible (e.exec h)
    if vis = [] then finish s e h e.w
    else
      let (x, g) := f e vis
      finish s e h (e.w.postG s.now lat e.width ((e.dst d 0 x).map fun y => (y, g || e.ghost a (vis.headD 0))))

/-- `XRED` (R109): sign-extended for `.min` and `.max`, else zero-extended. -/
def execXred (h : Hdr) (o : AluArgs) (s : State) : Res :=
  lanesToScalar s h 12 o.d o.a fun e vis =>
    let x := scanOver o.sub (vis.map fun l => e.rdVec o.a l)
    (if o.sub = 2 || o.sub = 3 then x.signExtend 64 else x.setWidth 64, vis.any fun l => e.ghost o.a l)

/-- `ELECT` (Table 5.14): the lowest executing lane gets all bits 1. -/
def execElect (h : Hdr) (o : AluArgs) (s : State) : Res :=
  laneResult s h 4 o.d [] fun e l =>
    let low := ((e.exec h).map e.visIdx).headD 0
    (if e.visIdx l = low then 15 else 0, 0)

/-- `V2S` (Table 5.14): of the lowest executing lane. -/
def execV2s (h : Hdr) (o : AluArgs) (s : State) : Res :=
  lanesToScalar s h 4 o.d o.a fun e vis =>
    let l := vis.headD 0
    (match o.a with | .vp _ => e.rdPair o.a l | _ => (e.rdVec o.a l).setWidth 64, false)

/-- `S2V` (Table 5.14). -/
def execS2v (h : Hdr) (o : AluArgs) (s : State) : Res := laneResult s h 4 o.d (srcsOf o) fun e _ => (e.rdScalar o.a, 0)

/-! ### Special registers (R87 to R89) -/

/-- A special register in one lane (Table 5.2), zero-extended. -/
def Env.special (s : State) (e : Env) (n lane : Nat) : W64 :=
  let num := fun k : Nat => BitVec.ofNat 64 k
  if n = 0 then num (e.visIdx lane)
  else if n = 1 then num e.w.idx
  else if n = 2 then num e.f.idx
  else if n = 3 then num e.l.frames
  else if n = 4 then num e.visWidth
  else if n = 5 then num e.w.core
  else if n = 6 then num e.f.bay
  else if n = 7 then num s.now
  else if n = 8 then gmaskOf e.l e.w.idx
  else if n = 9 then e.w.wc.satcnt.setWidth 64
  else if n = 10 then tagReady s e.w.core
  else if n = 11 then e.w.uivec
  else if n = 12 then statusOf e.w e.l
  else if n = 13 then num e.w.trapCause
  else if n = 14 then e.w.trapPc
  else if n = 15 then e.w.trapVal
  else num e.f.restart.count

/-- `MFS` (R89): into a scalar, or bits [31:0] into each executing lane. -/
def execMfs (h : Hdr) (o : AluArgs) (s : State) : Res :=
  if o.sub = 1 then laneResult s h 2 o.d [] fun e l => ((e.special s o.a.raw l), 0)
  else scalarResult s h 2 o.d [] fun e => (e.special s o.a.raw 0, 0)

/-- A special register written (R89): SATCNT, bit 0 of STATUS, or a trap register. -/
def Warp.setSpecial (w : Warp) (n : Nat) (x : W64) : Warp :=
  if n = 9 then { w with wc := { w.wc with satcnt := x.setWidth 32 } }
  else if n = 12 then { w with wc := { w.wc with xlane := x.getLsbD 0 } }
  else if n = 13 then { w with trapCause := x.toNat % 2 ^ 16 }
  else if n = 14 then { w with trapPc := x }
  else if n = 15 then { w with trapVal := x }
  else w

/-- `MTS` (R89). -/
def execMts (h : Hdr) (o : AluArgs) (s : State) : Res :=
  withEnv s fun e =>
    if e.exec h = [] then finish s e h e.w
    else finish s e h (e.w.setSpecial o.d.raw (e.rdScalar o.a))

/-- `GMASK` the instruction (Table 5.14): a set of the warp's lanes. -/
def execGmask (h : Hdr) (o : AluArgs) (s : State) : Res :=
  lanesToScalar s h 2 o.d .none fun e _ =>
    let byState := fun st => (List.range e.l.width).filter fun l => (e.w.lane l).st == st
    let set :=
      if o.sub = 0 then e.c.lanes
      else if o.sub = 1 then e.exec h
      else if o.sub = 2 then byState .live
      else if o.sub = 3 then byState .exited
      else byState .absent
    (e.laneBits set, false)

end Sys2Proof.Machine
end

