-- ==== Sys2Proof/Machine/FloatOps.lean ====
section
/-! DEFINITION. The float family but for the activation tables' load, opcodes 0x40 to 0x51 (R95 to R100). -/

namespace Sys2Proof.Machine

/-- `FADD` (Table 5.7). -/
def execFadd (h : Hdr) (o : AluArgs) (s : State) : Res :=
  floatExact s h o 0x40 6 fun a b _ => XVal.add (o.rnd == .rm) a b
/-- `FSUB` (Table 5.7). -/
def execFsub (h : Hdr) (o : AluArgs) (s : State) : Res :=
  floatExact s h o 0x41 6 fun a b _ => XVal.add (o.rnd == .rm) a b.neg
/-- `FMUL` (Table 5.7). -/
def execFmul (h : Hdr) (o : AluArgs) (s : State) : Res := floatExact s h o 0x42 6 fun a b _ => a.mul b
/-- `FFMA` (Table 5.7): rounded once. -/
def execFfma (h : Hdr) (o : AluArgs) (s : State) : Res :=
  floatExact s h o 0x43 6 fun a b c => XVal.add (o.rnd == .rm) (a.mul b) c
/-- `FMIN` (R96). -/
def execFmin (h : Hdr) (o : AluArgs) (s : State) : Res := floatExact s h o 0x44 6 fun a b _ => fminmax false a b
/-- `FMAX` (R96). -/
def execFmax (h : Hdr) (o : AluArgs) (s : State) : Res := floatExact s h o 0x45 6 fun a b _ => fminmax true a b

/-- `FCMP` (R96), into the predicate as in R93. -/
def execFcmp (h : Hdr) (o : AluArgs) (s : State) : Res :=
  laneResult s h 6 o.d (srcsOf o) fun e l =>
    let ty := o.tyOf 0x46
    let t := (tyFmt ty).getD .f32
    let a := e.rdVec o.a l
    let b := e.vecB o l
    ((predOfElems ty fun i => fcmp o.sub (elemVal ty t a i) (elemVal ty t b i)).setWidth 64, 0)

/-- `FCLASS` (R97). -/
def execFclass (h : Hdr) (o : AluArgs) (s : State) : Res := floatCode s h o 0x47 6 fclass

/-- The integral value nearest in a mode (R95, `FRND`). -/
def roundIntegral (m : Rnd) (x : XVal) : XVal :=
  match x with
  | .fin neg n d => .fin neg (roundNat m neg 0 n d) 1
  | x => x

/-- `FRND` (Table 5.7), in a's format. -/
def execFrnd (h : Hdr) (o : AluArgs) (s : State) : Res :=
  floatCode s h o 0x48 6 fun t x => (convertF (roundIntegral o.rnd (t.value x)) t .rn false 0).1

/-- `FDOT2` (Table 5.7): `a0 × b0 + a1 × b1 + c`, rounded once to FP32. -/
def execFdot2 (h : Hdr) (o : AluArgs) (s : State) : Res :=
  laneResult (if o.rnd = .rs then s.tick else s) h 6 o.d (srcsOf o) fun e l =>
    let ty := o.tyOf 0x49
    let t := (tyFmt ty).getD .bf16
    let a := e.rdVec o.a l
    let b := e.vecB o l
    let rm := o.rnd == .rm
    let p0 := (elemVal ty t a 0).mul (elemVal ty t b 0)
    let p1 := (elemVal ty t a 1).mul (elemVal ty t b 1)
    let x := XVal.add rm (XVal.add rm p0 p1) (f32Val (e.rdVec o.c l))
    let (y, n) := convertF x .f32 o.rnd o.sat (s.random (4 * l))
    (BitVec.ofNat 64 y, n)

/-- A special function of one FP32 word per lane (R98). -/
def special (s : State) (h : Hdr) (o : AluArgs) (fn : SpecFn) : Res :=
  laneResult s h 16 o.d (srcsOf o) fun e l => ((specFn fn (e.rdVec o.a l)).setWidth 64, 0)

/-- `FRCP` (R98). -/
def execFrcp (h : Hdr) (o : AluArgs) (s : State) : Res := special s h o .rcp
/-- `FSQRT` (R98). -/
def execFsqrt (h : Hdr) (o : AluArgs) (s : State) : Res := special s h o .sqrt
/-- `FRSQ` (R98). -/
def execFrsq (h : Hdr) (o : AluArgs) (s : State) : Res := special s h o .rsq
/-- `FEXP2` (R98). -/
def execFexp2 (h : Hdr) (o : AluArgs) (s : State) : Res := special s h o .exp2
/-- `FLOG2` (R98). -/
def execFlog2 (h : Hdr) (o : AluArgs) (s : State) : Res := special s h o .log2
/-- `FSIN` (R98). -/
def execFsin (h : Hdr) (o : AluArgs) (s : State) : Res := special s h o .sin
/-- `FCOS` (R98). -/
def execFcos (h : Hdr) (o : AluArgs) (s : State) : Res := special s h o .cos

/-! ### Activation tables (R99, R100) -/

/-- The active bank of a table. -/
def ActTable.bank (t : ActTable) : ActBank := if t.active then t.b1 else t.b0

/-- The segment a value falls in (R100). -/
def ActBank.seg (b : ActBank) (x : W32) : Nat :=
  let key := if x.getLsbD 31 then ~~~x else x ^^^ 0x80000000#32
  let k : Int := (key.toNat / 2 ^ b.shift : Nat) - (b.base : Int)
  if k < 0 then 0 else min 255 k.toNat

/-- A coefficient of a segment. -/
def ActBank.c (b : ActBank) (seg i : Nat) : XVal := f32Val (b.coef.getD (3 * seg + i) 0)

/-- `Fact(x, bank)` (R100): two FFMA steps with `.rn`. -/
def factValue (b : ActBank) (x : W32) : W32 :=
  match f32Val x with
  | .nan => canonNan32
  | v =>
    let seg := b.seg x
    let t := roundF32 (XVal.add false (v.mul (b.c seg 2)) (b.c seg 1))
    f32Of (XVal.add false (v.mul t) (b.c seg 0))

/-- A bank that a warp of a launch may evaluate: loaded, valid, and loaded by that launch (R100). -/
def ActBank.usable (b : ActBank) (lid : Nat) : Bool := b.loaded && b.valid && b.owner == lid

/-- `FACT` (R100): binds the active bank of table SUB at issue. -/
def execFact (h : Hdr) (o : AluArgs) (s : State) : Res :=
  withEnv s fun e =>
    let b := (sget {} (s.bay e.f.bay).tables o.sub).bank
    if e.exec h ≠ [] && !b.usable e.f.lid then trap s e .actTable o.sub
    else laneResult s h 10 o.d (srcsOf o) fun e l => ((factValue b (e.rdVec o.a l)).setWidth 64, 0)

end Sys2Proof.Machine
end

