-- ==== Sys2Proof/Machine/Fetch.lean ====
section
/-! DEFINITION. Fetching and checking an instruction at an issue PC, in the order of R64, and what the issue of
an instruction adds around its meaning: the wait of R47 and the stops of runahead (R314). -/

namespace Sys2Proof.Machine

/-- What the checks of R64 find. -/
inductive Fetched where
  /-- a trap: its cause, TRAPVAL, the PC it is taken at and ILen -/
  | trap (cause : Cause) (val pc ilen : Nat) (late : Bool := false) (clears : Option Nat := none)
  /-- held on the counters of the WAIT field -/
  | wait (pc : Nat) (cs : List (Nat × Nat))
  /-- an instruction, where it starts and how long it is -/
  | instr (i : Instr) (pc len : Nat)
  deriving DecidableEq, Repr

/-- The address of a text offset of the launch whose text the warp runs (R44). -/
def Env.textAt (e : Env) (pc : Nat) : Nat := (Region.text e.t.lid).at pc

/-- The bytes at a PC: the longest instruction. -/
def Env.fetchBytes (s : State) (e : Env) (pc : Nat) : List Byte := readBytes s.mem (e.textAt pc) 16

/-- What legality depends on (R63, R61, Table 3.3, R196). -/
def Env.decCtx (e : Env) : DecCtx :=
  { encver := e.t.encver, priv := e.w.priv, ngroups := e.l.groups.length, width := e.l.width, textEnd := e.t.textEnd }

/-- The pending error that a wait on these counters takes: the first of them that has one (R181). -/
def Warp.firstErr (w : Warp) (cs : List Nat) : Option (Nat × Nat × Nat) :=
  (cs.find? fun c => (sget none w.errs c).isSome).bind fun c => (sget none w.errs c).map fun (a, b) => (c, a, b)

/-- The counters that still hold a wait; in runahead none does, for every operation of runahead has retired
and those before it count as retired (R314). -/
def Warp.waitsOn (w : Warp) (cs : List (Nat × Nat)) : List (Nat × Nat) :=
  if w.run.isSome then [] else cs.filter fun (c, n) => n < w.outstanding c

/-- The checks of R64 from the wait on: R47 and R181, then the decode checks and REG_RANGE. -/
def Env.checkAt (s : State) (e : Env) (pc : Nat) : Fetched :=
  let bs := e.fetchBytes s pc
  let len := (bs.headD 0).toNat % 4
  let n := lenBytes len
  let w0 := ofLe (bs.take 8)
  if 32 < pc % 32 + n then .trap .illegalPad (w0 % 2 ^ 32) pc 0
  else
    let cs := waitCounters (bits w0 24 13)
    let held := e.w.waitsOn (cs.map fun c => (c, 0))
    if held ≠ [] then .wait pc (cs.map fun c => (c, 0))
    else
      match if e.w.mode = .trap then none else e.w.firstErr cs with
      | some (c, cause, val) => .trap (Cause.ofCode cause) val pc n true (some c)
      | none =>
        match decodeBytes e.decCtx bs with
        | .error .illegalField => .trap .illegalField w0 pc n
        | .error _ => .trap .illegalOp w0 pc n
        | .ok (i, _) =>
          match regRange e.l.vregs e.l.sregs e.w.priv i with
          | some v => .trap .regRange v pc n
          | none => .instr i pc n

/-- One fetch-and-decode step at the issue PC (R64): the PC, the text bounds, one skipped pad, the block
boundary, then `checkAt`. -/
def Env.fetch (s : State) (e : Env) : Fetched :=
  let pc := e.c.pc
  let word := fun a => s.rd (e.textAt a) 4
  if pc % 4 ≠ 0 then .trap .illegalPad (word pc) pc 0
  else if pc < Config.textStart || e.t.textEnd ≤ pc then .trap .capBounds pc pc 0
  else if word pc % 4 = 3 then
    if (pc + 4) % 32 ≠ 0 then .trap .illegalPad (word pc) pc 0
    else if e.t.textEnd ≤ pc + 4 then .trap .capBounds (pc + 4) (pc + 4) 0
    else if word (pc + 4) % 4 = 3 then .trap .illegalPad (word (pc + 4)) (pc + 4) 0
    else e.checkAt s (pc + 4)
  else e.checkAt s pc

/-! ### Runahead (R314) -/

/-- The opcodes that are not speculable (R314). `MTS` and the capability instructions that write a capability
register are among them; so are `SHJOIN`, `SHLEAVE` and every privileged instruction, which runs in a routine
only. -/
def notSpeculable (op : Nat) : Bool :=
  (0x86 ≤ op && op ≤ 0x89) || op == 0x8B || op == 0x8C || op == 0x91 || (0x93 ≤ op && op ≤ 0x9E) || op == 0x52 ||
  op == 0x79 || (0xA1 ≤ op && op ≤ 0xA3) || (0xA5 ≤ op && op ≤ 0xA9) || (0xAC ≤ op && op ≤ 0xAE) ||
  (0xB0 ≤ op && op ≤ 0xB2) || (0xB4 ≤ op && op ≤ 0xB7) || (0xC0 ≤ op && op ≤ 0xC7) || (0xD0 ≤ op && op ≤ 0xDE) ||
  (0xE0 ≤ op && op ≤ 0xE3) || (0xE5 ≤ op && op ≤ 0xEA)

/-- The registers an instruction that may run ahead writes: (0 vector, 1 scalar, 2 predicate) and number. -/
def writtenRegs (i : Instr) : List (Nat × Nat) :=
  let ofOpd (n : Nat) : Opd → List (Nat × Nat)
    | .v r => (List.range n).map fun j => (0, r + j)
    | .vp r => [(0, r), (0, r + 1)]
    | .s r => [(1, r)]
    | .sp r => [(1, r), (1, r + 1)]
    | .p r => if r = 0 then [] else [(2, r)]
    | _ => []
  match i.parts with
  | some (_, _, .alu o) => ofOpd 1 o.d
  | some (_, _, .smovi o) => [(1, o.d)]
  | some (op, _, .mem o) => if op = 0x80 || op = 0x82 || op = 0x84 then ofOpd (memRegs op o.sz) o.d else []
  | _ => []

/-- The undo room an entry takes (R313). -/
def undoBytes (width : Nat) (k : Nat) : Nat := 8 + if k = 0 then 4 * width else if k = 1 then 8 else width / 2

/-- What runahead does before an instruction: it goes on with the warp as given, or stops (`none`). The
faulting instruction, the first, always issues. -/
def Env.runCheck (e : Env) (r : Run) (i : Instr) : Option Warp :=
  match i.parts with
  | none => none
  | some (op, h, _) =>
    let new := if e.exec h = [] then [] else (writtenRegs i).filter fun x => !r.logged.contains x
    let need := (new.map fun (k, _) => undoBytes e.l.width k).sum
    let r' := { r with issued := r.issued + 1, undo := r.undo + need, logged := r.logged ++ new }
    let w := { e.w with run := some r' }
    if r.issued = 0 then some w
    else if 513 ≤ r.issued + 1 || 16384 < r.undo + need || notSpeculable op then none
    else some w

/-- What an issue does before its instruction's meaning: it stops here with a state, or goes on with an
instruction in a state. -/
inductive Ready where
  | stop (s : State)
  | go (i : Instr) (s : State)
  deriving DecidableEq, Repr

/-- Writes due land, the instruction is fetched and checked; traps, holds and the end of runahead are taken
here (R64, R47, R85, R314). -/
def readyIssue (s : State) (c : Issue) : Ready :=
  match (s.modWarp ⟨c.fid, c.widx⟩ fun w => w.landDue s.now).env with
  | none => .stop { s with cur := none }
  | some e =>
    let s := s.setWarp c.fid e.w
    match e.fetch s with
    | .trap cause val pc ilen late clears =>
      if e.w.run.isSome then .stop (stopRun s c.fid e.l.ctx e.w)
      else
        let s := match clears with | some k => s.setWarp c.fid (e.w.clearErr k) | none => s
        .stop (takeTrap s c.fid c.widx c.lanes pc ilen cause val none late)
    | .wait pc cs => .stop (s.endIssue c.fid { e.w with hold := some { why := .counters cs, pc := pc, lanes := c.lanes } })
    | .instr i pc len =>
      let cur := some { c with pc := pc, len := len }
      match e.w.run with
      | none => .go i { s with cur := cur }
      | some r =>
        match e.runCheck r i with
        | none => .stop (stopRun s c.fid e.l.ctx e.w)
        | some w => .go i { s.setWarp c.fid w with cur := cur }

/-! ### Placing an instruction where the next step fetches (DESIGN CHOICE, log 13) -/

/-- A launch of one frame of one width-16 warp, the largest allocations, with 32 bytes of text. -/
def loadedLaunch : Launch :=
  { lid := 0, prog := 0, width := 16, vregs := 1024, sregs := 96, groups := [[0]], textEnd := 0x120, scratch := 65536, dataSize := 65536 }

/-- Its frame, as R234 starts it, in the mode that may run the instruction. -/
def loadedFrame (mode : Mode) : Frame :=
  { fid := 0, lid := 0, barriers := [{}]
    warps := [{ idx := 0, core := 0, part := 0, slot := 0, mode := mode, wc := { lanes := List.replicate 16 { pc := 0x100, st := .live } } }] }

/-- The word stored where the next step fetches it: at the issue in progress when it lies inside its text, else
as the only instruction of a launch placed for it. -/
def placeWord (s : State) (nbits w : Nat) : State :=
  let n := w % 2 ^ nbits
  match s.env with
  | some e => { s with mem := writeBytes s.mem (e.textAt e.c.pc) (leBytes 16 n) }
  | none =>
    let mode := if privilegedOp (bits n 9 2) then .trap else .user
    let c : Issue := { fid := 0, widx := 0, pc := 0x100, len := 0, lanes := List.range 16 }
    { s with
      mem := writeBytes s.mem ((Region.text 0).at 0x100) (leBytes 16 n)
      launches := loadedLaunch :: s.launches
      frames := loadedFrame mode :: s.frames
      cur := some c }

end Sys2Proof.Machine
end

