-- ==== Sys2Proof/Machine/Translate.lean ====
section
/-! DEFINITION. Address translation: the Sv57 walk with Svadu updates and the second stage Sv57x4 (R286, R287),
the interrupt windows of the queue interfaces (R296), the TLBs, the walk cache and the last-page registers
(R288, R289). -/

namespace Sys2Proof.Machine

/-- What an access does: the permissions it needs (R286). -/
inductive Acc where
  | r | w | a
  deriving DecidableEq, Repr

def Acc.reads : Acc → Bool
  | .w => false
  | _ => true

def Acc.writes : Acc → Bool
  | .r => false
  | _ => true

/-- A leaf translation: the physical page, the guest-physical page behind it, and its permissions and D bit. -/
structure Leaf where
  pa : Nat
  gpn : Nat := 0
  r : Bool
  w : Bool
  d : Bool
  /-- a page of an interrupt window: not cached, not translated by stage 2 -/
  msi : Bool := false
  deriving DecidableEq, Repr

/-- What a translation gives. -/
inductive Xl where
  | ok (l : Leaf)
  | perm
  /-- V = 0: the page to ask for, and whether it is guest-physical (R317) -/
  | absent (page : Nat) (stage2 : Bool)
  deriving DecidableEq, Repr

/-! ### One stage -/

/-- What one page-table entry says at a level (R286). -/
inductive PteKind where
  | absent | bad | table (a : Nat) | leaf (a : Nat)
  deriving DecidableEq, Repr

/-- An entry read: V, the reserved bits, the reserved W without R, a leaf with U and an aligned superpage, or a
table below (R286). -/
def pteKind (level pte : Nat) : PteKind :=
  let ppn := bits pte 53 10
  if !bitOf pte 0 then .absent
  else if bits pte 63 54 ≠ 0 then .bad
  else if bitOf pte 2 && !bitOf pte 1 then .bad
  else if bitOf pte 1 || bitOf pte 3 then
    if !bitOf pte 4 || ppn % 2 ^ (9 * level) ≠ 0 then .bad else .leaf (4096 * ppn)
  else if level = 0 then .bad else .table (4096 * ppn)

/-- The leaf grants the access (R286). -/
def pteGrants (pte : Nat) (acc : Acc) : Bool := (!acc.reads || bitOf pte 1) && (!acc.writes || bitOf pte 2)

/-- The entry with A set, and D set on a write (Svadu, R286). -/
def pteUsed (pte : Nat) (acc : Acc) : Nat :=
  let p := if bitOf pte 6 then pte else pte + 64
  if acc.writes && !bitOf p 7 then p + 128 else p

/-- The index into a table at a level; the root of the second stage has 2048 entries (Sv57x4). -/
def ptIndex (va level : Nat) (wide : Bool) : Nat := (va / 2 ^ (12 + 9 * level)) % (if wide then 2048 else 512)

/-- The leaf of an entry at a level, for a 4 KiB page of the address. -/
def leafOf (a va level pte : Nat) : Leaf :=
  let base := a + (va % 2 ^ (12 + 9 * level)) / 4096 * 4096
  { pa := base, gpn := base / 4096, r := bitOf pte 1, w := bitOf pte 2, d := bitOf pte 7 }

/-- One entry at a level: a result, or the table below. An entry in use gets A, and D on a write, through `put`,
which writes it (or fails to reach it). -/
def pteStep (m : List Host.Cell) (at_ va level : Nat) (acc : Acc) (stage2 : Bool)
    (put : Nat → List Host.Cell × Option Xl) : (List Host.Cell × Xl) ⊕ Nat :=
  let pte := readNat m at_ 8
  match pteKind level pte with
  | .absent => .inl (m, .absent (va / 4096 * 4096) stage2)
  | .bad => .inl (m, .perm)
  | .table a => .inr a
  | .leaf a =>
    if pteGrants pte acc then
      let p := pteUsed pte acc
      if p = pte then .inl (m, .ok (leafOf a va level p))
      else
        match put p with
        | (m, none) => .inl (m, .ok (leafOf a va level p))
        | (m, some x) => .inl (m, x)
    else .inl (m, .perm)

/-- The second-stage walk from a table at a level (R287): memory with A and D updated, and the result. -/
def walk2 (m : List Host.Cell) (ga : Nat) (acc : Acc) : Nat → Nat → List Host.Cell × Xl
  | level, table =>
    let at_ := table + 8 * ptIndex ga level (level == 4)
    match pteStep m at_ ga level acc true (fun p => (writeNat m at_ 8 p, none)) with
    | .inl x => x
    | .inr t =>
      match level with
      | 0 => (m, .perm)
      | l + 1 => walk2 m ga acc l t

/-- A guest-physical address through the second stage when there is one (R287): a 59-bit address. -/
def stage2 (m : List Host.Cell) (root : Option Nat) (ga : Nat) (acc : Acc) : List Host.Cell × Xl :=
  match root with
  | none => (m, .ok { pa := ga / 4096 * 4096, gpn := ga / 4096, r := true, w := true, d := true })
  | some t => if 2 ^ 59 ≤ ga then (m, .perm) else walk2 m ga acc 4 t

/-- The first-stage walk from a table at a level (R286, R287). Every table access goes through the second stage.
`msi` names the pages that an interrupt window takes over (R296). Besides the result, the tables passed. -/
def walk1 (m : List Host.Cell) (root2 : Option Nat) (va : Nat) (acc : Acc) (msi : Nat → Option Xl) :
    Nat → Nat → List (Nat × Nat) → List Host.Cell × Xl × List (Nat × Nat)
  | level, table, seen =>
    let ea := table + 8 * ptIndex va level false
    match stage2 m root2 ea .r with
    | (m, .ok at_) =>
      let put := fun p =>
        match stage2 m root2 ea .w with
        | (m, .ok at_) => (writeNat m (at_.pa + ea % 4096) 8 p, none)
        | (m, x) => (m, some x)
      match pteStep m (at_.pa + ea % 4096) va level acc false put with
      | .inr t =>
        match level with
        | 0 => (m, .perm, seen)
        | l + 1 => walk1 m root2 va acc msi l t (seen ++ [(l, t)])
      | .inl (m, .ok leaf) =>
        match msi leaf.pa with
        | some x => (m, x, seen)
        | none =>
          match stage2 m root2 leaf.pa acc with
          | (m, .ok l2) =>
            (m, .ok { pa := l2.pa, gpn := leaf.pa / 4096, r := leaf.r && l2.r, w := leaf.w && l2.w, d := leaf.d && l2.d }, seen)
          | (m, x) => (m, x, seen)
      | .inl (m, x) => (m, x, seen)
    | (m, x) => (m, x, seen)

/-! ### A context's translation -/

/-- ROOT and HGATP by their fields. -/
def CtxObj.asid (c : CtxObj) : Nat := bits c.root.toNat 59 44
def CtxObj.vmid (c : CtxObj) : Nat := bits c.hgatp.toNat 57 44
def CtxObj.two (c : CtxObj) : Bool := c.hgatp != 0
def CtxObj.table1 (c : CtxObj) : Nat := 4096 * bits c.root.toNat 43 0
def CtxObj.table2 (c : CtxObj) : Option Nat := if c.two then some (4096 * bits c.hgatp.toNat 43 0) else none

/-- The address is canonical: bits [63:57] repeat bit 56 (R286). -/
def canonical (va : Nat) : Bool := bits va 63 57 == (if bitOf va 56 then 127 else 0)

/-- The interfaces, as (port, number), that hold a queue of a context. -/
def State.interfacesOf (s : State) (ctx : Nat) : List (Nat × Nat) :=
  s.scribe.queues.filterMap fun (_, q) => q.bind fun q => if q.ctx = ctx then some (q.port, q.qif) else none

/-- The MSI check of R296 for a store of `n` bytes at page offset `o` to a guest-physical page: `none` outside
every interrupt window of the context. -/
def State.msiPage (s : State) (ctx : Nat) (acc : Acc) (o n : Nat) (g : Nat) : Option Xl :=
  if acc ≠ .w then none
  else
    let regs := (s.interfacesOf ctx).map fun (p, i) => sget ({} : QifRegs) (s.port p).qif i
    match regs.find? fun q => let b := 2 ^ 18 * bits q.msib.toNat 58 18; b ≤ g && g < b + 2 ^ 18 with
    | none => none
    | some q =>
      let b := 2 ^ 18 * bits q.msib.toNat 58 18
      let e := s.rd (4096 * bits q.msit.toNat 63 12 + 8 * ((g - b) / 4096)) 8
      if !bitOf e 0 || !bitOf q.msib.toNat 0 || o ≠ 0 || n ≠ 4 then some .perm
      else some (.ok { pa := 4096 * bits e 63 12, gpn := g / 4096, r := false, w := true, d := true, msi := true })

/-! ### The caches (R288, R289) -/

/-- Whose caches a translation uses: none for work in flight (R291), else the core, the frame and its set
count on the core. -/
structure TlbUse where
  core : Nat
  fid : Nat
  sets : Nat
  deriving DecidableEq, Repr

def bayOf (core : Nat) : Nat := core / Config.coresPerBay
def dieOfCore (core : Nat) : Nat := bayOf core / Config.baysPerDie

/-- An entry grants an access; a write needs D = 1. -/
def TlbEnt.serves (t : TlbEnt) (acc : Acc) : Bool := (!acc.reads || t.r) && (!acc.writes || (t.w && t.d))

def TlbEnt.leaf (t : TlbEnt) : Leaf := { pa := 4096 * t.ppn, gpn := t.gpn, r := t.r, w := t.w, d := t.d }

/-- An entry is for a page of a context. -/
def TlbEnt.isFor (t : TlbEnt) (c : CtxObj) (vpn : Nat) : Bool :=
  t.asid == c.asid && t.vmid == c.vmid && t.two == c.two && t.vpn == vpn

/-- A new entry replaces its page's, and the oldest of its set when that holds `cap` entries. -/
def tlbAdd (ts : List TlbEnt) (t : TlbEnt) (sameSet : TlbEnt → Bool) (cap : Nat) : List TlbEnt :=
  let ts := ts.filter fun u =>
    !(u.at_ == t.at_ && u.fid == t.fid && u.asid == t.asid && u.vmid == t.vmid && u.vpn == t.vpn && u.two == t.two &&
      u.level == t.level)
  let full := cap ≤ (ts.filter sameSet).length
  let ts := if full then match ts.find? sameSet with | some o => ts.erase o | none => ts else ts
  ts ++ [t]

/-- The set of the L1 TLB that holds a page of a frame (R288). -/
def l1Same (u : TlbUse) (vpn : Nat) (t : TlbEnt) : Bool :=
  t.at_ == .l1 u.core && t.fid == u.fid && t.vpn % u.sets == vpn % u.sets

/-- A leaf loaded into the L1 TLB of the core and the L2 TLB of its bay. -/
def State.tlbFill (s : State) (u : TlbUse) (c : CtxObj) (vpn : Nat) (l : Leaf) : State :=
  let mk (a : TlbAt) (fid : Nat) : TlbEnt :=
    { at_ := a, fid := fid, asid := c.asid, vmid := c.vmid, vpn := vpn, ppn := l.pa / 4096, two := c.two, gpn := l.gpn, r := l.r, w := l.w, d := l.d }
  let a2 := TlbAt.l2 (bayOf u.core)
  let ts := tlbAdd s.tlb (mk (.l1 u.core) u.fid) (l1Same u vpn) 16
  let ts := tlbAdd ts (mk a2 0) (fun t => t.at_ == a2) 4096
  { s with tlb := ts }

/-- The tables a walk passed, loaded into the walk cache of the die. -/
def State.walkFill (s : State) (u : TlbUse) (c : CtxObj) (va : Nat) (seen : List (Nat × Nat)) : State :=
  let a := TlbAt.walk (dieOfCore u.core)
  let one (ts : List TlbEnt) (x : Nat × Nat) : List TlbEnt :=
    tlbAdd ts { at_ := a, asid := c.asid, vmid := c.vmid, vpn := va / 2 ^ (21 + 9 * x.1), ppn := x.2 / 4096, two := c.two, level := x.1, r := false, w := false, d := false } (fun t => t.at_ == a) 1024
  { s with tlb := seen.foldl one s.tlb }

/-- The deepest table of an address that the walk cache names: its level and address. -/
def State.walkHit (s : State) (u : TlbUse) (c : CtxObj) (va : Nat) : Option (Nat × Nat) :=
  let a := TlbAt.walk (dieOfCore u.core)
  let at_ (l : Nat) : Option (Nat × Nat) :=
    (s.tlb.find? fun t => t.at_ == a && t.level == l && t.isFor c (va / 2 ^ (21 + 9 * l))).map fun t => (l, 4096 * t.ppn)
  (at_ 0).orElse fun _ => (at_ 1).orElse fun _ => (at_ 2).orElse fun _ => at_ 3

/-- The walk of a page of a context, from the deepest cached table or from ROOT, in memory `m`. -/
def State.walkPage (s : State) (u : Option TlbUse) (ctx : Nat) (c : CtxObj) (va : Nat) (acc : Acc) (o n : Nat) :
    List Host.Cell × Xl × List (Nat × Nat) :=
  let msi := if c.two then s.msiPage ctx acc o n else fun _ => none
  match u.bind fun u => s.walkHit u c va with
  | some (l, t) => walk1 s.mem c.table2 va acc msi l t []
  | none => walk1 s.mem c.table2 va acc msi 4 c.table1 []

/-! ### What no translation reaches (R2, R18, R21) -/

/-- Two ranges of addresses meet. -/
def spansMeet (a n b m : Nat) : Bool := decide (a < b + m) && decide (b < a + n)

/-- The plan by address and length, as the last good pass read its header. -/
def State.planSpans (s : State) : List (Nat × Nat) :=
  (match s.planHeader with | some h => [(h, 256)] | none => []) ++ s.scribe.hdr.arrays.map fun (a, n) => (a, 256 * n)

/-- An access of `n` bytes at a physical address that a context's tables must not lead to: the spare region, which no MAPPING
maps and which holds the as-built table (R18, R256), and for a write the plan (R2, R21). The access takes PERM (DEDUCED,
log 48). -/
def State.offLimits (s : State) (acc : Acc) (a n : Nat) : Bool :=
  spansMeet a n (s.dev (Config.devBytes - Config.spareBytes)) Config.spareBytes ||
    (acc.writes && s.planSpans.any fun (b, m) => spansMeet a n b m)

/-- A translation that leads to what no context may reach gives PERM. -/
def State.permit (s : State) (va : Nat) (acc : Acc) (n : Nat) : Xl → Xl
  | .ok l => if s.offLimits acc (l.pa + va % 4096) (min n (4096 - va % 4096)) then .perm else .ok l
  | x => x

/-- A write of a context with two stages whose guest-physical page lies in an interrupt window of one of its interfaces is
answered by the window, whatever is cached (R296). -/
def State.inWindow (s : State) (ctx : Nat) (c : CtxObj) (acc : Acc) (gpn : Nat) : Bool :=
  c.two && (s.msiPage ctx acc 0 4 (4096 * gpn)).isSome

/-- One page of a virtual address translated for an access of `n` bytes: L1 TLB, L2 TLB, then the walk (R286 to R289). The
state gets the walk's A and D updates and the caches' new entries. -/
def State.lookup (s : State) (u : Option TlbUse) (ctx : Nat) (va : Nat) (acc : Acc) (n : Nat) : State × Xl :=
  match s.ctxObj ctx with
  | none => (s, .perm)
  | some c =>
    if !canonical va then (s, .perm)
    else
      let vpn := va / 4096
      let hit (a : TlbAt) (fid : Nat) : Option TlbEnt :=
        s.tlb.find? fun t => t.at_ == a && t.fid == fid && t.isFor c vpn && t.serves acc && !s.inWindow ctx c acc t.gpn
      let cached := u.bind fun u => (hit (.l1 u.core) u.fid).orElse fun _ => hit (.l2 (bayOf u.core)) 0
      match cached, u with
      | some t, some u => (s.tlbFill u c vpn t.leaf, .ok t.leaf)
      | _, _ =>
        let (m, x, seen) := s.walkPage u ctx c va acc (va % 4096) n
        let s := s.setMem m
        match u, x with
        | some u, .ok l => if l.msi then (s, x) else ((s.walkFill u c va seen).tlbFill u c vpn l, x)
        | _, _ => (s, x)

/-- TRANSLATION of one page of a virtual address for an access of `n` bytes. -/
def State.translate (s : State) (u : Option TlbUse) (ctx : Nat) (va : Nat) (acc : Acc) (n : Nat) : State × Xl :=
  let (t, x) := s.lookup u ctx va acc n
  (t, s.permit va acc n x)

/-- A lane's translation (R289): its last-page register when it serves, else `translate`, which then loads the
register. -/
def State.laneTranslate (s : State) (w : Warp) (u : TlbUse) (lane ctx va : Nat) (acc : Acc) (n : Nat) :
    State × Warp × Xl :=
  let c := (s.ctxObj ctx).getD {}
  let serves (p : LastPage) : Bool :=
    p.asid == c.asid && p.vmid == c.vmid && p.two == c.two && p.vpn == va / 4096 && p.u &&
    (!acc.reads || p.r) && (!acc.writes || (p.w && p.d)) && !s.inWindow ctx c acc p.gpn
  match (w.lane lane).lastPage.filter serves with
  | some p => (s, w, s.permit va acc n (.ok { pa := p.pa, gpn := p.gpn, r := p.r, w := p.w, d := p.d }))
  | none =>
    match s.translate (some u) ctx va acc n with
    | (s, .ok l) =>
      if l.msi then (s, w, .ok l)
      else
        let p : LastPage :=
          { asid := c.asid, vmid := c.vmid, vpn := va / 4096, pa := l.pa, r := l.r, w := l.w, u := true, d := l.d, two := c.two, gpn := l.gpn }
        (s, w.mapLanes [lane] fun _ x => { x with lastPage := some p }, .ok l)
    | (s, x) => (s, w, x)

end Sys2Proof.Machine
end

