-- ==== Sys2Proof/Machine/Access.lean ====
section
/-! DEFINITION. The checks on every access (R167): translation of each page of a range, bounds, permissions and
generations, and what they find. -/

namespace Sys2Proof.Machine

/-! ### What a check finds -/

/-- An absent page that a check met. -/
structure Absent where
  page : Nat
  stage2 : Bool
  off : Nat
  write : Bool
  deriving DecidableEq, Repr

/-- The outcome of the checks of one range. -/
inductive Chk where
  | ok (m : PMap)
  | absent (ps : List Absent)
  | trap (cause : Cause) (val : Nat)
  | hold (why : HoldWhy)
  deriving DecidableEq, Repr

/-- What threads through the checks of an instruction: the state with the walks' effects, and the warp. -/
structure Xst where
  s : State
  w : Warp
  deriving DecidableEq, Repr

/-- Who translates: a lane of a warp, or nobody's caches (work in flight, R291). -/
inductive Who where
  | lane (u : TlbUse) (l : Nat)
  | agent
  deriving DecidableEq, Repr

/-- One page of a space. -/
def Xst.page (x : Xst) (who : Who) (sp : Space) (acc : Acc) (a n : Nat) : Xst × Chk :=
  let lin := fun (r : Region) => (x, Chk.ok [(a / 4096, r.at (a / 4096 * 4096))])
  let member := fun (f : Frame) (o : Nat) =>
    match x.s.launch? f.lid with
    | none => (x, Chk.trap .capBounds 0)
    | some l =>
      if o < l.scratch then
        if f.resident then (x, Chk.ok [(a / 4096, (Region.scratch f.fid).at (o / 4096 * 4096))])
        else (x, Chk.hold (.window l.prog f.idx))
      else (x, Chk.trap .capBounds 0)
  match sp with
  | .lin r => lin r
  | .win p i => match x.s.frameNamed p i with | some f => member f a | none => (x, .hold (.window p i))
  | .own fid =>
    match x.s.frame? fid with
    | some f => match x.s.launch? f.lid with
      | some l => if f.resident then lin (.scratch fid) else (x, .hold (.window l.prog f.idx))
      | none => lin (.scratch fid)
    | none => lin (.scratch fid)
  | .circ ctx num grant =>
    let m := a / (4 * 2 ^ 20)
    let now := (x.s.circle ctx num).slots.getD m {}
    let (j, had) := grant.getD m (0, false)
    let leaves := now.joins + natOf had - (j + natOf now.member.isSome)
    if leaves ≠ 0 then (x, .trap .capRevoked 0)
    else match now.member.bind x.s.frame? with
      | some f => member f (a % (4 * 2 ^ 20))
      | none => (x, .trap .capBounds 0)
  | .va ctx =>
    let r := match who with
      | .lane u l => let (s, w, r) := x.s.laneTranslate x.w u l ctx a acc n; (Xst.mk s w, r)
      | .agent => let (s, r) := x.s.translate none ctx a acc n; (Xst.mk s x.w, r)
    match r with
    | (x, .ok l) => (x, .ok [(a / 4096, l.pa)])
    | (x, .perm) => (x, .trap .perm 0)
    | (x, .absent p st2) => (x, .absent [⟨p, st2, 0, acc.writes⟩])
  | .regs p i =>
    match x.s.frameNamed p i with
    | some f => if f.resident then (x, .ok [(a / 4096, 0)]) else (x, .hold (.window p i))
    | none => (x, .hold (.window p i))
  | .slots p i =>
    match x.s.frameNamed p i with
    | some f =>
      if !f.resident then (x, .hold (.window p i))
      else if (x.s.bay f.bay).slots.any fun (k, sl) => k == a / 16384 && sl.owner == f.fid && !sl.released then
        (x, .ok [(a / 4096, 0)])
      else (x, .trap .capBounds 0)
    | none => (x, .hold (.window p i))
  | .list => (x, .trap .capPerm 0)

/-- The addresses of a range by page: the first address on each page, with the index of its byte. -/
def pageStarts (as : List Nat) : List (Nat × Nat) :=
  (as.zipIdx).foldl (fun ps (a, i) => if ps.any fun (b, _) => b / 4096 == a / 4096 then ps else ps ++ [(a, i)]) []

/-- Every page of a range in order; the first trap or hold decides, absent pages collect (R313, R317). -/
def Xst.pages (x : Xst) (who : Who) (sp : Space) (acc : Acc) (n : Nat) (off : Nat → Nat) :
    List (Nat × Nat) → Xst × Chk
  | [] => (x, .ok [])
  | (a, i) :: r =>
    match x.page who sp acc a n with
    | (x, .trap c _) => (x, .trap c (off i))
    | (x, .hold y) => (x, .hold y)
    | (x, .ok m) =>
      match x.pages who sp acc n off r with
      | (x, .ok m') => (x, .ok (m ++ m'))
      | y => y
    | (x, .absent ps) =>
      let ps := ps.map fun p => { p with off := off i }
      match x.pages who sp acc n off r with
      | (x, .absent qs) => (x, .absent (ps ++ qs))
      | (x, .ok _) => (x, .absent ps)
      | y => y

/-- How an instruction may use a capability beyond its permission bits. -/
structure Use where
  acc : Acc
  /-- the access names `cc11` (R172) -/
  cc11 : Bool := false
  /-- the kinds of capability the instruction may use (Table 8.1) -/
  kinds : List Nat := [0, 1, 2, 6, 7]
  deriving DecidableEq, Repr

/-- The permission bits an access needs (R167, R171, R172, R173, Table 8.1). -/
def Cap.allows (c : Cap) (u : Use) : Bool :=
  u.kinds.contains c.kind &&
  (match u.acc with
   | .r => c.perm.getLsbD 0
   | .w => c.perm.getLsbD 1
   | .a => c.perm.getLsbD 2) &&
  (c.view == 0 || u.acc == .r) && (c.kind != 1 || u.cc11)

/-- Steps 3 and 4 of R167 for `n` bytes at an offset of a capability. -/
def Xst.capRange (x : Xst) (who : Who) (c : Cap) (off n : Nat) (u : Use) : Xst × Chk :=
  if c.len < off + n then (x, .trap .capBounds (max off c.len % 2 ^ 64))
  else if c.view ≠ 0 && c.geom = 0 then (x, .trap .capBounds off)
  else if !c.allows u then (x, .trap .capPerm off)
  else if !x.s.current c then (x, .trap .capRevoked off)
  else
    let (sp, add) := x.s.space c
    let as := (rawAddrs c (c.base + off) n).map fun a => a + add
    let per := if c.view = 0 || n = 0 then 1 else as.length / n
    x.pages who sp u.acc n (fun i => off + i / per) (pageStarts as)

/-- One side of an access: the frame's own scratchpad or a capability. -/
def Xst.range (x : Xst) (who : Who) (f : Frame) (l : Launch) (r : MemRef) (n : Nat) (u : Use) : Xst × Chk :=
  if r.scr then
    if l.scratch < r.off + n then (x, .trap .scratchBounds (max r.off l.scratch))
    else (x, .ok ((pageStarts ((List.range n).map fun i => r.off + i)).map fun (a, _) => (a / 4096, (Region.scratch f.fid).at (a / 4096 * 4096))))
  else x.capRange who r.cap r.off n u
end Sys2Proof.Machine
end

