-- ==== Sys2Proof/Machine/MemCheck.lean ====
section
/-! DEFINITION. The checks of one instruction over its executing lanes (R167), absent pages and runahead (R313,
R314, R310), the comparison of shadow lanes (R331), end-to-end errors at a core (R321, R332), the enrolment of an
operation, and the dependency decrement (R193). -/

namespace Sys2Proof.Machine

/-- A lane's access that passed: its offset and its pages; `none` for a lane that meets an absent page, or that
a ghost address skips. -/
structure LaneAcc where
  lane : Nat
  off : Nat
  m : Option PMap
  deriving DecidableEq, Repr

/-- What the checks of an instruction find. -/
inductive MemChk where
  | ok (ls : List LaneAcc) (absent : List (Nat × Absent))
  | trap (cause : Cause) (val lane : Nat)
  | hold (why : HoldWhy)
  deriving DecidableEq, Repr

/-- Whose TLB entries the warp's accesses use (R288). -/
def Env.tlbUse (e : Env) : TlbUse :=
  let n := (e.f.tlbSets.find? fun x => x.1 == e.w.core).elim 2 Prod.snd
  { core := e.w.core, fid := e.f.fid, sets := max n 1 }

/-- One lane's access checked (R167): alignment, a negative sum, then the range. -/
def Xst.lane (x : Xst) (e : Env) (lane : Nat) (off : Int) (align n : Nat) (r : Nat → MemRef) (u : Use) : Xst × Chk :=
  let val := (off % (2 ^ 64 : Nat)).toNat
  if align ≠ 0 && val % align ≠ 0 then (x, .trap .misalign val)
  else if off < 0 then (x, .trap .capBounds val)
  else x.range (.lane e.tlbUse lane) e.f e.l (r off.toNat) n u

/-- Every executing lane in ascending order: the first trap or hold decides; absent pages collect. An offset that
is `none` is a ghost: the lane is skipped (R314). -/
def Xst.lanes (e : Env) (align n : Nat) (r : Nat → MemRef) (u : Use) :
    List (Nat × Option Int) → Xst → List LaneAcc → List (Nat × Absent) → Xst × MemChk
  | [], x, ls, ab => (x, .ok ls ab)
  | (l, none) :: rest, x, ls, ab => Xst.lanes e align n r u rest x (ls ++ [⟨l, 0, none⟩]) ab
  | (l, some off) :: rest, x, ls, ab =>
    match x.lane e l off align n r u with
    | (x, .ok m) => Xst.lanes e align n r u rest x (ls ++ [⟨l, off.toNat, some m⟩]) ab
    | (x, .absent ps) => Xst.lanes e align n r u rest x (ls ++ [⟨l, off.toNat, none⟩]) (ab ++ ps.map fun p => (l, p))
    | (x, .trap c v) => (x, .trap c v l)
    | (x, .hold y) => (x, .hold y)

/-! ### Absent pages (R310, R313, R314, R316) -/

/-- Pages added to a run until 64 are held; whether a 65th was met. -/
def collectPages : List RunPage → List RunPage → List RunPage × Bool
  | ps, [] => (ps, false)
  | ps, p :: r =>
    let qs := addPage ps p
    if 64 < qs.length then (ps, true) else collectPages qs r

/-- Another warp of the partition runs ahead (R313). -/
def State.runBusy (s : State) (e : Env) : Bool :=
  s.frames.any fun f => f.warps.any fun w =>
    w.run.isSome && w.core == e.w.core && w.part == e.w.part && !(f.fid == e.c.fid && w.idx == e.w.idx)

/-- An absent page met by an instruction outside runahead: the accesses of the warp in flight are performed, so that what runs
ahead sees its own stores (R163); then in a routine the group of that instruction alone;
without a page-request ring PAGE_ABSENT; else the warp checkpoints and runs ahead from this instruction, unless
another warp of the partition does. -/
def absentFault (s : State) (e : Env) (ab : List (Nat × Absent)) : Res :=
  let (s, w) := performAll s e.c.fid e.w
  let s := s.setWarp e.c.fid w
  let e := { e with w := w }
  let pages := ab.map fun (l, p) => (⟨p.page, p.write, p.stage2, e.visIdx l, 0, e.c.pc, p.off⟩ : RunPage)
  let first := ab.headD (0, ⟨0, false, 0, false⟩)
  match s.requestPort with
  | none => trap s e .pageAbsent first.2.off (some (e.visIdx first.1))
  | some _ =>
    if e.w.priv then
      .next (askPages s e.c.fid e.l.ctx e.w e.c.pc e.c.lanes (collectPages [] (pages.foldl addPage [])).1)
    else if s.runBusy e then holdAt s e .undo
    else
      let w := { e.w with run := some { ckpt := e.w.wc, pc := e.c.pc, lanes := e.c.lanes } }
      .next (s.setWarp e.c.fid w)

/-- An instruction's checks outside and inside runahead. Outside, `k` goes on with the state of the walks. In
runahead absent pages are collected, and `ra` goes on where the instruction is speculable (`spec`); the walks'
effects are dropped. -/
def afterChecks (s : State) (e : Env) (res : Xst × MemChk) (spec : Bool)
    (k : State → Env → List LaneAcc → Res) (ra : State → Env → List LaneAcc → Res) : Res :=
  match res with
  | (_, .trap c v l) => trap s e c v (some (e.visIdx l))
  | (_, .hold y) => if e.w.run.isSome then .next (stopRun s e.c.fid e.l.ctx e.w) else holdAt s e y
  | (x, .ok ls ab) =>
    match e.w.run with
    | none => if ab = [] then k x.s { e with w := x.w } ls else absentFault s e ab
    | some r =>
      let new := ab.map fun (l, p) => (⟨p.page, p.write, p.stage2, e.visIdx l, r.issued - 1, e.c.pc, p.off⟩ : RunPage)
      let (ps, full) := collectPages r.pages new
      let w := { e.w with run := some { r with pages := ps } }
      if full || !spec then .next (stopRun s e.c.fid e.l.ctx w) else ra s { e with w := w } ls

/-! ### Shadow lanes (R331) -/

/-- What a lane presents for the comparison: its address and data. -/
abbrev Shown := Option (Int × List Byte)

/-- The first pair of lanes whose addresses or data differ, with the even lane's address. -/
def shadowDiff (e : Env) (shown : Nat → Shown) : Option Nat :=
  if !e.l.prot then none
  else
    let bad := (List.range (e.l.width / 2)).find? fun j => shown (2 * j) != shown (2 * j + 1)
    bad.map fun j => (((shown (2 * j)).orElse fun _ => shown (2 * j + 1)).elim 0 fun x => (x.1 % (2 ^ 64 : Nat)).toNat)

/-! ### End-to-end checks of copies (R321) -/

/-- Bytes in words of four, all ones where the line behind one of a word's bytes is bad. -/
def poisonBytes (bad : Nat → Bool) (bs : List Byte) : List Byte :=
  bs.zipIdx.map fun (b, i) => if (List.range 4).any fun k => bad (i / 4 * 4 + k) then 0xFF else b

/-! ### Enrolment (R168, R179) -/

/-- A counter is full: a 64th operation is held before issue (R179). -/
def Warp.ctrFull (w : Warp) (c : Nat) : Bool := decide (63 ≤ w.outstanding c)

/-- An operation enrolled on a counter with the units it is performed by: with none it has nothing left to perform. -/
def Warp.issueOp (w : Warp) (o : CtrOp) (us : List MemUnit) : Warp := { w.enrol o with acc := w.acc ++ us }

/-- The outstanding memory requests of a core: units in flight. -/
def State.requests (s : State) (core : Nat) : Nat :=
  (s.frames.map fun f => ((f.warps.filter fun w => w.core == core).map fun w => w.acc.length).sum).sum

/-- Outstanding memory requests a core has room for (R9). -/
def requestRoom : Nat := 768

/-- Room made for `n` more requests of a core: where they do not fit, those in flight are performed first (R9; DEDUCED, log
49). The issuing warp is passed beside the state. -/
def makeRoom (s : State) (fid : Nat) (w : Warp) (n : Nat) : State × Warp :=
  if n = 0 || s.requests w.core + n ≤ requestRoom then (s, w)
  else
    let (s, w) := performAll (s.setWarp fid w) fid w
    let others := (s.frames.flatMap fun f => (f.warps.filter fun v => v.core == w.core).map fun v => WarpId.mk f.fid v.idx).filter fun i => i != ⟨fid, w.idx⟩
    (others.foldl State.performWarp s, w)

/-- An operation issues on a counter: it is enrolled, and its units wait to be performed; with `done` false it has something to
do besides. -/
def issueUnits (s : State) (fid : Nat) (w : Warp) (ctr : Nat) (reg : Bool) (peer : Option Nat) (us : List MemUnit)
    (done : Bool := true) : State × Warp :=
  let (s, w) := makeRoom s fid w us.length
  let o : CtrOp := { id := s.fresh, ctr := ctr, from_ := s.now, done := done, reg := reg, peer := peer }
  (s.tick, w.issueOp o (us.map fun u => { u with op := s.fresh }))

/-! ### Dependency records and ready lists (R193 to R195) -/

/-- Items the hardware of a list holds (R195). -/
def listEntries : Nat := 1024

/-- A list changed. -/
def State.modList (s : State) (die idx : Nat) (g : ReadyList → ReadyList) : State :=
  let d := s.die die
  s.setDie die { d with lists := sset {} idx (g (sget {} d.lists idx)) d.lists }

def State.list (s : State) (die idx : Nat) : ReadyList := sget {} (s.die die).lists idx

/-- The hardware entries and the spill area of a list are both full (R195). -/
def ReadyList.full (l : ReadyList) : Bool := decide (listEntries ≤ l.items.length) && decide (l.spill ≤ l.spilled)

/-- The physical address of the `i`-th place of a list's spill area. -/
def State.spillAt (s : State) (l : ReadyList) (i : Nat) : Nat := s.dev (l.area + 8 * (i % max 1 l.spill))

/-- An item appended to a list: to the hardware entries, or behind what has spilled (R195). -/
def State.pushItem (s : State) (die idx : Nat) (item : W64) : State :=
  let l := s.list die idx
  if l.items.length < listEntries then s.modList die idx fun l => { l with items := l.items ++ [item] }
  else (s.wr (s.spillAt l (l.first + l.spilled)) 8 item.toNat).modList die idx fun l => { l with spilled := l.spilled + 1 }

/-- The oldest item of a list removed; the oldest spilled one takes the place that comes free (R195). -/
def State.popItem (s : State) (die idx : Nat) : Option (W64 × State) :=
  let l := s.list die idx
  match l.items with
  | [] => none
  | x :: r =>
    if l.spilled = 0 then some (x, s.modList die idx fun l => { l with items := r })
    else
      let y := BitVec.ofNat 64 (s.rd (s.spillAt l l.first) 8)
      some (x, s.modList die idx fun l =>
        { l with items := r ++ [y], first := (l.first + 1) % max 1 l.spill, spilled := l.spilled - 1 })

/-- How a dependency record is used: as an atomic, and through no window (R194, Table 8.1). -/
def depUse : Use := { acc := .a, kinds := [0, 7] }

/-- What a decrement comes to. -/
inductive DepEnd where
  /-- over, with its error: cause and address -/
  | done (s : State) (err : Option (Nat × Nat))
  /-- its record's page is absent -/
  | absent (p : Absent)
  /-- it waits for room in the list its item goes to -/
  | wait
  deriving DecidableEq, Repr

/-- The decrement of a dependency record at physical address `a` (R193): the subtraction, and the push of ITEM when COUNT
becomes exactly 0. A push onto a full list waits for room, and the decrement with it (DEDUCED, log 17). A record on a bad
line is not decremented, and the operation ends with POISON (R321). -/
def depSubtract (s : State) (ctx a : Nat) (amount : W64) (val off : Nat) : DepEnd :=
  let listid := s.rd (a + 16) 2
  if s.rangeBad a 32 then .done (s.lineError a 2) (some (Cause.poison.code, poisonOff off 1 0 a))
  else if bits listid 15 7 ≠ 0 || (readBytes s.mem (a + 18) 14).any (fun b => b != 0) then .done s (some (Cause.depBad.code, val))
  else
    let count := BitVec.ofNat 64 (s.rd a 8) - amount
    let item := BitVec.ofNat 64 (s.rd (a + 8) 8)
    let die := bits listid 2 0
    let idx := bits listid 6 3
    let l := s.list die idx
    if count ≠ 0 then .done (s.wr a 8 count.toNat) none
    else if !(l.bound && l.ctx == ctx) then .done (s.wr a 8 count.toNat) (some (Cause.capPerm.code, off))
    else if l.full then .wait
    else .done ((s.wr a 8 count.toNat).pushItem die idx item) none

/-- A decrement through a capability (R193, R194): it first commits its frame's buffer (R325), and its record's page is
translated again, as for work in flight (R319). -/
def depDecrement (s : State) (f : Frame) (l : Launch) (cap : Cap) (off : Nat) (amount : W64) : DepEnd :=
  let s := if l.guarded then s.commit f.fid else s
  match (Xst.mk s { idx := 0, core := 0, part := 0, slot := 0 }).capRange .agent cap off 32 depUse with
  | (x, .ok m) =>
    match x.s.physOf { cap := cap, off := off } 1 m with
    | [a] => depSubtract x.s l.ctx a amount ((cap.base + off) % 2 ^ 64) off
    | _ => .done s none
  | (_, .absent ps) => .absent (ps.headD ⟨0, false, off, true⟩)
  | (_, .trap c v) => .done s (some (c.code, v))
  | (_, .hold _) => .wait

end Sys2Proof.Machine
end

