-- ==== Sys2Proof/Machine/MemOps.lean ====
section
/-! DEFINITION. Loads, stores, atomics, fences, prefetch and share circles, opcodes 0x80 to 0x8C (R163 to R178). -/

namespace Sys2Proof.Machine

/-! ### Addresses and data (R167, R169, R170) -/

/-- The access size in bytes. -/
def memSize (o : MemArgs) : Nat := 2 ^ o.sz

/-- A lane's offset (R167, R169): the vector lane's 32 bits or the scalar, plus DISP × size, plus lane × size for
`LDX` and `STX`. -/
def Env.memOff (e : Env) (o : MemArgs) (indexed : Bool) (lane : Nat) : Int :=
  let b : Nat := match o.base with | .v _ => (e.rdVec o.base lane).toNat | b => (e.rdScalar b).toNat
  (b : Int) + o.disp * ((memSize o) : Nat) + if indexed then ((e.visIdx lane * (memSize o) : Nat) : Int) else 0

/-- The scratchpad or the capability an instruction names, at an offset. -/
def Env.memRef (e : Env) (o : MemArgs) (off : Nat) : MemRef :=
  { scr := o.scr, cap := if o.scr then Cap.null else e.w.rdK o.k, off := off }

/-- The offsets of the executing lanes; a ghost address skips its lane (R314). -/
def Env.memOffs (e : Env) (o : MemArgs) (indexed : Bool) (lanes : List Nat) : List (Nat × Option Int) :=
  lanes.map fun l => (l, if e.ghost o.base l then none else some (e.memOff o indexed l))

/-- The checks of an instruction over some lanes. -/
def memCheck (s : State) (e : Env) (o : MemArgs) (indexed : Bool) (lanes : List Nat) (acc : Acc) : Xst × MemChk :=
  Xst.lanes e (memSize o) (memSize o) (e.memRef o) { acc := acc, cc11 := o.cc == 11 } (e.memOffs o indexed lanes) ⟨s, e.w⟩ [] []

/-- The data of a store in a lane: the low bytes of D, or D and the registers after it (R170). -/
def Env.storeData (e : Env) (o : MemArgs) (lane : Nat) : List Byte :=
  match o.d with
  | .s r => leBytes (memSize o) (e.w.rdS r).toNat
  | d => ((List.range (max 1 ((memSize o) / 4))).map fun i => leBytes (min 4 (memSize o)) (e.w.rdV (d.raw + i) lane).toNat).flatten

/-- The frame of the issue as the state holds it. -/
def State.frameOf (s : State) (e : Env) : Frame := (s.frame? e.c.fid).getD e.f

/-- The peer address an access reaches, when its capability leads to a peer (R320). -/
def Env.peerAddr (e : Env) (o : MemArgs) (ls : List LaneAcc) : Option Nat :=
  if o.scr then none
  else
    let c := e.w.rdK o.k
    match ls with
    | x :: _ => if c.kind = 1 then some ((c.base + x.off) % 2 ^ 64) else none
    | [] => none

/-- The effective class of an instruction's accesses (R165). -/
def Env.eff (e : Env) (o : MemArgs) : Effect := effective (if o.scr then .release else (e.w.rdK o.k).cls) o.ord

/-- The SCOPE of an instruction's accesses; of a scratchpad operand with its default (R166). -/
def memScope (o : MemArgs) : Scope := if o.scr then scopeOf o.scope true false else o.scope

/-- An access of one lane as single-copy atomic units (R204): whole up to 8 bytes, else each 8 bytes; `f` makes the unit of
`n` bytes from the `i`-th on. -/
def unitsOf (size : Nat) (f : Nat → Nat → UnitWork) (lane : Nat) (eff : Effect) (scope : Scope) : List MemUnit :=
  if size ≤ 8 then [{ op := 0, lane := lane, eff := eff, scope := scope, work := f 0 size }]
  else (List.range (size / 8)).map fun i => { op := 0, lane := lane, eff := eff, scope := scope, work := f (8 * i) 8 }

/-- A memory instruction is complete: its operation is enrolled and its units are in flight (R168). -/
def finishUnits (s : State) (e : Env) (h : Hdr) (o : MemArgs) (reg : Bool) (ls : List LaneAcc) (us : List MemUnit) : Res :=
  let (s, w) := issueUnits s e.c.fid e.w o.cc reg (e.peerAddr o ls) us
  finish s e h w

/-- An instruction that no lane executes: its operation is enrolled with nothing to perform (R48). -/
def finishEmpty (s : State) (e : Env) (h : Hdr) (ctr : Nat) : Res :=
  let (s, w) := issueUnits s e.c.fid e.w ctr false none []
  finish s e h w

/-- A full counter holds the instruction before issue (R179); runahead counts its own. -/
def withRoom (s : State) (e : Env) (ctr : Nat) (k : Res) : Res :=
  if e.w.run.isNone && e.w.ctrFull ctr then holdAt s e (.ctrRoom ctr) else k

/-- The access commits its frame's buffer first (R325). -/
def Env.commits (e : Env) (o : MemArgs) (acc : Acc) : Bool := (e.memRef o 0).commits e.l (o.cc == 11) (acc == .a)

/-! ### Loads -/

/-- Where a unit of a load goes (R170): the registers from D on in its lane, or the scalar register. -/
def Env.loadDst (e : Env) (o : MemArgs) (uniform : Bool) (lane i : Nat) : LoadDst :=
  if uniform then
    { scalar := true, bank := e.w.priv && decide (92 ≤ o.d.raw), r := o.d.raw
      signed := o.ty == .i8 || o.ty == .i16 || o.ty == .i32 }
  else { r := o.d.raw + i / 4, lanes := [lane], signed := o.ty == .i8 || o.ty == .i16 }

/-- The units of a lane's load. -/
def Env.loadUnits (e : Env) (o : MemArgs) (uniform : Bool) (x : LaneAcc) (m : PMap) : List MemUnit :=
  unitsOf (memSize o) (fun i n => .load (e.memRef o (x.off + i)) n m (e.loadDst o uniform x.lane i)) x.lane (e.eff o) (memScope o)

/-- What a lane loads in runahead, at once: the register writes of its units. -/
def loadNow (s : State) (e : Env) (o : MemArgs) (uniform : Bool) (x : LaneAcc) (m : PMap) : List RegWrite :=
  (e.loadUnits o uniform x m).flatMap fun u => (s.unitEffect e.c.fid u).2.1

/-- A load over some lanes (R168): its units are performed later, and the registers are written when the operation retires.
In runahead they are read and written at once, absent lanes ghost (R314). -/
def loadOp (s : State) (h : Hdr) (o : MemArgs) (indexed uniform : Bool) : Res :=
  withEnv s fun e =>
    withRoom s e o.cc <|
    let lanes := if uniform then (e.exec h).take 1 else e.exec h
    afterChecks s e (memCheck s e o indexed lanes .r) true
      (fun s e ls => withCommit s e (ls ≠ [] && e.commits o .r) fun s =>
        finishUnits s e h o true ls (ls.flatMap fun x => (x.m.map fun m => e.loadUnits o uniform x m).getD []))
      (fun s e ls =>
        let ws := ls.flatMap fun x =>
          match x.m with
          | some m => (loadNow s e o uniform x m).map fun y => (y, false)
          | none =>
            ((List.range (max 1 (memSize o / 8))).flatMap fun i =>
              (e.loadDst o uniform x.lane (8 * i)).writes (List.replicate (min 8 (memSize o)) (0 : Byte))).map fun y => (y, true)
        finish s e h (e.w.postG s.now 0 16 ws))

/-- `LD` (R169). -/
def execLd (h : Hdr) (o : MemArgs) (s : State) : Res := loadOp s h o false false

/-- `LDX` (R169): lane l at base + l × size. -/
def execLdx (h : Hdr) (o : MemArgs) (s : State) : Res := loadOp s h o true false

/-- `LDU` (R169): once per issue, by the lowest executing lane. -/
def execLdu (h : Hdr) (o : MemArgs) (s : State) : Res := loadOp s h o false true

/-! ### Stores -/

/-- The units of a lane's store. -/
def Env.storeUnits (s : State) (e : Env) (o : MemArgs) (x : LaneAcc) (m : PMap) : List MemUnit :=
  let as := s.physOf (e.memRef o x.off) (memSize o) m
  let bs := e.storeData o x.lane
  unitsOf (memSize o) (fun i n => .store ((as.drop i).take n) ((bs.drop i).take n)) x.lane (e.eff o) (memScope o)

/-- Every lane's bytes put into the frame store buffer, lower lanes first (R170, R324). -/
def bufferLanes (s : State) (e : Env) (o : MemArgs) : List LaneAcc → State
  | [] => s
  | x :: r =>
    match x.m with
    | none => bufferLanes s e o r
    | some m => bufferLanes (s.storeAt e.c.fid true (s.physOf (e.memRef o x.off) (memSize o) m) (e.storeData o x.lane)) e o r

/-- A decrement in flight for the operation just enrolled (R194). -/
def State.addDep (s : State) (e : Env) (c : Cap) (off : Nat) (amount : W64) : State :=
  { s with deps := s.deps ++ [{ id := s.fresh - 1, fid := e.c.fid, widx := e.c.widx, pc := e.c.pc, cap := c, off := off, amount := amount }] }

/-- A store is complete: its operation is enrolled, its units are in flight, and with `.dep` its decrement waits for them
(R168, R194). -/
def finishStore (s : State) (e : Env) (h : Hdr) (o : MemArgs) (ls : List LaneAcc) (us : List MemUnit) : Res :=
  let dep := if o.mop == 1 && ls ≠ [] then e.w.dep else none
  let (s, w) := issueUnits s e.c.fid e.w o.cc false (e.peerAddr o ls) us dep.isNone
  match dep with
  | none => finish s e h w
  | some (c, off) => finish (s.addDep e c off 1) e h w

/-- A store over some lanes, once its checks have passed: the comparison of shadow lanes, room in the frame store buffer,
then its bytes in flight or in the buffer, and its operation (R168, R194, R324, R331). -/
def storeOp (s : State) (h : Hdr) (o : MemArgs) (indexed uniform : Bool) : Res :=
  withEnv s fun e =>
    let ex := e.exec h
    let lanes := if uniform then ex.take 1 else e.visible ex
    let dep := o.mop == 1
    withRoom s e o.cc <|
    if dep && ex ≠ [] && e.w.dep.isNone then trap s e .depUnset 0
    else
      afterChecks s e (memCheck s e o indexed lanes .w) true
        (fun s e ls =>
          let shown : Nat → Shown := fun l => if ex.contains l then some (e.memOff o indexed l, e.storeData o l) else none
          match shadowDiff e shown with
          | some a => trap s e .shadowMismatch a
          | none =>
            withCommit s e (ls ≠ [] && e.commits o .w) fun s =>
              if ls ≠ [] && (e.memRef o 0).buffered e.l && o.cc != 11 then
                let as := ls.flatMap fun x => match x.m with | some m => s.physOf (e.memRef o x.off) (memSize o) m | none => []
                let (s, w) := performAll s e.c.fid e.w
                if !fsbRoom (s.frameOf e).fsb as then trap (s.setWarp e.c.fid w) { e with w := w } .guardFull 0
                else finishStore (bufferLanes s e o ls) { e with w := w } h o ls []
              else finishStore s e h o ls (ls.flatMap fun x => (x.m.map fun m => e.storeUnits s o x m).getD []))
        (fun s e _ => finish s e h e.w)

/-- `ST` (R169); MOP 1 is `.dep` (R194). -/
def execSt (h : Hdr) (o : MemArgs) (s : State) : Res := storeOp s h o false false
/-- `STX` (R169). -/
def execStx (h : Hdr) (o : MemArgs) (s : State) : Res := storeOp s h o true false
/-- `STU` (R169): once per issue. -/
def execStu (h : Hdr) (o : MemArgs) (s : State) : Res := storeOp s h o false true

/-! ### Atomics (R173, R174) -/

/-- The word an atomic's operand makes in a lane, from register D + i on. -/
def Env.atomWord (e : Env) (o : MemArgs) (i lane : Nat) : Nat :=
  ofLe (((List.range ((memSize o) / 4)).map fun j => leBytes 4 (e.w.rdV (o.d.raw + i + j) lane).toNat).flatten)

/-- The read-modify-write of a lane, in the registers of both lanes of a pair (R330): of `ACAS` where `cas`, and with `ret` the
old value is written to D when the operation retires. -/
def Env.atomUnit (s : State) (e : Env) (o : MemArgs) (ret cas : Bool) (x : LaneAcc) (m : PMap) : MemUnit :=
  let n := memSize o / 4
  let dst : LoadDst := { r := o.d.raw, lanes := if e.l.prot then [x.lane, x.lane + 1] else [x.lane] }
  { op := 0, lane := x.lane, eff := e.eff o, scope := (memScope o)
    work := .rmw (s.physOf (e.memRef o x.off) (memSize o) m) o.mop (e.atomWord o (if cas then n else 0) x.lane)
      (if cas then some (e.atomWord o 0 x.lane) else none) (if ret then some dst else none) x.off }

/-- An atomic over the executing lanes. `n` registers of operand are compared between shadow lanes. -/
def atomicInstr (s : State) (h : Hdr) (o : MemArgs) (n : Nat) (ret cas : Bool) : Res :=
  withEnv s fun e =>
    let ex := e.exec h
    withRoom s e o.cc <|
    afterChecks s e (memCheck s e o false (e.visible ex) .a) false
      (fun s e ls =>
        let data := fun l => ((List.range n).map fun i => leBytes 4 (e.w.rdV (o.d.raw + i) l).toNat).flatten
        let shown : Nat → Shown := fun l => if ex.contains l then some (e.memOff o false l, data l) else none
        match shadowDiff e shown with
        | some a => trap s e .shadowMismatch a
        | none =>
          withCommit s e (ls ≠ [] && e.commits o .a) fun s =>
            finishUnits s e h o ret ls (ls.flatMap fun x => (x.m.map fun m => [e.atomUnit s o ret cas x m]).getD []))
      (fun s e _ => finish s e h e.w)

/-- `ATOM` (R173): D receives the old value. -/
def execAtom (h : Hdr) (o : MemArgs) (s : State) : Res := atomicInstr s h o ((memSize o) / 4) true false

/-- `XATOM` (R173): nothing is returned. -/
def execXatom (h : Hdr) (o : MemArgs) (s : State) : Res := atomicInstr s h o ((memSize o) / 4) false false

/-- `ACAS` (R174): a store only where the location equals the expected value. -/
def execAcas (h : Hdr) (o : MemArgs) (s : State) : Res := atomicInstr s h o (2 * ((memSize o) / 4)) true true

/-! ### FENCE and PFETCH (R175, R176) -/

/-- `FENCE` (R175): a fence of the executing lanes between the accesses in flight and the later ones; with none in flight it
has nothing to order. -/
def execFence (h : Hdr) (o : MemArgs) (s : State) : Res :=
  withEnv s fun e =>
    if e.exec h = [] || e.w.acc = [] then finish s e h e.w
    else finish s.tick e h { e.w with acc := e.w.acc ++ [{ op := s.fresh, scope := o.scope, work := .fence o.ord (e.exec h) }] }

/-- `PFETCH` (R176): no effect that a program can observe. -/
def execPfetch (h : Hdr) (_o : MemArgs) (s : State) : Res := withEnv s fun e => finish s e h e.w

/-! ### Share circles (R177, R178) -/

/-- A circle of a context stored. -/
def State.setCircle (s : State) (c : Circle) : State :=
  { s with circles := c :: s.circles.filter fun x => !(x.ctx == c.ctx && x.num == c.num) }

/-- The lowest slot of a circle that satisfies a test. -/
def Circle.find (c : Circle) (p : CircSlot → Bool) : Option Nat :=
  (List.range 8).find? fun i => p (c.slots.getD i {})

/-- The window capability a join grants (R177). -/
def circleCap (c : Circle) (slot : Nat) : Cap :=
  { kind := 6, base := 0, len := 32 * 2 ^ 20, perm := 7, cls := .release
    src := .circle c.ctx c.num slot (c.slots.getD slot {}).joins (c.slots.map fun x => (x.joins, x.member.isSome))
    tgt := .circle c.ctx c.num
    ctx := c.ctx }

/-- A frame joins a circle: the circle after, and its index; none when eight others are members. -/
def Circle.join (c : Circle) (fid : Nat) : Option (Circle × Nat) :=
  match c.find fun x => x.member == some fid with
  | some i => some (c, i)
  | none =>
    match c.find fun x => x.member == none with
    | some i => some ({ c with slots := modifyAt (fun x => ⟨x.joins + 1, some fid⟩) i c.slots }, i)
    | none => none

/-- `SHJOIN` (R177). -/
def execShjoin (h : Hdr) (o : MemArgs) (s : State) : Res :=
  withEnv s fun e =>
    if e.exec h = [] then finish s e h e.w
    else
      let b := e.natS o.base
      if 255 < b then trap s e .capBounds b
      else
        match (s.circle e.l.ctx b).join e.c.fid with
        | none => finish s e h (e.w.put (e.w.sWrite o.d.raw allOnes64))
        | some (c, i) =>
          let w := e.w.putAll [e.w.sWrite o.d.raw (BitVec.ofNat 64 i), e.w.kWrite o.k (circleCap c i)]
          finish (s.setCircle c) e h w

/-- A frame leaves a circle (R178). -/
def Circle.leave (c : Circle) (fid : Nat) : Circle :=
  { c with slots := c.slots.map fun x => if x.member = some fid then { x with member := none } else x }

/-- `SHLEAVE` (R178). -/
def execShleave (h : Hdr) (o : MemArgs) (s : State) : Res :=
  withEnv s fun e =>
    if e.exec h = [] then finish s e h e.w
    else
      let c := s.circle e.l.ctx (e.natS o.base)
      if (c.find fun x => x.member == some e.c.fid).isNone then finish s e h e.w
      else finish (s.setCircle (c.leave e.c.fid)) e h e.w

end Sys2Proof.Machine
end

