-- ==== Sys2Proof/Machine/Ending.lean ====
section
/-! DEFINITION. What a frame leaves when it ends, and the end of a run-to-end launch (R16, R112), which the last exit or
the last piece of asynchronous work brings about. -/

namespace Sys2Proof.Machine

/-! ### Slots (R112) -/

/-- A slot is free when the bay lists nothing for it. -/
def Bay.slot? (b : Bay) (n : Nat) : Option Slot := (b.slots.find? fun (k, _) => k == n).map Prod.snd

def Bay.freeSlots (b : Bay) : List Nat := (List.range 128).filter fun n => (b.slot? n).isNone

/-- A slot changed. -/
def Bay.modSlot (b : Bay) (n : Nat) (g : Slot → Slot) : Bay :=
  { b with slots := modifyFirst (fun (k, _) => k == n) (fun (k, x) => (k, g x)) b.slots }

/-- Every queued operation of a bay. -/
def Bay.ops (b : Bay) : List TrussOp := (b.entries.map TrussEntry.ops).flatten

/-- Released slots that no queued operation names return to the free list (R112). -/
def Bay.sweep (b : Bay) : Bay :=
  { b with slots := b.slots.filter fun (n, x) => !x.released || b.ops.any fun o => o.slot == n }

/-- A slot released (R128). -/
def Bay.release (b : Bay) (n : Nat) : Bay := (b.modSlot n fun x => { x with released := true }).sweep

/-- Every slot of a frame released (R112). -/
def Bay.releaseAll (b : Bay) (fid : Nat) : Bay :=
  ({ b with slots := b.slots.map fun (n, x) => (n, if x.owner = fid then { x with released := true } else x) } : Bay).sweep

/-! ### The end of a launch (R16) -/

/-- A reference leads into a frame of a PROGRAM. -/
def MemRef.into (r : MemRef) (f : Frame) (prog : Nat) : Bool :=
  !r.scr && (match r.cap.tgt with
    | .own fid => fid == f.fid
    | .frame p i => p == prog && i == f.idx
    | _ => false)

/-- Copies of other frames that passed their checks have still to be performed in a frame (R164, R178, R279). -/
def State.reached (s : State) (f : Frame) (prog : Nat) : Bool :=
  s.copies.any fun c => c.fid != f.fid && c.lanes.any fun x => !x.fin && (x.src.into f prog || x.dst.into f prog)

/-- A launch whose every warp of every frame has exited and whose asynchronous work has retired is DONE (R16). -/
def State.settled (s : State) (l : Launch) : Bool :=
  let fs := s.frames.filter fun f => f.lid == l.lid
  let mine (fid : Nat) : Bool := fs.any fun f => f.fid == fid
  let placed := (s.progObj l.prog).any fun p => p.lid == some l.lid && decide (l.frames ≤ p.placed.length)
  !l.resident && !l.routine && l.live && placed && (s.entry 4 l.prog).st != .building &&
    (fs.all fun f => f.phase == .resident && !s.reached f l.prog && f.warps.all fun w =>
      w.gone && w.ops.isEmpty && w.tagCnt.isEmpty && !(l.guarded && w.late.isSome)) &&
    !(s.copies.any fun c => mine c.fid) && !(s.ftops.any fun o => mine o.fid) && !(s.deps.any fun d => mine d.fid) &&
    !(s.bays.any fun (_, b) => b.ops.any fun o => mine o.fid) &&
    !(s.dies.any fun (_, d) => d.jobs.any fun j => mine j.fid)

/-- A frame off its cores: its slots are free (R112), its rings gone from the bay, and its TLB sets change owner (R288). -/
def State.vacate (s : State) (f : Frame) : State :=
  let b := s.bay f.bay
  let b := ({ b with rings := b.rings.filter fun (_, r) => r.fid != f.fid } : Bay).releaseAll f.fid
  let l1 (t : TlbEnt) : Bool := match t.at_ with | .l1 _ => true | _ => false
  { s.setBay f.bay b with tlb := s.tlb.filter fun t => !(l1 t && t.fid == f.fid) }

/-- What a frame that has ended leaves: its place on the bay, its bay rings (R192) and its circles (R178). -/
def State.leaveBay (s : State) (f : Frame) : State :=
  let s := s.vacate f
  { s with circles := s.circles.map fun c => c.leave f.fid, mem := clearRegion s.mem (.scratch f.fid) }

/-- The end of a run-to-end launch (R16): its window capabilities end with its frames (R278), and its entry, BUILT until now, is
DONE; another state stays (R257). -/
def State.finishLaunch (s : State) (l : Launch) : State :=
  let fs := s.frames.filter fun f => f.lid == l.lid
  let s := fs.foldl (fun s f => (s.revokeWindows l.prog f.idx).leaveBay f) s
  let s := { s with frames := s.frames.filter fun f => f.lid != l.lid }
  let s := { s with launches := modifyFirst (fun x => x.lid == l.lid) (fun x => { x with live := false }) s.launches }
  let e := s.entry 4 l.prog
  s.setEntry 4 l.prog { e with st := if e.st = .built then .done else e.st, live := false, detail := if e.countsFrames then 0 else e.detail }

/-- Every launch that has come to its end (R16). -/
def State.settleDone (s : State) : State := (s.launches.filter s.settled).foldl State.finishLaunch s

end Sys2Proof.Machine
end

