-- ==== Sys2Proof/Machine/Copies.lean ====
section
/-! DEFINITION. Copies (R182 to R186): the instructions, and the moving of a lane's bytes with its completion on a
counter or a tag. -/

namespace Sys2Proof.Machine

/-! ### The fields of a copy (Table 8.6) -/

structure CopyFields where
  dk : Nat := 0
  sk : Nat := 0
  dx : Bool := false
  sx : Bool := false
  cnt : Nat := 0
  cr : Bool := false
  group : Nat := 0
  dep : Bool := false
  deriving DecidableEq, Repr

def copyFields (e : ExtArgs) : CopyFields :=
  match e.x with
  | .copy dk sk dx sx cnt cr g dep => ⟨dk, sk, dx, sx, cnt, cr, g, dep⟩
  | _ => {}

/-- A lane's count (R183). -/
def Env.copyCount (e : Env) (x : ExtArgs) (c : CopyFields) (lane : Nat) : Nat :=
  if c.cr then (e.rdVec x.b lane).toNat else c.cnt

def Env.copySrc (e : Env) (x : ExtArgs) (c : CopyFields) (lane : Nat) : MemRef :=
  { scr := c.sx, cap := if c.sx then Cap.null else e.w.rdK c.sk, off := (e.rdVec x.a lane).toNat }

def Env.copyDst (e : Env) (x : ExtArgs) (c : CopyFields) (lane : Nat) : MemRef :=
  { scr := c.dx, cap := if c.dx then Cap.null else e.w.rdK c.dk, off := (e.rdVec x.d lane).toNat }

/-! ### Checks at issue (R183, R186) -/

/-- The kinds of capability a copy's source and destination may be (Table 8.1): `CPYW` may use no window but that of its
destination. -/
def copyUses (wide : Bool) : Use × Use :=
  if wide then ({ acc := .r, kinds := [0, 1, 7] }, { acc := .w, kinds := [3] })
  else ({ acc := .r, kinds := [0, 1, 2, 4, 6, 7] }, { acc := .w })

/-- Every executing lane, its source range first, then its destination range; a ghost address or count skips the
lane. -/
def copyChecks (e : Env) (x : ExtArgs) (c : CopyFields) (wide : Bool) :
    List Nat → Xst → List LaneAcc → List (Nat × Absent) → Xst × MemChk
  | [], t, ls, ab => (t, .ok ls ab)
  | l :: r, t, ls, ab =>
    if e.anyGhost [x.a, x.d, if c.cr then x.b else .none] l then copyChecks e x c wide r t (ls ++ [⟨l, 0, none⟩]) ab
    else
      let who := Who.lane e.tlbUse l
      let n := e.copyCount x c l
      let (us, ud) := copyUses wide
      let dst := e.copyDst x c l
      match if n = 0 then (t, .ok []) else t.range who e.f e.l (e.copySrc x c l) n us with
      | (t, .trap k v) => (t, .trap k v l)
      | (t, .hold y) => (t, .hold y)
      | (t, src) =>
        if wide && dst.off % 4 ≠ 0 then (t, .trap .misalign dst.off l)
        else
          let pages := fun q => match q with | Chk.absent ps => ps.map fun p => (l, p) | _ => []
          match t.range who e.f e.l dst 32 ud with
          | (t, .trap k v) => (t, .trap k v l)
          | (t, .hold y) => (t, .hold y)
          | (t, d) =>
            let new := pages src ++ pages d
            copyChecks e x c wide r t (ls ++ [⟨l, 0, if new = [] then some [] else none⟩]) (ab ++ new)

/-- A reference into a share circle as one onto the member's own scratchpad, so that the access issued completes
whatever the circle does later (R178). -/
def State.pinned (s : State) (r : MemRef) (n : Nat) : MemRef :=
  match r.scr, s.space r.cap with
  | false, (.circ ctx num _, _) =>
    let a := r.cap.base + r.off
    let m := a / (4 * 2 ^ 20)
    let o := a % (4 * 2 ^ 20)
    match ((s.circle ctx num).slots.getD m {}).member.bind s.frame? with
    | some f =>
      match s.launch? f.lid with
      | some l => if o + n ≤ l.scratch then { r with cap := { r.cap with kind := 2, base := o, tgt := .own f.fid }, off := 0 } else r
      | none => r
    | none => r
  | _, _ => r

/-- Tag lanes counted (R184). -/
def State.countTag (s : State) (core t n : Nat) : State :=
  if n = 0 then s
  else
    let g := s.tag core t
    s.setTag core t { g with count := g.count + n, issued := true }

/-- The condition that holds, before issue, an instruction that ends on a full counter, or on a tag that `n` more lanes would
fill (R179, R184). -/
def State.doneRoom (s : State) (e : Env) (fin : Done) (n : Nat) : Option HoldWhy :=
  match fin with
  | .ctr k => if e.w.ctrFull k then some (.ctrRoom k) else none
  | .tag t => if 4095 < (s.tag e.w.core t).count + n then some (.tagRoom t n) else none
  | .none => none

/-- A copy issues: counts, checks, the comparison of shadow lanes, then its operation is enrolled or its lanes are
counted, and its lanes wait to be performed. The accesses of its thread that are ordered before its own are performed first
(R211). -/
def copyInstr (s : State) (h : Hdr) (x : ExtArgs) (wide coll : Bool) : Res :=
  withEnv s fun e =>
    let ex := e.exec h
    let lanes := e.visible ex
    let c := copyFields x
    let full := if e.w.run.isSome then none else s.doneRoom e x.fin lanes.length
    if full.isSome then holdAt s e (full.getD .queueRoom)
    else if coll && ex ≠ [] && !(e.members c.group).contains e.w.idx then trapWord s e .illegalField
    else if c.dep && ex ≠ [] && e.w.dep.isNone then trap s e .depUnset 0
    else
      match lanes.find? fun l => !(c.cr && e.ghost x.b l) && 32 < e.copyCount x c l with
      | some l => trap s e .countRange (e.copyCount x c l) (some (e.visIdx l))
      | none =>
        afterChecks s e (copyChecks e x c wide lanes ⟨s, e.w⟩ [] []) (!coll)
          (fun s e _ =>
            let data := fun l => leBytes 4 (e.rdVec x.a l).toNat ++ leBytes 4 (e.copyCount x c l)
            let shown : Nat → Shown := fun l => if ex.contains l then some ((e.rdVec x.d l).toNat, data l) else none
            match shadowDiff e shown with
            | some a => trap s e .shadowMismatch a
            | none =>
              let strict := (!c.sx && (e.w.rdK c.sk).cls == .strict) || (!c.dx && (e.w.rdK c.dk).cls == .strict)
              let (s, w) := if lanes = [] then (s, e.w) else performBefore s e.c.fid e.w strict
              let e := { e with w := w }
              let mk := fun l =>
                { lane := l, src := s.pinned (e.copySrc x c l) (e.copyCount x c l), n := e.copyCount x c l, dst := s.pinned (e.copyDst x c l) 32 : CopyLane }
              let k := sget 0 e.w.cpygSeq c.group
              let op : CopyOp :=
                { id := s.fresh, fid := e.c.fid, widx := e.w.idx, core := e.w.core, pc := e.c.pc, fin := x.fin
                  coll := if coll then some (c.group, k) else none
                  started := !coll
                  window := wide
                  dep := if c.dep && ex ≠ [] then e.w.dep else none
                  lanes := lanes.map mk }
              let w := if coll then { e.w with cpygSeq := sset 0 c.group (k + 1) e.w.cpygSeq } else e.w
              let live := coll || lanes ≠ []
              match x.fin with
              | .tag t =>
                let w := if lanes = [] then w else { w with tagCnt := sset 0 t (sget 0 w.tagCnt t + lanes.length) w.tagCnt }
                let s := s.tick.countTag e.w.core t lanes.length
                finish { s with copies := if live then s.copies ++ [op] else s.copies } e h w
              | .ctr k =>
                let w := w.enrol { id := s.fresh, ctr := k, from_ := s.now, done := !live }
                let s := s.tick
                finish { s with copies := if live then s.copies ++ [op] else s.copies } e h w
              | .none => finish s e h w)
          (fun s e _ => finish s e h e.w)

/-- `CPY` (R183). -/
def execCpy (h : Hdr) (e : ExtArgs) (s : State) : Res := copyInstr s h e false false
/-- `CPYG` (R185): a slice of a group's collective. -/
def execCpyg (h : Hdr) (e : ExtArgs) (s : State) : Res := copyInstr s h e false true
/-- `CPYW` (R186): into a register window. -/
def execCpyw (h : Hdr) (e : ExtArgs) (s : State) : Res := copyInstr s h e true false

/-! ### A lane's bytes (R183, R186, R319) -/

/-- The pages of a range for work in flight: only translation is checked again (R291, R319). -/
def Xst.move (x : Xst) (f : Frame) (l : Launch) (r : MemRef) (n : Nat) (acc : Acc) : Xst × Chk :=
  if r.scr then x.range .agent f l r n { acc := acc }
  else
    let (sp, add) := x.s.space r.cap
    let as := (rawAddrs r.cap (r.cap.base + r.off) n).map fun a => a + add
    let per := if r.cap.view = 0 || n = 0 then 1 else as.length / n
    x.pages .agent sp acc n (fun i => r.off + i / per) (pageStarts as)

/-- A byte of a frame's accumulator slots (Table 8.1). -/
def State.slotByte (s : State) (bay a : Nat) : Byte :=
  match (s.bay bay).slots.find? fun (k, _) => k == a / 16384 with
  | some (_, sl) => BitVec.ofNat 8 ((sget 0 sl.words (a % 16384 / 4)).toNat / 256 ^ (a % 4))
  | none => 0

/-- The bytes a copy's source holds. -/
def State.copyBytes (s : State) (f : Frame) (r : MemRef) (n : Nat) (m : PMap) : List Byte :=
  match r.scr, s.space r.cap with
  | false, (.slots p i, _) =>
    match s.frameNamed p i with
    | some g => (List.range n).map fun j => s.slotByte g.bay (r.cap.base + r.off + j)
    | none => []
  | _, _ => s.fetch f r n m

/-- One word written through a register window; what reaches no register of a live lane is discarded (R186). -/
def State.windowWord (s : State) (prog idx a : Nat) (x : W32) : State :=
  match s.frameNamed prog idx with
  | none => s
  | some f =>
    match s.launch? f.lid with
    | none => s
    | some l =>
      let lane := a % 256 / 4
      let r := a / 256 % 1024
      let put (w : Warp) : Warp :=
        if r < l.vregs && lane < l.width && (w.lane lane).st == .live then w.put (.v r lane x) else w
      s.modWarp ⟨f.fid, a / (256 * 1024)⟩ put

/-- The words of 32 bytes written through a register window. -/
def State.windowWords (s : State) (prog idx a : Nat) : Nat → List Byte → State
  | 0, _ => s
  | n + 1, bs => (s.windowWord prog idx a (BitVec.ofNat 32 (ofLe (bs.take 4)))).windowWords prog idx (a + 4) n (bs.drop 4)

/-- What moving a lane's bytes comes to. -/
inductive Moved where
  | done (s : State) (err : Option (Nat × Nat))
  | absent (p : Absent)
  | wait
  deriving DecidableEq, Repr

/-- The physical addresses a lane's source bytes depend on; accumulator slots are not memory. -/
def State.sourceAddrs (s : State) (r : MemRef) (n : Nat) (m : PMap) : List Nat :=
  match r.scr, s.space r.cap with
  | false, (.slots _ _, _) => []
  | _, _ => s.physRead r n m

/-- 32 bytes of a lane written where they belong (R184, R186, R324): through a register window, into the frame store buffer,
or to memory; what a commit or an abort of the frame has decided since the copy's issue goes before (R327). -/
def storeLane (s : State) (l : Launch) (c : CopyOp) (x : CopyLane) (dst : List Nat) (bs : List Byte) : Moved :=
  if c.window then
    match s.space x.dst.cap with
    | (.regs p i, _) => .done (s.windowWords p i (x.dst.cap.base + x.dst.off) 8 bs) none
    | _ => .done s none
  else if !x.dst.buffered l then .done (s.storeAt c.fid false dst bs) none
  else
    match c.fate with
    | some true => .done (s.storeAt c.fid false dst bs) none
    | some false => .done s none
    | none =>
      let fsb := match s.frame? c.fid with | some f => f.fsb | none => []
      if fsbRoom fsb dst then .done (s.storeAt c.fid true dst bs) none else .done s (some (Cause.guardFull.code, 0))

/-- A copy lane reaches a peer. -/
def CopyLane.remote (x : CopyLane) : Bool := (!x.src.scr && x.src.cap.kind == 1) || (!x.dst.scr && x.dst.cap.kind == 1)

/-- A copy lane moves (R183): source bytes, then 32 bytes with zeros beyond n. Stores of its warp that it meets come before it.
Where a source line is bad, in a guarded frame nothing is written and the frame is relaunched (R323); else each word it
reaches is all ones, and the warp takes POISON (R321). -/
def moveLane (s : State) (f : Frame) (l : Launch) (c : CopyOp) (x : CopyLane) : Moved :=
  let t : Xst := ⟨s, { idx := 0, core := 0, part := 0, slot := 0 }⟩
  if s.noPath && x.remote then .done s (some (Cause.remoteFault.code, x.src.cap.base + x.src.off))
  else match if x.n = 0 then (t, .ok []) else t.move f l x.src x.n .r with
  | (_, .absent ps) => .absent (ps.headD ⟨0, false, 0, false⟩)
  | (_, .hold _) => .wait
  | (_, .trap k v) => .done s (some (k.code, v))
  | (t, .ok ms) =>
    match t.move f l x.dst 32 .w with
    | (_, .absent ps) => .absent (ps.headD ⟨0, false, 0, true⟩)
    | (_, .hold _) => .wait
    | (_, .trap k v) => .done s (some (k.code, v))
    | (t, .ok md) =>
      let dst := if c.window then [] else t.s.physOf x.dst 32 md
      let as := if x.n = 0 then [] else t.s.sourceAddrs x.src x.n ms
      let s := t.s.performOlder ⟨c.fid, c.widx⟩ c.id (as ++ dst) false
      let s := if x.dst.commits l false false || x.src.commits l false false then s.commit c.fid else s
      let per := if x.n = 0 then 1 else as.length / x.n
      let src := s.copyBytes ((s.frame? c.fid).getD f) x.src x.n ms
      let bs := poisonBytes (fun i => ((as.drop (i * per)).take per).any s.lineBad) (src ++ List.replicate (32 - x.n) 0)
      match s.firstBad as with
      | none => storeLane s l c x dst bs
      | some (i, a) =>
        if l.guarded then .done (startRelaunch (s.lineError a 2) c.fid .poison) none
        else storeLane ((s.lineError a 2).modWarp ⟨c.fid, c.widx⟩ fun w => w.setLate .poison (poisonOff x.src.off per i a)) l c x dst bs

/-- The bytes of a relaunching frame's copies that would enter its buffer are discarded (R329). -/
def discards (f : Frame) (l : Launch) (x : CopyLane) : Bool := f.phase == .relaunching && x.dst.buffered l

/-! ### Completion (R184, R185, R194, R319) -/

/-- A tag's lane performed: the count falls, and an error becomes pending on the tag. -/
def State.tagDone (s : State) (i : WarpId) (core t : Nat) (err : Option (Nat × Nat)) : State :=
  let g := s.tag core t
  let s := s.setTag core t { g with count := g.count - 1, err := g.err.orElse fun _ => err }
  s.modWarp i fun w => { w with tagCnt := sset 0 t (sget 0 w.tagCnt t - 1) w.tagCnt }

/-- A copy out of the list of copies. -/
def State.dropCopy (s : State) (id : Nat) : State := { s with copies := s.copies.filter fun c => c.id != id }

/-- Every byte of a copy is performed. -/
def CopyOp.moved (c : CopyOp) : Bool := c.started && c.lanes.all CopyLane.fin

/-- A copy is over: the tag decrements that are left (of a collective all of them), or its counter operation. -/
def finishCopy (s : State) (c : CopyOp) : State :=
  let s := s.dropCopy c.id
  match c.fin with
  | .tag t =>
    let left := c.lanes.filter fun x => c.coll.isSome || c.last == some x.lane
    left.foldl (fun s x => s.tagDone ⟨c.fid, c.widx⟩ c.core t (x.err.orElse fun _ => c.derr)) s
  | .ctr _ =>
    let err := (c.err.orElse fun _ => c.lanes.findSome? CopyLane.err).orElse fun _ => c.derr
    s.modWarp ⟨c.fid, c.widx⟩ fun w => w.opDone c.id [] err
  | .none => s

/-- The decrement of a copy whose bytes are performed begins, once (R194). -/
def State.beginDep (s : State) (c : CopyOp) : State :=
  match c.dep with
  | none => s
  | some (cap, off) =>
    if s.deps.any fun d => d.id == c.id then s
    else { s with deps := s.deps ++ [{ id := c.id, fid := c.fid, widx := c.widx, pc := c.pc, cap := cap, off := off, amount := 1 }] }

/-- The copies of one collective. -/
def State.collective (s : State) (fid : Nat) (k : Nat × Nat) : List CopyOp :=
  s.copies.filter fun c => c.fid == fid && c.coll == some k

/-- When every slice of a collective is performed, its decrements with it, every member's operation completes (R185). -/
def finishCollective (s : State) (fid : Nat) (k : Nat × Nat) : State :=
  let cs := s.collective fid k
  if !cs.all CopyOp.moved then s
  else if !cs.all fun c => c.dep.isNone then cs.foldl State.beginDep s
  else
    let s := cs.foldl finishCopy s
    match s.frame? fid with
    | some f => s.setFrame { f with collNext := sset 0 k.1 (k.2 + 1) f.collNext }
    | none => s

/-- A copy looked at again after a lane or its decrement is over: whether it is over itself. -/
def settleCopy (s : State) (id : Nat) : State :=
  match s.copies.find? fun c => c.id == id with
  | none => s
  | some c =>
    match c.coll with
    | some k => finishCollective s c.fid k
    | none => if !c.moved then s else if c.dep.isSome then s.beginDep c else finishCopy s c

/-- A one-record page-request group of work in flight (R319). -/
def askJob (s : State) (party : Party) (ctx pc : Nat) (p : Absent) : State :=
  let g : PageGroup := { num := s.fresh, party := party, ctx := ctx, recs := [(p.page, p.write, p.stage2, true, 0, pc)], val := p.off }
  { s.tick with pages := s.pages ++ [g] }

/-- A copy changed. -/
def State.setCopy (s : State) (id : Nat) (g : CopyOp → CopyOp) : State :=
  { s with copies := modifyFirst (fun c => c.id == id) g s.copies }

/-- A copy's lane changed. -/
def State.setCopyLane (s : State) (id lane : Nat) (g : CopyLane → CopyLane) : State :=
  s.setCopy id fun c => { c with lanes := modifyFirst (fun x => x.lane == lane) g c.lanes }

/-- A lane is performed, with its error. Its tag falls at once, but for the last lane of a copy, whose decrement comes first
(R194), and for a collective, which waits for all of its lanes (R185). -/
def laneDone (s : State) (id lane : Nat) (err : Option (Nat × Nat)) : State :=
  let s := s.setCopyLane id lane fun x => { x with fin := true, err := err, paused := none }
  match s.copies.find? fun c => c.id == id with
  | none => s
  | some c =>
    if c.coll.isNone && !c.moved then
      match c.fin with
      | .tag t => s.tagDone ⟨c.fid, c.widx⟩ c.core t err
      | _ => s
    else settleCopy (s.setCopy id fun c => { c with last := some lane }) id

/-- Another lane of the same collective waits for a page (R319). -/
def State.collPaused (s : State) (c : CopyOp) : Bool :=
  match c.coll with
  | none => false
  | some k => (s.collective c.fid k).any fun d => d.lanes.any fun x => x.paused.isSome

/-- Two 32-byte destinations may share a byte: they do so only at one offset of a 4 KiB page. -/
def destsMeet (r q : MemRef) : Bool :=
  let at_ (x : MemRef) : Nat := (if x.scr then x.off else x.cap.base + x.off) % 4096
  let d := (at_ r + 4096 - at_ q) % 4096
  d < 32 || 4096 - d < 32

/-- Copies of a frame issued before operation `id` have bytes that are still to enter its buffer (R325, R327). -/
def State.enteringBefore (s : State) (fid : Nat) (l : Launch) (id : Nat) : Bool := (s.entering fid l).any fun i => i < id

/-- A lane that can be performed now: no lower lane that writes one of its bytes is left (R183), and copies that a strict
access commits have entered the buffer (R325). -/
def State.laneReady (s : State) (l : Launch) (c : CopyOp) (x : CopyLane) : Bool :=
  c.started && !x.fin && x.paused.isNone && !s.collPaused c &&
    !(c.lanes.any fun y => y.lane < x.lane && !y.fin && destsMeet y.dst x.dst) &&
    !((x.dst.commits l false false || x.src.commits l false false) && s.enteringBefore c.fid l c.id)

/-- `TAG_LANE_PERFORMED` (R184, R319): a lane of a copy moves its bytes, or pauses at an absent page. -/
def execTagLanePerformed (opId : Nat) (lane : Nat) (s : State) : Res :=
  match s.copies.find? fun c => c.id == opId with
  | none => .next s
  | some c =>
    match c.lanes.find? (fun x => x.lane == lane), s.frame? c.fid with
    | some x, some f =>
      match s.launch? f.lid with
      | none => .next s
      | some l =>
        if !s.laneReady l c x then .next s
        else if discards f l x then .next (laneDone s opId lane none).settleDone
        else
          match moveLane s f l c x with
          | .done s err => .next (laneDone s opId lane err).settleDone
          | .wait => .next s
          | .absent p =>
            let num := s.fresh
            .next ((askJob s (.copy opId lane) l.ctx c.pc p).setCopyLane opId lane fun x => { x with paused := some num })
    | _, _ => .next s

/-! ### Decrements (R193, R194, R319) -/

/-- A decrement is over, with its error: its copy goes on, or its operation is done. -/
def depDone (s : State) (d : DepOp) (err : Option (Nat × Nat)) : State :=
  let s := { s with deps := s.deps.filter fun x => x.id != d.id }
  if s.copies.any fun c => c.id == d.id then settleCopy (s.setCopy d.id fun c => { c with dep := none, derr := err }) d.id
  else s.modWarp ⟨d.fid, d.widx⟩ fun w => w.opDone d.id [] err

/-- A decrement may be made: what its warp accessed up to its operation is performed (a release, R193), and copies issued
before it have entered the buffer that it commits (R325). -/
def State.depReady (s : State) (l : Launch) (d : DepOp) : Bool :=
  d.paused.isNone && !(l.guarded && s.enteringBefore d.fid l d.id) &&
    match s.warp? ⟨d.fid, d.widx⟩ with
    | some w => !w.acc.any fun u => decide (u.op ≤ d.id)
    | none => true

/-- A decrement is made, or pauses at an absent page. -/
def performDep (s : State) (id : Nat) : State :=
  match s.deps.find? fun d => d.id == id with
  | none => s
  | some d =>
    match s.frame? d.fid with
    | none => { s with deps := s.deps.filter fun x => x.id != id }
    | some f =>
      match s.launch? f.lid with
      | none => s
      | some l =>
        if !s.depReady l d then s
        else
          match depDecrement s f l d.cap d.off d.amount with
          | .done s err => (depDone s d err).settleDone
          | .wait => s
          | .absent p =>
            let num := s.fresh
            let s := askJob s (.dep id) l.ctx d.pc p
            { s with deps := modifyFirst (fun x => x.id == id) (fun x => { x with paused := some num }) s.deps }

/-! ### Collectives (R185) -/

/-- A member of a group has issued its k-th slice, or has exited (R185): a save routine that ended is no exit. -/
def Warp.issuedSlice (w : Warp) (g k : Nat) : Bool := decide (k < sget 0 w.cpygSeq g) || w.exited

/-- `CPYG_COLLECTIVE_START` (R185): once every member has issued its slice of the next collective, bytes may
move. -/
def execCpygCollectiveStart (fid g : Nat) (s : State) : Res :=
  match s.frame? fid with
  | none => .next s
  | some f =>
    match s.launch? f.lid with
    | none => .next s
    | some l =>
      let k := sget 0 f.collNext g
      let ready := (groupOf f l g).all fun i => match f.warp? i with | some w => w.issuedSlice g k | none => true
      if ready && s.collective fid (g, k) ≠ [] && (s.collective fid (g, k)).all fun c => !c.started then
        let start (c : CopyOp) : CopyOp := if c.fid = fid && c.coll = some (g, k) then { c with started := true } else c
        .next (finishCollective { s with copies := s.copies.map start } fid (g, k)).settleDone
      else .next s

end Sys2Proof.Machine
end

