-- ==== Sys2Proof/Machine/TagsRings.lean ====
section
/-! DEFINITION. Copy tags, rings, dependency counters and ready lists, opcodes 0x93 to 0x9E (R187 to R195). -/

namespace Sys2Proof.Machine

/-! ### Tags (R187 to R189, R319) -/

def Tag.ready (t : Tag) : Bool := t.count == 0 && t.issued

/-- The tags a mask names, ascending. -/
def maskTags (m : W64) : List Nat := (List.range 64).filter fun t => m.getLsbD t

/-- The lowest ready tag of a mask. -/
def State.firstReady (s : State) (core : Nat) (m : W64) : Option Nat := (maskTags m).find? fun t => (s.tag core t).ready

/-- A pending tag error is taken in place of completing, and cleared (R319). -/
def tagTrap (s : State) (e : Env) (t : Nat) (x : Nat × Nat) : Res :=
  let g := s.tag e.w.core t
  let s := s.setTag e.w.core t { g with err := none }
  if e.w.run.isSome then .next (stopRun s e.c.fid e.l.ctx e.w)
  else .next (takeTrap s e.c.fid e.c.widx e.c.lanes e.c.pc e.c.len (Cause.ofCode x.1) x.2 none true)

/-- The lowest-numbered ready tag of a list that has a pending error. -/
def State.tagErr (s : State) (core : Nat) (ts : List Nat) : Option (Nat × (Nat × Nat)) :=
  ts.findSome? fun t => if (s.tag core t).ready then (s.tag core t).err.map fun x => (t, x) else none

/-- A tag instruction acts once per issue when some lane executes (R84, R188). -/
def tagInstr (s : State) (h : Hdr) (k : Env → Res) : Res :=
  withEnv s fun e => if e.exec h = [] then finish s e h e.w else k e

/-- `TAGCLR` (R188): issued flags and pending errors (R319) cleared, counts unchanged. -/
def execTagclr (h : Hdr) (x : ExtArgs) (s : State) : Res :=
  tagInstr s h fun e =>
    let core := e.w.core
    let clear (s : State) (t : Nat) : State :=
      let g := s.tag core t
      s.setTag core t { g with issued := false, err := none }
    finish ((maskTags (e.rdScalar x.a)).foldl clear s) e h e.w

/-- `TAGWALL` (R188): every tag of A ready. -/
def execTagwall (h : Hdr) (x : ExtArgs) (s : State) : Res :=
  tagInstr s h fun e =>
    let ts := maskTags (e.rdScalar x.a)
    if !(ts.all fun t => (s.tag e.w.core t).ready) then holdAt s e (.tagsAll (e.natS x.a))
    else match s.tagErr e.w.core ts with
      | some (t, err) => tagTrap s e t err
      | none => finish s e h e.w

/-- `TAGWANY` (R188): D := the lowest ready index. -/
def execTagwany (h : Hdr) (x : ExtArgs) (s : State) : Res :=
  tagInstr s h fun e =>
    match s.firstReady e.w.core (e.rdScalar x.a) with
    | none => holdAt s e (.tagsAny (e.natS x.a))
    | some t =>
      match (s.tag e.w.core t).err with
      | some err => tagTrap s e t err
      | none => finish s e h (e.w.put (e.w.sWrite x.d.raw (BitVec.ofNat 64 t)))

/-- `TAGFF` (R188): D := the lowest ready index, or all ones. -/
def execTagff (h : Hdr) (x : ExtArgs) (s : State) : Res :=
  tagInstr s h fun e =>
    match s.tagErr e.w.core (maskTags (e.rdScalar x.a)) with
    | some (t, err) => tagTrap s e t err
    | none =>
      let v := match s.firstReady e.w.core (e.rdScalar x.a) with
        | some t => BitVec.ofNat 64 t
        | none => allOnes64
      finish s e h (e.w.put (e.w.sWrite x.d.raw v))

/-! ### Rings (R190 to R192) -/

/-- A ring of a bay or a die by its code (R191). -/
def State.ring? (s : State) (bay code : Nat) : Option Ring :=
  let rs := if code < 64 then (s.bay bay).rings else (s.die (dieOf bay)).rings
  (rs.find? fun (k, _) => k == code % 64).map Prod.snd

/-- A ring bound, changed or (with `none`) unbound. -/
def State.setRing (s : State) (bay code : Nat) (r : Option Ring) : State :=
  let upd := fun (rs : List (Nat × Ring)) =>
    let rs := rs.filter fun (k, _) => k != code % 64
    match r with | some r => (code % 64, r) :: rs | none => rs
  if code < 64 then let b := s.bay bay; s.setBay bay { b with rings := upd b.rings }
  else let d := s.die (dieOf bay); s.setDie (dieOf bay) { d with rings := upd d.rings }

def Ring.count (r : Ring) : Nat := 2 ^ r.logn

/-- The difference of two sequence counters (R190). -/
def seqSub (a b : Nat) : Nat := (a + 2 ^ 32 - b) % 2 ^ 32

/-- The byte offset of a sequence's slot (R190). -/
def Ring.slotOff (r : Ring) (q : Nat) : Nat := r.base + q % r.count * (8 * r.size8)

/-- A slot value: offset in [31:0], sequence in [63:32] (R191). -/
def Ring.slotValue (r : Ring) (q : Nat) : W64 := BitVec.ofNat 64 (r.slotOff q % 2 ^ 32 + 2 ^ 32 * q)

/-- A counter advanced over every consecutive sequence of a list (R191). -/
def advanceOver : Nat → Nat → List Nat → Nat × List Nat
  | 0, q, marks => (q, marks)
  | n + 1, q, marks => if marks.contains q then advanceOver n ((q + 1) % 2 ^ 32) (marks.erase q) else (q, marks)

/-- A reserved slot published (R191): none when it is not reserved or already published. -/
def Ring.publish (r : Ring) (q : Nat) : Option Ring :=
  if seqSub r.rsv r.wr ≤ seqSub q r.wr || r.pub.contains q then none
  else
    let (wr, pub) := advanceOver (r.count + 1) r.wr (q :: r.pub)
    some { r with wr := wr, pub := pub }

/-- A taken slot released (R191): none when it is not taken or already released. -/
def Ring.release (r : Ring) (q : Nat) : Option Ring :=
  if seqSub r.tk r.rd ≤ seqSub q r.rd || r.rel.contains q then none
  else
    let (rd, rel) := advanceOver (r.count + 1) r.rd (q :: r.rel)
    some { r with rd := rd, rel := rel }

def Ring.full (r : Ring) : Bool := seqSub r.rsv r.rd == r.count
def Ring.empty (r : Ring) : Bool := r.tk == r.wr

/-- The ring code of an instruction. -/
def ringCode (x : ExtArgs) : Nat := match x.x with | .ring c => c | _ => 0

/-- A ring instruction acts once per issue on a ring that its context bound; otherwise RING_BAD (R191). -/
def ringInstr (s : State) (h : Hdr) (x : ExtArgs) (k : Env → Ring → Res) : Res :=
  withEnv s fun e =>
    if e.exec h = [] then finish s e h e.w
    else match s.ring? e.f.bay (ringCode x) with
      | none => trap s e .ringBad (ringCode x)
      | some r => if r.ctx = e.l.ctx then k e r else trap s e .ringBad (ringCode x)

/-- D written before the warp's next issue. -/
def finishS (s : State) (e : Env) (h : Hdr) (d : Opd) (v : W64) : Res := finish s e h (e.w.put (e.w.sWrite d.raw v))

/-- `RGRSV` (R191). -/
def execRgrsv (h : Hdr) (x : ExtArgs) (s : State) : Res :=
  ringInstr s h x fun e r =>
    if r.full then if x.sub = 1 then finishS s e h x.d allOnes64 else holdAt s e (.ringRoom (ringCode x))
    else finishS (s.setRing e.f.bay (ringCode x) (some { r with rsv := (r.rsv + 1) % 2 ^ 32 })) e h x.d (r.slotValue r.rsv)

/-- `RGPUB` (R191): a release of what the warp accessed before; on a capability ring a guarded frame commits first (R325). -/
def execRgpub (h : Hdr) (x : ExtArgs) (s : State) : Res :=
  ringInstr s h x fun e r =>
    match r.publish (e.natS x.a / 2 ^ 32) with
    | none => trap s e .ringBad (ringCode x)
    | some r' =>
      withCommit s e r.cap.isSome fun s =>
        let (s, w) := performAll s e.c.fid e.w
        finish (s.setRing e.f.bay (ringCode x) (some r')) e h w

/-- `RGAWT` (R191). -/
def execRgawt (h : Hdr) (x : ExtArgs) (s : State) : Res :=
  ringInstr s h x fun e r =>
    if r.empty then if x.sub = 1 then finishS s e h x.d allOnes64 else holdAt s e (.ringItem (ringCode x))
    else finishS (s.setRing e.f.bay (ringCode x) (some { r with tk := (r.tk + 1) % 2 ^ 32 })) e h x.d (r.slotValue r.tk)

/-- `RGREL` (R191). -/
def execRgrel (h : Hdr) (x : ExtArgs) (s : State) : Res :=
  ringInstr s h x fun e r =>
    match r.release (e.natS x.a / 2 ^ 32) with
    | none => trap s e .ringBad (ringCode x)
    | some r' => finish (s.setRing e.f.bay (ringCode x) (some r')) e h e.w

/-- `RGQRY.state` (R192): RSV and WR, TK and RD. -/
def execRgqryState (h : Hdr) (x : ExtArgs) (s : State) : Res :=
  ringInstr s h x fun e r =>
    let two := fun a b : Nat => BitVec.ofNat 64 (a * 2 ^ 32 + b)
    finish s e h (e.w.putAll [e.w.sWrite x.d.raw (two r.rsv r.wr), e.w.sWrite (x.d.raw + 1) (two r.tk r.rd)])

/-- A ring from its 32-byte descriptor (Table 8.8), the capability copied; none for a bad descriptor (R192). -/
def readDescriptor (bs : List Byte) (k : Nat → Cap) (ctx fid : Nat) : Option Ring :=
  let at_ := fun o w => ofLe ((bs.drop o).take w)
  let kind := at_ 4 1
  let rsv := at_ 16 4
  let wr := at_ 20 4
  let tk := at_ 24 4
  let rd := at_ 28 4
  let cnt := 2 ^ at_ 5 1
  if kind / 64 ≠ 0 || 10 < at_ 5 1 || at_ 6 2 = 0 || 8192 < at_ 6 2 || at_ 8 8 ≠ 0 then none
  else if !(seqSub tk rd ≤ seqSub wr rd && seqSub wr rd ≤ seqSub rsv rd && seqSub rsv rd ≤ cnt) then none
  else some {
    base := at_ 0 4, cap := if bitOf kind 0 then some (k (bits kind 5 1)) else none, creg := bits kind 5 1
    logn := at_ 5 1, size8 := at_ 6 2, rsv := rsv, wr := wr, tk := tk, rd := rd, ctx := ctx, fid := fid }

/-- The descriptor written back (Table 8.8). -/
def Ring.descriptor (r : Ring) : List Byte :=
  leBytes 4 r.base ++ leBytes 1 (natOf r.cap.isSome + 2 * r.creg) ++ leBytes 1 r.logn ++ leBytes 2 r.size8 ++ leBytes 8 0 ++
    leBytes 4 r.rsv ++ leBytes 4 r.wr ++ leBytes 4 r.tk ++ leBytes 4 r.rd

/-- The scratchpad address of a ring descriptor: SCRATCH_BOUNDS outside the allocation (R167), RING_BAD when it is
not 32-byte aligned (R192). -/
def descriptorAt (s : State) (e : Env) (x : ExtArgs) (k : Nat → Res) : Res :=
  let off := e.natS x.a
  if off % 32 ≠ 0 then trap s e .ringBad (ringCode x)
  else if e.l.scratch < off + 32 then trap s e .scratchBounds (max off e.l.scratch)
  else k ((Region.scratch e.f.fid).at off)

/-- `RGQRY.bind` (R192). -/
def execRgqryBind (h : Hdr) (x : ExtArgs) (s : State) : Res :=
  withEnv s fun e =>
    if e.exec h = [] then finish s e h e.w
    else
      descriptorAt s e x fun a =>
        let (s, w) := performAll s e.c.fid e.w
        match s.ring? e.f.bay (ringCode x), readDescriptor (readBytes s.mem a 32) w.rdK e.l.ctx e.c.fid with
        | none, some r => finish (s.setRing e.f.bay (ringCode x) (some r)) e h w
        | _, _ => trap (s.setWarp e.c.fid w) { e with w := w } .ringBad (ringCode x)

/-- `RGQRY.unbind` (R192): requires RSV = WR = TK = RD. -/
def execRgqryUnbind (h : Hdr) (x : ExtArgs) (s : State) : Res :=
  ringInstr s h x fun e r =>
    if !(r.rsv == r.wr && r.wr == r.tk && r.tk == r.rd) then trap s e .ringBad (ringCode x)
    else descriptorAt s e x fun a =>
      let (s, w) := performAll s e.c.fid e.w
      finish ((s.setMem (writeBytes s.mem a r.descriptor)).setRing e.f.bay (ringCode x) none) e h w

/-- The warps held on a ring: `want` tells reservations from takes. A bay ring is known in its bay, an engine
ring on its die. -/
def State.ringWaiters (s : State) (bay code : Nat) (want : HoldWhy) : Nat :=
  let near (f : Frame) : Bool := if code < 64 then f.bay == bay else dieOf f.bay == dieOf bay
  ((s.frames.filter near).map fun f => (f.warps.filter fun w => w.hold.any fun x => x.why == want).length).sum

/-- `RGQRY.waiters` (R192). -/
def execRgqryWaiters (h : Hdr) (x : ExtArgs) (s : State) : Res :=
  ringInstr s h x fun e _ =>
    let c := ringCode x
    let onRing (j : Job) : Bool :=
      match j.work with
      | .desc _ d _ _ _ =>
        let byte := fun o => (d.getD o 0).toNat
        let named := fun o => bitOf (byte o) 7 && byte o % 64 + (if bitOf (byte o) 6 then 0 else 64) == c
        (64 ≤ c || j.bay == e.f.bay) && ((j.phase == .waitIn && named 9) || (j.phase == .waitOut && named 10))
      | _ => false
    let jobs := ((s.die (dieOf e.f.bay)).jobs.filter onRing).length
    let n := s.ringWaiters e.f.bay c (.ringRoom c)
    let m := s.ringWaiters e.f.bay c (.ringItem c)
    finishS s e h x.d (BitVec.ofNat 64 (n % 2 ^ 16 + 2 ^ 16 * (m % 2 ^ 16) + 2 ^ 32 * (jobs % 2 ^ 16)))

/-! ### Dependency counters (R194) -/

/-- The capability register of a form E instruction. -/
def capField (x : ExtArgs) : Nat := match x.x with | .cap k => k | _ => 0

/-- The record an instruction names, checked by R167 as a 32-byte atomic access (DEDUCED, log 17); `k` goes on when some lane
executes, and else an operation is enrolled with nothing to do. -/
def depInstr (s : State) (h : Hdr) (x : ExtArgs) (k : State → Env → Nat → Cap → Nat → Res) : Res :=
  withEnv s fun e =>
    let ctr := match x.fin with | .ctr c => c | _ => 4
    withRoom s e ctr <|
    let lanes := (e.exec h).take 1
    let cap := e.w.rdK (capField x)
    let offs := lanes.map fun l => (l, some ((e.natS x.b : Nat) : Int))
    afterChecks s e (Xst.lanes e 32 32 (fun o => { cap := cap, off := o }) depUse offs ⟨s, e.w⟩ [] []) false
      (fun s e ls => if ls = [] then finishEmpty s e h ctr else k s e ctr cap (e.natS x.b))
      (fun s e _ => finish s e h e.w)

/-- `DEPDEC` (R193, R194): A is to be subtracted from the record; the operation is done when that and any push are. -/
def execDepdec (h : Hdr) (x : ExtArgs) (s : State) : Res :=
  depInstr s h x fun s e ctr cap off =>
    let (s, w) := issueUnits s e.c.fid e.w ctr false none [] false
    finish (s.addDep e cap off (e.rdScalar x.a)) e h w

/-- `DEPDEC.set` (R194): latches the record as the warp's dependency target. -/
def execDepdecSet (h : Hdr) (x : ExtArgs) (s : State) : Res :=
  depInstr s h x fun s e ctr cap off => finishEmpty s { e with w := { e.w with dep := some (cap, off) } } h ctr

/-! ### Ready lists (R195) -/

/-- A list instruction through its capability: one that names no list or lacks the permission is CAP_PERM (R195), then a
revoked one, in the order of R167. -/
def listInstr (s : State) (h : Hdr) (x : ExtArgs) (bit : Nat) (k : Env → Nat → Nat → Res) : Res :=
  withEnv s fun e =>
    if e.exec h = [] then finish s e h e.w
    else
      let c := e.w.rdK (capField x)
      match c.kind, c.tgt with
        | 5, .list d i =>
          if !c.perm.getLsbD bit then trap s e .capPerm 0
          else if !s.current c then trap s e .capRevoked 0
          else k e d i
        | _, _ => trap s e .capPerm 0

/-- `RLPUSH` (R195): held while the list is full; a release of what the warp accessed before; a guarded frame commits first
(R325). -/
def execRlpush (h : Hdr) (x : ExtArgs) (s : State) : Res :=
  listInstr s h x 1 fun e d i =>
    if (s.list d i).full then holdAt s e (.listRoom d i)
    else
      withCommit s e true fun s =>
        let (s, w) := performAll s e.c.fid e.w
        finish (s.pushItem d i (e.rdScalar x.a)) e h w

/-- `RLPOP` (R195). -/
def execRlpop (h : Hdr) (x : ExtArgs) (s : State) : Res :=
  listInstr s h x 0 fun e d i =>
    let two := fun (a b : W64) => e.w.putAll [e.w.sWrite x.d.raw a, e.w.sWrite (x.d.raw + 1) b]
    match s.popItem d i with
    | none => finish s e h (two 0 0)
    | some (y, s) => finish s e h (two y 1)

end Sys2Proof.Machine
end

