-- ==== Sys2Proof/Machine/Control.lean ====
section
/-! DEFINITION. Waits, user-level interrupts and control flow, opcodes 0xA0 to 0xAE (R180, R181, R196, R197, R222 to
R224, R312). -/

namespace Sys2Proof.Machine

/-! ### WAITC (R180, R181) -/

/-- The used slots in order: (counter, threshold). -/
def WaitcArgs.slots (o : WaitcArgs) : List (Nat × Nat) :=
  [o.s0, o.s1, o.s2, o.s3].filterMap fun x => x.map fun y => (y.ctr, y.threshold)

/-- `WAITC`: holds until every slot's counter is at or below its threshold, then completes or takes the pending
error of the lowest slot that has one; in a trap routine errors stay pending (R307). -/
def execWaitc (h : Hdr) (o : WaitcArgs) (s : State) : Res :=
  withEnv s fun e =>
    let cs := WaitcArgs.slots o
    if e.exec h = [] then finish s e h e.w
    else if e.w.waitsOn cs ≠ [] then holdAt s e (.counters cs)
    else
      match if e.w.mode = .trap then none else e.w.firstErr (cs.map Prod.fst) with
      | none => finish s e h e.w
      | some (c, cause, val) =>
        if e.w.run.isSome then .next (stopRun s e.c.fid e.l.ctx e.w)
        else
          let s := s.setWarp e.c.fid (e.w.clearErr c)
          .next (takeTrap s e.c.fid e.c.widx e.c.lanes e.c.pc e.c.len (Cause.ofCode cause) val none true)

/-! ### User-level interrupts (R196, R197) -/

/-- An instruction of the whole warp: it changes the warp once when some lane executes (R84). -/
def warpInstr (s : State) (h : Hdr) (g : Env → Warp) : Res :=
  withEnv s fun e => finish s e h (if e.exec h = [] then e.w else g e)

/-- `UISET.vec`. -/
def execUisetVec (h : Hdr) (o : AluArgs) (s : State) : Res :=
  warpInstr s h fun e => { e.w with uivec := o.imm.setWidth 64 }
/-- `UISET.tags`. -/
def execUisetTags (h : Hdr) (o : AluArgs) (s : State) : Res :=
  warpInstr s h fun e => { e.w with uitags := e.rdScalar o.a }
/-- `UISET.ring`: arms the ring of IMM32[6:0] when IMM32[7] = 1, else disarms it. -/
def execUisetRing (h : Hdr) (o : AluArgs) (s : State) : Res :=
  warpInstr s h fun e =>
    let code := o.imm.toNat % 128
    if o.imm.getLsbD 7 then { e.w with uiring := some code }
    else if e.w.uiring = some code then { e.w with uiring := none } else e.w
/-- `UIMASK`. -/
def execUimask (h : Hdr) (o : AluArgs) (s : State) : Res := warpInstr s h fun e => { e.w with uim := o.sub % 2 == 1 }

/-- `UIRET` (R197): every live lane back at its return PC; with no interrupt in progress ILLEGAL_OP. -/
def execUiret (h : Hdr) (_o : AluArgs) (s : State) : Res :=
  withEnv s fun e =>
    if e.exec h = [] then finish s e h e.w
    else if !e.w.inUi then trapWord s e .illegalOp
    else finishAt s e h { e.w.mapLive (fun l => { l with pc := l.retPc }) with uim := false, inUi := false }

/-! ### Branches (R223) -/

/-- A PC as its 32 bits (R11). -/
def pc32 (x : Int) : Nat := (x % (2 ^ 32 : Nat)).toNat

/-- Executing lanes go where `f` says; the others fall through. -/
def branch (s : State) (h : Hdr) (f : Env → Nat → Nat) (g : State → Env → Warp → Warp) : Res :=
  withEnv s fun e =>
    let w := (e.w.advance e.c).mapLanes (e.exec h) fun i l => { l with pc := f e i }
    finishAt s e h (g s e w)

/-- The target of a form C branch: a signed byte distance from the instruction. -/
def Env.relTarget (e : Env) (o : AluArgs) : Nat := pc32 ((e.c.pc : Int) + o.imm.toInt)

/-- `BRA`. -/
def execBra (h : Hdr) (o : AluArgs) (s : State) : Res := branch s h (fun e _ => e.relTarget o) fun _ _ w => w
/-- `BRX`. -/
def execBrx (h : Hdr) (o : AluArgs) (s : State) : Res := branch s h (fun e l => (e.rdVec o.b l).toNat) fun _ _ w => w
/-- `CALL`: D := address + 12, a fixed-latency write of 4 clk. -/
def execCall (h : Hdr) (o : AluArgs) (s : State) : Res :=
  branch s h (fun e _ => e.relTarget o) fun s e w =>
    let ret := BitVec.ofNat 64 (e.c.pc + 12)
    w.postG s.now 4 e.width ((e.exec h).flatMap fun l => (e.dst o.d l ret).map fun y => (y, false))
/-- `RET`: as `BRX`. -/
def execRet (h : Hdr) (o : AluArgs) (s : State) : Res := branch s h (fun e l => (e.rdVec o.b l).toNat) fun _ _ w => w

/-! ### JOIN, EXIT and the rest (R222 to R224, R312) -/

/-- `JOIN` (R222): executing lanes with bit 0 of p set wait here; the others pass through. -/
def execJoin (h : Hdr) (o : AluArgs) (s : State) : Res :=
  withEnv s fun e =>
    let stay := (e.exec h).filter fun l => (e.rdPred o.a l).getLsbD 0
    let w := (e.w.advance e.c).mapLanes stay fun _ l => { l with pc := e.c.pc, waitJoin := some o.a.raw, miss := 0 }
    finishAt s e h w

/-- A warp whose live lanes have all exited is gone (R224). -/
def Warp.checkGone (w : Warp) : Warp := { w with gone := w.liveLanes.isEmpty }

/-- `EXIT` (R224): executing lanes exit; the warp that loses its last lane frees its slot, and its exit counts as
arrival, a release of what it accessed (R202, R228), except in a save routine, whose end it is. In a restore routine
ILLEGAL_OP. -/
def execExit (h : Hdr) (_o : AluArgs) (s : State) : Res :=
  withEnv s fun e =>
    if e.w.mode = .restore && e.exec h ≠ [] then trapWord s e .illegalOp
    else
      let w := ((e.w.advance e.c).mapLanes (e.exec h) fun _ l =>
        { l with st := .exited, waitJoin := none, waitBar := none, ended := e.w.mode == .save }).checkGone
      let (s, w) := if w.gone then performAll s e.c.fid w else (s, w)
      let s := s.endIssue e.c.fid (w.stalled s.now e.width h)
      .next (if w.exited then (s.settleBarriers e.c.fid (some e.w.idx)).settleDone else s)

/-- `NOP`. -/
def execNop (h : Hdr) (_o : AluArgs) (s : State) : Res := withEnv s fun e => finish s e h e.w

/-- `YIELD` (R223): sets Y, and the executing lanes are deferred for the warp's next issue. -/
def execYield (h : Hdr) (_o : AluArgs) (s : State) : Res :=
  withEnv s fun e => finish s e { h with y := true } (e.w.mapLanes (e.exec h) fun _ l => { l with deferred := true })

/-- `UTRAP` (R312): USER with TRAPVAL = IMM32. -/
def execUtrap (h : Hdr) (o : AluArgs) (s : State) : Res :=
  withEnv s fun e => if e.exec h = [] then finish s e h e.w else trap s e .user o.imm.toNat

/-- `BKPT` (R223): BREAKPOINT with TRAPVAL = SUB. -/
def execBkpt (h : Hdr) (o : AluArgs) (s : State) : Res :=
  withEnv s fun e => if e.exec h = [] then finish s e h e.w else trap s e .breakpoint o.sub

/-- `SLEEP` (R223): holds the warp for IMM32 clk; `SLEEP_EXPIRY` moves it on. -/
def execSleep (h : Hdr) (o : AluArgs) (s : State) : Res :=
  withEnv s fun e =>
    if e.exec h = [] then finish s e h e.w
    else holdAt s { e with w := e.w.stalled s.now e.width h } (.sleep (s.now + o.imm.toNat))

end Sys2Proof.Machine
end

