-- ==== Sys2Proof/Machine/Groups.lean ====
section
/-! DEFINITION. Barriers, group queries and the frame commit, opcodes 0xB0 to 0xB5 (R226 to R228, R327). -/

namespace Sys2Proof.Machine

/-- An instruction on a group of which the warp must be a member when some lane executes; otherwise ILLEGAL_FIELD (R48,
R227). -/
def groupInstr (s : State) (h : Hdr) (a : Opd) (k : Env → Nat → Res) : Res :=
  withEnv s fun e => if e.exec h = [] || (e.members a.raw).contains e.w.idx then k e a.raw else trapWord s e .illegalField

/-- The warp arrives in the current generation, once (R228). -/
def Frame.arrive (f : Frame) (g widx : Nat) : Frame :=
  { f with barriers := modifyAt (fun b => if b.arrived.contains widx then b else { b with arrived := b.arrived ++ [widx] }) g f.barriers }

/-- Executing lanes wait at this instruction for the generation to complete. -/
def Env.waitLanes (e : Env) (h : Hdr) (g : Nat) : Warp :=
  (e.w.advance e.c).mapLanes (e.exec h) fun _ l => { l with pc := e.c.pc, waitBar := some g, miss := 0 }

/-- The issue ends with the warp `g` makes; where the warp arrives, what it accessed is performed first (R202, R228); generations
that are complete complete. From SAVE_REQ on the barrier state is frozen (R237). -/
def barrierEnd (s : State) (e : Env) (h : Hdr) (g : Nat) (w : Warp) (arrives : Bool) : Res :=
  if !arrives then .next ((s.endIssue e.c.fid (w.stalled s.now e.width h)).settleBarriers e.c.fid)
  else
    let (s, w) := performAll s e.c.fid w
    let s := s.endIssue e.c.fid (w.stalled s.now e.width h)
    let s := match s.frame? e.c.fid with
      | some f => if f.frozen.isSome then s else s.setFrame (f.arrive g e.w.idx)
      | none => s
    .next (s.settleBarriers e.c.fid)

/-- `BAR` (Table 11.5): arrives and waits. -/
def execBar (h : Hdr) (o : AluArgs) (s : State) : Res :=
  groupInstr s h o.a fun e g => barrierEnd s e h g (e.waitLanes h g) (e.exec h != [])
/-- `BARA` (Table 11.5): arrives. -/
def execBara (h : Hdr) (o : AluArgs) (s : State) : Res :=
  groupInstr s h o.a fun e g => barrierEnd s e h g (e.w.advance e.c) (e.exec h != [])
/-- `BARW` (Table 11.5): waits. -/
def execBarw (h : Hdr) (o : AluArgs) (s : State) : Res :=
  groupInstr s h o.a fun e g => barrierEnd s e h g (e.waitLanes h g) false

/-- A group query writes D with a latency of 4 clk (R227). -/
def groupQuery (s : State) (h : Hdr) (o : AluArgs) (f : Env → Nat → W64) : Res :=
  groupInstr s h o.a fun e g =>
    if e.exec h = [] then finish s e h e.w
    else finish s e h (e.w.postG s.now 4 e.width ((e.dst o.d 0 (f e g)).map fun y => (y, e.ghost o.b 0)))

/-- `GRPQ.count`. -/
def execGrpqCount (h : Hdr) (o : AluArgs) (s : State) : Res :=
  groupQuery s h o fun e g => BitVec.ofNat 64 (e.members g).length
/-- `GRPQ.arrived`. -/
def execGrpqArrived (h : Hdr) (o : AluArgs) (s : State) : Res :=
  groupQuery s h o fun e g => BitVec.ofNat 64 (e.f.barrier g).arrived.length
/-- `GRPQ.gen`. -/
def execGrpqGen (h : Hdr) (o : AluArgs) (s : State) : Res := groupQuery s h o fun e g => BitVec.ofNat 64 (e.f.barrier g).gen
/-- `GRPQ.mem`: membership bits of 64 warps; a block above 7 is ILLEGAL_FIELD. -/
def execGrpqMem (h : Hdr) (o : AluArgs) (s : State) : Res :=
  withEnv s fun e =>
    if e.exec h ≠ [] && decide (7 < e.natS o.b) then trapWord s e .illegalField
    else groupQuery s h o fun e g =>
      BitVec.ofNat 64 ((List.range 64).foldl (fun n i => if (e.members g).contains (64 * e.natS o.b + i) then n + 2 ^ i else n) 0)

/-- `FCOMMIT` and `FABORT` on the buffer of a guarded frame, held for the copies issued before that have bytes to enter (R327):
the buffer closes as it stands, and with it those bytes, so that what other warps issue later is not affected. -/
def bufferInstr (s : State) (h : Hdr) (keep : Bool) : Res :=
  withEnv s fun e =>
    if e.exec h = [] || !e.l.guarded || e.closed then finish s e h e.w
    else
      let (s, ids) := s.closeBuffer e.c.fid e.l keep
      if ids = [] then finish s e h e.w else holdAt s e (.buffer ids)

/-- `FCOMMIT` (R327). -/
def execFcommit (h : Hdr) (_o : AluArgs) (s : State) : Res := bufferInstr s h true
/-- `FABORT` (R327). -/
def execFabort (h : Hdr) (_o : AluArgs) (s : State) : Res := bufferInstr s h false

end Sys2Proof.Machine
end

