-- ==== Sys2Proof/Machine/Caps.lean ====
section
/-! DEFINITION. The capability instructions, opcodes 0xE0 to 0xE5 (R280 to R285). -/

namespace Sys2Proof.Machine

/-- The capability a mapping grants at a table entry of a generation (R278, Table 12.6). -/
def capOfMapping (o : MapObj) (ctx tab gen : Nat) : Cap :=
  { kind := o.target, base := if o.target = 5 then 0 else o.base, len := o.len, perm := o.perm, cls := o.cls, fmt := o.fmt
    view := o.view, geom := o.geom, src := .table ctx tab gen
    tgt :=
      if o.target = 1 then .node o.node
      else if o.target = 5 then .list (o.node % 8) (o.node / 8 % 16)
      else if 2 ≤ o.target && o.target ≤ 4 then .frame o.tprog o.tframe
      else .none
    ctx := ctx }

/-- Entry `i` of a context's capability table: the grant of its BUILT MAPPING, else null (R281). -/
def State.tableCap (s : State) (ctx i : Nat) : Cap :=
  match sget (0, none) s.scribe.tab (ctx * 2 ^ 16 + i) with
  | (gen, some m) => match s.mapObj m with
    | some o => if (s.entry 2 m).stands then capOfMapping o ctx i gen else Cap.null
    | none => Cap.null
  | _ => Cap.null

/-- A capability instruction acts once per issue when some lane executes (R280). -/
def capInstr (s : State) (h : Hdr) (k : Env → Res) : Res :=
  withEnv s fun e => if e.exec h = [] then finish s e h e.w else k e

/-- D written with a fixed latency (R280). -/
def finishCap (s : State) (e : Env) (h : Hdr) (d : Opd) (lat : Nat) (c : Cap) : Res :=
  finish s e h (e.w.postG s.now lat e.width [(e.w.kWrite d.raw c, false)])

/-- `CAPLD` (R281). -/
def execCapld (h : Hdr) (o : AluArgs) (s : State) : Res :=
  capInstr s h fun e =>
    let i := if o.form = .c then o.imm.toNat else e.natS o.b
    if 65535 < i then trap s e .capBounds i else finishCap s e h o.d 16 (s.tableCap e.l.ctx i)

/-- `CAPNAR` (R282). -/
def execCapnar (h : Hdr) (o : AluArgs) (s : State) : Res :=
  capInstr s h fun e =>
    let c := e.rdCap o.a
    let off := (e.w.rdS o.b.raw).toNat
    let len := (e.w.rdS (o.b.raw + 1)).toNat
    if !c.perm.getLsbD 4 then trap s e .capPerm 0
    else if c.len < off + len then trap s e .capBounds ((off + len) % 2 ^ 64)
    else if c.view ≠ 0 && (c.geom = 0 || off % viewRow c.geom ≠ 0) then trap s e .capBounds off
    else finishCap s e h o.d 4 { c with base := c.base + off, len := len }

/-- A capability in another view (R283): between raw and formatted, BASE and LENGTH count the bytes of the new
view; the stored extent is whole rows. The error is the raw offset where it is not. -/
def Cap.inView (c : Cap) (v : Nat) : Except Nat Cap :=
  let row := storedRow c.fmt c.geom
  let vrow := viewRow c.geom
  if (c.view = 0) = (v = 0) then .ok { c with view := v }
  else
    let (a, b) := if v = 0 then (vrow, row) else (row, vrow)
    if a = 0 || c.base % a ≠ 0 then .error 0
    else if c.len % a ≠ 0 then .error (c.len / a * row)
    else .ok { c with view := v, base := c.base / a * b, len := c.len / a * b }

/-- `CAPVW` (R283). -/
def execCapvw (h : Hdr) (o : AluArgs) (s : State) : Res :=
  capInstr s h fun e =>
    let c := e.rdCap o.a
    let v := e.natS o.b % 32
    if !c.perm.getLsbD 4 || (v ≠ 0 && !viewOk c.fmt v) then trap s e .capPerm 0
    else match c.inView v with
      | .error off => trap s e .capBounds off
      | .ok c => finishCap s e h o.d 4 c

/-- `CAPDRP` (R284). -/
def execCapdrp (h : Hdr) (o : AluArgs) (s : State) : Res :=
  capInstr s h fun e =>
    let c := e.rdCap o.a
    finishCap s e h o.d 4 { c with perm := c.perm &&& ~~~((e.rdScalar o.b).setWidth 5) }

def Cls.code : Cls → Nat
  | .strict => 0 | .release => 1 | .free => 2

/-- Table 16.4, `.attr`. -/
def Cap.attr (c : Cap) : Nat :=
  c.perm.toNat + 2 ^ 8 * c.cls.code + 2 ^ 12 * c.kind + 2 ^ 16 * c.fmt + 2 ^ 24 * c.view + 2 ^ 32 * (c.geom % 2 ^ 32)

/-- A query of a capability (R285): a null register reads as zeros. -/
def capQuery (s : State) (h : Hdr) (o : AluArgs) (f : Cap → Nat) : Res :=
  scalarResult s h 4 o.d [] fun e =>
    let c := e.rdCap o.a
    (BitVec.ofNat 64 (if c.len = 0 then 0 else f c), 0)

/-- `CAPQRY.len`. -/
def execCapqryLen (h : Hdr) (o : AluArgs) (s : State) : Res := capQuery s h o Cap.len
/-- `CAPQRY.base`. -/
def execCapqryBase (h : Hdr) (o : AluArgs) (s : State) : Res := capQuery s h o Cap.base
/-- `CAPQRY.attr`. -/
def execCapqryAttr (h : Hdr) (o : AluArgs) (s : State) : Res := capQuery s h o Cap.attr
/-- `CAPQRY.valid`. -/
def execCapqryValid (h : Hdr) (o : AluArgs) (s : State) : Res := capQuery s h o fun c => natOf (s.current c)

/-- `CAPCLR` (R280): D := null. -/
def execCapclr (h : Hdr) (o : AluArgs) (s : State) : Res := capInstr s h fun e => finishCap s e h o.d 4 Cap.null

end Sys2Proof.Machine
end

