-- ==== Sys2Proof/Machine/System.lean ====
section
/-! DEFINITION. The privileged instructions: barrier images, sealed capabilities, the ends of routines, warp images
and the trap context, opcodes 0xB6, 0xB7 and 0xE6 to 0xEA (R238 to R241, R309, R311). -/

namespace Sys2Proof.Machine

/-! ### Images through a capability (R238) -/

/-- An image instruction: `n` bytes through capability A at offset B, 64-byte aligned, checked whole, once per
issue. Its accesses are performed before it ends, after those of the warp in flight; a strict one commits the frame's buffer
first (R325). -/
def imageInstr (s : State) (h : Hdr) (a b : Opd) (n : Nat) (acc : Acc) (k : State → Env → MemRef → PMap → Res) : Res :=
  withEnv s fun e =>
    if e.exec h = [] then finish s e h e.w
    else
      let cap := e.rdCap a
      let offs := ((e.exec h).take 1).map fun l => (l, some ((e.natS b : Nat) : Int))
      afterChecks s e (Xst.lanes e 64 n (fun o => { cap := cap, off := o }) { acc := acc } offs ⟨s, e.w⟩ [] []) false
        (fun s e ls =>
          match ls.head?.bind LaneAcc.m with
          | some m =>
            withCommit s e (cap.cls == .strict) fun s =>
              let (s, w) := performAll s e.c.fid e.w
              k (s.setWarp e.c.fid w) { e with w := w } { cap := cap, off := e.natS b } m
          | none => finish s e h e.w)
        (fun s e _ => finish s e h e.w)

/-- An image read; a bad line reads as ones, and the warp takes POISON (R321). -/
def readImage (s : State) (e : Env) (r : MemRef) (n : Nat) (m : PMap) (k : State → Env → List Byte → Res) : Res :=
  let as := s.physRead r n m
  let per := as.length / max n 1
  let bs := poisonBytes (fun i => ((as.drop (i * per)).take per).any s.lineBad) (s.fetch (s.frameOf e) r n m)
  let (s, w) := consumeBad s e.w ((s.firstBad as).map fun (i, a) => (a, poisonOff r.off per i a))
  k (s.setWarp e.c.fid w) { e with w := w } bs

/-- An image written as a store of the frame: through its buffer when it is guarded (R324). -/
def writeImage (s : State) (e : Env) (r : MemRef) (m : PMap) (bs : List Byte) (k : State → Res) : Res :=
  let as := s.physOf r bs.length m
  if r.buffered e.l && !fsbRoom (s.frameOf e).fsb as then trap s e .guardFull 0
  else k (s.storeAt e.c.fid (r.buffered e.l) as bs)

/-- A field of an image. -/
def fieldAt (bs : List Byte) (o w : Nat) : Nat := ofLe ((bs.drop o).take w)

/-- Every byte of a range is zero. -/
def zeroAt (bs : List Byte) (o w : Nat) : Bool := ((bs.drop o).take w).all fun b => b == 0

/-! ### Barrier images (R239) -/

/-- The mask of the warps that arrived. -/
def maskOf (ws : List Nat) : Nat := ws.foldl (fun n i => n + 2 ^ i) 0

/-- The barrier image of a frame. -/
def barrierImage (bs : List Barrier) (warps : Nat) : List Byte :=
  recordOf 64 [(0, 4, 0x52534142), (4, 2, bs.length), (6, 2, warps)] ++
    (bs.map fun b => recordOf 72 [(0, 4, b.gen), (4, 2, b.arrived.length), (8, 64, maskOf b.arrived)]).flatten

/-- `BARSV`: the barrier state as it was frozen. -/
def execBarsv (h : Hdr) (o : AluArgs) (s : State) : Res :=
  withEnv s fun e =>
    let img := barrierImage (e.f.frozen.getD e.f.barriers) e.f.warps.length
    imageInstr s h o.a o.b img.length .w fun s e r m => writeImage s e r m img fun s => finish s e h e.w

/-- A barrier image read back: none when it is bad (R239). -/
def readBarriers (bs : List Byte) (groups warps : Nat) : Option (List Barrier) :=
  let one (g : Nat) : Option Barrier :=
    let o := 64 + 72 * g
    let mask := fieldAt bs (o + 8) 64
    let ws := (List.range warps).filter fun i => bitOf mask i
    if zeroAt bs (o + 6) 2 && mask / 2 ^ warps == 0 && fieldAt bs (o + 4) 2 == ws.length then some ⟨fieldAt bs o 4, ws⟩
    else none
  if fieldAt bs 0 4 == 0x52534142 && fieldAt bs 4 2 == groups && fieldAt bs 6 2 == warps && zeroAt bs 8 56 then
    let all := (List.range groups).map one
    if all.all Option.isSome then some (all.filterMap id) else none
  else none

/-- `BARRS`: the image into the frame; a second one in a restore is ILLEGAL_OP. A generation that the image shows complete
completes (R226). -/
def execBarrs (h : Hdr) (o : AluArgs) (s : State) : Res :=
  withEnv s fun e =>
    let groups := e.f.barriers.length
    let warps := e.f.warps.length
    if e.exec h ≠ [] && e.f.barrsDone then trapWord s e .illegalOp
    else
      imageInstr s h o.a o.b (64 + 72 * groups) .r fun s e r m =>
        readImage s e r (64 + 72 * groups) m fun s e img =>
          match readBarriers img groups warps with
          | none => trap s e .badImage r.off
          | some bs =>
            let s := s.setFrame { s.frameOf e with barriers := bs, barrsDone := true }
            .next ((s.endIssue e.c.fid ((e.w.stalled s.now e.width h).advance e.c)).settleBarriers e.c.fid)

/-! ### Sealed capabilities (R240) -/

/-- The 64 bytes of a seal: free values, one list per seal (DESIGN CHOICE, log 10). -/
def sealBytes (n : Nat) : List Byte := (List.range 64).map fun i => Config.sealByte n i

/-- A capability sealed for a context. -/
def State.seal (s : State) (ctx : Nat) (c : Cap) : State × List Byte :=
  ({ s.tick with seals := (s.fresh, ctx, c) :: s.seals }, sealBytes s.fresh)

/-- The capability of an image sealed by this device in this boot for this context. -/
def State.unseal (s : State) (ctx : Nat) (bs : List Byte) : Option Cap :=
  (s.seals.find? fun (n, c, _) => c == ctx && sealBytes n == bs).map fun (_, _, c) => c

/-- `CAPSV`: D as a sealed image; D names the held `k31` when it names 31 (R235). -/
def execCapsv (h : Hdr) (o : AluArgs) (s : State) : Res :=
  imageInstr s h o.a o.b 64 .w fun s e r m =>
    let (s, bs) := s.seal e.l.ctx (sget Cap.null e.w.k o.d.raw)
    writeImage s e r m bs fun s => finish s e h e.w

/-- `CAPRS`: an image into D, or BAD_IMAGE. -/
def execCaprs (h : Hdr) (o : AluArgs) (s : State) : Res :=
  imageInstr s h o.a o.b 64 .r fun s e r m =>
    readImage s e r 64 m fun s e img =>
      match s.unseal e.l.ctx img with
      | none => trap s e .badImage r.off
      | some c => finish s e h (e.w.put (.k o.d.raw c))

/-! ### TRET (R309) -/

/-- A warp back from a routine takes a SAVE_REQ that waits for it, once the commit of R237 is over; back from its restore routine, its lanes count for the
barriers again (R241). -/
def afterRoutine (s : State) (e : Env) (h : Hdr) (w : Warp) : Res :=
  let s := s.endIssue e.c.fid (w.stalled s.now e.width h)
  .next (if !w.saveReq then s.settleBarriers e.c.fid else if s.committing e.c.fid then s else enterSave s e.c.fid (w.stalled s.now e.width h))

/-- The end of a trap routine; ILLEGAL_OP outside one. -/
def tretInstr (s : State) (h : Hdr) (skip : Bool) : Res :=
  withEnv s fun e =>
    if e.exec h = [] then finish s e h e.w
    else if e.w.mode ≠ .trap || (skip && (e.w.trap.ilen = 0 || e.w.trap.late)) then trapWord s e .illegalOp
    else afterRoutine s e h (e.w.returnFromTrap skip)

/-- `TRET`. -/
def execTret (h : Hdr) (_o : AluArgs) (s : State) : Res := tretInstr s h false
/-- `TRET.skip`: over the trap instruction; ILLEGAL_OP when ILen is 0 or the trap was delivered late. -/
def execTretSkip (h : Hdr) (_o : AluArgs) (s : State) : Res := tretInstr s h true

/-! ### Warp images (R238, R241, Table 11.7) -/

def laneCode : LaneSt → Nat
  | .live => 0 | .exited => 1 | .absent => 2

/-- The lane was live when the save routine began. -/
def Lane.savedLive (l : Lane) : Bool := l.st == .live || l.ended

/-- One lane's LANEINF: a lane that is not live waits on nothing and misses nothing (R220). -/
def laneInf (l : Lane) : Nat :=
  laneCode (if l.ended then .live else l.st) + if l.savedLive then 4 * natOf l.heldJoin.isSome + 8 * natOf l.heldBar.isSome + 16 * l.heldMiss else 0

/-- The image of a warp, with the issued flags of its core's tags and the sealed dependency target. -/
def warpImage (w : Warp) (l : Launch) (tagiss : Nat) (depSeal : List Byte) : List Byte :=
  let perLane (width : Nat) (g : Lane → Nat) (absent : Nat) : List Byte :=
    ((List.range 64).map fun i => leBytes width (if i < l.width then g (w.lane i) else absent)).flatten
  let err (c : Nat) : List Byte :=
    match sget none w.errs c with
    | some (cause, a) => leBytes 2 cause ++ leBytes 1 1 ++ leBytes 5 0 ++ leBytes 8 a
    | none => List.replicate 16 0
  let flags := natOf w.wc.xlane + 2 * natOf w.uim + 4 * natOf w.inUi + 8 * natOf w.dep.isSome
  leBytes 4 0x57534343 ++ leBytes 1 l.encver ++ leBytes 1 l.width ++ leBytes 2 w.idx ++ leBytes 8 w.uivec.toNat ++
    leBytes 8 w.uitags.toNat ++ leBytes 1 (w.uiring.elim 0 fun c => 128 + c) ++ leBytes 1 flags ++ leBytes 6 0 ++
    ([92, 93, 94, 95].map fun r => leBytes 8 (sget 0 w.wc.s r).toNat).flatten ++ leBytes 8 tagiss ++
    leBytes 8 (w.dep.elim 0 Prod.snd) ++ depSeal ++ ((List.range 12).map err).flatten ++ List.replicate 0xB0 0 ++
    perLane 4 (fun x => if x.savedLive then x.heldPc else x.pc) 0 ++ perLane 4 Lane.retPc 0 ++ perLane 2 laneInf 2

/-- The issued flags of a core's tags. -/
def State.tagIssued (s : State) (core : Nat) : Nat :=
  (List.range 64).foldl (fun n t => if (s.tag core t).issued then n + 2 ^ t else n) 0

/-- A warp with nothing outstanding: every counter 0, every lane it counted onto a tag performed (R238). -/
def Warp.drained (w : Warp) : Bool := w.ops.isEmpty && w.tagCnt.isEmpty

/-- `CCSV`: drains the warp, then writes its image; pending counter errors go into it and are cleared. -/
def execCcsv (h : Hdr) (o : AluArgs) (s : State) : Res :=
  withEnv s fun e =>
    if e.exec h ≠ [] && !e.w.drained then holdAt s e .drain
    else
      imageInstr s h o.a o.b 1152 .w fun s e r m =>
        let (s, sl) := match e.w.dep with
          | some (c, _) => s.seal e.l.ctx c
          | none => (s, List.replicate 64 0)
        writeImage s e r m (warpImage e.w e.l (s.tagIssued e.w.core) sl) fun s => finish s e h { e.w with errs := [] }

/-- `CCSV.drain`. -/
def execCcsvDrain (h : Hdr) (_o : AluArgs) (s : State) : Res :=
  withEnv s fun e => if e.exec h ≠ [] && !e.w.drained then holdAt s e .drain else finish s e h e.w

/-- The warp image is whole and belongs to this warp (R241). -/
def imageOk (bs : List Byte) (w : Warp) (l : Launch) : Bool :=
  let inf := fun i => fieldAt bs (0x400 + 2 * i) 2
  let errOk := fun c => let o := 0x90 + 16 * c; fieldAt bs (o + 2) 1 ≤ 1 && zeroAt bs (o + 3) 5
  let laneOk := fun i =>
    bits (inf i) 15 10 == 0 && bits (inf i) 9 4 ≤ 32 &&
      (if l.width ≤ i || (w.lane i).st = .absent then bits (inf i) 1 0 == 2 else bits (inf i) 1 0 ≤ 1)
  fieldAt bs 0 4 == 0x57534343 && fieldAt bs 4 1 == l.encver && fieldAt bs 5 1 == l.width && fieldAt bs 6 2 == w.idx &&
    fieldAt bs 0x19 1 < 16 && zeroAt bs 0x1A 6 && zeroAt bs 0x150 0xB0 && (List.range 12).all errOk && (List.range 64).all laneOk

/-- One lane from the image: its PC, state, waiting flags and miss count. Which predicate a `JOIN` waits on, and
which group a barrier, is read from the instruction at its PC. -/
def laneFrom (s : State) (l : Launch) (bs : List Byte) (i : Nat) (x : Lane) : Lane :=
  let inf := fieldAt bs (0x400 + 2 * i) 2
  let pc := fieldAt bs (0x200 + 4 * i) 4
  let a := bits (s.rd ((Region.text l.lid).at pc) 8) 51 42
  { x with
    pc := pc
    retPc := fieldAt bs (0x300 + 4 * i) 4
    st := if bits inf 1 0 = 0 then .live else if bits inf 1 0 = 1 then .exited else .absent
    waitJoin := if bitOf inf 2 then some a else none
    waitBar := if bitOf inf 3 then some a else none
    miss := bits inf 9 4
    deferred := false }

/-- The warp that a whole image restores (R241). -/
def warpFrom (s : State) (l : Launch) (bs : List Byte) (dep : Option (Cap × Nat)) (w : Warp) : Warp :=
  let flags := fieldAt bs 0x19 1
  let ring := fieldAt bs 0x18 1
  let err (c : Nat) : Option (Nat × Option (Nat × Nat)) :=
    let o := 0x90 + 16 * c
    if fieldAt bs (o + 2) 1 = 1 then some (c, some (fieldAt bs o 2, fieldAt bs (o + 8) 8)) else none
  let own := (List.range 4).filterMap fun i => if 92 + i < l.sregs then some (92 + i, BitVec.ofNat 64 (fieldAt bs (0x20 + 8 * i) 8)) else none
  { w with
    wc := { w.wc with
      lanes := w.wc.lanes.mapIdx fun i x => if i < l.width then laneFrom s l bs i x else x
      xlane := bitOf flags 0
      s := ssetMany 0 w.wc.s own }
    uim := bitOf flags 1
    inUi := bitOf flags 2
    dep := dep
    uivec := BitVec.ofNat 64 (fieldAt bs 8 8)
    uitags := BitVec.ofNat 64 (fieldAt bs 0x10 8)
    uiring := if bitOf ring 7 then some (ring % 128) else none
    errs := ssetMany none [] ((List.range 12).filterMap err)
    mode := .user
    bankS := []
    bankK := Cap.null }

/-- The issued flags of an image ORed into the new core's tags. -/
def State.orIssued (s : State) (core tagiss : Nat) : State :=
  (List.range 64).foldl (fun s t => if bitOf tagiss t then s.setTag core t { s.tag core t with issued := true } else s) s

/-- `TRET.img` (R241): the end of a restore routine; it waits for the frame's `BARRS`. -/
def execTretImg (h : Hdr) (o : AluArgs) (s : State) : Res :=
  withEnv s fun e =>
    if e.exec h ≠ [] && e.w.mode != .restore then trapWord s e .illegalOp
    else
      imageInstr s h o.a o.b 1152 .r fun s e r m =>
        readImage s e r 1152 m fun s e bs =>
          let latched := bitOf (fieldAt bs 0x19 1) 3
          let cap := s.unseal e.l.ctx ((bs.drop 0x50).take 64)
          if !imageOk bs e.w e.l || (latched && cap.isNone) then trap s e .badImage r.off
          else if !(s.frameOf e).barrsDone then holdAt s e .barrs
          else
            let dep := if latched then cap.map fun c => (c, fieldAt bs 0x48 8) else none
            let s := s.orIssued e.w.core (fieldAt bs 0x40 8)
            afterRoutine s e h (warpFrom s e.l bs dep e.w)

/-! ### The trap context (R311) -/

/-- A query of the trap context. -/
def faultQuery (s : State) (h : Hdr) (o : AluArgs) (f : Env → W64) : Res := scalarResult s h 4 o.d [] fun e => (f e, 0)

/-- `FLTQ.lanes`: 0 in a save or restore routine. -/
def execFltqLanes (h : Hdr) (o : AluArgs) (s : State) : Res :=
  faultQuery s h o fun e => if e.w.mode = .trap then e.laneBits e.w.trap.lanes else 0
/-- `FLTQ.lane`: all ones for a cause not checked per lane. -/
def execFltqLane (h : Hdr) (o : AluArgs) (s : State) : Res :=
  faultQuery s h o fun e => match e.w.trap.lane with | some l => BitVec.ofNat 64 l | none => allOnes64
/-- `FLTQ.ilen`. -/
def execFltqIlen (h : Hdr) (o : AluArgs) (s : State) : Res := faultQuery s h o fun e => BitVec.ofNat 64 e.w.trap.ilen

/-- `FLTQ.err`: the pending error of counter b, then cleared. -/
def execFltqErr (h : Hdr) (o : AluArgs) (s : State) : Res :=
  withEnv s fun e =>
    if e.exec h = [] then finish s e h e.w
    else
      let b := e.natS o.b
      let (x, y) := match sget none e.w.errs b with
        | some (cause, a) => (BitVec.ofNat 64 (cause % 2 ^ 16 + 2 ^ 16), BitVec.ofNat 64 a)
        | none => (0, 0)
      let w := e.w.postG s.now 4 e.width [(e.w.sWrite o.d.raw x, false), (e.w.sWrite (o.d.raw + 1) y, false)]
      finish s e h (w.clearErr b)

/-- `FLTQ.rpc`: the held PC of lane b. -/
def execFltqRpc (h : Hdr) (o : AluArgs) (s : State) : Res :=
  faultQuery s h o fun e =>
    let b := e.natS o.b
    let l := e.w.lane (e.physLane b)
    if b < e.visWidth && l.st == .live then BitVec.ofNat 64 l.heldPc else allOnes64

end Sys2Proof.Machine
end

