-- ==== Sys2Proof/Machine/Inflate.lean ====
section
/-! DEFINITION. The byte streams of the inflate engine (R145, R146): the stages a message passes through, the transfer
decodings, DEFLATE, zlib and gzip with their checks. A stage is a function of the input it has so far; more input
extends its output. The formats are those of the RFCs the spec names (PRESUMED, log 19). -/

namespace Sys2Proof.Machine

/-! ### Stages -/

/-- Job reasons (Table 7.5). -/
inductive Reason where
  | descBad | capFault | upstream | outLimit | truncated | badHeader | badBlock | badDistance | window | checksum
  | unsupported | teBad | malformed | imageBad | tokenRange | handleBad | noRoom | stateBad | symbolRange | trailing
  deriving DecidableEq, Repr

def Reason.code : Reason → Nat
  | .descBad => 1 | .capFault => 2 | .upstream => 3 | .outLimit => 4 | .truncated => 5 | .badHeader => 6 | .badBlock => 7
  | .badDistance => 8 | .window => 9 | .checksum => 10 | .unsupported => 11 | .teBad => 12 | .malformed => 13
  | .imageBad => 14 | .tokenRange => 15 | .handleBad => 16 | .noRoom => 17 | .stateBad => 18 | .symbolRange => 19
  | .trailing => 20

/-- How a stage stands after the input it has. -/
inductive StEnd where
  /-- it takes more input -/
  | more
  /-- the message is complete -/
  | done
  /-- it stops at a byte of its input -/
  | fail (r : Reason) (off : Nat)
  /-- it needs `n` bytes at an offset of a table, image or record before it can take the input byte at `pos` -/
  | read (which off n pos : Nat)
  deriving DecidableEq, Repr

/-- What a stage made of its input: each output byte with the first input byte it comes from, and its count of R146
or R147. -/
structure Stage where
  out : List (Byte × Nat) := []
  st : StEnd := .more
  cnt : Nat := 0
  deriving DecidableEq, Repr

/-- Bytes that pass unchanged. -/
def passStage (inp : List Byte) (last : Bool) : Stage :=
  { out := inp.zipIdx, st := if last then .done else .more }

/-- A second stage on the output of a first: its bytes are traced to the first stage's input. `second` says whether a
fault is the second stage's. A fault of the first stage counts only when the second has accepted all before it. -/
def chain (a : Stage) (g : List Byte → Bool → Stage) : Stage × Bool :=
  let b := g (a.out.map Prod.fst) (a.st == .done)
  let at_ := fun i => match a.out[i]? with | some x => x.2 | none => (a.out.getLast?.elim 0 Prod.snd)
  let out := b.out.map fun (x, i) => (x, at_ i)
  match b.st with
  | .fail r o => ({ out := out, st := .fail r o, cnt := a.cnt + b.cnt }, true)
  | .done => ({ out := out, st := .done, cnt := a.cnt + b.cnt }, false)
  | .read w o n p => ({ out := out, st := .read w o n p, cnt := a.cnt + b.cnt }, false)
  | .more => ({ out := out, st := a.st, cnt := a.cnt + b.cnt }, false)

/-! ### Base64 and quoted-printable (R146) -/

/-- The value of a character of the base64 alphabet. -/
def b64Value (b : Byte) : Option Nat :=
  let n := b.toNat
  if 65 ≤ n && n ≤ 90 then some (n - 65) else if 97 ≤ n && n ≤ 122 then some (n - 71)
  else if 48 ≤ n && n ≤ 57 then some (n + 4) else if n = 43 then some 62 else if n = 47 then some 63 else none

/-- Base64 from input byte `i` on: `acc` holds the `n` characters of the quantum, `start` and `prev` the first and
the latest of them, `pad` whether `=` was met. -/
def b64Go (last : Bool) : List Byte → Nat → Nat → Nat → Nat → Nat → Bool → List (Byte × Nat) → Nat → Stage
  | [], _, _, n, start, _, _, out, cnt =>
    { out := out.reverse, st := if !last then .more else if n = 1 then .fail .teBad start else .done, cnt := cnt }
  | c :: r, i, acc, n, start, prev, pad, out, cnt =>
    if c = 61 then b64Go last r (i + 1) acc n start prev true out cnt
    else match b64Value c with
      | none => b64Go last r (i + 1) acc n start prev pad out (cnt + 1)
      | some v =>
        if pad then { out := out.reverse, st := .fail .teBad i, cnt := cnt }
        else
          let acc := acc * 64 + v
          let n := n + 1
          let out := if n = 1 then out else (BitVec.ofNat 8 (acc / 2 ^ (6 * n - 8 * (n - 1))), prev) :: out
          if n = 4 then b64Go last r (i + 1) 0 0 start i pad out cnt
          else b64Go last r (i + 1) acc n (if n = 1 then i else start) i pad out cnt

/-- Base64: the end of the input ends the last quantum. -/
def b64Stage (inp : List Byte) (last : Bool) : Stage := b64Go last inp 0 0 0 0 0 false [] 0

/-- A hexadecimal digit in either case. -/
def hexValue (b : Byte) : Option Nat :=
  let n := b.toNat
  if 48 ≤ n && n ≤ 57 then some (n - 48) else if 65 ≤ n && n ≤ 70 then some (n - 55)
  else if 97 ≤ n && n ≤ 102 then some (n - 87) else none

/-- What quoted-printable makes of the front of its input: bytes to drop and to give, and whether an `=` is counted;
`none` while that is still open. -/
def qpFront (last : Bool) : List Byte → Option (Nat × List Byte × Bool)
  | [] => none
  | c :: r =>
    if c = 61 then
      match r with
      | [] => if last then some (1, [c], true) else none
      | d :: r' =>
        if d = 10 then some (2, [], false)
        else if d = 13 then
          match r' with
          | [] => if last then some (1, [c], true) else none
          | e :: _ => if e = 10 then some (3, [], false) else some (1, [c], true)
        else match hexValue d with
          | none => some (1, [c], true)
          | some x =>
            match r' with
            | [] => if last then some (1, [c], true) else none
            | e :: _ => match hexValue e with
              | some y => some (3, [BitVec.ofNat 8 (16 * x + y)], false)
              | none => some (1, [c], true)
    else some (1, [c], false)

/-- A line break at the front: its length; `none` while a CR is the last byte so far. -/
def lineBreak (last : Bool) : List Byte → Option Nat
  | [] => some 0
  | [c] => if c = 10 then some 1 else if c = 13 && !last then none else some 0
  | c :: d :: _ => if c = 10 then some 1 else if c = 13 && d = 10 then some 2 else some 0

/-- Quoted-printable from input byte `i` on; `ws` holds the spaces and tabs not yet decided, the latest first. -/
def qpGo (last : Bool) : Nat → List Byte → Nat → List (Byte × Nat) → List (Byte × Nat) → Nat → Stage
  | 0, _, _, _, out, cnt => { out := out.reverse, cnt := cnt }
  | n + 1, inp, i, ws, out, cnt =>
    match inp with
    | [] => if last then { out := (ws ++ out).reverse, st := .done, cnt := cnt } else { out := out.reverse, cnt := cnt }
    | c :: r =>
      if c = 32 || c = 9 then qpGo last n r (i + 1) ((c, i) :: ws) out cnt
      else match lineBreak last inp with
        | none => { out := out.reverse, cnt := cnt }
        | some (k + 1) => qpGo last n (inp.drop (k + 1)) (i + k + 1) [] (((inp.take (k + 1)).zipIdx i).reverse ++ out) cnt
        | some 0 =>
          match qpFront last inp with
          | none => { out := out.reverse, cnt := cnt }
          | some (k, bs, counted) => qpGo last n (inp.drop k) (i + k) [] (bs.map (fun b => (b, i)) ++ ws ++ out) (cnt + natOf counted)

def qpStage (inp : List Byte) (last : Bool) : Stage := qpGo last (inp.length + 1) inp 0 [] [] 0

/-! ### Checksums (RFC 1950, RFC 1952) -/

/-- Adler-32, from the bytes in order. -/
def adler32 (bs : List Byte) : Nat :=
  let (a, b) := bs.foldl (fun (a, b) x => let a := (a + x.toNat) % 65521; (a, (b + a) % 65521)) (1, 0)
  b * 65536 + a

/-- One byte into a reflected CRC of 32 bits. -/
def crcByte (poly c : Nat) (b : Byte) : Nat :=
  (List.range 8).foldl (fun c _ => if c % 2 = 1 then c / 2 ^^^ poly else c / 2) (c ^^^ b.toNat)

/-- A reflected CRC-32 with all ones before and after: polynomial 0xEDB88320 is CRC-32, 0x82F63B78 CRC-32C. -/
def crc32 (poly : Nat) (bs : List Byte) : Nat := bs.foldl (crcByte poly) 0xFFFFFFFF ^^^ 0xFFFFFFFF

/-! ### Reading a stream -/

/-- A reader: the bytes left, how many were taken, the bits of the last byte not yet used, the output with the latest
byte first, and where the window of the output begins. -/
structure Rd where
  rest : List Byte
  pos : Nat := 0
  buf : Nat := 0
  nb : Nat := 0
  out : List (Byte × Nat) := []
  len : Nat := 0
  deriving DecidableEq, Repr

/-- Why reading stops. -/
inductive RdErr where
  | eof
  | bad (r : Reason) (off : Nat)
  deriving DecidableEq, Repr

/-- A reading step keeps what was read when it fails. -/
abbrev Dec := ExceptT RdErr (StateM Rd)

/-- The next byte. -/
def Dec.byte : Dec Nat := do
  let s ← get
  match s.rest with
  | [] => throw .eof
  | b :: r => set { s with rest := r, pos := s.pos + 1 }; pure b.toNat

/-- `n` bytes as a little-endian number. -/
def Dec.le : Nat → Dec Nat
  | 0 => pure 0
  | n + 1 => do let b ← Dec.byte; let x ← Dec.le n; pure (b + 256 * x)

/-- `n` bytes as a big-endian number. -/
def Dec.be : Nat → Nat → Dec Nat
  | 0, x => pure x
  | n + 1, x => do let b ← Dec.byte; Dec.be n (256 * x + b)

/-- `n` bytes as they are. -/
def Dec.bytes : Nat → Dec (List Byte)
  | 0 => pure []
  | n + 1 => do let b ← Dec.byte; let r ← Dec.bytes n; pure (BitVec.ofNat 8 b :: r)

/-- One bit, the lowest first. -/
def Dec.bit : Dec Nat := do
  let s ← get
  if s.nb = 0 then
    let b ← Dec.byte
    modify fun s => { s with buf := b / 2, nb := 7 }
    pure (b % 2)
  else
    set { s with buf := s.buf / 2, nb := s.nb - 1 }
    pure (s.buf % 2)

/-- `n` bits, the lowest first. -/
def Dec.bits : Nat → Dec Nat
  | 0 => pure 0
  | n + 1 => do let b ← Dec.bit; let x ← Dec.bits n; pure (b + 2 * x)

/-- The bits left of the current byte are dropped. -/
def Dec.align : Dec Unit := modify fun s => { s with nb := 0, buf := 0 }

/-- The reader stops at the byte read last. -/
def Dec.bad (r : Reason) : Dec α := do let s ← get; throw (.bad r (s.pos - 1))

/-- A byte goes out. -/
def Dec.emit (b : Byte) (off : Nat) : Dec Unit := modify fun s => { s with out := (b, off) :: s.out, len := s.len + 1 }

/-- `n` bytes copied from `d` bytes back. -/
def Dec.copyBack (d off : Nat) : Nat → Dec Unit
  | 0 => pure ()
  | n + 1 => do
    let s ← get
    Dec.emit ((s.out.getD (d - 1) (0, 0)).1) off
    Dec.copyBack d off n

/-! ### DEFLATE (RFC 1951) -/

/-- A canonicalCode code: (length, code, symbol). -/
abbrev HuffTab := List (Nat × Nat × Nat)

/-- The codes of one length, from the first code of that length. -/
def codesOf (lens : List Nat) (len first : Nat) : HuffTab :=
  ((lens.zipIdx.filter fun (l, _) => l == len).zipIdx).map fun ((_, sym), i) => (len, first + i, sym)

/-- The canonicalCode codes of a list of lengths (RFC 1951, 3.2.2). -/
def canonicalCode (lens : List Nat) : HuffTab :=
  ((List.range 15).foldl (fun ((tab, first) : HuffTab × Nat) i =>
    let cs := codesOf lens (i + 1) first
    (tab ++ cs, 2 * (first + cs.length))) ([], 0)).1

/-- The space a code set leaves, in units of 2^-15; none when it is over-subscribed. -/
def codeSpace (lens : List Nat) : Option Nat :=
  let used := (lens.map fun l => if l = 0 then 0 else 2 ^ (15 - l)).sum
  if 2 ^ 15 < used then none else some (2 ^ 15 - used)

/-- A code set that may be used: complete, or, where `part`, no code or one code of one bit. -/
def huffTable (lens : List Nat) (part : Bool) : Option HuffTab :=
  match codeSpace lens with
  | none => none
  | some left => if left = 0 || (part && lens.all fun l => l ≤ 1) then some (canonicalCode lens) else none

/-- One symbol. -/
def symGo (tab : HuffTab) : Nat → Nat → Nat → Dec Nat
  | 0, _, _ => Dec.bad .badBlock
  | n + 1, len, code => do
    let b ← Dec.bit
    let code := 2 * code + b
    match tab.find? fun (l, c, _) => l == len && c == code with
    | some (_, _, s) => pure s
    | none => symGo tab n (len + 1) code

def Dec.sym (tab : HuffTab) : Dec Nat := symGo tab 15 1 0

/-- Base and extra bits of a length symbol less 257, and of a distance symbol. -/
def lengthBase (i : Nat) : Nat × Nat :=
  if i < 8 then (3 + i, 0) else if i = 28 then (258, 0) else ((4 + i % 4) * 2 ^ (i / 4 - 1) + 3, i / 4 - 1)

def distBase (i : Nat) : Nat × Nat := if i < 4 then (1 + i, 0) else ((2 + i % 2) * 2 ^ (i / 2 - 1) + 1, i / 2 - 1)

/-- The order of the code length codes. -/
def clOrder : List Nat := [16, 17, 18, 0, 8, 7, 9, 6, 10, 5, 11, 4, 12, 3, 13, 2, 14, 1, 15]

def Dec.threes : Nat → Dec (List Nat)
  | 0 => pure []
  | n + 1 => do let x ← Dec.bits 3; let r ← Dec.threes n; pure (x :: r)

/-- Code lengths up to `total`. -/
def Dec.lengths (tab : HuffTab) (total : Nat) : Nat → List Nat → Dec (List Nat)
  | 0, ls => pure ls
  | n + 1, ls => do
    if total ≤ ls.length then pure ls
    else
      let v ← Dec.sym tab
      if v < 16 then Dec.lengths tab total n (ls ++ [v])
      else
        if v = 16 && ls = [] then Dec.bad .badBlock
        else
          let (k, x) ←
            if v = 16 then do let k ← Dec.bits 2; pure (3 + k, ls.getLastD 0)
            else if v = 17 then do let k ← Dec.bits 3; pure (3 + k, 0)
            else do let k ← Dec.bits 7; pure (11 + k, 0)
          if total < ls.length + k then Dec.bad .badBlock else Dec.lengths tab total n (ls ++ List.replicate k x)

/-- The tables of a dynamic block (RFC 1951, 3.2.7). -/
def Dec.dynamic : Dec (HuffTab × HuffTab) := do
  let nl := 257 + (← Dec.bits 5)
  let nd := 1 + (← Dec.bits 5)
  let nc := 4 + (← Dec.bits 4)
  if 286 < nl || 30 < nd then Dec.bad .badBlock
  else
    let cs ← Dec.threes nc
    let cl := (List.range 19).map fun s => cs.getD ((clOrder.findIdx? fun x => x == s).getD 0) 0
    match huffTable cl false with
    | none => Dec.bad .badBlock
    | some ct =>
      let ls ← Dec.lengths ct (nl + nd) (nl + nd) []
      match huffTable (ls.take nl) true, huffTable (ls.drop nl) true with
      | some lt, some dt => if ls.getD 256 0 = 0 then Dec.bad .badBlock else pure (lt, dt)
      | _, _ => Dec.bad .badBlock

/-- The fixed tables. -/
def fixedTables : HuffTab × HuffTab :=
  (canonicalCode (List.replicate 144 8 ++ List.replicate 112 9 ++ List.replicate 24 7 ++ List.replicate 8 8),
   canonicalCode (List.replicate 32 5))

/-- The symbols of a block up to its end. `base`: output bytes before this stream's first. -/
def Dec.codes (wlog base : Nat) (lt dt : HuffTab) : Nat → Dec Unit
  | 0 => pure ()
  | n + 1 => do
    let s ← get
    let off := if s.nb = 0 then s.pos else s.pos - 1
    let v ← Dec.sym lt
    if v < 256 then do Dec.emit (BitVec.ofNat 8 v) off; Dec.codes wlog base lt dt n
    else if v = 256 then pure ()
    else if 285 < v then Dec.bad .badBlock
    else
      let (b, k) := lengthBase (v - 257)
      let len := b + (← Dec.bits k)
      let d ← Dec.sym dt
      if 29 < d then Dec.bad .badBlock
      else
        let (b, k) := distBase d
        let dist := b + (← Dec.bits k)
        let s ← get
        if s.len < base + dist then Dec.bad .badDistance
        else if 2 ^ wlog < dist then Dec.bad .window
        else do Dec.copyBack dist off len; Dec.codes wlog base lt dt n

/-- `n` bytes of a stored block. -/
def Dec.stored : Nat → Dec Unit
  | 0 => pure ()
  | n + 1 => do
    let b ← Dec.byte
    let s ← get
    Dec.emit (BitVec.ofNat 8 b) (s.pos - 1)
    Dec.stored n

/-- The blocks of a stream up to the one with BFINAL. `fuel` bounds blocks and symbols by the input's bits. -/
def Dec.blocks (wlog base fuel : Nat) : Nat → Dec Unit
  | 0 => pure ()
  | n + 1 => do
    let final ← Dec.bit
    let kind ← Dec.bits 2
    if kind = 3 then Dec.bad .badBlock
    else if kind = 0 then
      Dec.align
      let len ← Dec.le 2
      let chk ← Dec.le 2
      if len + chk ≠ 65535 then Dec.bad .badBlock else Dec.stored len
    else if kind = 1 then Dec.codes wlog base fixedTables.1 fixedTables.2 fuel
    else do let (lt, dt) ← Dec.dynamic; Dec.codes wlog base lt dt fuel
    if final = 1 then Dec.align else Dec.blocks wlog base fuel n

/-- One DEFLATE stream: its output bytes. -/
def Dec.deflate (wlog : Nat) : Dec (List Byte) := do
  let s ← get
  let fuel := 8 * s.rest.length + 8
  Dec.blocks wlog s.len fuel fuel
  let t ← get
  pure ((t.out.take (t.len - s.len)).map Prod.fst).reverse

/-! ### The containers (R145) -/

/-- A field that must hold a value, else CHECKSUM at its first byte. -/
def Dec.check (get_ : Dec Nat) (v : Nat) : Dec Unit := do
  let s ← get
  let x ← get_
  if x ≠ v then throw (.bad .checksum s.pos) else pure ()

/-- zlib (RFC 1950). -/
def Dec.zlib (wlog : Nat) : Dec Unit := do
  let cmf ← Dec.byte
  if cmf % 16 ≠ 8 || 7 < cmf / 16 then Dec.bad .badHeader
  else
    let flg ← Dec.byte
    if (256 * cmf + flg) % 31 ≠ 0 then Dec.bad .badHeader
    else if bitOf flg 5 then Dec.bad .unsupported
    else if wlog < cmf / 16 + 8 then throw (.bad .window 0)
    else do let bs ← Dec.deflate wlog; Dec.check (Dec.be 4 0) (adler32 bs)

/-- Bytes up to and with a zero. -/
def Dec.skipZ : Nat → Dec Unit
  | 0 => pure ()
  | n + 1 => do let b ← Dec.byte; if b = 0 then pure () else Dec.skipZ n

/-- A byte that must be as given, else BAD_HEADER. -/
def Dec.expect (v : Nat) : Dec Unit := do let b ← Dec.byte; if b ≠ v then Dec.bad .badHeader else pure ()

/-- One gzip member (RFC 1952). -/
def Dec.member (wlog : Nat) : Dec Unit := do
  let s ← get
  Dec.expect 0x1F
  Dec.expect 0x8B
  Dec.expect 8
  let flg ← Dec.byte
  if flg / 32 ≠ 0 then Dec.bad .badHeader
  else
    let _ ← Dec.le 6
    if bitOf flg 2 then do let n ← Dec.le 2; let _ ← Dec.bytes n
    if bitOf flg 3 then Dec.skipZ (s.rest.length + 1)
    if bitOf flg 4 then Dec.skipZ (s.rest.length + 1)
    if bitOf flg 1 then
      let t ← get
      Dec.check (Dec.le 2) (crc32 0xEDB88320 (s.rest.take (t.pos - s.pos)) % 65536)
    let bs ← Dec.deflate wlog
    Dec.check (Dec.le 4) (crc32 0xEDB88320 bs)
    Dec.check (Dec.le 4) (bs.length % 2 ^ 32)

/-- Members in order; each begins with ID1. -/
def Dec.gzip (wlog : Nat) : Nat → Dec Unit
  | 0 => pure ()
  | n + 1 => do
    Dec.member wlog
    let s ← get
    match s.rest with
    | b :: _ => if b = 0x1F then Dec.gzip wlog n else throw (.bad .trailing s.pos)
    | [] => pure ()

/-- A reading as a stage: whole only at the end of the input. -/
def readStage (d : Dec Unit) (inp : List Byte) (last : Bool) : Stage :=
  let (r, s) := (d.run.run { rest := inp } : Except RdErr Unit × Rd)
  let out := s.out.reverse
  match r with
  | .error .eof => { out := out, st := if last then .fail .truncated inp.length else .more }
  | .error (.bad r o) => { out := out, st := .fail r o }
  | .ok _ =>
    if s.rest ≠ [] then { out := out, st := .fail .trailing s.pos }
    else { out := out, st := if last then .done else .more }

end Sys2Proof.Machine
end

