-- ==== Sys2Proof/Machine/Scarf.lean ====
section
/-! DEFINITION. What the Scarf engine computes (R158 to R161): automaton images, composition, scanning, masks and the
stop-string stream, each as a function of the input so far and of what has been read of its image. -/

namespace Sys2Proof.Machine

/-! ### Reading images -/

/-- What a read of a job's table, image or record gives: not read yet, failed, or bytes. -/
inductive Got where
  | need
  | bad
  | ok (bs : List Byte)
  deriving DecidableEq, Repr

/-- The reads a job has made, by capability (0 table or image, 1 output), offset and length. -/
abbrev Oracle := Nat → Nat → Nat → Got

/-- `n` bytes at an offset, needed for the input byte at `p`; a read that failed is CAP_FAULT there (R139). -/
def ask (q : Oracle) (which off n p : Nat) : Except StEnd (List Byte) :=
  if n = 0 then .ok []
  else match q which off n with
    | .need => .error (.read which off n p)
    | .bad => .error (.fail .capFault p)
    | .ok bs => .ok bs

/-- A field of bytes. -/
def fld (bs : List Byte) (o w : Nat) : Nat := ofLe ((bs.drop o).take w)

/-- Every byte of a range is zero. -/
def allZero (bs : List Byte) (o w : Nat) : Bool := ((bs.drop o).take w).all fun b => b == 0

/-- What a job's transform made of its input: its output bytes with the first input byte each comes from, where it
stands, its result word on success, and its partial count where that is no count of output. `mid`: a fault lies in the
intermediate stream (Table 7.6, STAGE). -/
structure Tx where
  out : List (Byte × Nat) := []
  st : StEnd := .more
  res : Nat := 0
  part : Option Nat := none
  mid : Bool := false
  deriving DecidableEq, Repr

/-! ### Automata (R158) -/

structure Auto where
  at_ : Nat
  s : Nat
  dead : Nat
  start : Nat
  wide : Bool
  kind : Nat
  a : Nat
  deriving DecidableEq, Repr

/-- The header of an image, checked (R158). -/
def readAuto (q : Oracle) (at_ : Nat) (kinds : List Nat) : Except StEnd Auto := do
  let h ← ask q 0 at_ 64 0
  let fl := fld h 8 1
  let u : Auto := { at_ := at_, s := fld h 4 2, dead := fld h 6 1, start := fld h 7 1, wide := bitOf fl 0, kind := bits fl 2 1, a := fld h 16 4 }
  if fld h 0 4 == 0x46534353 && fl / 8 == 0 && allZero h 9 7 && allZero h 20 44 && 1 ≤ u.s && u.s ≤ 256 && u.dead < u.s &&
      u.start < u.s && 1 ≤ u.a && u.a ≤ 262144 && (u.wide || u.a == 256) && kinds.contains u.kind then pure u
  else throw (.fail .imageBad 0)

/-- The state that symbol `t` leads to from a state. -/
def Auto.next (u : Auto) (q : Oracle) (t st p : Nat) : Except StEnd Nat := do
  if u.a ≤ t then throw (.fail .symbolRange p)
  else
    let row ← ask q 0 (u.at_ + 64 + t * u.s) u.s p
    let x := fld row st 1
    if u.s ≤ x then throw (.fail .imageBad p) else pure x

/-- The state table: one number per state. -/
def Auto.table (u : Auto) (q : Oracle) : Except StEnd (List Nat) := do
  let w := if u.kind = 1 then 4 else 1
  let bs ← ask q 0 (u.at_ + 64 + u.a * u.s) (w * u.s) 0
  let es := (List.range u.s).map fun i => fld bs (w * i) w
  if u.kind = 2 && es.any (fun x => x / 2 != 0) then throw (.fail .imageBad 0) else pure es

/-- Bytes of a symbol. -/
def Auto.width (u : Auto) : Nat := if u.wide then 4 else 1

/-- The whole symbols of some input. -/
def Auto.symbols (u : Auto) (inp : List Byte) : List Nat :=
  (List.range (inp.length / u.width)).map fun i => fld inp (u.width * i) u.width

/-! ### SFCOMP (R159) -/

/-- The maps of symbols from number `i` on, composed after `f`; the convergence report. -/
def composeGo (u : Auto) (q : Oracle) : List Nat → Nat → List Nat → Nat → Except StEnd (List Nat × Nat)
  | [], _, f, c => pure (f, c)
  | t :: r, i, f, c => do
    let g ← f.mapM fun x => u.next q t x (u.width * i)
    let const := g.all fun x => x == g.headD 0
    composeGo u q r (i + 1) g (if c = 0 && const then i + 1 else c)

def byteOf (n : Nat) : Byte := BitVec.ofNat 8 n

/-- `SFCOMP`. -/
def sfcompTx (q : Oracle) (at_ inlen outlen : Nat) (inp : List Byte) (last : Bool) : Tx :=
  let r : Except StEnd (Auto × List Nat × Nat) := do
    let u ← readAuto q at_ [0, 1, 2]
    if outlen < u.s then throw (.fail .outLimit 0)
    else if inlen % u.width ≠ 0 then throw (.fail .truncated 0)
    else
      let (f, c) ← composeGo u q (u.symbols inp) 0 (List.range u.s) 0
      if last then pure (u, f, c) else throw .more
  match r with
  | .error e => { st := e, part := some 0 }
  | .ok (u, f, c) => { out := f.map fun x => (byteOf x, 0), st := .done, res := c + 2 ^ 32 * f.getD u.start 0 }

/-! ### SFSCAN and SFMASK (R160) -/

/-- The states after each symbol, at most `room` of them; `total` symbols stand in the whole input. -/
def scanGo (u : Auto) (q : Oracle) (total room : Nat) : List Nat → Nat → Nat → List (Byte × Nat) → List (Byte × Nat) × Nat × StEnd
  | [], i, st, out =>
    if total = i then (out.reverse, st, .done)
    else if room ≤ i then (out.reverse, st, .fail .outLimit (u.width * i))
    else (out.reverse, st, .more)
  | t :: r, i, st, out =>
    if room ≤ i then (out.reverse, st, .fail .outLimit (u.width * i))
    else match u.next q t st (u.width * i) with
      | .error e => (out.reverse, st, e)
      | .ok st => scanGo u q total room r (i + 1) st ((byteOf st, u.width * i) :: out)

/-- `SFSCAN` from a state. -/
def sfscanTx (q : Oracle) (at_ inlen outlen state : Nat) (inp : List Byte) : Tx :=
  let r : Except StEnd Auto := do
    let u ← readAuto q at_ [0, 1, 2]
    if u.s ≤ state then throw (.fail .stateBad 0)
    else if inlen % u.width ≠ 0 then throw (.fail .truncated 0)
    else pure u
  match r with
  | .error e => { st := e, part := some 0 }
  | .ok u =>
    let (out, st, e) := scanGo u q (inlen / u.width) outlen (u.symbols inp) 0 state []
    { out := out, st := e, res := out.length + 2 ^ 32 * st, part := some out.length }

/-- `SFMASK` at a state. -/
def sfmaskTx (q : Oracle) (at_ outlen state : Nat) : Tx :=
  let r : Except StEnd (List Bool) := do
    let u ← readAuto q at_ [0, 1, 2]
    if u.s ≤ state then throw (.fail .stateBad 0)
    else if outlen < ceilDiv u.a 8 then throw (.fail .outLimit 0)
    else (List.range u.a).mapM fun t => do let x ← u.next q t state 0; pure (x != u.dead)
  match r with
  | .error e => { st := e, part := some 0 }
  | .ok bs =>
    let byte (k : Nat) : Byte := byteOf ((List.range 8).foldl (fun n j => n + if bs.getD (8 * k + j) false then 2 ^ j else 0) 0)
    { out := (List.range (ceilDiv bs.length 8)).map (fun k => (byte k, 0)), st := .done, res := (bs.filter id).length }

/-! ### SFSTOP (R161) -/

/-- A stream record (Table 7.14). -/
structure StopRec where
  total : Nat
  rpos : Nat
  state : Nat
  matched : Bool
  stridx : Nat
  deriving DecidableEq, Repr

def StopRec.bytes (r : StopRec) : List Byte :=
  leBytes 8 r.total ++ leBytes 8 r.rpos ++ leBytes 1 r.state ++ leBytes 1 (natOf r.matched) ++ leBytes 2 r.stridx ++ leBytes 12 0

/-- The bytes consumed in order: the record, how many were consumed, and why it stopped before the end. -/
def stopGo (u : Auto) (q : Oracle) (tab : List Nat) : List Byte → StopRec → Nat → StopRec × Nat × Option StEnd
  | [], r, n => (r, n, none)
  | c :: cs, r, n =>
    if r.matched then (r, n, none)
    else match u.next q c.toNat r.state n with
      | .error e => (r, n, some e)
      | .ok st =>
        let o := tab.getD st 0
        let r := { r with state := st, total := (r.total + 1) % 2 ^ 64 }
        if bits o 31 16 ≠ 0 then
          ({ r with matched := true, stridx := bits o 31 16 - 1, rpos := max r.rpos (r.total - bits o 15 8) }, n + 1, none)
        else stopGo u q tab cs r (n + 1)

/-- `SFSTOP`. `cut`: the input ends in a fault after the bytes given. -/
def sfstopTx (q : Oracle) (at_ outoff : Nat) (inp : List Byte) (last : Bool) (cut : Option Reason) : Tx :=
  let r : Except StEnd (Auto × List Nat × StopRec) := do
    let u ← readAuto q at_ [1]
    if u.wide then throw (.fail .imageBad 0)
    else
      let tab ← u.table q
      let b ← ask q 1 outoff 32 0
      if u.s ≤ fld b 16 1 then throw (.fail .stateBad 0)
      else if 1 < fld b 17 1 || !allZero b 20 12 || fld b 0 8 < fld b 8 8 then throw (.fail .descBad 0)
      else pure (u, tab, { total := fld b 0 8, rpos := fld b 8 8, state := fld b 16 1, matched := bitOf (fld b 17 1) 0, stridx := fld b 18 2 })
  match r with
  | .error e => { st := e, part := some 0 }
  | .ok (u, tab, r) =>
    let (r, n, e) := stopGo u q tab inp r 0
    let fin := if r.matched then r else { r with rpos := max r.rpos (r.total - tab.getD r.state 0 % 256) }
    let out := fin.bytes.map fun b => (b, 0)
    let failed (e : StEnd) : Tx := { out := if n = 0 then [] else out, st := e, part := some n }
    match e with
    | some (.fail k p) => failed (.fail k p)
    | some e => { st := e, part := some n }
    | none =>
      if r.matched || last then { out := out, st := .done, res := n + 2 ^ 32 * r.stridx + 2 ^ 48 * natOf r.matched, part := some n }
      else match cut with
        | some k => failed (.fail k n)
        | none => { st := .more, part := some n }

end Sys2Proof.Machine
end

