-- ==== Sys2Proof/Machine/Bpe.lean ====
section
/-! DEFINITION. Tokenising and detokenising (R149 to R151): the vocabulary image, the pieces a pre-tokeniser cuts, the
byte-pair merges, and the way back. -/

namespace Sys2Proof.Machine

/-! ### The vocabulary (R149) -/

structure Vocab where
  ntok : Nat
  bytetab : List Nat
  merges : List (Nat × Nat × Nat)
  /-- where TOKTAB and POOL lie, through the capability -/
  toktab : Nat
  pool : Nat
  pre : Auto
  states : List Nat
  deriving DecidableEq, Repr

/-- A vocabulary image, its header and tables checked when the job starts (R149); the state table of its pre-tokeniser only
where the job uses it (R158). -/
def readVocab (q : Oracle) (at_ : Nat) (uses : Bool) : Except StEnd Vocab := do
  let h ← ask q 0 at_ 64 0
  let ntok := fld h 4 4
  let nmerge := fld h 8 4
  let offs := [fld h 16 8, fld h 24 8, fld h 32 8, fld h 40 8, fld h 48 8]
  if fld h 0 4 ≠ 0x4B4F5456 || ntok = 0 || 262144 < ntok || !allZero h 12 4 || !allZero h 56 8 ||
      offs.any (fun o => o % 8 != 0 || o < 64) then throw (.fail .imageBad 0)
  else
    let at2 := fun i => at_ + offs.getD i 0
    let bt ← ask q 0 (at2 0) 1024 0
    let mg ← ask q 0 (at2 1) (12 * nmerge) 0
    let bytetab := (List.range 256).map fun i => fld bt (4 * i) 4
    let merges := (List.range nmerge).map fun i => (fld mg (12 * i) 4, fld mg (12 * i + 4) 4, fld mg (12 * i + 8) 4)
    if bytetab.any (fun x => ntok ≤ x) || merges.any (fun (a, b, c) => ntok ≤ a || ntok ≤ b || ntok ≤ c) then
      throw (.fail .imageBad 0)
    else
      let pre ← readAuto q (at2 4) [2]
      if pre.wide then throw (.fail .imageBad 0)
      else
        let states ← if uses then pre.table q else pure []
        pure { ntok := ntok, bytetab := bytetab, merges := merges, toktab := at2 2, pool := at2 3, pre := pre, states := states }

/-! ### Merging a piece (R150) -/

/-- The rank of the lowest merge of a pair. -/
def Vocab.rank (v : Vocab) (a b : Nat) : Option Nat := v.merges.findIdx? fun (x, y, _) => x == a && y == b

/-- The best pair of a sequence from position `i` on: rank, then the leftmost. -/
def Vocab.best (v : Vocab) : List (Nat × Nat) → Nat → Option (Nat × Nat) → Option (Nat × Nat)
  | (a, _) :: (b, o) :: r, i, best =>
    let best := match v.rank a b, best with
      | some x, some (y, j) => if x < y then some (x, i) else some (y, j)
      | some x, none => some (x, i)
      | none, b => b
    v.best ((b, o) :: r) (i + 1) best
  | _, _, best => best

/-- Merges until no pair has one; a token keeps the offset of its first byte. -/
def Vocab.merge (v : Vocab) : Nat → List (Nat × Nat) → List (Nat × Nat)
  | 0, xs => xs
  | n + 1, xs =>
    match v.best xs 0 none with
    | none => xs
    | some (r, i) =>
      match xs.drop i with
      | (_, o) :: _ :: rest => v.merge n (xs.take i ++ ((v.merges.getD r (0, 0, 0)).2.2, o) :: rest)
      | _ => xs

/-- The tokens of a piece, as the bytes of their IDs. -/
def Vocab.tokens (v : Vocab) (piece : List (Byte × Nat)) : List (Byte × Nat) :=
  let ts := v.merge piece.length (piece.map fun (b, o) => (v.bytetab.getD b.toNat 0, o))
  ts.flatMap fun (t, o) => (leBytes 4 t).map fun b => (b, o)

/-! ### TOKZ (R150) -/

/-- Bytes after which a piece ends whatever the automaton says. -/
def pieceLimit : Nat := 65536

/-- The input from byte `i` on: `piece` is the piece so far, reversed. -/
def tokzGo (v : Vocab) (q : Oracle) (last : Bool) :
    List Byte → Nat → Nat → List (Byte × Nat) → List (Byte × Nat) → Nat → List (Byte × Nat) × Nat × StEnd
  | [], _, _, piece, out, n =>
    if !last then (out, n, .more)
    else if piece = [] then (out, n, .done)
    else (out ++ v.tokens piece.reverse, n + 1, .done)
  | b :: r, i, st, piece, out, n =>
    match v.pre.next q b.toNat st i with
    | .error e => (out, n, e)
    | .ok st =>
      let piece := (b, i) :: piece
      let ends := st = v.pre.dead || bitOf (v.states.getD st 0) 0
      if ends || piece.length = pieceLimit then
        tokzGo v q last r (i + 1) (if ends then v.pre.start else st) [] (out ++ v.tokens piece.reverse) (n + 1)
      else tokzGo v q last r (i + 1) st piece out n

/-- `TOKZ`. -/
def tokzTx (q : Oracle) (at_ : Nat) (inp : List Byte) (last : Bool) : Tx :=
  match readVocab q at_ true with
  | .error e => { st := e }
  | .ok v =>
    let (out, n, e) := tokzGo v q last inp 0 v.pre.start [] [] 0
    { out := out, st := e, res := out.length / 4 + 2 ^ 32 * min n 0xFFFF }

/-! ### DTOK (R151) -/

/-- Whole ids from byte `i` on. -/
def dtokGo (v : Vocab) (q : Oracle) (last : Bool) : Nat → List Byte → Nat → List (Byte × Nat) → List (Byte × Nat) × StEnd
  | 0, _, _, out => (out, .more)
  | n + 1, bs, i, out =>
    if bs.length < 4 then (out, if !last then .more else if bs = [] then .done else .fail .truncated i)
    else
      let t := ofLe (bs.take 4)
      if v.ntok ≤ t then (out, .fail .tokenRange i)
      else
        let r : Except StEnd (List Byte) := do
          let e ← ask q 0 (v.toktab + 8 * t) 8 i
          ask q 0 (v.pool + fld e 0 4) (fld e 4 4) i
        match r with
        | .error e => (out, e)
        | .ok tok => dtokGo v q last n (bs.drop 4) (i + 4) (out ++ tok.map fun b => (b, i))

/-- `DTOK`. -/
def dtokTx (q : Oracle) (at_ : Nat) (inp : List Byte) (last : Bool) : Tx :=
  match readVocab q at_ false with
  | .error e => { st := e }
  | .ok v =>
    let (out, e) := dtokGo v q last (inp.length + 1) inp 0 []
    { out := out, st := e, res := out.length }

end Sys2Proof.Machine
end

