-- ==== Sys2Proof/Machine/Charset.lean ====
section
/-! DEFINITION. The charsets of the transcode engine (R147, R148): UTF-8, UTF-16, the ISO-8859 parts, the decoders of
the WHATWG Encoding Standard over its index tables, and the loadable tables. -/

namespace Sys2Proof.Machine

/-- What a decoder finds at the front of its input. -/
inductive CharStep where
  /-- it takes more input to tell -/
  | need
  /-- 4 bytes of the table at this offset are to be read first -/
  | read (off : Nat)
  /-- `k` bytes make these code points -/
  | ok (k : Nat) (cps : List Nat)
  /-- `k` bytes are one malformed sequence -/
  | bad (k : Nat)
  /-- the entry reached is no scalar value -/
  | image
  deriving DecidableEq, Repr

/-- Sequences that the end of the input cuts off are malformed as a whole. -/
def cut (last : Bool) (k : Nat) : CharStep := if last then .bad k else .need

/-! ### UTF-8 and UTF-16 -/

/-- The continuation bytes a lead byte takes: how many, and the range of the first (Unicode, Table 3-7). -/
def utf8Lead (c : Nat) : Option (Nat × Nat × Nat) :=
  if 0xC2 ≤ c && c ≤ 0xDF then some (1, 0x80, 0xBF)
  else if c = 0xE0 then some (2, 0xA0, 0xBF)
  else if c = 0xED then some (2, 0x80, 0x9F)
  else if 0xE1 ≤ c && c ≤ 0xEF then some (2, 0x80, 0xBF)
  else if c = 0xF0 then some (3, 0x90, 0xBF)
  else if c = 0xF4 then some (3, 0x80, 0x8F)
  else if 0xF1 ≤ c && c ≤ 0xF3 then some (3, 0x80, 0xBF)
  else none

/-- Continuation bytes after `k` bytes of a sequence whose bits so far are `cp`. -/
def utf8Rest (last : Bool) : Nat → Nat → Nat → Nat → Nat → List Byte → CharStep
  | 0, k, cp, _, _, _ => .ok k [cp]
  | n + 1, k, cp, lo, hi, bs =>
    match bs with
    | [] => cut last k
    | b :: r => if lo ≤ b.toNat && b.toNat ≤ hi then utf8Rest last n (k + 1) (64 * cp + b.toNat % 64) 0x80 0xBF r else .bad k

/-- UTF-8: each maximal subpart of an ill-formed sequence is malformed. -/
def utf8Step (last : Bool) : List Byte → CharStep
  | [] => .need
  | b :: r =>
    let c := b.toNat
    if c < 0x80 then .ok 1 [c]
    else match utf8Lead c with
      | none => .bad 1
      | some (n, lo, hi) => utf8Rest last n 1 (c % 2 ^ (6 - n)) lo hi r

/-- UTF-16: an unpaired surrogate and a final odd byte are malformed. -/
def utf16Step (big last : Bool) (bs : List Byte) : CharStep :=
  let unit := fun (a b : Byte) => if big then 256 * a.toNat + b.toNat else 256 * b.toNat + a.toNat
  match bs with
  | [] => .need
  | [_] => cut last 1
  | a :: b :: r =>
    let u := unit a b
    if 0xDC00 ≤ u && u ≤ 0xDFFF then .bad 2
    else if 0xD800 ≤ u && u ≤ 0xDBFF then
      match r with
      | c :: d :: _ =>
        let v := unit c d
        if 0xDC00 ≤ v && v ≤ 0xDFFF then .ok 4 [0x10000 + 1024 * (u - 0xD800) + (v - 0xDC00)] else .bad 2
      | _ => cut last 2
    else .ok 2 [u]

/-! ### ISO-8859: the bytes from 0xA0 of each part, as runs (first byte, length, first code point) (PRESUMED, log 20) -/

def iso1 : List (Nat × Nat × Nat) :=
  [(160, 96, 160)]

def iso2 : List (Nat × Nat × Nat) :=
  [(160, 1, 160), (161, 1, 260), (162, 1, 728), (163, 1, 321), (164, 1, 164), (165, 1, 317), (166, 1, 346),
   (167, 2, 167), (169, 1, 352), (170, 1, 350), (171, 1, 356), (172, 1, 377), (173, 1, 173), (174, 1, 381),
   (175, 1, 379), (176, 1, 176), (177, 1, 261), (178, 1, 731), (179, 1, 322), (180, 1, 180), (181, 1, 318),
   (182, 1, 347), (183, 1, 711), (184, 1, 184), (185, 1, 353), (186, 1, 351), (187, 1, 357), (188, 1, 378),
   (189, 1, 733), (190, 1, 382), (191, 1, 380), (192, 1, 340), (193, 2, 193), (195, 1, 258), (196, 1, 196),
   (197, 1, 313), (198, 1, 262), (199, 1, 199), (200, 1, 268), (201, 1, 201), (202, 1, 280), (203, 1, 203),
   (204, 1, 282), (205, 2, 205), (207, 1, 270), (208, 1, 272), (209, 1, 323), (210, 1, 327), (211, 2, 211),
   (213, 1, 336), (214, 2, 214), (216, 1, 344), (217, 1, 366), (218, 1, 218), (219, 1, 368), (220, 2, 220),
   (222, 1, 354), (223, 1, 223), (224, 1, 341), (225, 2, 225), (227, 1, 259), (228, 1, 228), (229, 1, 314),
   (230, 1, 263), (231, 1, 231), (232, 1, 269), (233, 1, 233), (234, 1, 281), (235, 1, 235), (236, 1, 283),
   (237, 2, 237), (239, 1, 271), (240, 1, 273), (241, 1, 324), (242, 1, 328), (243, 2, 243), (245, 1, 337),
   (246, 2, 246), (248, 1, 345), (249, 1, 367), (250, 1, 250), (251, 1, 369), (252, 2, 252), (254, 1, 355),
   (255, 1, 729)]

def iso3 : List (Nat × Nat × Nat) :=
  [(160, 1, 160), (161, 1, 294), (162, 1, 728), (163, 2, 163), (166, 1, 292), (167, 2, 167), (169, 1, 304),
   (170, 1, 350), (171, 1, 286), (172, 1, 308), (173, 1, 173), (175, 1, 379), (176, 1, 176), (177, 1, 295),
   (178, 4, 178), (182, 1, 293), (183, 2, 183), (185, 1, 305), (186, 1, 351), (187, 1, 287), (188, 1, 309),
   (189, 1, 189), (191, 1, 380), (192, 3, 192), (196, 1, 196), (197, 1, 266), (198, 1, 264), (199, 9, 199),
   (209, 4, 209), (213, 1, 288), (214, 2, 214), (216, 1, 284), (217, 4, 217), (221, 1, 364), (222, 1, 348),
   (223, 4, 223), (228, 1, 228), (229, 1, 267), (230, 1, 265), (231, 9, 231), (241, 4, 241), (245, 1, 289),
   (246, 2, 246), (248, 1, 285), (249, 4, 249), (253, 1, 365), (254, 1, 349), (255, 1, 729)]

def iso4 : List (Nat × Nat × Nat) :=
  [(160, 1, 160), (161, 1, 260), (162, 1, 312), (163, 1, 342), (164, 1, 164), (165, 1, 296), (166, 1, 315),
   (167, 2, 167), (169, 1, 352), (170, 1, 274), (171, 1, 290), (172, 1, 358), (173, 1, 173), (174, 1, 381),
   (175, 2, 175), (177, 1, 261), (178, 1, 731), (179, 1, 343), (180, 1, 180), (181, 1, 297), (182, 1, 316),
   (183, 1, 711), (184, 1, 184), (185, 1, 353), (186, 1, 275), (187, 1, 291), (188, 1, 359), (189, 1, 330),
   (190, 1, 382), (191, 1, 331), (192, 1, 256), (193, 6, 193), (199, 1, 302), (200, 1, 268), (201, 1, 201),
   (202, 1, 280), (203, 1, 203), (204, 1, 278), (205, 2, 205), (207, 1, 298), (208, 1, 272), (209, 1, 325),
   (210, 1, 332), (211, 1, 310), (212, 5, 212), (217, 1, 370), (218, 3, 218), (221, 1, 360), (222, 1, 362),
   (223, 1, 223), (224, 1, 257), (225, 6, 225), (231, 1, 303), (232, 1, 269), (233, 1, 233), (234, 1, 281),
   (235, 1, 235), (236, 1, 279), (237, 2, 237), (239, 1, 299), (240, 1, 273), (241, 1, 326), (242, 1, 333),
   (243, 1, 311), (244, 5, 244), (249, 1, 371), (250, 3, 250), (253, 1, 361), (254, 1, 363), (255, 1, 729)]

def iso5 : List (Nat × Nat × Nat) :=
  [(160, 1, 160), (161, 12, 1025), (173, 1, 173), (174, 66, 1038), (240, 1, 8470), (241, 12, 1105), (253, 1, 167),
   (254, 2, 1118)]

def iso6 : List (Nat × Nat × Nat) :=
  [(160, 1, 160), (164, 1, 164), (172, 1, 1548), (173, 1, 173), (187, 1, 1563), (191, 1, 1567), (193, 26, 1569),
   (224, 19, 1600)]

def iso7 : List (Nat × Nat × Nat) :=
  [(160, 1, 160), (161, 2, 8216), (163, 1, 163), (164, 1, 8364), (165, 1, 8367), (166, 4, 166), (170, 1, 890),
   (171, 3, 171), (175, 1, 8213), (176, 4, 176), (180, 3, 900), (183, 1, 183), (184, 3, 904), (187, 1, 187),
   (188, 1, 908), (189, 1, 189), (190, 20, 910), (211, 44, 931)]

def iso8 : List (Nat × Nat × Nat) :=
  [(160, 1, 160), (162, 8, 162), (170, 1, 215), (171, 15, 171), (186, 1, 247), (187, 4, 187), (223, 1, 8215),
   (224, 27, 1488), (253, 2, 8206)]

def iso9 : List (Nat × Nat × Nat) :=
  [(160, 48, 160), (208, 1, 286), (209, 12, 209), (221, 1, 304), (222, 1, 350), (223, 17, 223), (240, 1, 287),
   (241, 12, 241), (253, 1, 305), (254, 1, 351), (255, 1, 255)]

def iso10 : List (Nat × Nat × Nat) :=
  [(160, 1, 160), (161, 1, 260), (162, 1, 274), (163, 1, 290), (164, 1, 298), (165, 1, 296), (166, 1, 310),
   (167, 1, 167), (168, 1, 315), (169, 1, 272), (170, 1, 352), (171, 1, 358), (172, 1, 381), (173, 1, 173),
   (174, 1, 362), (175, 1, 330), (176, 1, 176), (177, 1, 261), (178, 1, 275), (179, 1, 291), (180, 1, 299),
   (181, 1, 297), (182, 1, 311), (183, 1, 183), (184, 1, 316), (185, 1, 273), (186, 1, 353), (187, 1, 359),
   (188, 1, 382), (189, 1, 8213), (190, 1, 363), (191, 1, 331), (192, 1, 256), (193, 6, 193), (199, 1, 302),
   (200, 1, 268), (201, 1, 201), (202, 1, 280), (203, 1, 203), (204, 1, 278), (205, 4, 205), (209, 1, 325),
   (210, 1, 332), (211, 4, 211), (215, 1, 360), (216, 1, 216), (217, 1, 370), (218, 6, 218), (224, 1, 257),
   (225, 6, 225), (231, 1, 303), (232, 1, 269), (233, 1, 233), (234, 1, 281), (235, 1, 235), (236, 1, 279),
   (237, 4, 237), (241, 1, 326), (242, 1, 333), (243, 4, 243), (247, 1, 361), (248, 1, 248), (249, 1, 371),
   (250, 5, 250), (255, 1, 312)]

def iso11 : List (Nat × Nat × Nat) :=
  [(160, 1, 160), (161, 58, 3585), (223, 29, 3647)]

def iso13 : List (Nat × Nat × Nat) :=
  [(160, 1, 160), (161, 1, 8221), (162, 3, 162), (165, 1, 8222), (166, 2, 166), (168, 1, 216), (169, 1, 169),
   (170, 1, 342), (171, 4, 171), (175, 1, 198), (176, 4, 176), (180, 1, 8220), (181, 3, 181), (184, 1, 248),
   (185, 1, 185), (186, 1, 343), (187, 4, 187), (191, 1, 230), (192, 1, 260), (193, 1, 302), (194, 1, 256),
   (195, 1, 262), (196, 2, 196), (198, 1, 280), (199, 1, 274), (200, 1, 268), (201, 1, 201), (202, 1, 377),
   (203, 1, 278), (204, 1, 290), (205, 1, 310), (206, 1, 298), (207, 1, 315), (208, 1, 352), (209, 1, 323),
   (210, 1, 325), (211, 1, 211), (212, 1, 332), (213, 3, 213), (216, 1, 370), (217, 1, 321), (218, 1, 346),
   (219, 1, 362), (220, 1, 220), (221, 1, 379), (222, 1, 381), (223, 1, 223), (224, 1, 261), (225, 1, 303),
   (226, 1, 257), (227, 1, 263), (228, 2, 228), (230, 1, 281), (231, 1, 275), (232, 1, 269), (233, 1, 233),
   (234, 1, 378), (235, 1, 279), (236, 1, 291), (237, 1, 311), (238, 1, 299), (239, 1, 316), (240, 1, 353),
   (241, 1, 324), (242, 1, 326), (243, 1, 243), (244, 1, 333), (245, 3, 245), (248, 1, 371), (249, 1, 322),
   (250, 1, 347), (251, 1, 363), (252, 1, 252), (253, 1, 380), (254, 1, 382), (255, 1, 8217)]

def iso14 : List (Nat × Nat × Nat) :=
  [(160, 1, 160), (161, 2, 7682), (163, 1, 163), (164, 2, 266), (166, 1, 7690), (167, 1, 167), (168, 1, 7808),
   (169, 1, 169), (170, 1, 7810), (171, 1, 7691), (172, 1, 7922), (173, 2, 173), (175, 1, 376), (176, 2, 7710),
   (178, 2, 288), (180, 2, 7744), (182, 1, 182), (183, 1, 7766), (184, 1, 7809), (185, 1, 7767), (186, 1, 7811),
   (187, 1, 7776), (188, 1, 7923), (189, 2, 7812), (191, 1, 7777), (192, 16, 192), (208, 1, 372), (209, 6, 209),
   (215, 1, 7786), (216, 6, 216), (222, 1, 374), (223, 17, 223), (240, 1, 373), (241, 6, 241), (247, 1, 7787),
   (248, 6, 248), (254, 1, 375), (255, 1, 255)]

def iso15 : List (Nat × Nat × Nat) :=
  [(160, 4, 160), (164, 1, 8364), (165, 1, 165), (166, 1, 352), (167, 1, 167), (168, 1, 353), (169, 11, 169),
   (180, 1, 381), (181, 3, 181), (184, 1, 382), (185, 3, 185), (188, 2, 338), (190, 1, 376), (191, 65, 191)]

def iso16 : List (Nat × Nat × Nat) :=
  [(160, 1, 160), (161, 2, 260), (163, 1, 321), (164, 1, 8364), (165, 1, 8222), (166, 1, 352), (167, 1, 167),
   (168, 1, 353), (169, 1, 169), (170, 1, 536), (171, 1, 171), (172, 1, 377), (173, 1, 173), (174, 2, 378),
   (176, 2, 176), (178, 1, 268), (179, 1, 322), (180, 1, 381), (181, 1, 8221), (182, 2, 182), (184, 1, 382),
   (185, 1, 269), (186, 1, 537), (187, 1, 187), (188, 2, 338), (190, 1, 376), (191, 1, 380), (192, 3, 192),
   (195, 1, 258), (196, 1, 196), (197, 1, 262), (198, 10, 198), (208, 1, 272), (209, 1, 323), (210, 3, 210),
   (213, 1, 336), (214, 1, 214), (215, 1, 346), (216, 1, 368), (217, 4, 217), (221, 1, 280), (222, 1, 538),
   (223, 4, 223), (227, 1, 259), (228, 1, 228), (229, 1, 263), (230, 10, 230), (240, 1, 273), (241, 1, 324),
   (242, 3, 242), (245, 1, 337), (246, 1, 246), (247, 1, 347), (248, 1, 369), (249, 4, 249), (253, 1, 281),
   (254, 1, 539), (255, 1, 255)]

/-- The code point of a byte in a part; 0x80 to 0x9F are the C1 controls. -/
def isoPoint (part c : Nat) : Option Nat :=
  if c < 0xA0 then some c
  else
    let t := [[], iso1, iso2, iso3, iso4, iso5, iso6, iso7, iso8, iso9, iso10, iso11, [], iso13, iso14, iso15, iso16].getD part []
    t.findSome? fun (a, n, u) => if a ≤ c && c < a + n then some (u + (c - a)) else none

def isoStep (part : Nat) : List Byte → CharStep
  | [] => .need
  | b :: _ => match isoPoint part b.toNat with | some u => .ok 1 [u] | none => .bad 1

/-! ### The decoders of the WHATWG Encoding Standard (DESIGN CHOICE, log 11) -/

/-- The outcome of a lead and a trail byte: a code point, or a malformed sequence that leaves an ASCII trail byte to
be decoded afresh. -/
def pairStep (cp : Option Nat) (k : Nat) (trail : Nat) : CharStep :=
  match cp with
  | some u => .ok k [u]
  | none => .bad (if trail < 0x80 then k - 1 else k)

/-- Trail bytes 0x40 to 0x7E and 0x80 up to `hi`: the column of a trail byte. -/
def trailColumn (hi b : Nat) : Option Nat :=
  if 0x40 ≤ b && b ≤ 0x7E then some (b - 0x40) else if 0x80 ≤ b && b ≤ hi then some (b - 0x41) else none

/-- EUC-JP. -/
def eucJpStep (last : Bool) (bs : List Byte) : CharStep :=
  let kanji := fun b => 0xA1 ≤ b && b ≤ 0xFE
  match bs.map BitVec.toNat with
  | [] => .need
  | a :: r =>
    if a < 0x80 then .ok 1 [a]
    else if a = 0x8E then
      match r with
      | [] => cut last 1
      | b :: _ => pairStep (if 0xA1 ≤ b && b ≤ 0xDF then some (0xFF61 - 0xA1 + b) else none) 2 b
    else if a = 0x8F then
      match r with
      | [] => cut last 1
      | b :: r' =>
        if !kanji b then pairStep none 2 b
        else match r' with
          | [] => cut last 2
          | c :: _ => pairStep (if kanji c then Config.whatwgIndex 1 ((b - 0xA1) * 94 + (c - 0xA1)) else none) 3 c
    else if kanji a then
      match r with
      | [] => cut last 1
      | b :: _ => pairStep (if kanji b then Config.whatwgIndex 0 ((a - 0xA1) * 94 + (b - 0xA1)) else none) 2 b
    else .bad 1

/-- Shift_JIS. -/
def shiftJisStep (last : Bool) (bs : List Byte) : CharStep :=
  match bs.map BitVec.toNat with
  | [] => .need
  | a :: r =>
    if a ≤ 0x80 then .ok 1 [a]
    else if 0xA1 ≤ a && a ≤ 0xDF then .ok 1 [0xFF61 - 0xA1 + a]
    else if (0x81 ≤ a && a ≤ 0x9F) || (0xE0 ≤ a && a ≤ 0xFC) then
      match r with
      | [] => cut last 1
      | b :: _ =>
        let cp := (trailColumn 0xFC b).bind fun col =>
          let p := (a - if a < 0xA0 then 0x81 else 0xC1) * 188 + col
          if 8836 ≤ p && p ≤ 10715 then some (0xE000 - 8836 + p) else Config.whatwgIndex 0 p
        pairStep cp 2 b
    else .bad 1

/-- EUC-KR. -/
def eucKrStep (last : Bool) (bs : List Byte) : CharStep :=
  match bs.map BitVec.toNat with
  | [] => .need
  | a :: r =>
    if a < 0x80 then .ok 1 [a]
    else if 0x81 ≤ a && a ≤ 0xFE then
      match r with
      | [] => cut last 1
      | b :: _ => pairStep (if 0x41 ≤ b && b ≤ 0xFE then Config.whatwgIndex 2 ((a - 0x81) * 190 + (b - 0x41)) else none) 2 b
    else .bad 1

/-- The code point of a four-byte pointer: the ranges table below 39420, then the supplementary planes. -/
def gbRange (p : Nat) : Option Nat :=
  if (39419 < p && p < 189000) || 1237575 < p then none
  else if p = 7457 then some 0xE7C7
  else if 189000 ≤ p then some (0x10000 + (p - 189000))
  else Config.whatwgIndex 4 p

/-- GB18030. -/
def gb18030Step (last : Bool) (bs : List Byte) : CharStep :=
  let digit := fun b => 0x30 ≤ b && b ≤ 0x39
  match bs.map BitVec.toNat with
  | [] => .need
  | a :: r =>
    if a < 0x80 then .ok 1 [a]
    else if a = 0x80 then .ok 1 [0x20AC]
    else if a = 0xFF then .bad 1
    else match r with
      | [] => cut last 1
      | b :: r' =>
        if !digit b then
          pairStep ((trailColumn 0xFE b).bind fun col => Config.whatwgIndex 3 ((a - 0x81) * 190 + col)) 2 b
        else match r' with
          | [] => cut last 2
          | c :: r'' =>
            if !(0x81 ≤ c && c ≤ 0xFE) then .bad 1
            else match r'' with
              | [] => cut last 3
              | d :: _ =>
                if !digit d then .bad 1
                else match gbRange (((a - 0x81) * 10 + (b - 0x30)) * 1260 + (c - 0x81) * 10 + (d - 0x30)) with
                  | some u => .ok 4 [u]
                  | none => .bad 4

/-- ISO-2022-JP at a state: the set (0 ASCII, 1 Roman, 2 katakana, 3 JIS X 0208), and whether an escape sequence was
the last thing met. Answers the step and the state after it. -/
def iso2022Step (last : Bool) (st : Nat × Bool) (bs : List Byte) : CharStep × (Nat × Bool) :=
  let (set, esc) := st
  let back := (set, false)
  match bs.map BitVec.toNat with
  | [] => (.need, st)
  | a :: r =>
    if a = 0x1B then
      match r with
      | [] => (cut last 1, back)
      | b :: r' =>
        if b ≠ 0x28 && b ≠ 0x24 then (.bad 1, back)
        else match r' with
          | [] => (cut last 1, back)
          | c :: _ =>
            let new :=
              if b = 0x28 then if c = 0x42 then some 0 else if c = 0x4A then some 1 else if c = 0x49 then some 2 else none
              else if c = 0x40 || c = 0x42 then some 3 else none
            match new with
            | some n => (if esc then .bad 3 else .ok 3 [], (n, true))
            | none => (.bad 1, back)
    else if set = 0 || set = 1 then
      if 0x80 ≤ a || a = 0x0E || a = 0x0F then (.bad 1, back)
      else if set = 1 && a = 0x5C then (.ok 1 [0xA5], back)
      else if set = 1 && a = 0x7E then (.ok 1 [0x203E], back)
      else (.ok 1 [a], back)
    else if set = 2 then
      if 0x21 ≤ a && a ≤ 0x5F then (.ok 1 [0xFF61 - 0x21 + a], back) else (.bad 1, back)
    else if 0x21 ≤ a && a ≤ 0x7E then
      match r with
      | [] => (cut last 1, back)
      | b :: _ =>
        if b = 0x1B then (.bad 1, back)
        else
          let cp := if 0x21 ≤ b && b ≤ 0x7E then Config.whatwgIndex 0 ((a - 0x21) * 94 + (b - 0x21)) else none
          (match cp with | some u => .ok 2 [u] | none => .bad 2, back)
    else (.bad 1, back)

/-! ### Loadable tables (R148) -/

/-- An entry that was reached. -/
def entryStep (k : Nat) (e : Nat) : CharStep :=
  if e = 0xFFFFFFFF then .bad k
  else if 0x10FFFF < e || (0xD800 ≤ e && e ≤ 0xDFFF) then .image
  else .ok k [e]

/-- A table's 4-byte entry at an offset, once it has been read. -/
abbrev TableRd := Nat → Option Nat

/-- A single-byte table. -/
def singleStep (tab : TableRd) : List Byte → CharStep
  | [] => .need
  | b :: _ => match tab (4 * b.toNat) with | none => .read (4 * b.toNat) | some e => entryStep 1 e

/-- A double-byte table: the four bounds, the single-byte part at 16, the pairs after it. -/
def doubleStep (tab : TableRd) (last : Bool) (bs : List Byte) : CharStep :=
  match bs.map BitVec.toNat, tab 0 with
  | [], _ => .need
  | _, none => .read 0
  | a :: r, some h =>
    let at_ := fun i => h / 256 ^ i % 256
    let entry := fun k o => match tab o with | none => CharStep.read o | some e => entryStep k e
    if at_ 1 < at_ 2 then .image
    else if at_ 0 ≤ a && a ≤ at_ 1 then
      match r with
      | [] => cut last 1
      | b :: _ =>
        if at_ 2 ≤ b && b ≤ at_ 3 then entry 2 (16 + 1024 + 4 * ((a - at_ 0) * (at_ 3 + 1 - at_ 2) + (b - at_ 2)))
        else .bad 1
    else entry 1 (16 + 4 * a)

/-! ### The stage -/

/-- A scalar value in UTF-8. -/
def utf8Bytes (u : Nat) : List Byte :=
  let c := fun k => BitVec.ofNat 8 (0x80 + u / 64 ^ k % 64)
  if u < 0x80 then [BitVec.ofNat 8 u]
  else if u < 0x800 then [BitVec.ofNat 8 (0xC0 + u / 64), c 0]
  else if u < 0x10000 then [BitVec.ofNat 8 (0xE0 + u / 4096), c 1, c 0]
  else [BitVec.ofNat 8 (0xF0 + u / 262144), c 2, c 1, c 0]

/-- One step of a charset (Table 7.9) at a state. -/
def charStep (cs : Nat) (tab : TableRd) (last : Bool) (st : Nat × Bool) (bs : List Byte) : CharStep × (Nat × Bool) :=
  if cs = 0 then (utf8Step last bs, st)
  else if cs ≤ 2 then (utf16Step (cs == 2) last bs, st)
  else if cs ≤ 18 then (isoStep (cs - 2) bs, st)
  else if cs = 19 then (eucJpStep last bs, st)
  else if cs = 20 then (shiftJisStep last bs, st)
  else if cs = 21 then iso2022Step last st bs
  else if cs = 22 then (eucKrStep last bs, st)
  else if cs = 23 then (gb18030Step last bs, st)
  else if cs = 25 then (singleStep tab bs, st)
  else (doubleStep tab last bs, st)

/-- The transcode engine from input byte `i` on (R147). -/
def xcodGo (cs : Nat) (replace strip : Bool) (tab : TableRd) (last : Bool) :
    Nat → List Byte → Nat → Nat × Bool → Bool → List (Byte × Nat) → Nat → Stage
  | 0, _, _, _, _, out, cnt => { out := out.reverse, cnt := cnt }
  | n + 1, bs, i, st, first, out, cnt =>
    let here := fun e => ({ out := out.reverse, st := e, cnt := cnt } : Stage)
    if bs = [] then here (if last then .done else .more)
    else match charStep cs tab last st bs with
      | (.need, _) => here .more
      | (.read o, _) => here (.read 0 o 4 i)
      | (.image, _) => here (.fail .imageBad i)
      | (.ok k cps, st) =>
        let cps' := if first && strip && cps = [0xFEFF] then [] else cps
        let bytes := (cps'.flatMap utf8Bytes).map fun b => (b, i)
        xcodGo cs replace strip tab last n (bs.drop k) (i + k) st (first && cps = []) (bytes.reverse ++ out) cnt
      | (.bad k, st) =>
        if !replace then here (.fail .malformed i)
        else xcodGo cs replace strip tab last n (bs.drop k) (i + k) st false ([0xBD, 0xBF, 0xEF].map (fun b => (b, i)) ++ out) (cnt + 1)

/-- The input read so far in a charset. -/
def xcodStage (cs : Nat) (replace strip : Bool) (tab : TableRd) (inp : List Byte) (last : Bool) : Stage :=
  xcodGo cs replace strip tab last (inp.length + 1) inp 0 (0, false) true [] 0

end Sys2Proof.Machine
end

