-- ==== Sys2Proof/Machine/Mortise.lean ====
section
/-! DEFINITION. What the Mortise engine computes (R152 to R157): handles, the window hash, insertion, lookup and the
handle image. -/

namespace Sys2Proof.Machine

/-! ### Handles (R152) -/

/-- Entries in a die's pool, and handles. -/
def mxPool : Nat := 2 ^ 20
def mxHandles : Nat := 4096

/-- Entries a handle of `b` holds. -/
def mxEntries (b : Nat) : Nat := 4 * 2 ^ b

def Die.handle (d : Die) (i : Nat) : MxHandle := sget {} d.handles i

def Die.setHandle (d : Die) (i : Nat) (h : MxHandle) : Die := { d with handles := sset {} i h d.handles }

/-- Entries of the pool in use. -/
def Die.poolUsed (d : Die) : Nat := (d.handles.map fun (_, h) => if h.open_ then mxEntries h.bits else 0).sum

/-- The index a handle register names; none where the job gives HANDLE_BAD. -/
def Die.named (d : Die) (die ctx v : Nat) : Option Nat :=
  let h := d.handle (v % 4096)
  if v / 2 ^ 32 = 0 && !bitOf v 15 && bits v 14 12 == die && h.open_ && bits v 31 16 == h.gen && h.ctx == ctx then some (v % 4096)
  else none

/-- A handle and its entries taken: the die after, and the handle's value; none without room. -/
def Die.takeHandle (d : Die) (die : Nat) (h : MxHandle) : Option (Die × Nat) :=
  if mxPool < d.poolUsed + mxEntries h.bits then none
  else ((List.range mxHandles).find? fun i => !(d.handle i).open_).map fun i =>
    let g := (d.handle i).gen
    (d.setHandle i { h with open_ := true, gen := g }, i + 2 ^ 12 * die + 2 ^ 16 * g)

/-- A handle freed: its index's next use has another generation. -/
def Die.dropHandle (d : Die) (i : Nat) : Die := d.setHandle i { gen := ((d.handle i).gen + 1) % 2 ^ 16 }

/-! ### Windows (R153) -/

/-- Every rung with its index. -/
def rungs : List (Nat × Nat) := [1, 2, 3, 4, 6, 8, 12, 16, 24, 32, 48, 64].zipIdx

/-- WinHash of a window of tokens. -/
def winHash (toks : List Nat) : Nat :=
  toks.foldl (fun h t =>
    let r := (h * 32) % 2 ^ 64 + h / 2 ^ 59
    ((r ^^^ t) * 0x9E3779B97F4A7C15) % 2 ^ 64) toks.length

/-- The bucket of a hash. -/
def mxBucket (b h : Nat) : Nat := h / 2 ^ (64 - b)

def MxHandle.way (h : MxHandle) (u w : Nat) : Option MxEntry := sget none h.entries (4 * u + w)

/-- The lowest free way of a bucket, else the way with the smallest P (R154). -/
def MxHandle.victim (h : MxHandle) (u : Nat) : Nat :=
  match (List.range 4).find? fun w => (h.way u w).isNone with
  | some w => w
  | none =>
    let p := fun w => (h.way u w).elim 0 MxEntry.p
    (List.range 4).foldl (fun best w => if p w < p best then w else best) 0

/-- The entry of a window that ends at `p`. -/
def MxHandle.insert (h : MxHandle) (rung p : Nat) (toks : List Nat) : MxHandle :=
  let x := winHash toks
  let u := mxBucket h.bits x
  { h with entries := sset none (4 * u + h.victim u) (some ⟨BitVec.ofNat 64 x, rung, p⟩) h.entries }

/-- A position appended: `toks` are the tokens up to it, at most 64 (R154). -/
def MxHandle.append (h : MxHandle) (p : Nat) (toks : List Nat) : MxHandle :=
  let h := rungs.foldl (fun h (l, i) => if l ≤ p then h.insert i p (toks.drop (toks.length - l)) else h) h
  { h with n := p }

/-! ### Lookup (R155) -/

/-- The log tokens at positions `lo` to `hi`. -/
def logToks (q : Oracle) (lo hi : Nat) : Except StEnd (List Nat) := do
  let n := hi + 1 - lo
  let bs ← ask q 2 (4 * (lo - 1)) (4 * n) 0
  pure ((List.range n).map fun i => fld bs (4 * i) 4)

/-- Candidates with the largest P first. -/
def insertDesc (p : Nat) : List Nat → List Nat
  | [] => [p]
  | q :: r => if p ≤ q then q :: insertDesc p r else p :: q :: r

/-- The first candidate whose window equals the tail. -/
def firstEqual (q : Oracle) (tail : List Nat) : List Nat → Except StEnd (Option Nat)
  | [] => pure none
  | p :: r => do
    let w ← logToks q (p + 1 - tail.length) p
    if w = tail then pure (some p) else firstEqual q tail r

/-- The match grown backwards from length `m`. -/
def grow (q : Oracle) (win n : Nat) : Nat → Nat → Except StEnd Nat
  | 0, m => pure m
  | f + 1, m =>
    if m < 255 && 1 ≤ win - m && m < win then do
      let a ← logToks q (win - m) (win - m)
      let b ← logToks q (n - m) (n - m)
      if a = b then grow q win n f (m + 1) else pure m
    else pure m

/-- What a lookup finds. -/
structure MxMatch where
  ml : Nat := 0
  mp : Nat := 0
  mrung : Nat := 0
  t : Nat := 0
  deriving DecidableEq, Repr

/-- The rungs in descending order. -/
def lookGo (h : MxHandle) (q : Oracle) (dmax : Nat) : List (Nat × Nat) → Except StEnd MxMatch
  | [] => pure {}
  | (l, i) :: r =>
    if h.n < l + 1 then lookGo h q dmax r
    else do
      let tail ← logToks q (h.n + 1 - l) h.n
      let u := mxBucket h.bits (winHash tail)
      let ps := (List.range 4).filterMap fun w => (h.way u w).bind fun e => if e.rung = i && e.p < h.n then some e.p else none
      match ← firstEqual q tail (ps.foldl (fun acc p => insertDesc p acc) []) with
      | none => lookGo h q dmax r
      | some win => do
        let m ← grow q win h.n 255 l
        pure { ml := m, mp := win, mrung := l, t := min dmax (h.n - win) }

/-- The match of a lookup, from the longest rung down. -/
def mxMatch (h : MxHandle) (q : Oracle) (dmax : Nat) : Except StEnd MxMatch := lookGo h q dmax rungs.reverse

/-- The tenons of a match. -/
def MxMatch.tenons (m : MxMatch) (q : Oracle) : Except StEnd (List Nat) :=
  if m.t = 0 then pure [] else logToks q (m.mp + 1) (m.mp + m.t)

/-- A handle whose registers hold a match. -/
def MxHandle.matched (h : MxHandle) (m : MxMatch) : MxHandle := { h with ml := m.ml, mp := m.mp, mrung := m.mrung, t := m.t }

/-- The result word of a match. -/
def MxMatch.word (m : MxMatch) : Nat := m.ml + 2 ^ 8 * m.mrung + 2 ^ 16 * m.t + 2 ^ 32 * m.mp

def MxHandle.found (h : MxHandle) : MxMatch := { ml := h.ml, mp := h.mp, mrung := h.mrung, t := h.t }

def MxHandle.fill (h : MxHandle) : Nat := h.entries.length + 2 ^ 32 * mxEntries h.bits

/-! ### Images (R157, Tables 7.11 and 7.12) -/

def mxImageBytes (b : Nat) : Nat := 64 + 2 ^ (b + 6)

def MxEntry.bytes (e : MxEntry) : List Byte := leBytes 8 (e.p % 2 ^ 32 + 2 ^ 32 * e.rung + 2 ^ 36) ++ leBytes 8 e.h.toNat

/-- The image of a handle. -/
def MxHandle.image (h : MxHandle) (encver : Nat) : List Byte :=
  leBytes 4 0x5854524D ++ leBytes 1 encver ++ leBytes 1 h.bits ++ leBytes 2 0 ++ leBytes 4 h.n ++ leBytes 4 h.mp ++
    leBytes 1 h.ml ++ leBytes 1 h.mrung ++ leBytes 1 h.t ++ List.replicate 45 0 ++
    ((List.range (mxEntries h.bits)).map fun i =>
      match sget none h.entries i with | some e => e.bytes | none => List.replicate 16 0).flatten

/-- One entry of an image: none where it is bad, `some none` where it is not in use. -/
def mxEntryOf (bs : List Byte) : Option (Option MxEntry) :=
  let w := fld bs 0 8
  if bits w 63 37 ≠ 0 || 11 < bits w 35 32 then none
  else some (if bitOf w 36 then some ⟨BitVec.ofNat 64 (fld bs 8 8), bits w 35 32, bits w 31 0⟩ else none)

/-- The header of an image: BITS when it is whole. -/
def mxHeader (h : List Byte) (encver : Nat) : Option Nat :=
  let b := fld h 5 1
  if fld h 0 4 == 0x5854524D && fld h 4 1 == encver && 4 ≤ b && b ≤ 16 && allZero h 6 2 && allZero h 19 45 then some b else none

/-- The handle an image holds, without its log. -/
def mxFrom (h es : List Byte) (b : Nat) : Option MxHandle :=
  let xs := (List.range (mxEntries b)).map fun i => mxEntryOf ((es.drop (16 * i)).take 16)
  if xs.all Option.isSome then
    some { bits := b, n := fld h 8 4, mp := fld h 12 4, ml := fld h 16 1, mrung := fld h 17 1, t := fld h 18 1
           entries := ssetMany none [] ((xs.filterMap id).zipIdx.map fun (e, i) => (i, e)) }
  else none

end Sys2Proof.Machine
end

