-- ==== Sys2Proof/Machine/Truss.lean ====
section
/-! DEFINITION. The Truss: slots, tile locators, the Truss instructions, opcodes 0xC0 to 0xC7, the passes the arbiter
grants, and the loading of activation tables, opcode 0x52 (R99 to R101, R110 to R134, R229). -/

namespace Sys2Proof.Machine

/-! ### Slots (R110 to R113) -/

/-- The handle of a slot (Table 6.1). -/
def slotHandle (bay n : Nat) : W64 := BitVec.ofNat 64 (2 ^ 15 + 2 ^ 8 * bay + n)

/-- NEW (R111). -/
def newHandle : Nat := 0xFFFF

/-- The slot a register names, or none when the check of R113 fails. -/
def Bay.named (b : Bay) (bay fid v : Nat) : Option Nat :=
  let n := v % 128
  if v / 2 ^ 16 = 0 && bitOf v 15 && !bitOf v 14 && !bitOf v 7 && bits v 13 8 == bay then
    match b.slot? n with
    | some x => if x.owner = fid && !x.released then some n else none
    | none => none
  else none

/-! ### Tile locators (R114 to R118) -/

/-- A locator from its two words, and whether a reserved bit is set (Tables 6.2 and 6.3). -/
def readLocator (w0 w1 : Nat) : Locator × Bool :=
  let tp : Nat := w1 % 2 ^ 32
  ({ reg := bitOf w0 63, fmt := bits w0 56 53, rot := bits w0 52 48, rpitch := bits w0 47 32, base := w0 % 2 ^ 32
     vc := bits w1 45 39, vr := bits w1 38 32, tpitch := if tp < 2 ^ 31 then (tp : Int) else (tp : Int) - 2 ^ 32 },
   bits w0 62 57 != 0 || bits w1 63 46 != 0)

/-- The locator an even–odd scalar pair holds. -/
def Env.locator (e : Env) (o : Opd) : Locator × Bool := readLocator (e.w.rdS o.raw).toNat (e.w.rdS (o.raw + 1)).toNat

/-- Bytes of a column (Table 6.4). -/
def colBytes (fmt : Nat) : Nat := if fmt ≤ 1 then 2 else if fmt ≤ 5 then 1 else 4

/-- The class of operand formats that may meet (R124). -/
def fmtClass (fmt : Nat) : Nat := if fmt ≤ 1 then 0 else if fmt ≤ 3 then 1 else fmt

/-- The checks of R116 and R118. `whole`: the locator of a `TLD` or `TST`. -/
def Locator.ok (l : Locator) (resv : Bool) (fmts : List Nat) (whole cap : Bool) : Bool :=
  let limit := if whole then 64 else if l.fmt ≤ 1 then 32 else 64
  !resv && fmts.contains l.fmt && 1 ≤ l.vr && l.vr ≤ 64 && 1 ≤ l.vc && l.vc ≤ limit &&
    (!l.reg || (l.rpitch == 0 && l.rot == 0 && l.base < 1024 && !cap && l.fmt ≤ 5)) && (!cap || l.rot == 0)

/-- A sum modulo 2^32. -/
def wrap32 (x : Int) : Nat := (x % ((2 ^ 32 : Nat) : Int)).toNat

/-- RowAddr (R117). -/
def Locator.rowAddr (l : Locator) (t i : Nat) : Nat :=
  let start := wrap32 ((l.base : Int) + t * l.tpitch)
  let a := wrap32 ((l.base : Int) + t * l.tpitch + (i * l.rpitch : Nat))
  if l.rot = 0 then a
  else
    let b := (start / 64 % 32 + i * l.rot) % 32
    a / 2048 * 2048 + b * 64 + a % 64

/-- The bytes of a row's chunk that hold valid columns: (offset, length) (R117). -/
def Locator.spans (l : Locator) : List (Nat × Nat) :=
  (0, l.vc * colBytes l.fmt) :: if l.fmt = 5 then [(64, ceilDiv l.vc 16)] else []

/-- Registers of a row's chunk (R118). -/
def Locator.rowRegs (l : Locator) : Nat := if l.fmt = 5 then 17 else 16

/-- The first register of a row's chunk (R118). -/
def Locator.rowReg (l : Locator) (width t i : Nat) : Nat :=
  wrap32 ((l.base : Int) + t * l.tpitch + (i / width * l.rowRegs : Nat))

/-- The registers that a register-sourced locator uses beyond an allocation, the lowest first (R118, R65): of a chunk those
that hold valid columns (DESIGN CHOICE, log 46). -/
def Locator.beyond (l : Locator) (width vregs steps : Nat) : Option Nat :=
  let row := fun t i => l.spans.flatMap fun (o, n) =>
    (List.range (ceilDiv n 4)).filterMap fun j =>
      let r := l.rowReg width t i + o / 4 + j
      if j + o / 4 < l.rowRegs && vregs ≤ r then some r else none
  let all := (List.range steps).flatMap fun t => (List.range (ceilDiv l.vr width)).flatMap fun k => row t (k * width)
  if l.reg then all.min? else none

/-- The first offset of a span that lies outside an allocation. -/
def outside (limit off n : Nat) : Option Nat := if n = 0 || off + n ≤ limit then none else some (max off limit)

/-- The first offset of a step's rows that lies outside the allocation (R117). -/
def Locator.badRow (l : Locator) (limit t : Nat) (rows : List Nat) : Option Nat :=
  if l.reg then none
  else rows.findSome? fun i => l.spans.findSome? fun (o, n) => outside limit (l.rowAddr t i + o) n

/-- The same over steps, A before B in each. -/
def badSteps (ls : List Locator) (limit steps : Nat) : Option Nat :=
  (List.range steps).findSome? fun t => ls.findSome? fun l => l.badRow limit t (List.range l.vr)

/-- Item 6 of R120: bounds, permissions and generation, without translation. -/
def State.capIssue (s : State) (c : Cap) (off n : Nat) (u : Use) : Option (Cause × Nat) :=
  if c.len < off + n then some (.capBounds, max off c.len % 2 ^ 64)
  else if c.view ≠ 0 && c.geom = 0 then some (.capBounds, off)
  else if !c.allows u then some (.capPerm, off)
  else if !s.current c then some (.capRevoked, off)
  else none

/-- What a Truss operation may use a capability for: memory, no window and no peer (Table 8.1, R172). -/
def trussUse (acc : Acc) : Use := { acc := acc, kinds := [0, 7] }

/-- Memory as a frame sees it (R326). -/
def State.memOf (s : State) (fid : Nat) : List Host.Cell :=
  match s.frame? fid with
  | some f => f.fsb.foldl (fun m (a, b) => match b with | some b => writeByte m a b | none => m) s.mem
  | none => s.mem

/-! ### Issue (R119 to R121) -/

/-- The entry of a frame's group. -/
def Bay.entry? (b : Bay) (fid g : Nat) : Option TrussEntry := b.entries.find? fun x => x.fid == fid && x.group == g

/-- There is room for one more operation of a group (R119). -/
def Bay.room (b : Bay) (fid g : Nat) : Bool :=
  match b.entry? fid g with
  | some x => x.ops.length < 8
  | none => b.entries.length < 32

/-- An operation joins its entry's queue. -/
def Bay.enqueue (b : Bay) (fid g now : Nat) (o : TrussOp) : Bay :=
  match b.entry? fid g with
  | some _ => { b with entries := modifyFirst (fun x => x.fid == fid && x.group == g) (fun x => { x with ops := x.ops ++ [o] }) b.entries }
  | none => { b with entries := b.entries ++ [{ fid := fid, group := g, created := now, ops := [o] }] }

/-- What an instruction puts in the queue: its work, the trap that items 3 to 7 of R120 find, whether a guarded
frame commits first (R123, R325), and register writes beside the handle. -/
structure TrussPlan where
  work : TrussWork
  bad : Option (Cause × Nat) := none
  commits : Bool := false
  more : List RegWrite := []
  deriving DecidableEq, Repr

/-- A `TLD` or `TST`: it clears the fault that `TQRY.fault` reports (R133). -/
def TrussWork.isTile : TrussWork → Bool
  | .tld .. | .tst .. => true
  | _ => false

/-- The operation is ordered after every earlier access of its thread: it writes memory, or reads strict memory (R128, R211). -/
def TrussWork.afterAll : TrussWork → Bool
  | .tst .. => true
  | .tld _ (some c) => c.cls == .strict
  | _ => false

/-- Every check has passed: the slot is allocated when `new`, the operation enrolled and queued; a `TST` through a capability
first commits (R123, R325), and the accesses ordered before the operation are performed (R211). -/
def trussStart (s : State) (e : Env) (h : Hdr) (d ctr g slot : Nat) (new : Bool) (p : TrussPlan) : Res :=
  withCommit s e p.commits fun s =>
  let (s, w) := performBefore s e.c.fid e.w p.work.afterAll
  let b := s.bay e.f.bay
  let b := if new then { b with slots := (slot, { owner := e.c.fid }) :: b.slots } else b
  let op : TrussOp :=
    { id := s.fresh, fid := e.c.fid, widx := e.w.idx, ctr := ctr, slot := slot, work := p.work, pc := e.c.pc
      old := s.memOf e.c.fid, oldV := w.wc.v }
  let w := w.enrol { id := s.fresh, ctr := ctr, from_ := s.now, done := false }
  let w := if p.work.isTile then { w with trussFault := none } else w
  let ws := (if new then [e.w.sWrite d (slotHandle e.f.bay slot)] else []) ++ p.more
  finish (s.tick.setBay e.f.bay (b.enqueue e.c.fid g s.now op)) e h (w.postG s.now 4 e.width (ws.map fun y => (y, false)))

/-- A Truss operation issues (R120): room, the checks in their order, the allocation for NEW, then its counter
operation and its place in the queue. -/
def trussInstr (s : State) (h : Hdr) (x : ExtArgs) (g : Nat) (allowNew : Bool) (plan : Env → TrussPlan) : Res :=
  withEnv s fun e =>
    let c := match x.fin with | .ctr c => c | _ => 8
    withRoom s e c <|
    if e.exec h = [] then finishEmpty s e h c
    else
      let b := s.bay e.f.bay
      let v := (e.w.rdS x.d.raw).toNat
      let new := allowNew && v == newHandle
      let p := plan e
      if !b.room e.c.fid g then holdAt s e (.trussRoom g)
      else if !(e.members g).contains e.w.idx then trapWord s e .illegalField
      else if !new && (b.named e.f.bay e.c.fid v).isNone then trap s e .slotBad v
      else match p.bad with
        | some (.locatorBad, _) => trapWord s e .locatorBad
        | some (k, y) => trap s e k y
        | none =>
          if !new then trussStart s e h x.d.raw c g (v % 128) false p
          else match b.freeSlots with
            | [] => trap s e .slotsExhausted 0
            | n :: _ => trussStart s e h x.d.raw c g n true p

/-- LOCATOR_BAD unless `ok`; its TRAPVAL is word 0 of the instruction (Table 17.1). -/
def locatorUnless (ok : Bool) : Option (Cause × Nat) := if ok then none else some (.locatorBad, 0)

/-- REG_RANGE of a register-sourced locator in field A (1) or B (2) (R118, R65). -/
def Env.locatorRegs (e : Env) (l : Locator) (steps field : Nat) : Option (Cause × Nat) :=
  (l.beyond e.width e.l.vregs steps).map fun r => (.regRange, r % 1024 + 1024 * field)

/-- SCRATCH_BOUNDS at an offset. -/
def scratchBad (o : Option Nat) : Option (Cause × Nat) := o.map fun a => (.scratchBounds, a)

/-- The first check that fails. -/
def firstBad (cs : List (Option (Cause × Nat))) : Option (Cause × Nat) := cs.findSome? id

/-- The group of a Truss instruction. -/
def trussGroup (x : ExtArgs) : Nat :=
  match x.x with
  | .loop g _ _ => g
  | .grp g => g
  | .tld g _ => g
  | .tst g _ _ _ _ _ _ _ _ _ _ => g
  | _ => 0

/-- `MLOOP` and `MSTEP` (R124): `steps` K-steps. -/
def loopInstr (s : State) (h : Hdr) (x : ExtArgs) (step : Bool) : Res :=
  let (count, prio) := match x.x with | .loop _ c p => (c, p) | _ => (0, 0)
  let steps := if step then 1 else count + 1
  trussInstr s h x (trussGroup x) true fun e =>
    let (a, ra) := e.locator x.a
    let (b, rb) := e.locator x.b
    let fmts := [0, 1, 2, 3, 4, 5]
    let base := fun (o : Opd) (l : Locator) =>
      let w0 := (e.w.rdS o.raw).toNat
      e.w.sWrite o.raw (BitVec.ofNat 64 (w0 / 2 ^ 32 * 2 ^ 32 + wrap32 ((l.base : Int) + l.tpitch)))
    { work := .loop a b steps 0 (x.sub == 1) prio
      bad := firstBad [
        locatorUnless (a.ok ra fmts false false && b.ok rb fmts false false && fmtClass a.fmt == fmtClass b.fmt),
        e.locatorRegs a steps 1, e.locatorRegs b steps 2, scratchBad (badSteps [a, b] e.l.scratch steps)]
      more := if step then [base x.a a, base x.b b] else [] }

/-- `MLOOP`. -/
def execMloop (h : Hdr) (e : ExtArgs) (s : State) : Res := loopInstr s h e false
/-- `MSTEP`: one step, then BASE of both locators moves on. -/
def execMstep (h : Hdr) (e : ExtArgs) (s : State) : Res := loopInstr s h e true

/-- The bytes of a locator's rows through a capability: (offset, length) in row order. -/
def Locator.capRows (l : Locator) (rows : List Nat) : List (Nat × Nat) :=
  rows.map fun i => (l.base + i * l.rpitch, l.vc * colBytes l.fmt)

/-- Item 6 of R120 over ranges in order. -/
def State.capIssues (s : State) (c : Cap) (rs : List (Nat × Nat)) (u : Use) : Option (Cause × Nat) :=
  rs.findSome? fun (o, n) => s.capIssue c o n u

/-- `TLD` (R128). -/
def execTld (h : Hdr) (e : ExtArgs) (s : State) : Res :=
  let k := match e.x with | .tld _ k => k | _ => 0
  trussInstr s h e (trussGroup e) true fun v =>
    let (a, ra) := v.locator e.a
    let cap := v.w.rdK k
    { work := .tld a (if k = 0 then none else some cap)
      bad := firstBad [
        locatorUnless (a.ok ra [0, 1, 6, 7] true (k != 0)), v.locatorRegs a 1 1,
        if k = 0 then scratchBad (badSteps [a] v.l.scratch 1) else none,
        if k = 0 then none else s.capIssues cap (a.capRows (List.range a.vr)) (trussUse .r)]
      commits := v.l.guarded && k != 0 && cap.cls == .strict }

/-- `TZERO` (R128). -/
def execTzero (h : Hdr) (e : ExtArgs) (s : State) : Res := trussInstr s h e (trussGroup e) true fun _ => { work := .tzero }

/-- `TMASK` (R128). -/
def execTmask (h : Hdr) (e : ExtArgs) (s : State) : Res :=
  trussInstr s h e (trussGroup e) false fun v =>
    let a := v.natS e.a
    { work := .tmask (some a)
      bad := firstBad [locatorUnless (decide (a < 2 ^ 32)), scratchBad (outside v.l.scratch a 512)] }

/-- `TMASK.clr` (R128). -/
def execTmaskClr (h : Hdr) (e : ExtArgs) (s : State) : Res :=
  trussInstr s h e (trussGroup e) false fun _ => { work := .tmask none }

/-- `TREL` (R128). -/
def execTrel (h : Hdr) (e : ExtArgs) (s : State) : Res :=
  withEnv s fun v =>
    if v.exec h = [] then finish s v h v.w
    else
      let b := s.bay v.f.bay
      let x := (v.w.rdS e.d.raw).toNat
      match b.named v.f.bay v.c.fid x with
      | none => trap s v .slotBad x
      | some n => finish (s.setBay v.f.bay (b.release n)) v h v.w

/-- Where the rows of a `TST` lie: in scratchpad or through a capability (R130). -/
def Locator.tstRow (l : Locator) (cap : Bool) (i : Nat) : Nat := if cap then l.base + i * l.rpitch else l.rowAddr 0 i

/-- Where the overflow count lies (R131). -/
def Locator.countAt (l : Locator) (cap : Bool) : Nat :=
  roundUp (l.tstRow cap (l.vr - 1) + l.vc * colBytes l.fmt) 64

/-- `TST` (R129). -/
def execTst (h : Hdr) (e : ExtArgs) (s : State) : Res :=
  match e.x with
  | .tst g k rnd sat rs cs msk act tbl start rel =>
    trussInstr s h e g false fun v =>
      let (a, ra) := v.locator e.a
      let cap := v.w.rdK k
      let int := e.sub == 1
      let sb := if rs || cs then v.natS e.b else 0
      let ro := sb % 2 ^ 32
      let co := sb / 2 ^ 32
      let rows := (List.range a.vr).filter fun i => start ≤ i
      let bank := (sget {} (s.bay v.f.bay).tables tbl).bank
      let plain := !rs && !cs && !msk && !act && rnd == .rn && !sat
      let form :=
        a.ok ra (if int then [4, 7] else [0, 1, 2, 3, 4, 6, 7]) true (k != 0) && !a.reg && decide (start < a.vr) &&
          (rs || cs || e.b.raw == 0) && (!int || plain) && ro % 4 == 0 && co % 4 == 0
      { work := .tst a (if k = 0 then none else some cap) int rnd sat rs cs msk (if act then some bank else none) ro co start rel
        bad := firstBad [
          locatorUnless form,
          if k = 0 then scratchBad (a.badRow v.l.scratch 0 rows) else none,
          if k = 0 then scratchBad (outside v.l.scratch (a.countAt false) 4) else none,
          if rs then scratchBad (outside v.l.scratch (ro + 4 * start) (4 * rows.length)) else none,
          if cs then scratchBad (outside v.l.scratch co (4 * a.vc)) else none,
          if k = 0 then none else s.capIssues cap (a.capRows rows ++ [(a.countAt true, 4)]) (trussUse .w),
          if act && !bank.usable v.f.lid then some (.actTable, tbl) else none]
        commits := v.l.guarded && k != 0 }
  | _ => withEnv s fun v => trapWord s v .illegalField

/-! ### TQRY (R133) -/

/-- `TQRY.free`. -/
def execTqryFree (h : Hdr) (e : ExtArgs) (s : State) : Res :=
  scalarResult s h 8 e.d [] fun v => (BitVec.ofNat 64 (s.bay v.f.bay).freeSlots.length, 0)

/-- The slots a frame owns and has not released, as a mask. -/
def Bay.ownedMask (b : Bay) (fid : Nat) : Nat :=
  (List.range 128).foldl (fun m n => match b.slot? n with | some x => if x.owner = fid && !x.released then m + 2 ^ n else m | none => m) 0

/-- `TQRY.slots`. -/
def execTqrySlots (h : Hdr) (e : ExtArgs) (s : State) : Res :=
  withEnv s fun v =>
    if v.exec h = [] then finish s v h v.w
    else
      let m := (s.bay v.f.bay).ownedMask v.c.fid
      let w (i x : Nat) := (v.w.sWrite (e.d.raw + i) (BitVec.ofNat 64 x), false)
      finish s v h (v.w.postG s.now 8 v.width [w 0 (m % 2 ^ 64), w 1 (m / 2 ^ 64)])

/-- `TQRY.fault`. -/
def execTqryFault (h : Hdr) (e : ExtArgs) (s : State) : Res :=
  scalarResult s h 8 e.d [] fun v =>
    (match v.w.trussFault with
     | some (cause, row) => BitVec.ofNat 64 (cause * 2 ^ 16 + 2 ^ 15 + row % 128)
     | none => 0, 0)

/-- The steps an operation still counts for (Table 6.5). -/
def TrussOp.pending (o : TrussOp) : Nat :=
  match o.work with
  | .loop _ _ steps done _ _ => steps - done
  | _ => if o.fin then 0 else 1

/-- `TQRY.pend`. -/
def execTqryPend (h : Hdr) (e : ExtArgs) (s : State) : Res :=
  scalarResult s h 8 e.d [] fun v =>
    (match (s.bay v.f.bay).entry? v.c.fid e.a.raw with
     | some x => BitVec.ofNat 64 ((x.ops.map TrussOp.pending).sum)
     | none => 0, 0)

/-! ### What a pass does (R122, R125, R126, R128, R130) -/

/-- Where an operation reads: its frame's scratchpad and the registers of its warp, and both as they were when it issued. -/
structure TrussSrc where
  fid : Nat
  w : Warp
  id : Nat
  old : List Host.Cell
  oldV : SMap W32
  deriving DecidableEq, Repr

/-- A byte of memory as a step of the operation reads it: of a word stored to since the issue the old value or the new one,
chosen for each word and step (R122). -/
def State.raced (s : State) (q : TrussSrc) (t a : Nat) : Byte :=
  if Config.readsOld q.id t (a / 4) then readByte q.old a else readByte s.mem a

/-- The same for bytes from an address on. -/
def State.racedBytes (s : State) (q : TrussSrc) (t a n : Nat) : List Byte := (List.range n).map fun i => s.raced q t (a + i)

/-- A word of a vector register of the operation's warp as a step reads it (R122). -/
def TrussSrc.word (q : TrussSrc) (t r lane : Nat) : W32 :=
  if Config.readsOld q.id t (vKey r lane) then sget 0 q.oldV (vKey r lane) else q.w.rdV r lane

/-- `n` bytes of a row's chunk from an offset on, read when the step runs (R117, R118, R122). -/
def State.chunk (s : State) (q : TrussSrc) (l : Locator) (t i o n : Nat) : List Byte :=
  if l.reg then
    let width := q.w.wc.lanes.length
    (List.range n).map fun j =>
      let p := o + j
      if p / 4 < l.rowRegs then BitVec.ofNat 8 ((q.word t (l.rowReg width t i + p / 4) (i % width)).toNat / 256 ^ (p % 4))
      else Config.tileByte q.id p
  else s.racedBytes q t ((Region.scratch q.fid).at (l.rowAddr t i + o)) n

/-- A number format of Table 6.4 that is a float. -/
def tileFmt (fmt : Nat) : Fmt :=
  if fmt = 0 then .bf16 else if fmt = 1 then .f16 else if fmt = 2 then .e4m3 else if fmt = 3 then .e5m2 else .f32

/-- The elements of a row's chunk, the first `kv` (R125). -/
def State.rowVals (s : State) (q : TrussSrc) (l : Locator) (t i kv : Nat) : List XVal :=
  if l.fmt = 5 then
    let codes := s.chunk q l t i 0 (ceilDiv kv 2)
    let scales := s.chunk q l t i 64 (ceilDiv kv 32)
    (List.range kv).map fun k =>
      let c := (codes.getD (k / 2) 0).toNat / 16 ^ (k % 2) % 16
      let e := (scales.getD (k / 32) 0).toNat
      if e = 255 then .nan else (Fmt.e2m1.value c).scale ((e : Int) - 127)
  else
    let n := colBytes l.fmt
    let bs := s.chunk q l t i 0 (kv * n)
    (List.range kv).map fun k => (tileFmt l.fmt).value (ofLe ((bs.drop (k * n)).take n))

/-- The INT8 elements of a row's chunk. -/
def State.rowInts (s : State) (q : TrussSrc) (l : Locator) (t i kv : Nat) : List Int :=
  (s.chunk q l t i 0 kv).map BitVec.toInt

/-- ExactSum (R126): a zero sum is −0 when every product is −0. -/
def exactSum (ps : List XVal) : XVal := ps.foldl (XVal.add false) (.zero true)

/-- A table of `n` entries from a function. -/
def sofFn [DecidableEq α] (d : α) (n : Nat) (f : Nat → α) : SMap α :=
  (List.range n).filterMap fun i => if f i = d then none else some (i, f i)

/-- The valid K of a locator (R125). -/
def Locator.validK (l : Locator) : Nat := if l.fmt = 5 then 2 * l.vc else l.vc

/-- One K-step (R125, R126). -/
def kStep (s : State) (q : TrussSrc) (a b : Locator) (t : Nat) (ws : SMap W32) : SMap W32 :=
  let kv := min a.validK b.validK
  let upd := fun (f : Nat → Nat → W32 → W32) =>
    sofFn 0 4096 fun i => if i / 64 < a.vr && i % 64 < b.vr then f (i / 64) (i % 64) (sget 0 ws i) else sget 0 ws i
  if a.fmt = 4 then
    let ra := (List.range a.vr).map fun i => s.rowInts q a t i kv
    let rb := (List.range b.vr).map fun i => s.rowInts q b t i kv
    upd fun m n x => x + BitVec.ofInt 32 ((List.zipWith (· * ·) (ra.getD m []) (rb.getD n [])).sum)
  else
    let ra := (List.range a.vr).map fun i => s.rowVals q a t i kv
    let rb := (List.range b.vr).map fun i => s.rowVals q b t i kv
    upd fun m n x => f32Of ((f32Val x).add false (exactSum (List.zipWith XVal.mul (ra.getD m []) (rb.getD n []))))

/-- Steps `t` to `t + n − 1` in order. -/
def kSteps (s : State) (q : TrussSrc) (a b : Locator) (zero : Bool) : Nat → Nat → SMap W32 → SMap W32
  | _, 0, ws => ws
  | t, n + 1, ws => kSteps s q a b zero (t + 1) n (kStep s q a b t (if zero && t = 0 then [] else ws))

/-- The 64 words of a row that a `TLD` makes of the row's bytes (R128); beyond the valid columns +0. -/
def tldRow (l : Locator) (bs : List Byte) (bad : Nat → Bool) : List W32 :=
  let n := colBytes l.fmt
  (List.range 64).map fun c =>
    if l.vc ≤ c then 0
    else if (List.range n).any fun k => bad (c * n + k) then 0xFFFFFFFF#32
    else
      let x := ofLe ((bs.drop (c * n)).take n)
      if 6 ≤ l.fmt then BitVec.ofNat 32 x else f32Of ((tileFmt l.fmt).value x)

/-- One element of a `TST` (R130): its code and its count. -/
def tstElem (fmt : Nat) (int : Bool) (rnd : Rnd) (sat : Bool) (x : W32) (rs cs : Option XVal) (masked : Bool)
    (act : Option ActBank) (r : W32) : Nat × Nat :=
  if int then
    if fmt = 7 then (x.toNat, 0) else clampI ⟨8, true⟩ x.toInt
  else
    let v := f32Val x
    let v := match rs with | some k => roundF32 (v.mul k) | none => v
    let v := match cs with | some k => roundF32 (v.mul k) | none => v
    let v := if masked then .inf true else v
    let v := match act with | some b => f32Val (factValue b (f32Of v)) | none => v
    if fmt = 4 || fmt = 7 then
      let w := if fmt = 4 then 8 else 32
      let (y, c) := convertI v ⟨w, true⟩ rnd r
      (intBits w y, c)
    else convertF v (tileFmt fmt) rnd sat r

/-- The rows a `TST` writes, each as its bytes, and the overflow count (R130, R131). -/
def State.tstRows (s : State) (q : TrussSrc) (sl : Slot) (l : Locator) (int : Bool) (rnd : Rnd) (sat rs cs msk : Bool)
    (act : Option ActBank) (ro co start : Nat) : List (List Byte) × Nat :=
  let scale := fun o => f32Val (BitVec.ofNat 32 (ofLe (s.racedBytes q 0 ((Region.scratch q.fid).at o) 4)))
  let row := fun m =>
    let es := (List.range l.vc).map fun n =>
      tstElem l.fmt int rnd sat (sget 0 sl.words (64 * m + n)) (if rs then some (scale (ro + 4 * m)) else none)
        (if cs then some (scale (co + 4 * n)) else none) (msk && sget false sl.mask (64 * m + n)) act
        (Config.randomOperand (q.id * 4096 + 64 * m + n))
    ((es.flatMap fun (c, _) => leBytes (colBytes l.fmt) c), (es.map Prod.snd).sum)
  let rows := ((List.range l.vr).filter fun m => start ≤ m).map row
  (rows.map Prod.fst, (rows.map Prod.snd).sum)

/-- What an operation came to in its pass: it goes on with new words and a state, or it is over. -/
inductive Pass where
  /-- paused at a row by an absent page -/
  | paused (s : State) (op : TrussOp) (sl : Slot) (p : Absent)
  /-- waits for a window; never for memory -/
  | ended (s : State) (op : TrussOp) (sl : Slot)
  deriving DecidableEq, Repr

/-- An operation that a fault stops at a row (R132). -/
def TrussOp.faulted (o : TrussOp) (k : Cause) (v row : Nat) : TrussOp := { o with fin := true, err := some (k.code, v, row) }

/-- A bad line consumed for a warp by an operation in flight: a guarded frame is relaunched, another's warp takes POISON at its
next boundary (R321, R323). -/
def consumed (s : State) (l : Launch) (i : WarpId) (off : Nat) : State :=
  if l.guarded then startRelaunch s i.fid .poison else s.modWarp i fun w => w.setLate .poison off

/-- A `TLD` row by row from the row it stands at. -/
def tldRows (f : Frame) (l : Launch) (q : TrussSrc) (a : Locator) (cap : Option Cap) :
    Nat → State → TrussOp → Slot → Pass
  | 0, s, o, sl => .ended s { o with fin := true } sl
  | n + 1, s, o, sl =>
    let m := o.row
    let put := fun (s : State) (ws : List W32) =>
      tldRows f l q a cap n s { o with row := m + 1 } { sl with words := ssetMany 0 sl.words (ws.mapIdx fun i x => (64 * m + i, x)) }
    let size := a.vc * colBytes a.fmt
    if a.vr ≤ m then put s (List.replicate 64 0)
    else match cap with
      | none => put s (tldRow a (s.chunk q a 0 m 0 size) fun _ => false)
      | some c =>
        let r : MemRef := { cap := c, off := a.base + m * a.rpitch }
        match (Xst.mk s q.w).move f l r size .r with
        | (_, .absent ps) => .paused s o sl (ps.headD ⟨0, false, 0, false⟩)
        | (_, .trap k v) => .ended s (o.faulted k v m) sl
        | (_, .hold _) => .ended s (o.faulted .capRevoked r.off m) sl
        | (x, .ok pm) =>
          let s := x.s
          let as := s.physRead r size pm
          let per := as.length / size
          let bad := fun i => ((as.drop (i * per)).take per).any s.lineBad
          let now := s.fetch f r size pm
          let old := { s with mem := q.old }.fetch { f with fsb := [] } r size pm
          let bs := (List.range size).map fun j => if Config.readsOld q.id m ((r.off + j) / 4) then old.getD j 0 else now.getD j 0
          let s' := match s.firstBad as with
            | some (i, y) => consumed (s.lineError y 3) l ⟨o.fid, o.widx⟩ (poisonOff r.off per i y)
            | none => s
          put s' (tldRow a bs bad)

/-- A `TST` writes its rows from the row it stands at, then its overflow count (R130 to R132). -/
def tstWrite (f : Frame) (l : Launch) (q : TrussSrc) (a : Locator) (cap : Option Cap) (start : Nat) :
    Nat → State → TrussOp → Slot → Pass
  | 0, s, o, sl => .ended s { o with fin := true } sl
  | n + 1, s, o, sl =>
    let last := o.row = a.vr
    let off := if last then a.countAt cap.isSome else a.tstRow cap.isSome o.row
    let bs := if last then leBytes 4 o.count else o.out.getD (o.row - start) []
    match cap with
    | none =>
      tstWrite f l q a cap start n (s.setMem (writeBytes s.mem ((Region.scratch q.fid).at off) bs)) { o with row := o.row + 1 } sl
    | some c =>
      let r : MemRef := { cap := c, off := off }
      match (Xst.mk s q.w).move f l r bs.length .w with
      | (_, .absent ps) => .paused s o sl (ps.headD ⟨0, false, 0, true⟩)
      | (_, .trap k v) => .ended s (o.faulted k v o.row) sl
      | (_, .hold _) => .ended s (o.faulted .capRevoked off o.row) sl
      | (x, .ok pm) => tstWrite f l q a cap start n (x.s.storeAt f.fid false (x.s.physOf r bs.length pm) bs) { o with row := o.row + 1 } sl

/-- The pass of an operation (R119): up to 16 K-steps of a loop, or the whole of any other operation; a paused one
goes on at its row. -/
def trussPass (s : State) (f : Frame) (l : Launch) (w : Warp) (o : TrussOp) (sl : Slot) : Pass :=
  let q : TrussSrc := ⟨o.fid, w.rollback, o.id, o.old, o.oldV⟩
  match o.work with
  | .loop a b steps done zero prio =>
    let n := min 16 (steps - done)
    .ended s { o with work := .loop a b steps (done + n) zero prio, fin := done + n == steps }
      { sl with words := kSteps s q a b zero done n sl.words }
  | .tzero => .ended s { o with fin := true } { sl with words := [] }
  | .tmask none => .ended s { o with fin := true } { sl with mask := [] }
  | .tmask (some a) =>
    let bs := s.racedBytes q 0 ((Region.scratch o.fid).at a) 512
    .ended s { o with fin := true } { sl with mask := sofFn false 4096 fun i => bitOf (bs.getD (i / 8) 0).toNat (i % 8) }
  | .tld a cap => tldRows f l q a cap (64 - o.row) s o sl
  | .tst a cap int rnd sat rs cs msk act ro co start _ =>
    let o :=
      if o.busy then o
      else
        let (out, n) := s.tstRows q sl a int rnd sat rs cs msk act ro co start
        { o with out := out, count := n, row := start }
    tstWrite f l q a cap start (a.vr + 1 - o.row) s o sl

/-! ### The arbiter (R229) -/

/-- Priority of an entry (Table 6.5). -/
def TrussEntry.prio (s : State) (x : TrussEntry) : Nat :=
  match x.ops with
  | o :: _ =>
    match o.work with
    | .loop _ _ _ _ _ p =>
      let ceil := (((s.frame? x.fid).bind fun f => s.launch? f.lid).bind fun l => s.ctxObj l.ctx).elim 3 CtxObj.prioceil
      min p ceil
    | _ => 0
  | [] => 0

/-- Entry `x` is granted before `y`: urgent entries first, in the order they became urgent; then the higher effective
priority, then the greater age. -/
def TrussEntry.before (s : State) (x y : TrussEntry) : Bool :=
  match x.urgentAt, y.urgentAt with
  | some a, some b => a < b
  | some _, none => true
  | none, some _ => false
  | none, none =>
    let p := min 3 (x.prio s + x.loss / 64)
    let q := min 3 (y.prio s + y.loss / 64)
    q < p || (p == q && x.created < y.created)

/-- An entry that a grant may go to: its head has not finished. -/
def TrussEntry.waits (x : TrussEntry) : Bool := match x.ops with | o :: _ => !o.fin | [] => false

/-- The entry the next pass goes to: an operation in the middle of its pass keeps the Truss (R134), and while it is
paused no pass is granted. -/
def Bay.nextEntry (s : State) (b : Bay) : Option TrussEntry :=
  match b.entries.find? fun x => x.ops.any fun o => o.busy && !o.fin with
  | some x => if x.ops.any fun o => o.busy && o.paused.isSome then none else some x
  | none =>
    (b.entries.filter TrussEntry.waits).foldl (fun best x =>
      match best with
      | none => some x
      | some y => if x.before s y then some x else some y) none

/-- The counts of a grant (R229): every other entry loses a pass. -/
def Bay.counted (b : Bay) (fid g : Nat) : Bay :=
  let one (x : TrussEntry) : TrussEntry :=
    if x.fid == fid && x.group == g then { x with loss := 0, urgentAt := none }
    else
      { x with loss := x.loss + 1, urgentAt := if 1024 ≤ x.loss + 1 then x.urgentAt.orElse fun _ => some b.passes else x.urgentAt }
  { b with passes := b.passes + 1, entries := b.entries.map one }

/-- The head of an entry's queue replaced. -/
def Bay.setHead (b : Bay) (fid g : Nat) (o : TrussOp) : Bay :=
  { b with entries := modifyFirst (fun x => x.fid == fid && x.group == g) (fun x => { x with ops := o :: x.ops.drop 1 }) b.entries }

/-- A bay with an operation's new state and its slot. -/
def State.trussPut (s : State) (bay fid g : Nat) (o : TrussOp) (sl : Slot) : State :=
  let b := s.bay bay
  s.setBay bay ((b.modSlot o.slot fun _ => sl).setHead fid g o)

/-- The fault of a stopped `TST` or `TLD`, for `TQRY.fault` (R132, R133). -/
def State.noteTrussFault (s : State) (o : TrussOp) : State :=
  match o.err with
  | some (k, _, row) => s.modWarp ⟨o.fid, o.widx⟩ fun w => { w with trussFault := some (k, row) }
  | none => s

/-- `TRUSS_GRANT` (R229): one pass. -/
def execTrussGrant (bay : Nat) (s : State) : Res :=
  let b := s.bay bay
  match b.nextEntry s with
  | none => .next s
  | some x =>
    match x.ops, s.frame? x.fid with
    | o :: _, some f =>
      match s.launch? f.lid, f.warp? o.widx, b.slot? o.slot with
      | some l, some w, some sl =>
        let s := if o.busy then s else s.setBay bay (b.counted x.fid x.group)
        match trussPass s f l w o sl with
        | .ended s o sl => .next ((s.trussPut bay x.fid x.group { o with busy := false, paused := none } sl).noteTrussFault o)
        | .paused s o sl p =>
          let num := s.fresh
          .next ((askJob s (.truss o.id) l.ctx o.pc p).trussPut bay x.fid x.group { o with busy := true, paused := some num } sl)
      | _, _, _ => .next s
    | _, _ => .next s

/-- `TRUSS_OP_COMPLETE` (R121, R112): the first finished head leaves its queue, its counter operation is done, REL
acts, released slots return to the free list, an empty entry goes. -/
def execTrussOpComplete (bay : Nat) (s : State) : Res :=
  let b := s.bay bay
  match b.entries.find? fun x => match x.ops with | o :: _ => o.fin | [] => false with
  | none => .next s
  | some x =>
    match x.ops with
    | [] => .next s
    | o :: _ =>
      let rel := match o.work with | .tst _ _ _ _ _ _ _ _ _ _ _ _ rel => rel && o.err.isNone | _ => false
      let b := { b with entries := modifyFirst (fun y => y.fid == x.fid && y.group == x.group) (fun y => { y with ops := y.ops.drop 1 }) b.entries }
      let b := { b with entries := b.entries.filter fun y => y.ops != [] }
      let b := if rel then b.release o.slot else b.sweep
      .next ((s.setBay bay b).modWarp ⟨o.fid, o.widx⟩ fun w => w.opDone o.id [] (o.err.map fun (k, v, _) => (k, v))).settleDone

/-! ### Loading an activation table (R99, R101) -/

/-- Bytes of a table image (Table 5.9). -/
def actImageBytes : Nat := 3088

/-- A bank from its image, loaded by a launch (R99). -/
def readActBank (bs : List Byte) (owner : Nat) : ActBank :=
  let at_ := fun o w => ofLe ((bs.drop o).take w)
  { loaded := true, valid := at_ 4 1 / 32 == 0 && ((bs.drop 5).take 11).all (fun b => b == 0), owner := owner
    base := at_ 0 4, shift := at_ 4 1 % 32
    coef := (List.range 768).map fun i => BitVec.ofNat 32 (at_ (16 + 4 * i) 4) }

/-- How `FTLOAD` uses a capability: as a load does (Table 8.1). -/
def ftUse : Use := { acc := .r }

/-- `FTLOAD` (R101): its image lies within the capability, and the first 16 bytes pass the checks of a `LD` (R86). That the
bounds hold for the whole image, and that an absent page does not stop the issue (R319), is the model's choice (DESIGN CHOICE, log 46). -/
def execFtload (h : Hdr) (o : AluArgs) (s : State) : Res :=
  withEnv s fun e =>
    let c := o.c.raw
    withRoom s e c <|
    if e.exec h = [] then finishEmpty s e h c
    else
      let off := e.natS o.b
      let cap := e.rdCap o.a
      if off % 16 ≠ 0 then trap s e .misalign off
      else match s.capIssue cap off actImageBytes ftUse with
        | some (k, v) => trap s e k v
        | none =>
          match (Xst.mk s e.w).capRange (.lane e.tlbUse ((e.exec h).headD 0)) cap off 16 ftUse with
          | (_, .trap k v) => trap s e k v
          | (_, .hold y) => holdAt s e y
          | (x, _) =>
            let e := { e with w := x.w }
            withCommit x.s e (cap.cls == .strict) fun s =>
            let (s, w) := performBefore s e.c.fid e.w (cap.cls == .strict)
            let op : FtOp := { id := s.fresh, fid := e.c.fid, widx := e.w.idx, ctr := c, bay := e.f.bay, table := o.sub, lid := e.f.lid, cap := cap, off := off, pc := e.c.pc }
            finish { s.tick with ftops := s.ftops ++ [op] } e h (w.enrol { id := s.fresh, ctr := c, from_ := s.now, done := false })

/-- The first load that can be performed: none before it goes to the same table, and it is not paused. -/
def State.nextFt (s : State) : Option FtOp :=
  s.ftops.find? fun o =>
    o.paused.isNone && ((s.ftops.find? fun p => p.bay == o.bay && p.table == o.table).map FtOp.id) == some o.id

/-- A load leaves with its error. -/
def State.ftDone (s : State) (o : FtOp) (err : Option (Nat × Nat)) : State :=
  { s with ftops := s.ftops.filter fun p => p.id != o.id }.modWarp ⟨o.fid, o.widx⟩ fun w => w.opDone o.id [] err

/-- `FTLOAD_FLIP` (R101, R319): the image is read into the inactive bank, and the banks flip. -/
def execFtloadFlip (s : State) : Res :=
  match s.nextFt with
  | none => .next s
  | some o =>
    match s.frame? o.fid with
    | none => .next (s.ftDone o none)
    | some f =>
      match s.launch? f.lid, f.warp? o.widx with
      | some l, some w =>
        let r : MemRef := { cap := o.cap, off := o.off }
        match (Xst.mk s w).move f l r actImageBytes .r with
        | (_, .absent ps) =>
          let num := s.fresh
          let s := askJob s (.ft o.id) l.ctx o.pc (ps.headD ⟨0, false, 0, false⟩)
          .next { s with ftops := modifyFirst (fun p => p.id == o.id) (fun p => { p with paused := some num }) s.ftops }
        | (_, .trap k v) => .next (s.ftDone o (some (k.code, v)))
        | (_, .hold _) => .next s
        | (x, .ok pm) =>
          let as := x.s.physRead r actImageBytes pm
          let s := x.s.performOlder ⟨o.fid, o.widx⟩ o.id as false
          let per := as.length / actImageBytes
          let bs := poisonBytes (fun i => ((as.drop (i * per)).take per).any s.lineBad) (s.fetch f r actImageBytes pm)
          let flip (s : State) : State :=
            let b := s.bay o.bay
            let t : ActTable := sget {} b.tables o.table
            let bank := readActBank bs o.lid
            let t := if t.active then { t with b0 := bank, active := false } else { t with b1 := bank, active := true }
            s.setBay o.bay { b with tables := sset {} o.table t b.tables }
          match s.firstBad as with
          | none => .next ((flip s).ftDone o none)
          | some (i, y) =>
            let s := consumed (s.lineError y 2) l ⟨o.fid, o.widx⟩ (poisonOff o.off per i y)
            .next ((if l.guarded then s else flip s).ftDone o none)
      | _, _ => .next (s.ftDone o none)

end Sys2Proof.Machine
end

