-- ==== Sys2Proof/Machine/Zstd.lean ====
section
/-! DEFINITION. Zstandard frames (R145, RFC 8878; PRESUMED, log 19): headers, raw, run-length and compressed blocks, Huffman and
FSE decoding, sequences, the content size and the content checksum. -/

namespace Sys2Proof.Machine.Zst

/-! ### XXH64 with seed 0 -/

def w64 (x : Nat) : Nat := x % 2 ^ 64
def rotl (x r : Nat) : Nat := w64 (x * 2 ^ r) + x / 2 ^ (64 - r)

def p1 : Nat := 0x9E3779B185EBCA87
def p2 : Nat := 0xC2B2AE3D27D4EB4F
def p3 : Nat := 0x165667B19E3779F9
def p4 : Nat := 0x85EBCA77C2B2AE63
def p5 : Nat := 0x27D4EB2F165667C5

def xround (acc x : Nat) : Nat := w64 (rotl (w64 (acc + x * p2)) 31 * p1)

/-- The four lanes over whole stripes of 32 bytes, and what is left. -/
def stripes : Nat → List Byte → Nat × Nat × Nat × Nat → (Nat × Nat × Nat × Nat) × List Byte
  | 0, bs, v => (v, bs)
  | n + 1, bs, (a, b, c, d) =>
    if bs.length < 32 then ((a, b, c, d), bs)
    else
      let at_ := fun i => ofLe ((bs.drop (8 * i)).take 8)
      stripes n (bs.drop 32) (xround a (at_ 0), xround b (at_ 1), xround c (at_ 2), xround d (at_ 3))

/-- The bytes after the last stripe. -/
def xtail : Nat → List Byte → Nat → Nat
  | 0, _, h => h
  | n + 1, bs, h =>
    if 8 ≤ bs.length then xtail n (bs.drop 8) (w64 (rotl (h ^^^ xround 0 (ofLe (bs.take 8))) 27 * p1 + p4))
    else if 4 ≤ bs.length then xtail n (bs.drop 4) (w64 (rotl (h ^^^ w64 (ofLe (bs.take 4) * p1)) 23 * p2 + p3))
    else match bs with
      | [] => h
      | b :: r => xtail n r (w64 (rotl (h ^^^ w64 (b.toNat * p5)) 11 * p1))

def xxh64 (bs : List Byte) : Nat :=
  let ((a, b, c, d), r) := stripes bs.length bs (w64 (p1 + p2), p2, 0, w64 (2 ^ 64 - p1))
  let h :=
    if bs.length < 32 then p5
    else
      let h := w64 (rotl a 1 + rotl b 7 + rotl c 12 + rotl d 18)
      [a, b, c, d].foldl (fun h v => w64 ((h ^^^ xround 0 v) * p1 + p4)) h
  let h := xtail bs.length r (w64 (h + bs.length))
  let h := w64 ((h ^^^ h / 2 ^ 33) * p2)
  let h := w64 ((h ^^^ h / 2 ^ 29) * p3)
  h ^^^ h / 2 ^ 32

/-! ### Bit streams read from their end -/

/-- A stream as a number, and how many bits are left below the final one bit. A negative count is an over-read. -/
structure Back where
  n : Nat
  left : Int
  deriving DecidableEq, Repr

/-- A stream from its bytes; the last must not be zero. -/
def Back.of (bs : List Byte) : Option Back :=
  match bs.getLast? with
  | none => none
  | some b => if b = 0 then none else some ⟨ofLe bs, ((Nat.log2 (ofLe bs) : Nat) : Int)⟩

/-- `k` bits from the top; beyond the start they are zero. -/
def Back.take (b : Back) (k : Nat) : Nat × Back :=
  let l := b.left - k
  let x := if 0 ≤ l then b.n / 2 ^ l.toNat else b.n * 2 ^ (-l).toNat
  (x % 2 ^ k, { b with left := l })

/-! ### FSE (RFC 8878, 4.1) -/

/-- One state of a decoding table: symbol, bits to read, baseline. -/
structure Cell where
  sym : Nat
  bits : Nat
  base : Nat
  deriving DecidableEq, Repr

structure Fse where
  log : Nat
  cells : List Cell
  deriving DecidableEq, Repr

/-- The next position of the spread. -/
def nextPos (size high : Nat) : Nat → Nat → Nat
  | 0, p => p
  | n + 1, p =>
    let q := (p + size / 2 + size / 8 + 3) % size
    if high ≤ q then nextPos size high n q else q

/-- A table entry set. -/
def putAt (xs : List Nat) (i x : Nat) : List Nat := modifyAt (fun _ => x) i xs

/-- The decoding table of a distribution; a count of −1 takes one cell at the end. -/
def buildFse (log : Nat) (dist : List Int) : Fse :=
  let size := 2 ^ log
  let low := (dist.zipIdx.filter fun (c, _) => c == -1).map Prod.snd
  let high := size - low.length
  let syms := (low.zipIdx).foldl (fun t (s, i) => putAt t (size - 1 - i) s) (List.replicate size 0)
  let spread := dist.zipIdx.foldl (fun (tp : List Nat × Nat) (c, s) =>
    (List.range c.toNat).foldl (fun (t, p) _ => (putAt t p s, nextPos size high size p)) tp) (syms, 0)
  let start := dist.map fun c => if c = -1 then 1 else c.toNat
  let cells := spread.1.foldl (fun (acc : List Cell × List Nat) s =>
    let next := acc.2.getD s 1
    let nb := log - Nat.log2 next
    (⟨s, nb, next * 2 ^ nb - size⟩ :: acc.1, putAt acc.2 s (next + 1))) ([], start)
  ⟨log, cells.1.reverse⟩

def Fse.cell (t : Fse) (st : Nat) : Cell := t.cells.getD st ⟨0, 0, 0⟩

/-- A state moved on. -/
def Fse.next (t : Fse) (st : Nat) (b : Back) : Nat × Back :=
  let c := t.cell st
  let (x, b) := b.take c.bits
  (c.base + x, b)

/-- The zeros after a zero probability. -/
def zeroRun : Nat → Dec Nat
  | 0 => pure 0
  | n + 1 => do let r ← Dec.bits 2; if r = 3 then do let m ← zeroRun n; pure (3 + m) else pure r

/-- Probabilities until they add up (RFC 8878, 4.1.1). -/
def probs (maxSym : Nat) : Nat → Nat → List Int → Dec (List Int)
  | 0, _, ps => pure ps
  | n + 1, remaining, ps => do
    if remaining = 0 then pure ps
    else if maxSym < ps.length then Dec.bad .badBlock
    else
      let k := Nat.log2 (remaining + 1) + 1
      let x ← Dec.bits (k - 1)
      let thr := 2 ^ k - 1 - (remaining + 1)
      let v ← if x < thr then pure x else do
        let t ← Dec.bit
        let y := x + 2 ^ (k - 1) * t
        pure (if 2 ^ (k - 1) - 1 < y then y - thr else y)
      let p : Int := (v : Int) - 1
      let used := if p = -1 then 1 else p.toNat
      if remaining < used then Dec.bad .badBlock
      else if p = 0 then do
        let z ← zeroRun 128
        probs maxSym n remaining (ps ++ List.replicate (z + 1) 0)
      else probs maxSym n (remaining - used) (ps ++ [p])

/-- A table description: an accuracy log up to `maxLog`, the probabilities, then the rest of its last byte. -/
def fseTable (maxLog maxSym : Nat) : Dec Fse := do
  let al := 5 + (← Dec.bits 4)
  if maxLog < al then Dec.bad .badBlock
  else
    let ps ← probs maxSym 512 (2 ^ al) []
    if maxSym + 1 < ps.length then Dec.bad .badBlock
    else do Dec.align; pure (buildFse al ps)

/-! ### Huffman (RFC 8878, 4.2) -/

/-- A table: the most bits of a code, and (bits, code, symbol). -/
structure Huf where
  maxBits : Nat
  codes : List (Nat × Nat × Nat)
  deriving DecidableEq, Repr

/-- Codes from weights: the last weight completes the sum to a power of two. -/
def hufOf (ws : List Nat) : Option Huf :=
  let sum := (ws.map fun w => if w = 0 then 0 else 2 ^ (w - 1)).sum
  if sum = 0 then none
  else
    let maxBits := Nat.log2 sum + 1
    let left := 2 ^ maxBits - sum
    if 11 < maxBits || left ≠ 2 ^ Nat.log2 left then none
    else
      let ws := ws ++ [Nat.log2 left + 1]
      let go := (List.range maxBits).foldl (fun (acc : List (Nat × Nat × Nat) × Nat) i =>
        let w := i + 1
        let cs := (ws.zipIdx.filter fun (x, _) => x == w).map Prod.snd
        (acc.1 ++ cs.zipIdx.map fun (s, j) => (maxBits + 1 - w, (acc.2 + j * 2 ^ (w - 1)) / 2 ^ (w - 1), s),
         acc.2 + cs.length * 2 ^ (w - 1))) ([], 0)
      some ⟨maxBits, go.1⟩

/-- Weights from two interleaved states, until the stream is over-read. -/
def weights (t : Fse) : Nat → Nat → Nat → Back → List Nat → List Nat
  | 0, _, _, _, ws => ws
  | n + 1, a, b, s, ws =>
    let ws := ws ++ [(t.cell a).sym]
    let (a', s) := t.next a s
    if s.left < 0 then ws ++ [(t.cell b).sym] else weights t n b a' s ws

/-- A Huffman tree description, and the bytes after it. -/
def hufTree (bs : List Byte) : Option (Huf × List Byte) :=
  match bs with
  | [] => none
  | h :: r =>
    let h := h.toNat
    if 128 ≤ h then
      let n := h - 127
      let k := (n + 1) / 2
      if r.length < k then none
      else (hufOf ((List.range n).map fun i => (r.getD (i / 2) 0).toNat / (if i % 2 = 0 then 16 else 1) % 16)).map fun t => (t, r.drop k)
    else if r.length < h then none
    else
      let (e, s) := ((fseTable 6 255).run.run { rest := r.take h } : Except RdErr Fse × Rd)
      match e, Back.of s.rest with
      | .ok t, some b =>
        let (x, b) := b.take t.log
        let (y, b) := b.take t.log
        if b.left < 0 then none else (hufOf (weights t 256 x y b [])).map fun u => (u, r.drop h)
      | _, _ => none

/-- One symbol of a stream. -/
def hufSym (t : Huf) : Nat → Nat → Nat → Back → Option (Byte × Back)
  | 0, _, _, _ => none
  | n + 1, len, code, b =>
    let (x, b) := b.take 1
    let code := 2 * code + x
    match t.codes.find? fun (l, c, _) => l == len && c == code with
    | some (_, _, s) => some (BitVec.ofNat 8 s, b)
    | none => hufSym t n (len + 1) code b

/-- `n` symbols, which use the stream up exactly. -/
def hufStream (t : Huf) : Nat → Back → Option (List Byte)
  | 0, b => if b.left = 0 then some [] else none
  | n + 1, b =>
    match hufSym t t.maxBits 1 0 b with
    | none => none
    | some (x, b) => if b.left < 0 then none else (hufStream t n b).map fun r => x :: r

/-- The literals of one or four streams. -/
def hufLiterals (t : Huf) (bs : List Byte) (regen streams : Nat) : Option (List Byte) :=
  if streams = 1 then (Back.of bs).bind (hufStream t regen)
  else
    let at_ := fun i => ofLe ((bs.drop (2 * i)).take 2)
    let body := bs.drop 6
    let each := (regen + 3) / 4
    if bs.length < 6 || body.length < at_ 0 + at_ 1 + at_ 2 || regen < 3 * each then none
    else
      let part := fun (from_ n : Nat) => (body.drop from_).take n
      let o3 := at_ 0 + at_ 1 + at_ 2
      let ps := [(part 0 (at_ 0), each), (part (at_ 0) (at_ 1), each), (part (at_ 0 + at_ 1) (at_ 2), each),
        (body.drop o3, regen - 3 * each)]
      let rs := ps.map fun (b, n) => (Back.of b).bind (hufStream t n)
      if rs.all Option.isSome then some ((rs.filterMap id).flatten) else none

/-! ### Sequences (RFC 8878, 3.1.1.3.2) -/

def llDefault : List Int := [4, 3, 2, 2, 2, 2, 2, 2, 2, 2, 2, 2, 2, 1, 1, 1, 2, 2, 2, 2, 2, 2, 2, 2, 2, 3, 2, 1, 1, 1, 1, 1, -1, -1, -1, -1]
def mlDefault : List Int :=
  [1, 4, 3, 2, 2, 2, 2, 2, 2] ++ List.replicate 37 1 ++ List.replicate 7 (-1)
def ofDefault : List Int := List.replicate 6 1 ++ [2, 2, 2] ++ List.replicate 15 1 ++ List.replicate 5 (-1)

/-- Baseline and extra bits of a literals-length code. -/
def llCode (c : Nat) : Nat × Nat :=
  if c < 16 then (c, 0)
  else [(16, 1), (18, 1), (20, 1), (22, 1), (24, 2), (28, 2), (32, 3), (40, 3), (48, 4), (64, 6), (128, 7), (256, 8), (512, 9),
    (1024, 10), (2048, 11), (4096, 12), (8192, 13), (16384, 14), (32768, 15), (65536, 16)].getD (c - 16) (0, 0)

/-- Baseline and extra bits of a match-length code. -/
def mlCode (c : Nat) : Nat × Nat :=
  if c < 32 then (c + 3, 0)
  else [(35, 1), (37, 1), (39, 1), (41, 1), (43, 2), (47, 2), (51, 3), (59, 3), (67, 4), (83, 4), (99, 5), (131, 7), (259, 8),
    (515, 9), (1027, 10), (2051, 11), (4099, 12), (8195, 13), (16387, 14), (32771, 15), (65539, 16)].getD (c - 32) (0, 0)

/-- What a frame carries from block to block. -/
structure Ctx where
  huf : Option Huf := none
  ll : Option Fse := none
  off : Option Fse := none
  ml : Option Fse := none
  reps : Nat × Nat × Nat := (1, 4, 8)
  deriving DecidableEq, Repr

/-- A sequence: literals, offset value, match length. -/
structure Seq where
  ll : Nat
  off : Nat
  ml : Nat
  deriving DecidableEq, Repr

/-- `n` sequences. -/
def seqs (l o m : Fse) : Nat → Nat → Nat → Nat → Back → Option (List Seq)
  | 0, _, _, _, b => if b.left = 0 then some [] else none
  | n + 1, sl, so, sm, b =>
    let oc := (o.cell so).sym
    let (lb, lx) := llCode (l.cell sl).sym
    let (mb, mx) := mlCode (m.cell sm).sym
    let (ox, b) := b.take oc
    let (my, b) := b.take mx
    let (ly, b) := b.take lx
    let s : Seq := ⟨lb + ly, 2 ^ oc + ox, mb + my⟩
    if b.left < 0 then none
    else if n = 0 then if b.left = 0 then some [s] else none
    else
      let (sl, b) := l.next sl b
      let (sm, b) := m.next sm b
      let (so, b) := o.next so b
      if b.left < 0 then none else (seqs l o m n sl so sm b).map fun r => s :: r

/-- One table by its mode: predefined, one symbol, described, or the one before. -/
def seqTable (mode defLog maxLog maxSym : Nat) (dflt : List Int) (prev : Option Fse) : Dec (Option Fse) := do
  if mode = 0 then pure (some (buildFse defLog dflt))
  else if mode = 1 then
    let s ← Dec.byte
    if maxSym < s then Dec.bad .badBlock else pure (some ⟨0, [⟨s, 0, 0⟩]⟩)
  else if mode = 2 then do let t ← fseTable maxLog maxSym; pure (some t)
  else pure prev

/-- The distance a sequence means, and the repeat offsets after it. -/
def realOffset (reps : Nat × Nat × Nat) (off ll : Nat) : Nat × (Nat × Nat × Nat) :=
  let (a, b, c) := reps
  if 3 < off then (off - 3, (off - 3, a, b))
  else
    let i := if ll = 0 then off + 1 else off
    if i = 1 then (a, reps) else if i = 2 then (b, (b, a, c)) else if i = 3 then (c, (c, a, b)) else (a - 1, (a - 1, a, b))

/-- Sequences carried out. `base`: output before the frame. -/
def runSeqs (base window off : Nat) : List Seq → List Byte → Nat × Nat × Nat → Dec (List Byte × (Nat × Nat × Nat))
  | [], lits, reps => pure (lits, reps)
  | q :: r, lits, reps => do
    if lits.length < q.ll then throw (.bad .badBlock off)
    else
      (lits.take q.ll).forM fun b => Dec.emit b off
      let (d, reps) := realOffset reps q.off q.ll
      let s ← get
      if d = 0 then throw (.bad .badBlock off)
      else if s.len < base + d || window < d then throw (.bad .badDistance off)
      else do Dec.copyBack d off q.ml; runSeqs base window off r (lits.drop q.ll) reps

/-! ### Blocks and frames -/

/-- The literals section: the literals, the tree that stays, and how many bytes it took. -/
def literals (bs : List Byte) (prev : Option Huf) : Option (List Byte × Option Huf × Nat) :=
  let h := ofLe (bs.take 5)
  let kind := h % 4
  let sf := h / 4 % 4
  if kind ≤ 1 then
    let (n, size) := if sf % 2 = 0 then (1, h % 256 / 8) else if sf = 1 then (2, h % 65536 / 16) else (3, h % 2 ^ 24 / 16)
    let body := bs.drop n
    if bs.length < n then none
    else if kind = 0 then if body.length < size then none else some (body.take size, prev, n + size)
    else match body with
      | [] => none
      | b :: _ => some (List.replicate size b, prev, n + 1)
  else
    let (n, w) := if sf ≤ 1 then (3, 10) else if sf = 2 then (4, 14) else (5, 18)
    let regen := h / 16 % 2 ^ w
    let comp := h / 2 ^ (4 + w) % 2 ^ w
    let body := (bs.drop n).take comp
    if (bs.drop n).length < comp then none
    else
      let tree := if kind = 2 then hufTree body else prev.map fun t => (t, body)
      match tree with
      | none => none
      | some (t, rest) => (hufLiterals t rest regen (if sf = 0 then 1 else 4)).map fun ls => (ls, some t, n + comp)

/-- A compressed block of some bytes at an input offset. -/
def compressed (base window off : Nat) (bs : List Byte) (c : Ctx) : Dec Ctx := do
  match literals bs c.huf with
  | none => throw (.bad .badBlock off)
  | some (lits, huf, n) =>
    let s ← get
    let head : Dec (Nat × Option Fse × Option Fse × Option Fse) := do
      let b0 ← Dec.byte
      let k ← if b0 < 128 then pure b0 else if b0 < 255 then do let b1 ← Dec.byte; pure ((b0 - 128) * 256 + b1) else do
        let x ← Dec.le 2; pure (x + 0x7F00)
      if k = 0 then pure (0, c.ll, c.off, c.ml)
      else
        let m ← Dec.byte
        if m % 4 ≠ 0 then Dec.bad .badBlock
        else
          let l ← seqTable (m / 64) 6 9 35 llDefault c.ll
          let o ← seqTable (m / 16 % 4) 5 8 31 ofDefault c.off
          let t ← seqTable (m / 4 % 4) 6 9 52 mlDefault c.ml
          pure (k, l, o, t)
    let (e, q) := (head.run.run { rest := bs.drop n } : Except RdErr _ × Rd)
    let q : Rd := q
    match e with
    | .error _ => throw (.bad .badBlock off)
    | .ok (0, _, _, _) =>
      if q.rest ≠ [] || min window (128 * 1024) < lits.length then throw (.bad .badBlock off)
      else do lits.forM fun b => Dec.emit b off; pure { c with huf := huf }
    | .ok (k, some l, some o, some m) =>
      match Back.of q.rest with
      | none => throw (.bad .badBlock off)
      | some b =>
        let (sl, b) := b.take l.log
        let (so, b) := b.take o.log
        let (sm, b) := b.take m.log
        match seqs l o m k sl so sm b with
        | none => throw (.bad .badBlock off)
        | some qs =>
          let (left, reps) ← runSeqs base window off qs lits c.reps
          left.forM fun b => Dec.emit b off
          let t ← get
          if min window (128 * 1024) < t.len - s.len then throw (.bad .badBlock off)
          else pure { huf := huf, ll := some l, off := some o, ml := some m, reps := reps }
    | .ok _ => throw (.bad .badBlock off)

/-- The blocks of a frame. -/
def blocks (base window : Nat) : Nat → Ctx → Dec Unit
  | 0, _ => pure ()
  | n + 1, c => do
    let s ← get
    let h ← Dec.le 3
    let kind := h / 2 % 4
    let size := h / 8
    if kind = 3 || min window (128 * 1024) < size then Dec.bad .badBlock
    else
      let c ←
        if kind = 0 then do
          let bs ← Dec.bytes size
          (bs.zipIdx (s.pos + 3)).forM fun (b, i) => Dec.emit b i
          pure c
        else if kind = 1 then do
          let b ← Dec.byte
          (List.replicate size (BitVec.ofNat 8 b)).forM fun b => Dec.emit b (s.pos + 3)
          pure c
        else do let bs ← Dec.bytes size; compressed base window s.pos bs c
      if h % 2 = 1 then pure () else blocks base window n c

/-- The magic numbers. -/
def magic : Nat := 0xFD2FB528
def isSkippable (m : Nat) : Bool := m / 16 == 0x184D2A5

/-- A frame after its magic number. -/
def frame (wlog : Nat) : Dec Unit := do
  let s ← get
  let d ← Dec.byte
  if bitOf d 3 then Dec.bad .badHeader
  else
    let single := bitOf d 5
    let wd ← if single then pure 0 else Dec.byte
    let id ← Dec.le ([0, 1, 2, 4].getD (d % 4) 0)
    if id ≠ 0 then Dec.bad .unsupported
    else
      let flag := d / 64
      let fcsBytes := if flag = 0 then natOf single else 2 ^ flag
      let fcs ← Dec.le fcsBytes
      let fcs := if flag = 1 then fcs + 256 else fcs
      let wbase := 2 ^ (10 + wd / 8)
      let window := if single then fcs else wbase + wbase / 8 * (wd % 8)
      if 2 ^ wlog < window then Dec.bad .window
      else
        blocks s.len window (s.rest.length + 1) {}
        let t ← get
        let bs := ((t.out.take (t.len - s.len)).map Prod.fst).reverse
        if fcsBytes ≠ 0 && fcs ≠ bs.length then throw (.bad .checksum t.pos)
        else if bitOf d 2 then Dec.check (Dec.le 4) (xxh64 bs % 2 ^ 32)
        else pure ()

/-- Frames in order; a further frame begins where a magic number stands. -/
def frames (wlog : Nat) : Nat → Bool → Dec Unit
  | 0, _ => pure ()
  | n + 1, first => do
    let s ← get
    let m := ofLe (s.rest.take 4)
    if s.rest = [] && !first then pure ()
    else
      let short := s.rest.length < 4
      let pre := fun (x : Nat) => leBytes s.rest.length x == s.rest
      let could := pre magic || (List.range 16).any fun i => pre (0x184D2A50 + i)
      if short && could then throw .eof
      else if !short && m = magic then do let _ ← Dec.le 4; frame wlog; frames wlog n false
      else if !short && isSkippable m then do
        let _ ← Dec.le 4
        let k ← Dec.le 4
        let _ ← Dec.bytes k
        frames wlog n false
      else throw (.bad (if first then .badHeader else .trailing) s.pos)

end Sys2Proof.Machine.Zst
end

