-- ==== Sys2Proof/Machine/Engines.lean ====
section
/-! DEFINITION. The running of text-engine jobs (R137 to R144): the checks of a descriptor, a job's accesses, its rings,
what it makes of its input, failing and quarantine, and the three events that move jobs. -/

namespace Sys2Proof.Machine

/-! ### The descriptor (R140, Table 7.3) -/

/-- The ring a side names: none for memory. Its code is that of the ring instructions (R191). -/
def ringOfByte (b : Nat) : Option Nat := if bitOf b 7 then some (b % 64 + if bitOf b 6 then 0 else 64) else none

/-- INRING or OUTRING is a code that exists. -/
def ringByteOk (b : Nat) : Bool := if bitOf b 7 then !bitOf b 6 || b % 64 < 32 else b == 0

/-- The opcode and descriptor of a job; none for a Mortise job. -/
def Job.desc? (j : Job) : Option (Nat × List Byte) := match j.work with | .desc op d _ _ _ => some (op, d) | _ => none

def Job.op (j : Job) : Nat := j.desc?.elim 0 Prod.fst
def Job.d (j : Job) : List Byte := j.desc?.elim [] Prod.snd
def Job.inRing (j : Job) : Option Nat := ringOfByte (fld j.d 9 1)
def Job.outRing (j : Job) : Option Nat := ringOfByte (fld j.d 10 1)
def Job.inCap (j : Job) : Cap := match j.work with | .desc _ _ c _ _ => c | _ => Cap.null
def Job.outCap (j : Job) : Cap := match j.work with | .desc _ _ _ c _ => c | _ => Cap.null
def Job.tabCap (j : Job) : Cap := match j.work with | .desc _ _ _ _ c => c | _ => Cap.null

/-- INFL, XCOD, TOKZ and DTOK use rings and quarantine (R143). -/
def Job.ingest (j : Job) : Bool := 0xD0 ≤ j.op && j.op ≤ 0xD3

/-- A side's offset, length and register fields. -/
def sideOk (k off len : Nat) (ring : Bool) : Bool :=
  k / 32 == 0 && (if ring then off == 0 && len == 0 else len < 2 ^ 32 && (len == 0 || k != 0))

/-- A parameter byte of the descriptor. -/
def par (d : List Byte) (o : Nat) : Nat := fld d o 1

/-- The parameters of each engine (Tables 7.7, 7.8, R149, R158, R160, R161). -/
def paramsOk (op : Nat) (d : List Byte) : Bool :=
  let reg := fun (o : Nat) => par d o / 32 == 0 && par d o != 0
  let inlen := fld d 24 8
  let outlen := fld d 40 8
  if op = 0xD0 then
    par d 48 ≤ 4 && par d 49 / 8 == 0 && par d 49 % 4 ≤ 2 && 10 ≤ par d 50 && par d 50 ≤ 23 && allZero d 51 13
  else if op = 0xD1 then
    let cs := par d 48
    cs ≤ 26 && cs != 14 && cs != 24 && par d 49 ≤ 3 && (if 25 ≤ cs then reg 50 else par d 50 == 0) && allZero d 51 5
  else if op ≤ 0xD3 then reg 48 && allZero d 49 7
  else
    reg 48 && allZero d 50 6 && (op == 0xDC || op == 0xDD || par d 49 == 0) && par d 9 == 0 && par d 10 == 0 &&
      (op != 0xDD || inlen == 0) && (op != 0xDE || outlen == 32)

/-- Every static check of R140. -/
def descOk (op : Nat) (d : List Byte) : Bool :=
  ringByteOk (par d 9) && ringByteOk (par d 10) && allZero d 12 4 &&
    sideOk (par d 8) (fld d 16 8) (fld d 24 8) (bitOf (par d 9) 7) &&
    sideOk (par d 11) (fld d 32 8) (fld d 40 8) (bitOf (par d 10) 7) && paramsOk op d

/-- A named ring is bound by the job's context, with slots an engine can use. -/
def State.jobRing (s : State) (j : Job) (code : Nat) : Option Ring :=
  (s.ring? j.bay code).filter fun r => r.ctx == j.ctx && 2 ≤ r.size8

/-- The start checks of R140. -/
def startOk (s : State) (j : Job) : Bool :=
  let side := fun (c : Option Nat) => match c with | some c => (s.jobRing j c).isSome | none => true
  descOk j.op j.d && side j.inRing && side j.outRing

/-! ### What a job makes of its input -/

/-- The reads of a job as its transform sees them. -/
def Job.oracle (j : Job) : Oracle := fun which off n =>
  match j.cache.find? fun (k, _) => k == (which, off, n) with
  | none => .need
  | some (_, none) => .bad
  | some (_, some bs) => .ok bs

/-- Decompression (R145). -/
def inflateStage (fmt wlog : Nat) (inp : List Byte) (last : Bool) : Stage :=
  let fuel := inp.length + 1
  if fmt = 0 then readStage (do let _ ← Dec.deflate wlog) inp last
  else if fmt = 1 then readStage (Dec.zlib wlog) inp last
  else if fmt = 2 then readStage (Dec.gzip wlog fuel) inp last
  else readStage (Zst.frames wlog fuel true) inp last

/-- `INFL` (R145, R146). -/
def inflTx (d : List Byte) (inp : List Byte) (last : Bool) : Tx :=
  let fmt := par d 48
  let te := par d 49 % 4
  let dec := inflateStage fmt (par d 50)
  let tes := if te = 1 then b64Stage else qpStage
  let (st, mid) :=
    if fmt = 4 then (if te = 0 then passStage inp last else tes inp last, false)
    else if te = 0 then (dec inp last, false)
    else if bitOf (par d 49) 2 then chain (dec inp last) tes
    else chain (tes inp last) dec
  { out := st.out, st := st.st, res := st.out.length + 2 ^ 32 * min st.cnt 0xFFFF, mid := mid }

/-- `XCOD` (R147, R148): a read of the table is by the offset within it. -/
def xcodTx (q : Oracle) (d : List Byte) (inp : List Byte) (last : Bool) : Tx :=
  let toff := fld d 56 8
  let tab : TableRd := fun o => match q 0 (toff + o) 4 with | .ok bs => some (ofLe bs) | _ => none
  let st := xcodStage (par d 48) (bitOf (par d 49) 0) (bitOf (par d 49) 1) tab inp last
  let e := match st.st with
    | .read w o n p => match q w (toff + o) n with | .bad => .fail .capFault p | _ => .read w (toff + o) n p
    | e => e
  { out := st.out, st := e, res := st.out.length + 2 ^ 32 * min st.cnt 0xFFFF }

/-- The reason with a code. -/
def reasonOf (n : Nat) : Reason := if n = 1 then .descBad else if n = 3 then .upstream else .capFault

/-- A descriptor job's transform of the input it has. -/
def Job.tx (j : Job) : Tx :=
  let q := j.oracle
  let d := j.d
  let last := j.lastIn && j.badIn.isNone
  let voff := fld d 56 8
  let inlen := fld d 24 8
  let outlen := fld d 40 8
  if j.op = 0xD0 then inflTx d j.input last
  else if j.op = 0xD1 then xcodTx q d j.input last
  else if j.op = 0xD2 then tokzTx q voff j.input last
  else if j.op = 0xD3 then dtokTx q voff j.input last
  else if j.op = 0xDB then sfcompTx q voff inlen outlen j.input last
  else if j.op = 0xDC then sfscanTx q voff inlen outlen (par d 49) j.input
  else if j.op = 0xDD then sfmaskTx q voff outlen (par d 49)
  else sfstopTx q voff (fld d 32 8) j.input last (j.badIn.map fun x => reasonOf x.1)

/-! ### Accesses of a job (R139) -/

/-- What one access comes to. -/
inductive Acd where
  | ok (s : State) (m : PMap)
  | absent (p : Absent)
  | bad (s : State) (val : Nat)
  deriving DecidableEq, Repr

/-- A frame that reads memory as an engine does: no buffer (R139). -/
def noFrame : Frame := { fid := 0, lid := 0 }
def noLaunch : Launch := { lid := 0, prog := 0 }
def noWarp : Warp := { idx := 0, core := 0, part := 0, slot := 0 }

/-- An access of `n` bytes through a reference; a scratchpad reference is one of frame `fid`. A byte whose page a
response with STATUS 1 refused fails (R319). -/
def jobAccess (s : State) (j : Job) (fid : Nat) (r : MemRef) (n : Nat) (acc : Acc) : Acd :=
  let f := (s.frame? fid).getD noFrame
  let l := (s.launch? f.lid).getD noLaunch
  match j.deny.filter fun v => r.off ≤ v && v < r.off + n with
  | some v => .bad s v
  | none =>
    match (Xst.mk s noWarp).range .agent f l r n (trussUse acc) with
    | (x, .ok m) => .ok x.s m
    | (_, .absent ps) => .absent (ps.headD ⟨0, false, 0, false⟩)
    | (x, .trap _ v) => .bad x.s v
    | (x, .hold _) => .bad x.s r.off

/-- The index of the first byte of a checked read that lies on a line whose check fails, and its address. -/
def badByte (s : State) (r : MemRef) (n : Nat) (m : PMap) : Option (Nat × Nat) :=
  let as := s.physRead r n m
  (s.firstBad as).map fun (i, a) => (i / max 1 (as.length / max 1 n), a)

/-- The bytes of a checked plain read of a job (R139): each 32-bit word is as memory is, or as it was when the instruction
issued (DESIGN CHOICE, log 50). Also the first byte on a line whose check fails. -/
def jobBytes (s : State) (j : Job) (r : MemRef) (n : Nat) (m : PMap) : List Byte × Option (Nat × Nat) :=
  let now := s.fetch noFrame r n m
  let old := ({ s with mem := j.old }).fetch noFrame r n m
  let step := j.cache.length + j.at_
  let pick (i : Nat) (b : Byte) : Byte := if Config.readsOld j.opId step ((r.cap.base + r.off + i) / 4) then old.getD i b else b
  (now.mapIdx pick, badByte s r n m)

/-- Bytes written at physical addresses. -/
def State.wrAt (s : State) (as : List Nat) (bs : List Byte) : State := (s.setMem (writeCells s.mem (as.zip bs))).heal as

/-- Bytes a job writes: stores that its warp issued before it to the same bytes come first (R205). -/
def State.jobWrites (s : State) (j : Job) (r : MemRef) (m : PMap) (bs : List Byte) : State :=
  let as := s.physOf r bs.length m
  (s.performOlder ⟨j.fid, j.widx⟩ j.opId as false).wrAt as bs

/-- How a job goes on after one piece of work. -/
inductive Tick where
  | go (s : State) (j : Job)
  | stop (s : State) (j : Job)
  deriving DecidableEq, Repr

/-- The job pauses at an absent page (R139, R319). -/
def pauseJob (s : State) (j : Job) (p : Absent) (pc : Nat) : Tick :=
  .stop (askJob s (.job j.opId) j.ctx pc p) { j with phase := .paused }

/-- Bytes of a table, image, log or record read into the cache. -/
def readPiece (s : State) (j : Job) (cap : Cap) (which off n : Nat) : Tick :=
  let r : MemRef := { cap := cap, off := off }
  let note (x : Option (List Byte)) : Job := { j with cache := ((which, off, n), x) :: j.cache }
  match jobAccess s j 0 r n .r with
  | .absent p => pauseJob s j p j.pc
  | .bad s _ => .go s (note none)
  | .ok s m =>
    match jobBytes s j r n m with
    | (_, some (_, a)) => .go (s.lineError a 4) (note none)
    | (bs, none) => .go s (note (some bs))

/-- The next bytes of a memory input: to the end of a page, and no further than the first that fails. -/
def takeMemory (s : State) (j : Job) (n : Nat) : Tick :=
  let at_ := fld j.d 16 8 + j.input.length
  let r : MemRef := { cap := j.inCap, off := at_ }
  let total := fld j.d 24 8
  let take (s : State) (bs : List Byte) : Tick :=
    .go s { j with input := j.input ++ bs, lastIn := decide (total ≤ j.input.length + bs.length) }
  let stopAt (s : State) : Tick := .go s { j with badIn := some (2, j.input.length), lastIn := true }
  match jobAccess s j 0 r n .r with
  | .absent p => pauseJob s j p j.pc
  | .bad s v =>
    if at_ < v && v < at_ + n then
      match jobAccess s j 0 r (v - at_) .r with
      | .ok s m => match jobBytes s j r (v - at_) m with
        | (bs, none) => take s bs
        | (bs, some (i, a)) => if i = 0 then stopAt (s.lineError a 4) else take s (bs.take i)
      | .absent p => pauseJob s j p j.pc
      | .bad s _ => stopAt s
    else stopAt s
  | .ok s m => match jobBytes s j r n m with
    | (bs, none) => take s bs
    | (bs, some (i, a)) => if i = 0 then stopAt (s.lineError a 4) else take s (bs.take i)

/-! ### Rings of a job (R141) -/

def Ring.size (r : Ring) : Nat := 8 * r.size8
def Ring.payload (r : Ring) : Nat := r.size - 8

/-- The slot of a sequence. -/
def Ring.slot (r : Ring) (q : Nat) : MemRef :=
  match r.cap with
  | some c => { cap := c, off := r.slotOff q }
  | none => { scr := true, off := r.slotOff q }

/-- A slot taken and released. -/
def Ring.takeRelease (r : Ring) : Ring :=
  let t := { r with tk := (r.tk + 1) % 2 ^ 32 }
  (t.release r.tk).getD t

/-- A slot reserved and published. -/
def Ring.reservePublish (r : Ring) : Ring :=
  let t := { r with rsv := (r.rsv + 1) % 2 ^ 32 }
  (t.publish r.rsv).getD t

/-- A slot header (Table 7.4). -/
def slotHeader (len jid : Nat) (last poison : Bool) : List Byte :=
  leBytes 8 (len + 2 ^ 32 * (jid % 2 ^ 16) + 2 ^ 48 * natOf poison + 2 ^ 49 * natOf last)

/-- The next slot of the input ring, its header first and then no more of its payload than is wanted (R141): with `skip` none
(R143). A slot whose header cannot be read, its page refused or its line bad, counts as one that is not the last of its
message, and where the capability itself fails the message's end cannot be found (DESIGN CHOICE, log 54). -/
def takeSlot (s : State) (j : Job) (code : Nat) (skip : Bool) : Tick :=
  let bad (k : Nat) : Option (Nat × Nat) := j.badIn.orElse fun _ => some (k, j.input.length)
  match s.jobRing j code with
  | none => .go s { j with badIn := bad 1, lastIn := true }
  | some r =>
    if r.empty then .stop s { j with phase := .waitIn }
    else
      let slot := r.slot r.tk
      let taken (s : State) (j : Job) : Tick := .go (s.setRing j.bay code (some r.takeRelease)) j
      match jobAccess s j r.fid slot 8 .r with
      | .absent p => pauseJob s j p j.pc
      | .bad s _ => if j.deny.isSome then taken s { j with badIn := bad 2 } else .go s { j with badIn := bad 2, lastIn := true }
      | .ok s m =>
        match badByte s slot 8 m with
        | some (_, a) => taken (s.lineError a 4) { j with badIn := bad 2 }
        | none =>
          let h := ofLe (s.fetch noFrame slot 8 m)
          let len := h % 2 ^ 32
          let j := { j with lastIn := bitOf h 49 }
          if skip then taken s j
          else if bits h 63 50 ≠ 0 || r.payload < len then taken s { j with badIn := bad 1 }
          else if bitOf h 48 then taken s { j with badIn := bad 3 }
          else
            let body := { slot with off := slot.off + 8 }
            match jobAccess s j r.fid body len .r with
            | .absent p => pauseJob s { j with lastIn := false } p j.pc
            | .bad s _ => taken s { j with badIn := bad 2 }
            | .ok s m =>
              match badByte s body len m with
              | some (_, a) => taken (s.lineError a 4) { j with badIn := bad 2 }
              | none => taken s { j with input := j.input ++ s.fetch noFrame body len m }

/-- A job's failure noted. -/
def Job.fails (j : Job) (reason off : Nat) (mid : Bool) (part bytes : Nat) : Job :=
  { j with err := some { reason := reason, off := off, stage := natOf mid, part := part, bytes := bytes } }

/-- One slot of output published; `bad` goes on where the slot cannot be written. -/
def putSlot (s : State) (j : Job) (code : Nat) (payload : List Byte) (last poison : Bool) (bad : State → Nat → Tick) : Tick :=
  match s.jobRing j code with
  | none => bad s 1
  | some r =>
    if r.full then .stop s { j with phase := .waitOut }
    else
      let slot := r.slot r.rsv
      match jobAccess s j r.fid slot (8 + payload.length) .w with
      | .absent p => pauseJob s j p j.pc
      | .bad s _ => bad s 2
      | .ok s m =>
        let bs := slotHeader payload.length j.jid last poison ++ payload
        let s := s.jobWrites j slot m bs
        .go (s.setRing j.bay code (some r.reservePublish)) { j with sent := j.sent + payload.length, lastOut := last }

/-! ### Output -/

/-- Output bytes per unit counted: an ID of `TOKZ` is 4 (R143). -/
def Job.unit (j : Job) : Nat := if j.op = 0xD2 then 4 else 1

/-- The output bytes a memory output takes (R143, OUT_LIMIT). -/
def Job.limit (j : Job) : Option Nat :=
  match j.outRing with
  | some _ => none
  | none => some (fld j.d 40 8 / j.unit * j.unit)

/-- Bytes written to the memory output; a fault further on leaves what precedes it written. -/
def writeOut (s : State) (j : Job) (t : Tx) (bs : List Byte) : Tick :=
  let at_ := fld j.d 32 8 + j.sent
  let r : MemRef := { cap := j.outCap, off := at_ }
  let off := (t.out[j.sent]?).elim j.input.length Prod.snd
  let part := if j.op = 0xDC then j.sent else if j.ingest then j.sent / j.unit else t.part.getD 0
  let fault (s : State) : Tick := .go s (j.fails 2 off false part j.sent)
  let put (s : State) (m : PMap) (bs : List Byte) : State := s.jobWrites j r m bs
  match jobAccess s j 0 r bs.length .w with
  | .absent p => pauseJob s j p j.pc
  | .ok s m => .go (put s m bs) { j with sent := j.sent + bs.length }
  | .bad s v =>
    if at_ < v && v < at_ + bs.length then
      let bs := bs.take (v - at_)
      match jobAccess s j 0 r bs.length .w with
      | .ok s m => .go (put s m bs) { j with sent := j.sent + bs.length }
      | .absent p => pauseJob s j p j.pc
      | .bad s _ => fault s
    else fault s

/-! ### The end of a job -/

/-- The write of the result word (R138). -/
def Job.dWrite (j : Job) (x : W64) : RegWrite := if j.bank then .bankS j.dreg x else .s j.dreg x

/-- A job that has its result. -/
def Job.finished (j : Job) (x : W64) (more : List RegWrite) : Job :=
  { j with phase := .finished, result := x, writes := more ++ [j.dWrite x] }

def Job.succeed (j : Job) (res : Nat) : Job := j.finished (BitVec.ofNat 64 (res % 2 ^ 63)) []

/-- A result word with ERR (R138). -/
def errWord (reason part : Nat) : W64 := BitVec.ofNat 64 (part % 2 ^ 32 + 2 ^ 48 * reason + 2 ^ 63)

def Job.failed (j : Job) (reason part : Nat) : Job := j.finished (errWord reason part) []

/-! ### Report rings in a context's memory (R267, R344) -/

/-- The largest power of two not above `n`; 0 for 0. -/
def powBelow (n : Nat) : Nat := if n = 0 then 0 else 2 ^ n.log2

/-- What an access through a mapping comes to: physical addresses, an absent page, or a fault at an address. -/
inductive VaAcc where
  | ok (s : State) (as : List Nat)
  | absent (p : Absent)
  | fault (s : State) (va : Nat) (cause : Cause)
  deriving DecidableEq, Repr

/-- `n` bytes of a context's address space, translated for nobody's caches (R344). -/
def State.vaRange (s : State) (ctx va n : Nat) (acc : Acc) : VaAcc :=
  match (Xst.mk s noWarp).pages .agent (.va ctx) acc n (fun i => va + i) (pageStarts ((List.range n).map fun i => va + i)) with
  | (x, .ok m) => .ok x.s ((List.range n).map fun i => m.phys (va + i))
  | (_, .absent ps) => .absent (ps.headD ⟨0, false, 0, false⟩)
  | (x, .trap c v) => .fault x.s v c
  | (x, .hold _) => .fault x.s va .perm

/-- The number that bytes at physical addresses make. -/
def State.rdAt (s : State) (as : List Nat) : Nat := ofLe (as.map fun a => readByte s.mem a)

/-- What appending to a report ring comes to. -/
inductive Appended where
  | wrote (s : State)
  | full
  | absent (p : Absent)
  | fault (s : State) (va : Nat) (cause : Cause)
  deriving DecidableEq, Repr

/-- A record appended to a report ring of `n` entries of `size` bytes at an address of a context (R267, R344). -/
def appendVa (s : State) (ctx base size n : Nat) (rec : List Byte) : Appended :=
  match s.vaRange ctx base 16 .w with
  | .absent p => .absent p
  | .fault s va c => .fault s va c
  | .ok s as =>
    let at_ := as.headD 0
    let prod := s.rdAt (as.take 8)
    let cons := s.ringCons at_ prod (s.rdAt (as.drop 8))
    let s := s.noteCons at_ cons
    if (prod + 2 ^ 64 - cons) % 2 ^ 64 = n then .full
    else match s.vaRange ctx (base + 64 + size * (prod % n)) size .w with
      | .absent p => .absent p
      | .fault s va c => .fault s va c
      | .ok s bs => .wrote ((s.wrAt bs rec).wrAt (as.take 8) (leBytes 8 ((prod + 1) % 2 ^ 64)))

/-- REPORT_FAULT (R344): area 0 return ring, 1 quarantine ring, 2 queue memory. -/
def State.reportFault (s : State) (ctx va area : Nat) (cause : Cause) : State :=
  s.errorRecord 11 ctx va (area + 2 ^ 8 * cause.code)

/-- Where a report ring of a context stands: none at all, a ring that counts as full, or a ring: base and entries. -/
inductive RingAt where
  | none
  | full
  | at_ (base n : Nat)
  deriving DecidableEq, Repr

/-- The ring behind a mapping of a context (R253, R255, R267). -/
def State.ringAt (s : State) (ctx : Nat) (m : Option Nat) (size : Nat) : RingAt :=
  match m with
  | none => .none
  | some m =>
    if (s.entry 2 m).st = .draining then .none
    else match s.mapObj m with
      | none => .full
      | some o =>
        if o.ctx ≠ ctx then .full
        else if o.len < 64 + size then .none
        else .at_ o.base (powBelow ((o.len - 64) / size))

/-! ### Failing (R143, R144) -/

/-- A quarantine record (Table 7.6). -/
def quarantineRecord (j : Job) (e : JobErr) : List Byte :=
  recordOf 64 [(0, 8, fld j.d 0 8), (8, 4, j.jid), (12, 1, j.op - 0xD0), (13, 1, e.reason), (14, 1, e.stage), (16, 8, e.off), (24, 8, e.bytes)]

/-- The end of a failed job: its quarantine record first, where it writes one. -/
def endFailed (s : State) (j : Job) (e : JobErr) : Tick :=
  let finish (s : State) : Tick := .stop s (j.failed e.reason e.part)
  if e.reason = 3 then finish s
  else match s.ringAt j.ctx ((s.ctxObj j.ctx).bind CtxObj.quarmap) 64 with
    | .none => finish s
    | .full => .stop s { j with phase := .waitQuar }
    | .at_ base n =>
      match j.deny with
      | some va => finish (s.reportFault j.ctx va 1 .pageAbsent)
      | none =>
        match appendVa s j.ctx base 64 n (quarantineRecord j e) with
        | .wrote s => finish s
        | .full => .stop s { j with phase := .waitQuar }
        | .absent p => pauseJob s j p 0xFFFFFFFF
        | .fault s va c => finish (s.reportFault j.ctx va 1 c)

/-- One piece of the work of a job that fails: full slots, the rest of its message, the poisoned slot, the record. -/
def failTick (s : State) (j : Job) (e : JobErr) : Tick :=
  if !j.ingest then .stop s (j.failed e.reason e.part)
  else
    let unsent := ((j.tx.out.map Prod.fst).take e.bytes).drop j.sent
    let skipRest : Tick :=
      match if j.lastIn then none else j.inRing.filter fun c => (s.jobRing j c).isSome with
      | some c => takeSlot s j c true
      | none =>
        match if j.lastOut then none else j.outRing.filter fun c => (s.jobRing j c).isSome with
        | some c => putSlot s j c [] true true fun s _ => .go s { j with lastOut := true }
        | none => endFailed s j e
    match if j.checked then j.outRing.bind fun c => (s.jobRing j c).map fun r => (c, r.payload) else none with
    | some (c, n) =>
      if n ≤ unsent.length && !j.lastOut then putSlot s j c (unsent.take n) false false fun s _ => .go s { j with lastOut := true }
      else skipRest
    | none => skipRest

/-! ### One piece of a descriptor job's work -/

/-- The next input, or the end of it. -/
def moreInput (s : State) (j : Job) (t : Tx) (bytes : Nat) : Tick :=
  let part := t.part.getD (bytes / j.unit)
  match j.badIn with
  | some (k, off) => .go s (j.fails k off false part bytes)
  | none =>
    if j.lastIn then .go s (j.fails Reason.truncated.code j.input.length t.mid part bytes)
    else match j.inRing with
      | some c => takeSlot s j c false
      | none =>
        let at_ := j.inCap.base + fld j.d 16 8 + j.input.length
        takeMemory s j (min (fld j.d 24 8 - j.input.length) (4096 - at_ % 4096))

/-- What a transform asks for, once its output so far is on its way. -/
def afterOutput (s : State) (j : Job) (t : Tx) (bytes : Nat) : Tick :=
  let part := t.part.getD (bytes / j.unit)
  match t.st with
  | .fail r off => .go s (j.fails r.code off t.mid part bytes)
  | .read which off n _ => readPiece s j (if which = 0 then j.tabCap else j.outCap) which off n
  | .more => moreInput s j t bytes
  | .done =>
    match if j.lastOut then none else j.outRing with
    | none => .stop s (j.succeed t.res)
    | some c =>
      putSlot s j c ((t.out.map Prod.fst).drop j.sent) true false fun s k => .go s (j.fails k j.input.length false part bytes)

/-- One piece of a descriptor job's work: output first, then what the transform asks for. -/
def descTick (s : State) (j : Job) : Tick :=
  let t := j.tx
  let out := t.out.map Prod.fst
  let bytes := match j.limit with | some n => min n out.length | none => out.length
  let unsent := (out.take bytes).drop j.sent
  match j.outRing with
  | none =>
    if unsent ≠ [] then writeOut s j t unsent
    else match t.out[bytes]? with
      | some (_, off) => .go s (j.fails Reason.outLimit.code off false (bytes / j.unit) bytes)
      | none => afterOutput s j t bytes
  | some c =>
    match s.jobRing j c with
    | none => .go s (j.fails 1 j.input.length false (bytes / j.unit) bytes)
    | some r =>
      if r.payload < unsent.length then
        putSlot s j c (unsent.take r.payload) false false fun s k => .go s (j.fails k j.input.length false (bytes / j.unit) bytes)
      else afterOutput s j t bytes

/-! ### Mortise jobs (R152 to R157) -/

/-- A job whose handle is good goes on with it; otherwise HANDLE_BAD. -/
def withHandle (s : State) (j : Job) (v : Nat) (k : Nat → MxHandle → Tick) : Tick :=
  let d := dieOf j.bay
  match (s.die d).named d j.ctx v with
  | none => .stop s (j.failed Reason.handleBad.code 0)
  | some i => k i ((s.die d).handle i)

def State.setHandle (s : State) (j : Job) (i : Nat) (h : MxHandle) : State :=
  s.setDie (dieOf j.bay) ((s.die (dieOf j.bay)).setHandle i h)

/-- A new handle with what it holds. -/
def openHandle (s : State) (j : Job) (h : MxHandle) : Tick :=
  match (s.die (dieOf j.bay)).takeHandle (dieOf j.bay) { h with ctx := j.ctx } with
  | none => .stop s (j.failed Reason.noRoom.code 0)
  | some (d, v) => .stop (s.setDie (dieOf j.bay) d) (j.succeed v)

/-- `MXAPP`: one position at a time. -/
def mxappTick (s : State) (j : Job) (v c : Nat) : Tick :=
  withHandle s j v fun i h =>
    if j.at_ = 0 && (65536 < c || 2 ^ 31 ≤ h.n + c) then .stop s (j.failed Reason.descBad.code h.n)
    else if c ≤ j.at_ then .stop s (j.succeed h.n)
    else
      let p := h.n + 1
      let n := min p 64
      let r : MemRef := { cap := h.log, off := 4 * (p - n) }
      match jobAccess s j 0 r (4 * n) .r with
      | .absent a => pauseJob s j a j.pc
      | .bad s _ => .stop s (j.failed Reason.capFault.code h.n)
      | .ok s m =>
        match jobBytes s j r (4 * n) m with
        | (_, some (_, a)) => .stop (s.lineError a 4) (j.failed Reason.capFault.code h.n)
        | (bs, none) =>
          .go (s.setHandle j i (h.append p ((List.range n).map fun k => fld bs (4 * k) 4))) { j with at_ := j.at_ + 1 }

/-- The lanes of a vector destination: the tenons, then ones; both lanes of a pair (R155, R330). -/
def tenonWrites (j : Job) (r : Nat) (ts : List Nat) : List RegWrite :=
  (List.range j.width).map fun l => .v r l (BitVec.ofNat 32 (ts.getD (if j.paired then l / 2 else l) 0xFFFFFFFF))

/-- `MXLOOK`: a lookup that fails leaves the registers as it had set them. -/
def mxlookTick (s : State) (j : Job) (v dmax : Nat) (dst : Option (Cap × Nat)) (vreg : Nat) : Tick :=
  withHandle s j v fun i h =>
    let found (s : State) (m : MxMatch) : State := s.setHandle j i (h.matched m)
    let fault (s : State) (m : MxMatch) : Tick := .stop (found s m) (j.failed Reason.capFault.code 0)
    match mxMatch h j.oracle dmax with
    | .error (.read which off n _) => readPiece s j h.log which off n
    | .error _ => fault s {}
    | .ok m =>
      match m.tenons j.oracle with
      | .error (.read which off n _) => readPiece s j h.log which off n
      | .error _ => fault s m
      | .ok ts =>
        let word := BitVec.ofNat 64 m.word
        match dst with
        | none => .stop (found s m) (j.finished word (tenonWrites j vreg ts))
        | some (cap, off) =>
          let r : MemRef := { cap := cap, off := off }
          let bs := ts.flatMap (leBytes 4)
          if bs = [] then .stop (found s m) (j.finished word [])
          else match jobAccess s j 0 r bs.length .w with
            | .absent a => pauseJob s j a j.pc
            | .bad s _ => fault s m
            | .ok s pm => .stop (found (s.jobWrites j r pm bs) m) (j.finished word [])

/-- `MXSAVE`. -/
def mxsaveTick (s : State) (j : Job) (v : Nat) (img : Cap) (off : Nat) : Tick :=
  withHandle s j v fun _ h =>
    let bs := h.image j.encver
    let r : MemRef := { cap := img, off := off }
    match jobAccess s j 0 r bs.length .w with
    | .absent a => pauseJob s j a j.pc
    | .bad s _ => .stop s (j.failed Reason.capFault.code 0)
    | .ok s m => .stop (s.jobWrites j r m bs) (j.succeed v)

/-- `MXLOAD`. -/
def mxloadTick (s : State) (j : Job) (log img : Cap) (off : Nat) : Tick :=
  let bad (r : Reason) : Tick := .stop s (j.failed r.code 0)
  match j.oracle 3 off 64 with
  | .need => readPiece s j img 3 off 64
  | .bad => bad .capFault
  | .ok hd =>
    match mxHeader hd j.encver with
    | none => bad .imageBad
    | some b =>
      match j.oracle 3 (off + 64) (mxImageBytes b - 64) with
      | .need => readPiece s j img 3 (off + 64) (mxImageBytes b - 64)
      | .bad => bad .capFault
      | .ok es =>
        match mxFrom hd es b with
        | none => bad .imageBad
        | some h => openHandle s j { h with log := log }

/-- One piece of a job's work. -/
def jobTick (s : State) (j : Job) : Tick :=
  match j.work with
  | .desc .. =>
    match j.err with
    | some e => failTick s j e
    | none =>
      if j.checked then descTick s j
      else if startOk s j then
        .go s { j with checked := true, lastIn := j.inRing.isNone && fld j.d 24 8 == 0 }
      else .go s (j.fails 1 0 false 0 0)
  | .mxopen log b => openHandle s j { log := log, bits := b }
  | .mxapp h c => mxappTick s j h c
  | .mxlook h dmax dst v => mxlookTick s j h dmax dst v
  | .mxsave h img off => mxsaveTick s j h img off
  | .mxload log img off => mxloadTick s j log img off
  | .mxdrop h => withHandle s j h fun i _ => .stop (s.setDie (dieOf j.bay) ((s.die (dieOf j.bay)).dropHandle i)) (j.succeed h)

/-- A refused page has had its effect once the job failed, noted the bad input or noted the failed read. -/
def Job.afterDeny (b : Job) (cached : Nat) : Job :=
  if b.err.isSome || b.badIn.isSome || b.phase == .finished || b.cache.length != cached then { b with deny := none } else b

/-- A job runs until it waits or has its result; `n` bounds the pieces one event covers. -/
def runJob : Nat → State → Job → State × Job
  | 0, s, j => (s, j)
  | n + 1, s, j =>
    match jobTick s j with
    | .go s b => runJob n s (b.afterDeny j.cache.length)
    | .stop s b => (s, b.afterDeny j.cache.length)

/-! ### The events (R137, R138) -/

def Eng.num : Eng → Nat
  | .inflate => 0 | .transcode => 1 | .tokenise => 2 | .mortise => 3 | .scarf => 4

/-- The job an engine works on: the first of its own that has no result yet. -/
def Die.head (d : Die) (eng : Nat) : Option Job := d.jobs.find? fun j => j.eng.num == eng && j.phase != .finished

def State.setJob (s : State) (die : Nat) (j : Job) : State :=
  let d := s.die die
  s.setDie die { d with jobs := modifyFirst (fun x => x.jid == j.jid && x.opId == j.opId) (fun _ => j) d.jobs }

/-- Pieces of work one event covers. -/
def jobPieces : Nat := 4096

/-- The handle a finished Mortise job leaves changed; none where its handle was bad. -/
def Job.handleIdx (j : Job) : Option Nat :=
  if j.result.getLsbD 63 && bits j.result.toNat 55 48 == Reason.handleBad.code then none
  else match j.work with
    | .mxapp h _ | .mxlook h _ _ _ | .mxdrop h => some (h % 4096)
    | .mxopen _ _ | .mxload _ _ _ => if j.result.getLsbD 63 then none else some (j.result.toNat % 4096)
    | _ => none

/-- A handle's registers as `MXSTAT` reads them. -/
def MxHandle.pub (h : MxHandle) (job : Nat) : MxPub :=
  { job := job, open_ := h.open_, gen := h.gen, ctx := h.ctx, found := h.found.word, len := h.n, fill := h.fill }

def advanceJob (s : State) (die : Nat) (j : Job) : State :=
  let (s, j) := runJob jobPieces s { j with phase := .running }
  let pub := if j.phase = .finished then j.handleIdx.map fun i => (i, ((s.die die).handle i).pub j.opId) else none
  s.setJob die { j with pub := pub }

/-- `ENGINE_JOB_START` (R137): a free engine takes its oldest job. -/
def execEngineJobStart (die eng : Nat) (s : State) : Res :=
  match (s.die die).head eng with
  | some j => if j.phase = .queued then .next (advanceJob s die j) else .next s
  | none => .next s

/-- The job of an engine goes on: it waited for a ring or for room, or was answered. -/
def Job.waits (j : Job) : Bool := j.phase == .running || j.phase == .waitIn || j.phase == .waitOut || j.phase == .waitQuar

/-- `ENGINE_RING_RESUME` (R139). -/
def execEngineRingResume (die eng : Nat) (s : State) : Res :=
  match (s.die die).head eng with
  | some j => if j.waits then .next (advanceJob s die j) else .next s
  | none => .next s

/-- A finished job can complete: its counter operation is the oldest on its counter (R138, R179). -/
def State.canComplete (s : State) (j : Job) : Bool :=
  match j.fin, s.warp? ⟨j.fid, j.widx⟩ with
  | .ctr c, some w => (w.ops.find? fun o => o.ctr == c).any fun o => o.id == j.opId
  | _, _ => true

/-- The first job of an engine that can complete. -/
def State.completable (s : State) (die eng : Nat) : Option Job :=
  (s.die die).jobs.find? fun j => j.eng.num == eng && j.phase == .finished && s.canComplete j

/-- The finished jobs of a die that still wait for their counter (R162). -/
def State.earlyJobs (s : State) (die : Nat) : List Job :=
  (s.die die).jobs.filter fun j => j.phase == .finished && j.writes != []

/-- One register write of a finished job seen before its counter retires: a read of the destination finds the old value or the
new one (R138, R162). -/
def State.jobWriteEarly (s : State) (j : Job) (k : Nat) : State :=
  match j.writes[k]? with
  | some x => s.modWarp ⟨j.fid, j.widx⟩ fun w => if w.run.isSome then w else w.put x
  | none => s

/-- `ENGINE_JOB_COMPLETE` (R138): D is written, the operation retires or the tag falls, the queue entry is free. -/
def execEngineJobComplete (die eng : Nat) (s : State) : Res :=
  match s.completable die eng with
  | none => .next s
  | some j =>
    let d := s.die die
    let pubs := match j.pub with
      | some (i, p) => if p.job < (sget {} d.pubs i).job then d.pubs else sset {} i p d.pubs
      | none => d.pubs
    let s := s.setDie die { d with jobs := d.jobs.filter (fun x => !(x.jid == j.jid && x.opId == j.opId)), pubs := pubs }
    let i : WarpId := ⟨j.fid, j.widx⟩
    let s := match j.fin with
      | .ctr c => s.modWarp i fun w => let w := w.opDone j.opId j.writes none; (w.retireOne c).getD w
      | .tag t => (s.modWarp i fun w => w.retire { id := j.opId, ctr := 0, from_ := j.from_, writes := j.writes }).tagDone i j.core t none
      | .none => s
    .next s.settleDone

end Sys2Proof.Machine
end

