-- ==== Sys2Proof/Machine/TextOps.lean ====
section
/-! DEFINITION. The text-engine instructions, opcodes 0xD0 to 0xDE: the submission of a job (R135, R136) and `MXSTAT`
(R156). -/

namespace Sys2Proof.Machine

/-- Jobs a die's queue holds (R19). -/
def jobQueueSize : Nat := 64

/-- What an instruction's operands give, once they are read: the state, the warp, and the job's work with the ranges it
names: capability, offset, length, and how each is accessed. -/
structure Submit where
  s : State
  w : Warp
  work : JobWork
  ranges : List (Cap × Nat × Nat × Acc) := []

/-- The first named range that fails its check (R136 step 4). -/
def State.badRange (s : State) (rs : List (Cap × Nat × Nat × Acc)) : Option (Cause × Nat) :=
  rs.findSome? fun (c, off, n, acc) => if n = 0 then none else s.capIssue c off n (trussUse acc)

/-- The condition that holds a submission before issue: a full die queue, counter or tag (R136, R179, R184). -/
def submitHold (s : State) (e : Env) (fin : Done) : Option HoldWhy :=
  if jobQueueSize ≤ (s.die (dieOf e.f.bay)).jobs.length then some .queueRoom else s.doneRoom e fin 1

/-- Every check has passed: what its warp must perform first is performed (R211), the job enters the queue and its operation
is enrolled (R136). -/
def enqueueJob (e : Env) (h : Hdr) (x : ExtArgs) (eng : Eng) (q : Submit) : Res :=
  let (s, w) := performBefore q.s e.c.fid q.w false
  let die := dieOf e.f.bay
  let d := s.die die
  let j : Job :=
    { jid := 2 ^ 29 * die + d.accepted % 2 ^ 29, ctx := e.l.ctx, fid := e.c.fid, widx := e.w.idx, pc := e.c.pc, eng := eng, fin := x.fin
      opId := s.fresh, core := e.w.core, dreg := x.d.raw, bank := e.w.priv && decide (92 ≤ x.d.raw), width := e.l.width, paired := e.l.prot
      encver := e.l.encver, bay := e.f.bay, work := q.work, from_ := s.now, old := s.mem }
  let s := s.tick.setDie die { d with jobs := d.jobs ++ [j], accepted := d.accepted + 1 }
  match x.fin with
  | .ctr c => finish s e h (w.enrol { id := j.opId, ctr := c, from_ := s.now, done := false })
  | .tag t => finish (s.countTag e.w.core t 1) e h { w with tagCnt := sset 0 t (sget 0 w.tagCnt t + 1) w.tagCnt }
  | .none => finish s e h w

/-- A submission (R136): nothing to submit without an executing lane; room; the comparison of shadow lanes (R331); the
implicit commit; what the operands read (`prep`); the named ranges; the queue. -/
def submitInstr (s : State) (h : Hdr) (x : ExtArgs) (eng : Eng)
    (prep : State → Env → (State → Env → JobWork → List (Cap × Nat × Nat × Acc) → Res) → Res) : Res :=
  withEnv s fun e =>
    if e.exec h = [] then
      match x.fin with
      | .ctr c => withRoom s e c (finishEmpty s e h c)
      | _ => finish s e h e.w
    else match submitHold s e x.fin with
      | some y => holdAt s e y
      | none =>
        match shadowDiff e fun l => if (e.exec h).contains l then some (((e.natS x.b : Nat) : Int), []) else none with
        | some a => trap s e .shadowMismatch a
        | none =>
          withCommit s e true fun s =>
            prep s e fun s e work ranges =>
              match s.badRange ranges with
              | some (k, v) => trap s e k v
              | none => enqueueJob e h x eng { s := s, w := e.w, work := work }

/-- The stores that the warp has in flight to some addresses performed, for a read of its own (R205). -/
def State.ownBefore (s : State) (e : Env) (as : List Nat) : State × Warp :=
  let s := (s.setWarp e.c.fid e.w).performOlder ⟨e.c.fid, e.w.idx⟩ s.fresh as false
  (s, (s.warp? ⟨e.c.fid, e.w.idx⟩).getD e.w)

/-- The two 32-byte reads of a descriptor (R136 step 3). -/
def readDesc (s : State) (e : Env) (x : ExtArgs) (k : State → Env → List Byte → Res) : Res :=
  let cap := e.rdCap x.a
  let at_ := e.natS x.b / 64 * 64
  let ref := fun (o : Nat) => ({ cap := cap, off := o } : MemRef)
  let l := (e.c.lanes.headD 0)
  let offs := [(l, some ((at_ : Nat) : Int)), (l, some ((at_ + 32 : Nat) : Int))]
  afterChecks s e (Xst.lanes e 32 32 ref { acc := .r } offs ⟨s, e.w⟩ [] []) false
    (fun s e ls =>
      let (s, w) := s.ownBefore e (ls.flatMap fun y => y.m.elim [] fun m => s.physRead (ref y.off) 32 m)
      let e := { e with w := w }
      let got := ls.filterMap fun y => y.m.map fun m =>
        let as := s.physRead (ref y.off) 32 m
        let per := as.length / 32
        let bs := poisonBytes (fun i => ((as.drop (i * per)).take per).any s.lineBad) (s.fetch (s.frameOf e) (ref y.off) 32 m)
        (bs, (s.firstBad as).map fun (i, a) => (a, poisonOff y.off per i a))
      let (s, w) := consumeBad s e.w (got.findSome? Prod.snd)
      k (s.setWarp e.c.fid w) { e with w := w } (got.flatMap Prod.fst))
    (fun s e _ => .next (stopRun s e.c.fid e.l.ctx e.w))

/-- The byte of a descriptor that names its table's register: TK, VK or IK. -/
def tableByte (op : Nat) : Nat := if op = 0xD1 then 50 else 48

/-- A descriptor job (R136): its descriptor, the capabilities it names, and the ranges named. -/
def descJob (s : State) (h : Hdr) (x : ExtArgs) (eng : Eng) (op : Nat) : Res :=
  submitInstr s h x eng fun s e k =>
    readDesc s e x fun s e d =>
      let reg := fun (o : Nat) => fld d o 1 % 32
      let cap := fun (o : Nat) => if reg o = 0 then Cap.null else e.w.rdK (reg o)
      let range := fun (kb off len : Nat) (acc : Acc) =>
        if fld d len 8 < 2 ^ 32 && reg kb ≠ 0 then [(cap kb, fld d off 8, fld d len 8, acc)] else []
      let tab := if op = 0xD0 then Cap.null else cap (tableByte op)
      k s e (.desc op d (cap 8) (cap 11) tab) (range 8 16 24 .r ++ range 11 32 40 .w)

/-- `INFL` (R145). -/
def execInfl (h : Hdr) (e : ExtArgs) (s : State) : Res := descJob s h e .inflate 0xD0
/-- `XCOD` (R147). -/
def execXcod (h : Hdr) (e : ExtArgs) (s : State) : Res := descJob s h e .transcode 0xD1
/-- `TOKZ` (R150). -/
def execTokz (h : Hdr) (e : ExtArgs) (s : State) : Res := descJob s h e .tokenise 0xD2
/-- `DTOK` (R151). -/
def execDtok (h : Hdr) (e : ExtArgs) (s : State) : Res := descJob s h e .tokenise 0xD3
/-- `SFCOMP` (R159). -/
def execSfcomp (h : Hdr) (e : ExtArgs) (s : State) : Res := descJob s h e .scarf 0xDB
/-- `SFSCAN` (R160). -/
def execSfscan (h : Hdr) (e : ExtArgs) (s : State) : Res := descJob s h e .scarf 0xDC
/-- `SFMASK` (R160). -/
def execSfmask (h : Hdr) (e : ExtArgs) (s : State) : Res := descJob s h e .scarf 0xDD
/-- `SFSTOP` (R161). -/
def execSfstop (h : Hdr) (e : ExtArgs) (s : State) : Res := descJob s h e .scarf 0xDE

/-! ### Mortise instructions -/

/-- The capability register of X[31:27]. -/
def mxCapk (x : ExtArgs) : Nat := match x.x with | .mxcap k => k | .mxlook _ k => k | _ => 0

/-- `MXOPEN` (R152). -/
def execMxopen (h : Hdr) (e : ExtArgs) (s : State) : Res :=
  let b := match e.x with | .mxbits b => b | _ => 4
  submitInstr s h e .mortise fun s v k => k s v (.mxopen (v.rdCap e.a) b) []

/-- `MXAPP` (R154). -/
def execMxapp (h : Hdr) (e : ExtArgs) (s : State) : Res :=
  submitInstr s h e .mortise fun s v k => k s v (.mxapp (v.natS e.a) (v.natS e.b)) []

/-- `MXLOOK` (R155): tenons through a capability or into a vector register. -/
def execMxlook (h : Hdr) (e : ExtArgs) (s : State) : Res :=
  let dmax := match e.x with | .mxlook n _ => n | _ => 0
  submitInstr s h e .mortise fun s v k =>
    if e.m0 then
      let c := v.w.rdK (mxCapk e)
      k s v (.mxlook (v.natS e.a) dmax (some (c, v.natS e.b)) 0) [(c, v.natS e.b, 4 * dmax, .w)]
    else k s v (.mxlook (v.natS e.a) dmax none e.b.raw) []

/-- `MXSAVE` (R157): the whole image range is checked where the handle is good at issue. -/
def execMxsave (h : Hdr) (e : ExtArgs) (s : State) : Res :=
  submitInstr s h e .mortise fun s v k =>
    let die := dieOf v.f.bay
    let c := v.w.rdK (mxCapk e)
    let range := match (s.die die).named die v.l.ctx (v.natS e.a) with
      | some i => [(c, v.natS e.b, mxImageBytes ((s.die die).handle i).bits, Acc.w)]
      | none => []
    k s v (.mxsave (v.natS e.a) c (v.natS e.b)) range

/-- `MXLOAD` (R157). -/
def execMxload (h : Hdr) (e : ExtArgs) (s : State) : Res :=
  submitInstr s h e .mortise fun s v k => k s v (.mxload (v.rdCap e.a) (v.w.rdK (mxCapk e)) (v.natS e.b)) []

/-- `MXDROP` (R157). -/
def execMxdrop (h : Hdr) (e : ExtArgs) (s : State) : Res :=
  submitInstr s h e .mortise fun s v k => k s v (.mxdrop (v.natS e.a)) []

/-- `MXSTAT` (R156): the handle's registers after the jobs that completed; a fixed latency of 16 clk. -/
def mxstat (s : State) (h : Hdr) (x : ExtArgs) (f : MxPub → Nat) : Res :=
  scalarResult s h 16 x.d [x.a] fun e =>
    let v := e.natS x.a
    let die := dieOf e.f.bay
    let p : MxPub := sget {} (s.die die).pubs (v % 4096)
    let good := v / 2 ^ 32 == 0 && !bitOf v 15 && bits v 14 12 == die && p.open_ && bits v 31 16 == p.gen && p.ctx == e.l.ctx
    (if good then BitVec.ofNat 64 (f p) else errWord Reason.handleBad.code 0, 0)

/-- `MXSTAT.match`. -/
def execMxstatMatch (h : Hdr) (e : ExtArgs) (s : State) : Res := mxstat s h e MxPub.found
/-- `MXSTAT.len`. -/
def execMxstatLen (h : Hdr) (e : ExtArgs) (s : State) : Res := mxstat s h e MxPub.len
/-- `MXSTAT.fill`. -/
def execMxstatFill (h : Hdr) (e : ExtArgs) (s : State) : Res := mxstat s h e MxPub.fill

end Sys2Proof.Machine
end

