-- ==== Sys2Proof/Machine/Issue.lean ====
section
/-! DEFINITION. What moves warps: the choice of an issue group and the starvation guard (R220, R221), a partition's
issue (R219), the release of holds and joins (R222, R225), sleeping (R223), user-level interrupts (R197), the retirement
of counter operations (R179) and faults delivered late (R320, R321). -/

namespace Sys2Proof.Machine

/-! ### The issue group (R220, R221) -/

/-- A PC put in ascending order, once. -/
def insertPc (x : Nat) : List Nat → List Nat
  | [] => [x]
  | y :: r => if x < y then x :: y :: r else if x = y then y :: r else y :: insertPc x r

/-- The PCs of some lanes, ascending. -/
def Warp.pcs (w : Warp) (ls : List Nat) : List Nat := ls.foldl (fun ps l => insertPc (w.lane l).pc ps) []

/-- Miss counts after an issue of some lanes (R220). -/
def Warp.missed (w : Warp) (run issued : List Nat) : Warp :=
  w.setLanes (w.wc.lanes.mapIdx fun i l =>
    { l with miss := if run.contains i && !issued.contains i then min 32 (l.miss + 1) else 0 })

/-- The next PC of a burst with lanes to issue, those lanes, and the PCs after it. -/
def Warp.burstNext (w : Warp) (b : Burst) : List Nat → Option (Nat × List Nat × List Nat)
  | [] => none
  | pc :: r =>
    let ls := b.run.filter fun i => w.runnable.contains i && (w.lane i).pc == pc && !b.done.contains i
    if ls = [] then w.burstNext b r else some (pc, ls, r)

/-- The end of a burst, which counts as one issue of the warp for the miss counts. -/
def Warp.burstEnd (w : Warp) (b : Burst) : Warp := { w.missed (b.run.filter w.runnable.contains) b.done with burst := none }

/-- A burst's issue, and its end with the last PC. -/
def Warp.burstIssue (w : Warp) (b : Burst) : Option (Nat × List Nat × Warp) :=
  (w.burstNext b b.pcs).map fun (pc, ls, r) =>
    let b := { b with pcs := r, done := b.done ++ ls }
    if r = [] then (pc, ls, w.burstEnd b)
    else (pc, ls, { w.mapLanes ls (fun _ l => { l with miss := 0 }) with burst := some b })

/-- A new issue: a guard burst when some lane has missed 32, else none. -/
def Warp.freshIssue (w : Warp) : Option (Nat × List Nat × Warp) :=
  let run := w.runnable
  let w := w.setLanes (w.wc.lanes.map fun l => { l with deferred := false })
  let starve := run.filter fun i => (w.lane i).miss == 32
  if starve ≠ [] then w.burstIssue { pcs := w.pcs starve, run := run, done := [] } else none

/-- One issue of a warp (R221): its PC, its lanes, and the warp with what the choice changes. -/
def Warp.chooseIssue (w : Warp) : Option (Nat × List Nat × Warp) :=
  let fresh (w : Warp) : Option (Nat × List Nat × Warp) :=
    match w.freshIssue with
    | some x => some x
    | none =>
      let run := w.runnable
      let cand := run.filter fun i => !(w.lane i).deferred
      let cand := if cand = [] then run else cand
      match w.pcs cand with
      | [] => none
      | pc :: _ =>
        let ls := run.filter fun i => (w.lane i).pc == pc
        let w := w.setLanes (w.wc.lanes.map fun l => { l with deferred := false })
        some (pc, ls, w.missed run ls)
  match w.burst with
  | none => fresh w
  | some b =>
    match w.burstIssue b with
    | some x => some x
    | none => fresh (w.burstEnd b)

/-! ### User-level interrupts (R197) -/

/-- The armed ring has an item. -/
def State.ringFires (s : State) (f : Frame) (w : Warp) : Bool :=
  w.uiring.any fun c => (s.ring? f.bay c).any fun r => !r.empty

/-- Delivery is due: armed, unmasked, something ready, and no live lane waits at a `JOIN` or barrier. -/
def State.interruptDue (s : State) (f : Frame) (w : Warp) : Bool :=
  w.uivec != 0 && !w.uim && !w.priv && ((s.firstReady w.core w.uitags).isSome || s.ringFires f w) &&
    w.liveLanes.all (fun i => !(w.lane i).waiting) && w.liveLanes != []

/-- The warp after delivery: any held instruction is abandoned. -/
def State.deliver (s : State) (f : Frame) (w : Warp) : Warp :=
  let w := w.rollback
  let ready := maskTags w.uitags |>.filter fun t => (s.tag w.core t).ready
  let mask := ready.foldl (fun m t => m - 2 ^ t) w.uitags.toNat
  let w := w.mapLive fun l => { l with retPc := l.pc, pc := w.uivec.toNat, miss := 0 }
  { w with uim := true, inUi := true, hold := none, burst := none, uitags := BitVec.ofNat 64 mask
           uiring := if s.ringFires f w then none else w.uiring }

/-- The holds that an interrupt ends. -/
def HoldWhy.interruptible : HoldWhy → Bool
  | .counters _ | .tagsAll _ | .tagsAny _ | .ringRoom _ | .ringItem _ | .sleep _ | .page _ => true
  | _ => false

/-- The frame can issue: on a bay that is on, not stopped (R236, R302). -/
def State.frameRuns (s : State) (f : Frame) : Bool :=
  (f.phase == .resident || f.phase == .saving) && !f.stopped && (s.bay f.bay).power == .on

/-- `USER_INTERRUPT_DELIVERY` (R197): at the warp's next issue, or out of a hold that it ends. -/
def execUserInterruptDelivery (i : WarpId) (s : State) : Res :=
  match s.frame? i.fid with
  | none => .next s
  | some f =>
    match f.warp? i.idx with
    | none => .next s
    | some w =>
      if s.frameRuns f && f.phase == .resident && !w.stopped && s.interruptDue f w &&
          (match w.hold with | none => true | some h => h.why.interruptible) then
        .next (s.setWarp i.fid (s.deliver f w))
      else .next s

/-! ### What holds an instruction before issue (R225, Table 11.4) -/

/-- The warps of a die held before issue on its full queue, with the stamps of their holds (R230). -/
def State.queueHeld (s : State) (die : Nat) : List (WarpId × Nat) :=
  s.frames.flatMap fun f =>
    if dieOf f.bay != die || !(f.phase == .resident || f.phase == .saving) then []
    else f.warps.filterMap fun w => w.hold.bind fun h => if h.why = .queueRoom then some (⟨f.fid, w.idx⟩, h.since) else none

/-- It is a warp's turn to enter its die's queue: the free entries exceed the warps that were held on it before. -/
def State.queueTurn (s : State) (f : Frame) (w : Warp) : Bool :=
  let held := s.queueHeld (dieOf f.bay)
  let ahead := match held.find? fun x => x.1 == ⟨f.fid, w.idx⟩ with
    | some (_, t) => held.filter fun (y : WarpId × Nat) => decide (y.2 < t)
    | none => held
  decide (ahead.length + (s.die (dieOf f.bay)).jobs.length < jobQueueSize)

/-- A submission waits for an entry of the queue, then for its counter or tag. -/
def State.jobHold (s : State) (e : Env) (h : Hdr) (fin : Done) : Option HoldWhy :=
  if e.exec h = [] then (match fin with | .ctr _ => s.doneRoom e fin 1 | _ => none)
  else if !s.queueTurn e.f e.w then some .queueRoom
  else s.doneRoom e fin 1

/-- A Truss operation waits for its counter, then for room in its group's entry. -/
def State.trussHold (s : State) (e : Env) (h : Hdr) (x : ExtArgs) : Option HoldWhy :=
  (s.doneRoom e x.fin 1).orElse fun _ =>
    if e.exec h = [] || (s.bay e.f.bay).room e.c.fid (trussGroup x) then none else some (.trussRoom (trussGroup x))

/-- The condition of Table 11.4 that holds an instruction before issue: a full counter, tag count or die queue, no room in a
Truss entry, a busy special-function unit (R85). -/
def State.issueHold (s : State) (e : Env) (i : Instr) : Option HoldWhy :=
  if e.w.run.isSome then none
  else match i.parts with
    | some (op, _, .mem o) => if 0x80 ≤ op ∧ op ≤ 0x88 then s.doneRoom e (.ctr o.cc) 1 else none
    | some (op, _, .alu o) =>
      if op = 0x52 then s.doneRoom e (.ctr o.c.raw) 1
      else if 0x4A ≤ op ∧ op ≤ 0x50 ∧ Config.sfuBusy s.now e.w.core then some .sfu else none
    | some (op, h, .ext x) =>
      if 0x90 ≤ op ∧ op ≤ 0x92 then s.doneRoom e x.fin (e.visible (e.exec h)).length
      else if op = 0x9C then s.doneRoom e x.fin 1
      else if 0xC0 ≤ op ∧ op ≤ 0xC6 ∧ op ≠ 0xC5 then s.trussHold e h x
      else if 0xD0 ≤ op ∧ op ≤ 0xDE ∧ op ≠ 0xD7 then s.jobHold e h x.fin
      else none
    | _ => none

/-! ### Eligibility and issue (R218, R219) -/

/-- The warp as it would issue now: an interrupt that is due is delivered first; a hold before issue is over. -/
def State.atIssue (s : State) (f : Frame) (w : Warp) : Warp :=
  if w.hold.isNone && f.phase == .resident && s.interruptDue f w then s.deliver f w else { w with hold := none }

/-- A warp of a frame may issue or take a late fault. -/
def State.warpRuns (s : State) (f : Frame) (w : Warp) : Bool :=
  s.frameRuns f && !w.gone && !w.stopped && (f.phase == .resident || w.priv)

/-- No hold keeps the warp from issuing but one before issue, which is looked at anew. -/
def Warp.unheld (w : Warp) : Bool := match w.hold with | none => true | some h => h.why == .queueRoom

/-- What the warp would issue now: the environment of the issue, and what the fetch finds. -/
def State.upNext (s : State) (f : Frame) (w : Warp) : Option (Env × Fetched) :=
  match (s.atIssue f w).chooseIssue, s.launch? f.lid with
  | some (pc, ls, w'), some l =>
    let w' := w'.landDue s.now
    let e : Env := { c := { fid := f.fid, widx := w.idx, pc := pc, len := 0, lanes := ls }, f := f, w := w', l := l, t := s.textLaunch l w' }
    some (e, e.fetch s)
  | _, _ => none

/-- The hold before issue of the warp's next instruction, where it has one. -/
def State.nextHold (s : State) (f : Frame) (w : Warp) : Option (Env × HoldWhy) :=
  match s.upNext f w with
  | some (e, .instr i pc _) =>
    let e := { e with c := { e.c with pc := pc } }
    (s.issueHold e i).map fun y => (e, y)
  | _ => none

/-- A warp's distance has elapsed (R46) and nothing inside an instruction holds it. -/
def State.mayIssue (s : State) (f : Frame) (w : Warp) : Bool := s.warpRuns f w && w.nextIssue ≤ s.now && w.unheld

/-- A warp is eligible (R218): its distance has elapsed, it is not held, a lane is runnable, the counters its next
instruction waits for are zero, and nothing holds that instruction before issue. -/
def State.eligible (s : State) (f : Frame) (w : Warp) : Bool :=
  s.mayIssue f w &&
    match s.upNext f w with
    | none | some (_, .wait ..) => false
    | some _ => (s.nextHold f w).isNone

/-- The number of a warp's partition. -/
def Warp.partNo (w : Warp) : Nat := w.core * Config.partsPerCore + w.part

/-- The warps of a partition, with their frames. -/
def State.partWarps (s : State) (p : Nat) : List (Frame × Warp) :=
  s.frames.flatMap fun f => (f.warps.filter fun w => w.partNo == p && !w.gone).map fun w => (f, w)

/-- The distance of a slot from the rotating pointer. -/
def slotRank (ptr slot : Nat) : Nat := (slot + Config.slotsPerPart - ptr) % Config.slotsPerPart

/-- The first of some warps at or after the pointer. -/
def firstAt (ptr : Nat) (ws : List (Frame × Warp)) : Option (Frame × Warp) :=
  ws.foldl (fun best x =>
    match best with
    | none => some x
    | some y => if slotRank ptr x.2.slot < slotRank ptr y.2.slot then some x else some y) none

/-- The datapath is free: nothing issued this clk, and no second clk of a width-64 instruction (R219). -/
def State.counted (s : State) (p : Part) : Bool :=
  match p.last with
  | none => true
  | some t => t != s.now && !(p.width == 64 && t + 1 == s.now)

/-- A warp's issue: its partition's pointer moves past it, and the issue is in progress. -/
def State.issue (s : State) (p : Nat) (f : Frame) (w : Warp) : State :=
  match (s.atIssue f w).chooseIssue with
  | none => s
  | some (pc, ls, w') =>
    let width := ((s.launch? f.lid).map Launch.width).getD 16
    let x := s.part p
    let s := s.setPart p { x with ptr := (w.slot + 1) % Config.slotsPerPart, last := some s.now, width := width }
    { s.setWarp f.fid w' with cur := some { fid := f.fid, widx := w.idx, pc := pc, len := 0, lanes := ls } }

/-- The instruction a warp would issue next: its PC and lanes; of blocked lanes the lowest PC. -/
def Warp.nextInstr (w : Warp) : Nat × List Nat :=
  match w.chooseIssue with
  | some (pc, ls, _) => (pc, ls)
  | none =>
    let pc := (w.pcs w.liveLanes).headD 0
    (pc, w.liveLanes.filter fun i => (w.lane i).pc == pc)

/-- A fault delivered late is taken at the instruction the warp would issue next, whatever it waits on (R306, R320). -/
def State.takeLate (s : State) (f : Frame) (w : Warp) (x : Late) : State :=
  let w' := { w with late := none }.rollback
  let (pc, ls) := w'.nextInstr
  let lid := ((s.launch? f.lid).map fun l => (s.textLaunch l w').lid).getD f.lid
  takeTrap (s.setWarp f.fid w') f.fid w.idx ls pc (lenBytes (s.rd ((Region.text lid).at pc) 1 % 4)) (Cause.ofCode x.cause) x.val none true

/-- A warp whose next instruction meets the full queue of its die is held before issue from now on (R230). -/
def State.noteHeld (s : State) (x : Frame × Warp) : State :=
  let (f, w) := x
  if s.mayIssue f w && w.hold.isNone then
    match s.nextHold f w with
    | some (e, .queueRoom) =>
      s.tick.modWarp ⟨f.fid, w.idx⟩ fun w => { w with hold := some { why := .queueRoom, pc := e.c.pc, lanes := e.c.lanes, since := s.fresh } }
    | _ => s
  else s

/-- The first late fault that is due in a partition: of a warp that runs, before it takes a SAVE_REQ (DEDUCED, log 22), or a POISON that a warp of a guarded frame left when it
exited (R320, R321, R323). -/
def State.lateDue (s : State) (p : Nat) : Option (Frame × Warp × Late) :=
  s.frames.findSome? fun f => f.warps.findSome? fun w =>
    w.late.bind fun x =>
      let left := w.gone && s.frameRuns f && x.cause == Cause.poison.code && (s.launch? f.lid).any Launch.guarded
      if w.partNo = p && (s.warpRuns f w || left || (s.frameRuns f && w.saveReq)) then some (f, w, x) else none

/-- `PARTITION_ISSUE` (R219): the first eligible warp at or after the pointer issues, one with the Y hint only if no
other is eligible (R47). A warp with a late fault takes it instead; warps that meet the full queue of their die are held on
it. -/
def execPartitionIssue (part : Nat) (s : State) : Res :=
  if s.cur.isSome then .next s
  else
    match s.lateDue part with
    | some (f, w, x) => .next (s.takeLate f w x)
    | none =>
      let s := (s.partWarps part).foldl State.noteHeld s
      let ws := s.partWarps part
      let p := s.part part
      if !s.counted p then .next s
      else
        let able := ws.filter fun (f, w) => s.eligible f w
        let first := able.filter fun (_, w) => !w.yHint
        match firstAt p.ptr (if first = [] then able else first) with
        | none => .next s
        | some (f, w) =>
          let clear (s : State) (x : Frame × Warp) : State := if x.2.yHint then s.modWarp ⟨x.1.fid, x.2.idx⟩ fun w => { w with yHint := false } else s
          let s := ws.foldl clear s
          .next (s.issue part f { w with yHint := false })

/-! ### Holds (R222, R225) -/

/-- The condition of a hold is true. -/
def State.released (s : State) (f : Frame) (w : Warp) : HoldWhy → Bool
  | .counters cs => (w.waitsOn cs).isEmpty
  | .tagsAll m => (maskTags (BitVec.ofNat 64 m)).all fun t => (s.tag w.core t).ready
  | .tagsAny m => (s.firstReady w.core (BitVec.ofNat 64 m)).isSome
  | .ringRoom c => !((s.ring? f.bay c).any fun r => r.full)
  | .ringItem c => !((s.ring? f.bay c).any fun r => r.empty)
  | .listRoom d i => !(s.list d i).full
  | .ctrRoom c => !w.ctrFull c
  | .tagRoom t n => (s.tag w.core t).count + n ≤ 4095
  | .queueRoom => s.queueTurn f w
  | .trussRoom g => (s.bay f.bay).room f.fid g
  | .sfu => !Config.sfuBusy s.now w.core
  | .sleep _ => false
  | .barrs => f.barrsDone
  | .drain => w.drained
  | .window p i => match s.frameNamed p i with | some f => f.resident | none => true
  | .page _ => false
  | .undo => !(s.frames.any fun g => g.warps.any fun v => v.run.isSome && v.partNo == w.partNo && !(g.fid == f.fid && v.idx == w.idx))
  | .buffer ids => !s.copiesOpen ids

/-- The holds before issue: an instruction that meets one has not issued. -/
def HoldWhy.beforeIssue : HoldWhy → Bool
  | .ctrRoom _ | .tagRoom .. | .trussRoom _ | .sfu => true
  | _ => false

/-- The lanes waiting at one `JOIN` that are released: every live lane whose bit of its predicate is set waits there. -/
def Warp.joined (w : Warp) (pc p : Nat) : Bool :=
  w.liveLanes.all fun i => !(w.rdP p i).getLsbD 0 || ((w.lane i).waitJoin == some p && (w.lane i).pc == pc)

/-- The first `JOIN` of a warp whose lanes are released: its PC and predicate. Each lane's bit is read as it is now. -/
def Warp.joinDue (w : Warp) : Option (Nat × Nat) :=
  w.liveLanes.findSome? fun i => (w.lane i).waitJoin.bind fun p => if w.joined (w.lane i).pc p then some ((w.lane i).pc, p) else none

/-- Lanes released from a `JOIN` go on at the next instruction. -/
def Warp.passJoin (w : Warp) (pc p after : Nat) : Warp :=
  w.mapLive fun l => if l.waitJoin = some p && l.pc = pc then { l with waitJoin := none, pc := after } else l

/-- `WARP_HOLD_RELEASE` (R225, R222): where the condition of a hold is true, the instruction that was held goes on from there
without issuing again, or, held before issue, may issue; lanes whose `JOIN` is complete go on. -/
def execWarpHoldRelease (i : WarpId) (s : State) : Res :=
  match s.frame? i.fid with
  | none => .next s
  | some f =>
    match f.warp? i.idx, s.launch? f.lid with
    | some w, some l =>
      match w.hold with
      | some h =>
        if h.why = .queueRoom || !s.released f w h.why then .next s
        else
          let s' := s.setWarp i.fid { w with hold := none }
          if h.why.beforeIssue then .next s'
          else if s.cur.isNone && s.warpRuns f w then
            .next { s' with cur := some { fid := i.fid, widx := i.idx, pc := h.pc, len := 0, lanes := h.lanes, after := some h.why } }
          else .next s
      | none =>
        match (w.landDue s.now).joinDue with
        | none => .next s
        | some (pc, p) => .next (s.setWarp i.fid ((w.landDue s.now).passJoin pc p (s.pcAfter (s.textLaunch l w).lid pc)))
    | _, _ => .next s

/-- `SLEEP_EXPIRY` (R223): the lanes that slept go on after the instruction. -/
def execSleepExpiry (i : WarpId) (s : State) : Res :=
  match s.warp? i with
  | none => .next s
  | some w =>
    match w.hold with
    | some h =>
      match h.why with
      | .sleep t =>
        if t ≤ s.now then .next (s.setWarp i.fid ({ w with hold := none }.mapLanes h.lanes fun _ l => { l with pc := h.pc + 12 })) else .next s
      | _ => .next s
    | none => .next s

/-! ### Counters (R179) -/

/-- `COUNTER_RETIRE` (R179): the oldest operation of a counter retires once it is done. -/
def execCounterRetire (i : WarpId) (c : Nat) (s : State) : Res :=
  match (s.warp? i).bind fun w => w.retireOne c with
  | none => .next s
  | some w => .next (s.setWarp i.fid w).settleDone

/-! ### Peers at the initiator (R320) -/

/-- The words of a read lost on its way back, all ones. -/
def RegWrite.ones : RegWrite → RegWrite
  | .v r l _ => .v r l 0xFFFFFFFF
  | .s r _ => .s r allOnes64
  | .bankS r _ => .bankS r allOnes64
  | x => x

/-- The units of an operation that are not performed yet. -/
def Warp.unitsLeft (w : Warp) (id : Nat) : List MemUnit := w.acc.filter fun u => u.op == id

/-- A peer operation ends with an error (R320): its units not performed yet fail; with `lost` so do the reads whose answer was
still on its way, and of an operation with nothing left the answer itself. -/
def Warp.peerError (w : Warp) (o : CtrOp) (a : Nat) (lost : Bool) : Warp :=
  let us := w.unitsLeft o.id
  let o' : CtrOp := { o with peer := none, writes := if lost then o.writes.map RegWrite.ones else o.writes }
  let w := { w with acc := dropFences (w.acc.filter fun u => u.op != o.id), ops := modifyFirst (fun x => x.id == o.id) (fun _ => o') w.ops }
  let w := us.foldl (fun w u => w.remoteFails u a) w
  if !lost then w
  else if o.writes ≠ [] then w.setLate .remoteFault a
  else if us = [] then { w with ops := modifyFirst (fun x => x.id == o.id) (fun x => { x with err := some (Cause.remoteFault.code, a) }) w.ops }
  else w

/-- The oldest operation of a counter, where it reaches a peer and can still fail. -/
def Warp.peerOp (w : Warp) (c : Nat) : Option (CtrOp × Nat) :=
  (w.ops.find? fun o => o.ctr == c).bind fun o => o.peer.map fun a => (o, a)

/-- `PEER_TIMEOUT` (R320): writes not performed yet may still be performed later. -/
def execPeerTimeout (i : WarpId) (c : Nat) (s : State) : Res :=
  match s.warp? i with
  | none => .next s
  | some w =>
    match w.peerOp c with
    | none => .next s
    | some (o, a) =>
      let late := ((w.unitsLeft o.id).map MemUnit.work).filter UnitWork.writes
      .next ({ s with strays := s.strays ++ late }.setWarp i.fid (w.peerError o a true))

/-- `PEER_ERROR_RESPONSE` (R320): the target refused an access, which is not performed. -/
def execPeerErrorResponse (i : WarpId) (c : Nat) (s : State) : Res :=
  match s.warp? i with
  | none => .next s
  | some w =>
    match w.peerOp c with
    | none => .next s
    | some (o, a) => if w.unitsLeft o.id = [] then .next s else .next (s.setWarp i.fid (w.peerError o a false))

/-- A write that was reported after 1 ms is performed at its target after all (R320). -/
def State.performStray (s : State) (k : Nat) : State :=
  match s.strays[k]? with
  | none => s
  | some x => ({ s with strays := s.strays.eraseIdx k }.unitEffect 0 { op := 0, work := x }).1

/-! ### What the memory system performs by itself (R163) -/

/-- A unit of a warp performed, by its place among those in flight, where it may be. -/
def State.performAt (s : State) (i : WarpId) (k : Nat) (early : Bool) : State :=
  match s.warp? i with
  | none => s
  | some w =>
    if (s.performable w).contains k then
      let (s, w) := performUnit s i.fid w k early
      (s.setWarp i.fid w).settleDone
    else s

end Sys2Proof.Machine
end

