-- ==== Sys2Proof/Machine/PageReq.lean ====
section
/-! DEFINITION. Page-request groups: written to a port's request ring, answered through its response ring, and what an
answer does to the party that waits (R316 to R319, R40, R344). -/

namespace Sys2Proof.Machine

/-! ### Who waits -/

/-- The party of a group still waits for its answer. -/
def State.partyWaits (s : State) (g : PageGroup) : Bool :=
  match g.party with
  | .warp i => (s.warp? i).any fun w => match w.hold with | some h => h.why == .page g.num | none => false
  | .copy id lane => s.copies.any fun c => c.id == id && c.lanes.any fun x => x.lane == lane && x.paused == some g.num
  | .truss id => s.bays.any fun (_, b) => b.ops.any fun o => o.id == id && o.paused == some g.num
  | .ft id => s.ftops.any fun o => o.id == id && o.paused == some g.num
  | .dep id => s.deps.any fun d => d.id == id && d.paused == some g.num
  | .job op => s.dies.any fun (_, d) => d.jobs.any fun j => j.opId == op && j.phase == .paused
  | .build p => (s.progObj p).any fun o => o.wait == some g.num
  | .relaunch fid => (s.frame? fid).any fun f => f.wait == some g.num
  | .queue q out => (s.queueObj q).any fun o => (if out then o.outWait else o.inWait) == some g.num

/-! ### What an answer does (R318, R319) -/

/-- The error a refused page gives work in flight. -/
def PageGroup.err (g : PageGroup) : Nat × Nat := (Cause.pageAbsent.code, g.val)

/-- A warp's answer: the instruction issues again, or raises PAGE_ABSENT. -/
def answerWarp (s : State) (g : PageGroup) (i : WarpId) (ok : Bool) : State :=
  match s.frame? i.fid with
  | none => s
  | some f =>
    match f.warp? i.idx, s.launch? f.lid with
    | some w, some l =>
      match w.hold with
      | none => s
      | some h =>
        let s := s.setWarp i.fid { w with hold := none }
        if ok then s
        else
          let len := lenBytes (s.rd ((Region.text (s.textLaunch l w).lid).at h.pc) 1 % 4)
          takeTrap s i.fid i.idx h.lanes h.pc len .pageAbsent g.val (some g.lane)
    | _, _ => s

/-- A refused collective: every member's operation ends with the error (R319). -/
def failCollective (s : State) (fid : Nat) (k : Nat × Nat) (err : Nat × Nat) : State :=
  let lane (x : CopyLane) : CopyLane := { x with fin := true, paused := none, err := x.err.orElse fun _ => some err }
  let one (c : CopyOp) : CopyOp := if c.fid = fid && c.coll = some k then { c with err := some err, dep := none, lanes := c.lanes.map lane } else c
  finishCollective { s with copies := s.copies.map one } fid k

/-- A copy lane's answer. -/
def answerCopy (s : State) (g : PageGroup) (id lane : Nat) (ok : Bool) : State :=
  if ok then s.setCopyLane id lane fun x => { x with paused := none }
  else
    match s.copies.find? fun c => c.id == id with
    | none => s
    | some c => match c.coll with
      | some k => failCollective s c.fid k g.err
      | none => laneDone s id lane (some g.err)

/-- A Truss operation's answer: it goes on at its row, or stops there (R132). -/
def answerTruss (s : State) (g : PageGroup) (id : Nat) (ok : Bool) : State :=
  let one (o : TrussOp) : TrussOp :=
    if o.id ≠ id then o
    else if ok then { o with paused := none }
    else { o.faulted .pageAbsent g.val o.row with paused := none, busy := false }
  let bay (b : Bay) : Bay := { b with entries := b.entries.map fun x => { x with ops := x.ops.map one } }
  match s.bays.find? fun (_, b) => b.ops.any fun o => o.id == id with
  | none => s
  | some (n, b) =>
    let s := s.setBay n (bay b)
    match (bay b).ops.find? fun o => o.id == id with
    | some o => s.noteTrussFault o
    | none => s

/-- An `FTLOAD`'s answer. -/
def answerFt (s : State) (g : PageGroup) (id : Nat) (ok : Bool) : State :=
  match s.ftops.find? fun o => o.id == id with
  | none => s
  | some o =>
    if ok then { s with ftops := modifyFirst (fun p => p.id == id) (fun p => { p with paused := none }) s.ftops }
    else s.ftDone o (some g.err)

/-- A decrement's answer (R319). -/
def answerDep (s : State) (g : PageGroup) (id : Nat) (ok : Bool) : State :=
  match s.deps.find? fun d => d.id == id with
  | none => s
  | some d =>
    if ok then { s with deps := modifyFirst (fun x => x.id == id) (fun x => { x with paused := none }) s.deps }
    else depDone s d (some g.err)

/-- An engine job's answer: it goes on at once with the access that paused, which fails if refused. -/
def answerJob (s : State) (g : PageGroup) (op : Nat) (ok : Bool) : State :=
  match s.dies.find? fun (_, d) => d.jobs.any fun j => j.opId == op with
  | none => s
  | some (n, d) => match d.jobs.find? fun j => j.opId == op with
    | none => s
    | some j => advanceJob s n { j with deny := if ok then none else some g.val }

def State.setProg (s : State) (i : Nat) (o : ProgObj) : State :=
  { s with scribe := { s.scribe with progs := sset none i (some o) s.scribe.progs } }

def State.setQueue (s : State) (i : Nat) (o : QueueObj) : State :=
  { s with scribe := { s.scribe with queues := sset none i (some o) s.scribe.queues } }

/-- An answer: the group is over, and a party that still waits resumes or fails. -/
def answer (s : State) (g : PageGroup) (ok : Bool) : State :=
  let waits := s.partyWaits g
  let s := { s with pages := s.pages.filter fun p => p.num != g.num }
  if !waits then s
  else match g.party with
    | .warp i => answerWarp s g i ok
    | .copy id lane => answerCopy s g id lane ok
    | .truss id => answerTruss s g id ok
    | .ft id => answerFt s g id ok
    | .dep id => answerDep s g id ok
    | .job op => answerJob s g op ok
    | .build p => match s.progObj p with
      | some o => s.setProg p { o with wait := none, deny := !ok }
      | none => s
    | .relaunch fid => match s.frame? fid with
      | some f => s.setFrame { f with wait := none, deny := !ok }
      | none => s
    | .queue q out => match s.queueObj q with
      | some o =>
        let deny := if ok then none else some g.val
        s.setQueue q (if out then { o with outWait := none, outDeny := deny } else { o with inWait := none, inDeny := deny })
      | none => s

/-! ### Sending (R316, R317) -/

/-- The control block and entry count of a port's request ring. -/
def Port.request (p : Port) : Nat × Nat := (64 * bits p.prbase.toNat 63 6, p.prn.toNat % 2 ^ 17)

/-- One record (Table 17.3). -/
def pageRecord (g : PageGroup) (id asid vmid idx : Nat) (last : Bool) (r : Nat × Bool × Bool × Bool × Nat × Nat) : List Byte :=
  let (page, write, st2, job, lane, pc) := r
  recordOf 32 [(0, 8, page), (8, 4, id), (12, 2, g.ctx), (14, 1, idx),
    (15, 1, natOf write + 2 * natOf st2 + 4 * natOf last + 8 * natOf job), (16, 2, asid), (18, 2, vmid), (20, 1, lane), (24, 4, pc)]

/-- A group's records written at consecutive entries. -/
def writeRecords (s : State) (base n prod : Nat) : List (List Byte) → State
  | [] => s
  | r :: rs => writeRecords (s.setMem (writeBytes s.mem (base + 64 + 32 * (prod % n)) r)) base n (prod + 1) rs

/-- A group written to the ring of a port; none while the ring lacks room. -/
def sendGroup (s : State) (p : Nat) (g : PageGroup) : Option State :=
  let x := s.port p
  let (base, n) := x.request
  let prod := s.rd base 8
  let cons := s.rd (base + 8) 8
  if n < (prod + 2 ^ 64 - cons) % 2 ^ 64 + g.recs.length then none
  else
    let c := (s.ctxObj g.ctx).getD {}
    let id := (x.groups + 1) % 2 ^ 32
    let recs := g.recs.mapIdx fun i r => pageRecord g id c.asid (if c.two then c.vmid else 0) i (i + 1 == g.recs.length) r
    let s := writeRecords s base n prod recs
    let s := s.wr base 8 ((prod + g.recs.length) % 2 ^ 64)
    let s := s.setPort p { x with groups := x.groups + 1 }
    some { s with pages := modifyFirst (fun q => q.num == g.num) (fun q => { q with phase := .sent, port := p, group := id }) s.pages }

/-- The oldest group still to be written. -/
def State.nextGroup (s : State) : Option PageGroup := s.pages.find? fun g => g.phase == .toSend

/-- `PAGE_REQUEST_SEND` (R316): the oldest group is written whole; without an enabled ring its party acts as on STATUS 1;
a group whose party waits no more is dropped. -/
def execPageRequestSend (s : State) : Res :=
  match s.nextGroup with
  | none => .next s
  | some g =>
    if !s.partyWaits g then .next { s with pages := s.pages.filter fun p => p.num != g.num }
    else match s.requestPort with
      | none => .next (answer s g false)
      | some p => .next ((sendGroup s p g).getD s)

/-! ### Responses (R316, R318, Table 17.4) -/

/-- One response taken: a group of the port that waits for it is answered, retried or refused. -/
def takeResponse (s : State) (port a : Nat) : State :=
  let group := s.rd a 4
  let ctx := s.rd (a + 4) 2
  let status := s.rd (a + 6) 1
  if s.rd (a + 7) 9 ≠ 0 then s
  else match s.pages.find? fun g => g.phase == .sent && g.port == port && g.group == group && g.ctx == ctx with
    | none => s
    | some g =>
      if status = 2 then
        { s with pages := modifyFirst (fun q => q.num == g.num) (fun q => { q with phase := .retry (s.now + 1800) }) s.pages }
      else answer s g (status == 0)

/-- Responses from a sequence on. -/
def takeResponses (port base n : Nat) : Nat → Nat → State → State
  | 0, _, s => s
  | k + 1, q, s => takeResponses port base n k (q + 1) (takeResponse s port (base + 64 + 16 * (q % n)))

/-- `PAGE_RESPONSE_DOORBELL` (R316): a nonzero 32-bit value makes the device take every response from CONS to PROD. -/
def execPageResponseDoorbell (port : Nat) (value : Nat) (s : State) : Res :=
  let p := s.port port
  let base := 64 * bits p.prsbase.toNat 63 6
  let n := p.prsn.toNat % 2 ^ 17
  if value % 2 ^ 32 = 0 || !bitOf p.prsbase.toNat 0 || n = 0 || s.bootFailed then .next s
  else
    let prod := s.rd base 8
    let cons := s.rd (base + 8) 8
    let k := min n ((prod + 2 ^ 64 - cons) % 2 ^ 64)
    .next ((takeResponses port base n k cons s).wr (base + 8) 8 prod).settleDone

/-- `PAGE_RETRY_DELAY_EXPIRY` (R318): the first group answered with STATUS 2 whose delay is over. -/
def execPageRetryDelayExpiry (s : State) : Res :=
  match s.pages.find? fun g => match g.phase with | .retry t => t ≤ s.now | _ => false with
  | none => .next s
  | some g => .next (answer s g true)

end Sys2Proof.Machine
end

