-- ==== Sys2Proof/Machine/Hash.lean ====
section
/-! DEFINITION. The two hashes the control side uses: CRC-32C (R247) and SHA-512 (R40, R300, R336; FIPS 180-4). -/

namespace Sys2Proof.Machine

/-! ### CRC-32C (Table 12.5) -/

/-- One bit of the reflected Castagnoli polynomial. -/
def crcBit (c : BitVec 32) : BitVec 32 := if c.getLsbD 0 then (c >>> 1) ^^^ 0x82F63B78#32 else c >>> 1

/-- `n` bits. -/
def crcBits : Nat → BitVec 32 → BitVec 32
  | 0, c => c
  | n + 1, c => crcBits n (crcBit c)

/-- CRC-32C, reflected, initial and final value all ones. -/
def crc32c (bs : List Byte) : Nat :=
  (bs.foldl (fun c b => crcBits 8 (c ^^^ b.setWidth 32)) 0xFFFFFFFF#32 ^^^ 0xFFFFFFFF#32).toNat

/-! ### SHA-512 (FIPS 180-4) -/

/-- The largest `x` with `x ^ k ≤ m`, its bits decided from bit `n - 1` down. -/
def rootBits (k m : Nat) : Nat → Nat → Nat
  | 0, x => x
  | n + 1, x => rootBits k m n (if (x + 2 ^ n) ^ k ≤ m then x + 2 ^ n else x)

/-- The first 64 bits after the binary point of the k-th root of a number. -/
def rootFraction (k p : Nat) : W64 := BitVec.ofNat 64 (rootBits k (p * 2 ^ (64 * k)) 69 0)

def isPrime (n : Nat) : Bool := 2 ≤ n && (List.range n).all fun d => d < 2 || n % d != 0

/-- The first 80 primes: the last is 409. -/
def shaPrimes : List Nat := (List.range 410).filter isPrime

/-- The 80 round constants: cube roots. The eight initial words: square roots. -/
def shaConsts : List W64 := shaPrimes.map (rootFraction 3)
def shaStart : List W64 := (shaPrimes.take 8).map (rootFraction 2)

/-- The exclusive or of rotations of a word. -/
def spin (x : W64) (ns : List Nat) : W64 := ns.foldl (fun y n => y ^^^ x.rotateRight n) 0

/-- `n` more words of the message schedule; the words so far stand newest first. -/
def shaExtend : Nat → List W64 → List W64
  | 0, ws => ws
  | n + 1, ws =>
    let at_ (i : Nat) : W64 := ws.getD i 0
    let new := at_ 15 + at_ 6 + (spin (at_ 14) [1, 8] ^^^ (at_ 14 >>> 7)) + (spin (at_ 1) [19, 61] ^^^ (at_ 1 >>> 6))
    shaExtend n (new :: ws)

/-- The two registers of four words each, newest first, that the rounds shift along. -/
structure ShaPair where
  up : List W64
  low : List W64
  deriving DecidableEq, Repr

/-- A round with its constant and its word of the schedule added already: the low register chooses, the upper one votes. -/
def ShaPair.turn (r : ShaPair) (kw : W64) : ShaPair :=
  let u (i : Nat) : W64 := r.up.getD i 0
  let l (i : Nat) : W64 := r.low.getD i 0
  let pick := l 2 ^^^ (l 0 &&& (l 1 ^^^ l 2))
  let vote := (u 0 &&& u 1) ||| (u 2 &&& (u 0 ||| u 1))
  let t := kw + l 3 + pick + spin (l 0) [14, 18, 41]
  { up := (t + vote + spin (u 0) [28, 34, 39]) :: r.up.take 3, low := (t + u 3) :: r.low.take 3 }

/-- A big-endian word of eight bytes. -/
def beWord (bs : List Byte) : W64 := BitVec.ofNat 64 (ofLe bs.reverse)

/-- One 128-byte block folded into the hash value. -/
def shaBlock (hash : List W64) (bs : List Byte) : List W64 :=
  let ws := shaExtend 64 ((List.range 16).map fun i => beWord ((bs.drop (8 * i)).take 8)).reverse
  let r := (List.zipWith (· + ·) shaConsts ws.reverse).foldl ShaPair.turn ⟨hash.take 4, hash.drop 4⟩
  List.zipWith (· + ·) hash (r.up ++ r.low)

/-- A message with its padding and its length in bits, a multiple of 128 bytes. -/
def shaPadded (bs : List Byte) : List Byte :=
  let used := bs.length + 17
  bs ++ 0x80#8 :: List.replicate ((used + 127) / 128 * 128 - used) 0 ++ (leBytes 16 (8 * bs.length)).reverse

/-- The 64 bytes of the digest. -/
def sha512Bytes (bs : List Byte) : List Byte :=
  let m := shaPadded bs
  let hash := (List.range (m.length / 128)).foldl (fun h i => shaBlock h ((m.drop (128 * i)).take 128)) shaStart
  hash.flatMap fun w => (leBytes 8 w.toNat).reverse

/-- The digest as the number its 64 bytes are in memory (R7). -/
def sha512 (bs : List Byte) : BitVec 512 := BitVec.ofNat 512 (ofLe (sha512Bytes bs))

end Sys2Proof.Machine
end

