-- ==== Sys2Proof/Machine/Ports.lean ====
section
/-! DEFINITION. What the outside does at the host ports and the peer links: configuration registers (R245, R293), the
shootdown rings (R290, R291), accesses of hosts and peers (R213, R320, R332), links (R333), the trusted interfaces (R297,
R298), and boot and measurement (R299 to R301). -/

namespace Sys2Proof.Machine

/-! ### Shootdowns (R290, R291) -/

/-- A shootdown request as it is processed (Table 16.5). -/
structure Shoot where
  asid : Nat := 0
  vmid : Nat := 0
  allVa : Bool := true
  allAsid : Bool := true
  gstage : Bool := false
  vmidv : Bool := false
  start : Nat := 0
  len : Nat := 0
  deriving DecidableEq, Repr

/-- Everything, for every VMID. -/
def Shoot.all : Shoot := {}

/-- A page lies in the range of a request. -/
def Shoot.covers (r : Shoot) (page : Nat) : Bool := r.allVa || (r.start / 4096 ≤ page && page < (r.start + r.len) / 4096)

/-- A cached translation matches a request: its ASID and VMID, whether it went through two stages, its pages, and whether
it names a table, whose reach counts as in every range. A request without a VMID matches every VMID. -/
def Shoot.hits (r : Shoot) (asid vmid : Nat) (two : Bool) (vpn gpn : Nat) (table : Bool) : Bool :=
  (!r.vmidv || (two && vmid == r.vmid)) &&
    if r.gstage then two && (table || r.covers gpn) else (r.allAsid || asid == r.asid) && (table || r.covers vpn)

def TlbEnt.isTable (t : TlbEnt) : Bool := match t.at_ with | .walk _ => true | _ => false

/-- A lane's last-page register is dropped where a request matches it. -/
def Lane.shoot (r : Shoot) (l : Lane) : Lane :=
  { l with lastPage := l.lastPage.filter fun p => !r.hits p.asid p.vmid p.two p.vpn p.gpn false }

def WCore.shoot (r : Shoot) (c : WCore) : WCore := { c with lanes := c.lanes.map (Lane.shoot r) }

/-- A warp's registers, and those its checkpoint holds. -/
def Warp.shoot (r : Shoot) (w : Warp) : Warp :=
  { w with wc := w.wc.shoot r, run := w.run.map fun x => { x with ckpt := x.ckpt.shoot r } }

/-- Every cached translation that matches a request becomes invalid (R291). -/
def State.shootdown (s : State) (r : Shoot) : State :=
  { s with
    tlb := s.tlb.filter fun t => !r.hits t.asid t.vmid t.two t.vpn t.gpn t.isTable
    frames := s.frames.map fun f => { f with warps := f.warps.map (Warp.shoot r) } }

/-- The whole address space of a context, as the Scribe shoots it down (R254, R279). -/
def CtxObj.whole (c : CtxObj) : Shoot := { asid := c.asid, vmid := c.vmid, allAsid := false, vmidv := c.two }

/-- A range of it. -/
def CtxObj.range (c : CtxObj) (start len : Nat) : Shoot :=
  { c.whole with allVa := false, start := start / 4096 * 4096, len := len + start % 4096 + 4095 }

/-- A request read from the ring; a reserved bit or a misaligned range makes it everything. -/
def readShoot (s : State) (a : Nat) : Shoot :=
  let flags := s.rd (a + 12) 1
  let start := s.rd (a + 16) 8
  let len := s.rd (a + 24) 8
  if flags / 16 ≠ 0 || s.rd (a + 14) 2 ≠ 0 || s.rd (a + 32) 32 ≠ 0 || start % 4096 ≠ 0 || len % 4096 ≠ 0 then .all
  else
    { asid := s.rd (a + 8) 2, vmid := s.rd (a + 10) 2, allVa := bitOf flags 0, allAsid := bitOf flags 1, gstage := bitOf flags 2
      vmidv := bitOf flags 3, start := start, len := len }

/-- The shootdown ring of a port when it is enabled: its control block and entries. -/
def Port.shootRing (p : Port) : Option (Nat × Nat) :=
  let n := p.sdn.toNat % 2 ^ 17
  if bitOf p.sdbase.toNat 0 && n ≠ 0 && n == 2 ^ n.log2 && n ≤ 65536 then some (64 * bits p.sdbase.toNat 63 6, n) else none

/-- The contexts whose translations a request matches. -/
def State.shootsAt (s : State) (r : Shoot) (ctx : Nat) : Bool := (s.ctxObj ctx).any fun c => r.hits c.asid c.vmid c.two 0 0 true

/-- Steps 1 and 2 of R291: matching translations become invalid, and what translated before is performed; the buffered stores of
guarded frames are waited for (DEDUCED, log 55). -/
def State.shootNow (s : State) (r : Shoot) : State × List (Nat × Nat) :=
  let s := s.performEvery.shootdown r
  (s, s.buffering fun l => s.shootsAt r l.ctx)

/-- A request taken: its translations become invalid and its acknowledgement waits. -/
def holdShoot (s : State) (port : Nat) (r : Shoot) (cons ack prod : Nat) : State :=
  let (s, olds) := s.shootNow r
  s.setPort port { s.port port with shoot := some { cons := cons, ack := ack, prod := prod, olds := olds } }

/-- An overrun ring (R290): one request for everything, up to PROD. -/
def overrun (s : State) (port base n prod : Nat) : State :=
  holdShoot s port .all prod (s.rd (base + 64 + 64 * ((prod + 2 ^ 64 - 1) % 2 ^ 64 % n)) 8) prod

/-- The next request from `cons` to `prod` is taken. -/
def takeShoot (s : State) (port base n cons prod : Nat) : State :=
  let left := (prod + 2 ^ 64 - cons) % 2 ^ 64
  if left = 0 then s.setPort port { s.port port with shoot := none }
  else if n < left then overrun s port base n prod
  else
    let entry := base + 64 + 64 * (cons % n)
    holdShoot s port (readShoot s entry) ((cons + 1) % 2 ^ 64) (s.rd entry 8) prod

/-- `SHOOTDOWN_FILE_WRITE` (R290): a nonzero identity at offset 0. -/
def execShootdownFileWrite (port off : Nat) (value : Nat) (s : State) : Res :=
  let p := s.port port
  match if off = 0 && value % 2 ^ 32 ≠ 0 && !s.bootFailed then p.shootRing else none with
  | none => .next s
  | some (base, n) =>
    let prod := s.rd base 8
    let cons := s.rd (base + 8) 8
    match p.shoot with
    | some x =>
      if n < (prod + 2 ^ 64 - cons) % 2 ^ 64 then .next (overrun s port base n prod)
      else .next (s.setPort port { p with shoot := some { x with prod := prod } })
    | none => .next (takeShoot s port base n cons prod)

/-- The request in hand whose old accesses are performed: its port. -/
def State.acking (s : State) : Option (Nat × ShootWait) :=
  [0, 1].findSome? fun p => (s.port p).shoot.bind fun x => if s.stillBuffering x.olds then none else some (p, x)

/-- `SHOOTDOWN_ACK` (R291): CONS and ACK by one release once every old access is performed, and the next request is taken. -/
def execShootdownAck (s : State) : Res :=
  match s.acking with
  | none => .next s
  | some (port, x) =>
    let p := s.port port
    match p.shootRing with
    | none => .next (s.setPort port { p with shoot := none })
    | some (base, n) => .next (takeShoot ((s.wr (base + 8) 8 x.cons).wr (base + 16) 8 x.ack) port base n x.cons x.prod)

/-! ### Trusted interfaces (R297, R298) -/

/-- A TDI by its number: 8 × port + interface. -/
def State.tdi (s : State) (i : Nat) : Tdi := sget {} s.tdis i
def State.setTdi (s : State) (i : Nat) (t : Tdi) : State := { s with tdis := sset {} i t s.tdis }

/-- Its fields are locked. -/
def Tdi.locked (t : Tdi) : Bool := t.st == .locked || t.st == .run

/-- The queues of an interface, by id. -/
def State.queuesOn (s : State) (port qif : Nat) : List (Nat × QueueObj) :=
  s.scribe.queues.filterMap fun (i, q) => q.bind fun q => if q.port = port && q.qif = qif then some (i, q) else none

/-- Bytes 8 to 15 of a queue's error records (Table 12.18). -/
def queueWhere (port qif qnum : Nat) : Nat := qif + 2 ^ 8 * port + 2 ^ 16 * (qnum % 512)

/-- One count of REFUSED and one error record (R265, R294, R295). -/
def State.refuse (s : State) (code qid port qif qnum b24 : Nat) : State :=
  (s.addRefused port qif).errorRecord code qid (queueWhere port qif qnum) b24

/-- Every announcement of an interface that is still being brought in stops; each counts once (R295). -/
def dropAnnouncements (s : State) (port qif : Nat) : State :=
  (s.queuesOn port qif).foldl (fun s (i, q) =>
    let n := (q.anns ++ q.latch).length
    let s := s.setQueue i { q with anns := [], latch := [], inWait := none, inDeny := none }
    (List.range n).foldl (fun s _ => s.refuse 4 i port qif q.qnum 0) s) s

/-- What entering ERROR or stopping does (R298): DMA in flight ends, the contexts of its queues are FAULTED (TDI_LOST),
and the messages queued go to the return ring. -/
def tdiLost (s : State) (i : Nat) : State :=
  let port := i / 8
  let qif := i % 8
  let s := dropAnnouncements s port qif
  let qs := s.queuesOn port qif
  let s := qs.foldl (fun s (_, q) => s.faultEntry 1 q.ctx Cause.tdiLost.code) s
  qs.foldl (fun s (n, q) => if q.reason = 0 then s.setQueue n { q with reason := 3 } else s) s

/-- A locked TDI moves to ERROR. -/
def tdiFails (s : State) (i : Nat) : State :=
  let t := s.tdi i
  if t.locked then (tdiLost s i).setTdi i { t with st := .error } else s

/-- `TDI_ERROR` (R298): an IDE stream fault or the end of the session. -/
def execTdiError (iface : Nat) (s : State) : Res := .next (tdiFails s iface)

/-- Twice the heartbeat period of 60 s, in clk. -/
def sessionClk : Nat := 2 * 60 * 1800000000

/-- The session is live: one that has expired stays so. -/
def State.session (s : State) : Bool := s.spdm.any fun x => s.now ≤ x.last + sessionClk

/-- A secured message keeps a live session alive. -/
def State.secured (s : State) : State := if s.session then { s with spdm := some ⟨s.now⟩ } else s

/-- A message of the requester comes in the live session of a device that has booted (R298, R299); else it is refused. -/
def inSession (s : State) (k : State → Res) : Res :=
  if s.session && !s.bootFailed then k s.secured else .next { s with reply := .refused }

/-- `LOCK_INTERFACE_REQUEST` (R298): the nonce is the responder's choice. -/
def execLockInterfaceRequest (iface : Nat) (nonce : Nat) (s : State) : Res :=
  inSession s fun s =>
    if (s.tdi iface).st == .unlocked then .next { s.setTdi iface { st := .locked, nonce := nonce } with reply := .nonce nonce }
    else .next { s with reply := .refused }

/-- `START_INTERFACE_REQUEST` (R298): with the nonce of the lock. -/
def execStartInterfaceRequest (iface : Nat) (nonce : Nat) (s : State) : Res :=
  inSession s fun s =>
    let t := s.tdi iface
    if t.st == .locked && t.nonce == nonce then .next { s.setTdi iface { t with st := .run } with reply := .none }
    else .next { s with reply := .refused }

/-- `STOP_INTERFACE_REQUEST` (R298): unlocked, after the effects of ERROR where it was locked or running. -/
def execStopInterfaceRequest (iface : Nat) (s : State) : Res :=
  inSession s fun s =>
    let s := if (s.tdi iface).locked then tdiLost s iface else s
    .next { s.setTdi iface {} with reply := .none }

/-- Every locked TDI moves to ERROR. -/
def State.sessionEnds (s : State) : State := (List.range 16).foldl tdiFails { s with spdm := none }

/-- `SPDM_SESSION_START` (R297): a session that had expired ends first. -/
def execSpdmSessionStart (s : State) : Res :=
  if s.bootFailed then .next s
  else .next { (if s.spdm.isSome && !s.session then s.sessionEnds else s) with spdm := some ⟨s.now⟩ }

/-- `SPDM_SESSION_EXPIRY` (R298). -/
def execSpdmSessionExpiry (s : State) : Res := if s.spdm.isSome && !s.session then .next s.sessionEnds else .next s

/-! ### Configuration registers (R245, R290, R293, R316) -/

/-- The bits of a register that are not reserved. -/
def kept (mask value : Nat) : W64 := BitVec.ofNat 64 (value &&& mask)

/-- Address bits [63:6] and enable. -/
def ringMask : Nat := 2 ^ 64 - 64 + 1

/-- `PLANBASE` (R245): the first write with VALID = 1 latches. -/
def State.writePlanbase (s : State) (value : Nat) : State :=
  if s.planbase.getLsbD 0 || !bitOf value 0 then s else { s with planbase := kept (2 ^ 64 - 2 ^ 12 + 1) value }

def execPlanbase (value : Nat) (s : State) : Res := .next (s.writePlanbase value)

/-- `TOUCH` (R245). -/
def execTouch (s : State) : Res := .next { s with touched := true }

/-- A queue interface's registers changed. -/
def State.setQif (s : State) (port i : Nat) (g : QifRegs → QifRegs) : State :=
  let p := s.port port
  s.setPort port { p with qif := sset {} i (g (sget {} p.qif i)) p.qif }

/-- `QIFCFG` (R293, R295): clearing PV or changing the PASID stops every fetch in flight; a locked TDI moves to ERROR. -/
def State.writeQifcfg (s : State) (port i value : Nat) : State :=
  let old := (sget ({} : QifRegs) (s.port port).qif i).cfg.toNat
  let new := value % 2 ^ 22
  let stop := bitOf old 20 && (!bitOf new 20 || old % 2 ^ 20 ≠ new % 2 ^ 20)
  let s := s.setQif port i fun q => { q with cfg := BitVec.ofNat 64 new }
  tdiFails (if stop then dropAnnouncements s port i else s) (8 * port + i)

def execQifcfg (port i : Nat) (value : Nat) (s : State) : Res :=
  if i < 8 then .next (s.writeQifcfg port i value) else .next s

/-- A register of one port stored (Table 12.1, R290, R293, R316); an offset that no table assigns, and a read-only
register, ignore the write. -/
def State.writeConfig (s : State) (port off value : Nat) : State :=
  let p := s.port port
  if off = 0x10 then s.writePlanbase value
  else if off = 0x18 then { s with touched := true }
  else if off = 0x28 then s.setPort port { p with sdbase := kept ringMask value }
  else if off = 0x30 then s.setPort port { p with sdn := kept (2 ^ 17 - 1) value }
  else if off = 0x100 then s.setPort port { p with prbase := kept ringMask value }
  else if off = 0x108 then s.setPort port { p with prn := kept (2 ^ 17 - 1) value }
  else if off = 0x110 then s.setPort port { p with prsbase := kept ringMask value }
  else if off = 0x118 then s.setPort port { p with prsn := kept (2 ^ 17 - 1) value }
  else if off % 8 ≠ 0 then s
  else if 0x40 ≤ off && off < 0x80 then s.writeQifcfg port ((off - 0x40) / 8) value
  else if 0x80 ≤ off && off < 0xC0 then
    let i := (off - 0x80) / 8
    tdiFails (s.setQif port i fun q => { q with msib := kept (2 ^ 59 - 2 ^ 18 + 1) value }) (8 * port + i)
  else if 0xC0 ≤ off && off < 0x100 then
    let i := (off - 0xC0) / 8
    tdiFails (s.setQif port i fun q => { q with msit := kept (2 ^ 64 - 2 ^ 12) value }) (8 * port + i)
  else s

/-- What a read of a port's DVSEC gives (R245, R256, R290, R293, R301, R316): an offset that no table assigns, and every reserved
bit, reads 0. -/
def State.readConfig (s : State) (port off : Nat) : W64 :=
  let p := s.port port
  let qif (base : Nat) : QifRegs := sget {} p.qif ((off - base) / 8)
  if off = 0x10 then s.planbase
  else if off = 0x20 then BitVec.ofNat 64 Config.abBase
  else if off = 0x28 then p.sdbase
  else if off = 0x30 then p.sdn
  else if off = 0x38 then s.bootstat
  else if off = 0x100 then p.prbase
  else if off = 0x108 then p.prn
  else if off = 0x110 then p.prsbase
  else if off = 0x118 then p.prsn
  else if off % 8 ≠ 0 then 0
  else if 0x40 ≤ off && off < 0x80 then (qif 0x40).cfg
  else if 0x80 ≤ off && off < 0xC0 then (qif 0x80).msib
  else if 0xC0 ≤ off && off < 0x100 then (qif 0xC0).msit
  else 0

/-- `CONFIG_REGISTER_WRITE` (R245). -/
def execConfigRegisterWrite (port off : Nat) (value : Nat) (s : State) : Res := .next (s.writeConfig port off value)

/-! ### Accesses from outside (R213, R320, R332) -/

/-- Bytes an access covers. -/
def busSize : BusOp → Nat
  | .read n => n
  | .write bs => bs.length
  | .rmw _ n _ => n

/-- An access performed at physical addresses: its reply, and memory after it. A line whose check fails is never returned
as good data (R332). -/
def busPerform (s : State) (op : BusOp) (as : List Nat) (point : Nat) : State :=
  match op with
  | .write bs => { (s.setMem (writeCells s.mem (as.zip bs))).heal as with reply := .none }
  | .read _ =>
    match as.find? s.lineBad with
    | some a => { s.lineError a point with reply := .error }
    | none => { s with reply := .data (as.map fun a => readByte s.mem a) }
  | .rmw mop n x =>
    match as.find? s.lineBad with
    | some a => { s.lineError a point with reply := .error }
    | none =>
      let bs := as.map fun a => readByte s.mem a
      { s.setMem (writeCells s.mem (as.zip (leBytes n (atomicOp mop n (ofLe bs) x)))) with reply := .data bs }

/-- `HOST_CXL_ACCESS` (R213): a host access by physical address, performed whole. A failed boot accepts none (R299). -/
def execHostCxlAccess (acc : BusAccess) (s : State) : Res :=
  if s.bootFailed then .next { s with reply := .error }
  else .next (busPerform s acc.op ((List.range (busSize acc.op)).map fun i => Region.host.at ((acc.addr + i) % 2 ^ 64)) 0)

/-- What an access needs. -/
def busAcc : BusOp → Acc
  | .read _ => .r
  | .write _ => .w
  | .rmw _ _ _ => .a

/-- `PEER_INBOUND_ACCESS` (R320): translated in the context it carries; one that fails is not performed, and is answered
with an error and a PEER_FAULT record. -/
def execPeerInboundAccess (acc : BusAccess) (s : State) : Res :=
  let refuse (s : State) (c : Cause) : Res := .next { s.errorRecord 6 acc.node acc.addr c.code with reply := .error }
  match s.vaRange acc.ctx acc.addr (busSize acc.op) (busAcc acc.op) with
  | .ok s as => .next (busPerform s acc.op as 1)
  | .absent _ => refuse s .pageAbsent
  | .fault s _ c => refuse s c

/-- `MEMORY_SCRUB` (R332): the scrub finds a device-memory line whose check fails. -/
def execMemoryScrub (addr : Nat) (s : State) : Res :=
  if Config.devBytes ≤ addr then .next s else .next ((s.spoil (s.dev addr / 64)).lineError (s.dev addr) 5)

/-! ### Links (R333) -/

/-- `LINK_DOWN`: the link leaves the routing tables, once. -/
def execLinkDown (link : Nat) (s : State) : Res :=
  if 16 ≤ link || sget false s.linksDown link then .next s
  else .next ({ s with linksDown := sset false link true s.linksDown }.errorRecord 8 link 0 0)

/-- `LINK_RETRAINED`. -/
def execLinkRetrained (link : Nat) (s : State) : Res := .next { s with linksDown := sset false link false s.linksDown }

/-! ### Boot and measurement (R299 to R301) -/

/-- A measurement register extended: SHA-512 of its bytes and the digest's (R300). -/
def State.extend (s : State) (m : Nat) (d : BitVec 512) : State :=
  { s with meas := sset 0 m (sha512 (leBytes 64 (sget 0 s.meas m).toNat ++ leBytes 64 d.toNat)) s.meas }

/-- The digest of a stage: what the outside names, else a free value (DESIGN CHOICE, log 6). -/
def bootDigestOf (b : BootInput) (boot m : Nat) : BitVec 512 :=
  ((b.digests.find? fun x => x.1 == m).map Prod.snd).getD (Config.bootDigest boot m)

/-- `CONVENTIONAL_RESET` (R299 to R301): the state after reset with memory as it was but for the as-built table and the
frames' own spaces, then the boot chain: each stage verified extends its register; the first that fails is named by
BOOTSTAT. -/
def execConventionalReset (b : BootInput) (s : State) : Res :=
  let ab := s.dev Config.abBase
  let keep := s.mem.filter fun (a, _) => isOutside a && !(ab ≤ a && a < ab + 8 * 2 ^ 20)
  let s0 : State := { State.reset with mem := keep, hdmBase := s.hdmBase, bad := s.bad, boots := s.boots + 1, agenda := s.agenda, fresh := s.fresh }
  let verified := match b.failStage with | some k => min (k - 1) 4 | none => 4
  let stages := [0, 6] ++ (List.range verified).map fun i => i + 1
  let s1 := stages.foldl (fun s m => s.extend m (bootDigestOf b s0.boots m)) s0
  .next { s1 with bootstat := BitVec.ofNat 64 (verified + 16 * natOf b.failStage.isSome) }

/-- `GET_MEASUREMENTS` (R300): indices 1 to 16; a device whose boot failed answers none (R299). -/
def execGetMeasurements (index : Nat) (s : State) : Res :=
  let s := s.secured
  if 1 ≤ index && index ≤ 16 && !s.bootFailed then .next { s with reply := .measurement [sget 0 s.meas (index - 1)] }
  else .next { s with reply := .refused }

end Sys2Proof.Machine
end

