-- ==== Sys2Proof/Machine/Placing.lean ====
section
/-! DEFINITION. Frames carried in and out: placement (R233, R234, R33), pre-emption and stopping in place (R235 to R237,
R242), removal (R255), relaunch (R328 to R331) and the gating of bays (R302). -/

namespace Sys2Proof.Machine

/-! ### What frames occupy (R13, R14, R233) -/

/-- Lanes of a frame; a protected frame's threads take two each (R330). -/
def Launch.laneCount (l : Launch) : Nat := if l.prot then 2 * l.threads else l.threads

def Launch.warpCount (l : Launch) : Nat := ceilDiv l.laneCount l.width

/-- A frame that is on its bay, running or not. -/
def Frame.onBay (f : Frame) : Bool := f.phase != .out

def State.launchOf (s : State) (f : Frame) : Launch := (s.launch? f.lid).getD { lid := f.lid, prog := 0 }

/-- A Truss operation reads or writes vector registers. -/
def TrussWork.onRegs : TrussWork → Bool
  | .loop a b .. => a.reg || b.reg
  | .tld l _ => l.reg
  | .tst l .. => l.reg
  | _ => false

/-- Work outstanding needs the registers of a warp that has exited (R123, R138, R224). -/
def State.regsInUse (s : State) (f : Frame) (w : Warp) : Bool :=
  w.ops.any (fun o => o.writes != []) || w.acc.any (fun u => u.work.ones != []) ||
    (s.dies.any fun (_, d) => d.jobs.any fun j => j.fid == f.fid && j.widx == w.idx) ||
    (s.bay f.bay).ops.any fun o => !o.fin && o.fid == f.fid && o.widx == w.idx && o.work.onRegs

/-- Every warp that holds registers of a partition of a core, with its launch. -/
def State.residents (s : State) (core part : Nat) : List (Launch × Warp) :=
  (s.frames.filter Frame.onBay).flatMap fun f =>
    (f.warps.filter fun w => w.core == core && w.part == part && (!w.gone || s.regsInUse f w)).map fun w => (s.launchOf f, w)

/-- A partition takes more warps of a launch: its width, and its registers (R13). -/
def State.partTakes (s : State) (l : Launch) (core part n : Nat) : Bool :=
  let rs := s.residents core part
  rs.all (fun x => x.1.width == l.width) &&
    decide ((rs.map fun x => x.1.vregs).sum + n * l.vregs ≤ Config.fileWords / l.width)

/-- The warp slots taken of a partition: an exited warp has given its slot back (R224). -/
def State.slotsTaken (s : State) (core part : Nat) : List Nat :=
  ((s.residents core part).filter fun x => !x.2.gone).map fun x => x.2.slot

def State.slotFree (s : State) (core part slot : Nat) : Bool := !(s.slotsTaken core part).contains slot

/-- Frames that hold TLB sets of a core. -/
def State.coreFrames (s : State) (core : Nat) : List Frame :=
  s.frames.filter fun f => f.onBay && f.tlbSets.any fun x => x.1 == core

/-- A core takes another frame of a context: two TLB sets, and no frame of another context (R14, R187). -/
def State.coreTakes (s : State) (ctx core : Nat) : Bool :=
  let fs := s.coreFrames core
  decide ((fs.map fun f => (f.tlbSets.find? fun x => x.1 == core).elim 0 Prod.snd).sum + 2 ≤ 16) &&
    fs.all fun f => (s.launchOf f).ctx == ctx

/-- The scratchpad of a bay fits another frame. -/
def State.scratchTakes (s : State) (l : Launch) (bay : Nat) : Bool :=
  decide ((((s.frames.filter fun f => f.onBay && f.bay == bay).map fun f => (s.launchOf f).scratch).sum) + l.scratch ≤ Config.bayScratch)

/-- The bay rings a frame carries have free numbers. -/
def State.ringsFree (s : State) (f : Frame) (bay : Nat) : Bool :=
  f.carried.all fun (c, _) => !(s.bay bay).rings.any fun (k, _) => k == c

/-! ### Save slices (R235) -/

/-- A mapping of a context by its id, when it is BUILT. -/
def State.builtMap (s : State) (ctx : Nat) (m : Option Nat) : Option MapObj :=
  m.bind fun m => if (s.entry 2 m).stands then (s.mapObj m).filter fun o => o.ctx == ctx else none

/-- What SAVEMAP offers: slices, none without a save area. -/
def State.slices (s : State) (ctx : Nat) : Option Nat :=
  (s.ctxObj ctx).bind fun c => (s.builtMap ctx c.savemap).map fun o => if c.saveslice = 0 then 0 else o.len / c.saveslice

/-- The lowest slice that no other frame of the context holds. -/
def State.freeSlice (s : State) (ctx n : Nat) : Option Nat :=
  (List.range n).find? fun i => s.frames.all fun f => !((s.launchOf f).ctx == ctx && f.slice == some i)

/-- The slice a frame has once placed; `none` when it must wait for one. -/
def State.sliceFor (s : State) (f : Frame) (l : Launch) : Option (Option Nat) :=
  match f.slice with
  | some i => some (some i)
  | none =>
    match s.slices l.ctx with
    | none => some none
    | some n => (s.freeSlice l.ctx n).map some

/-! ### The test of R233 -/

/-- Cores named by some places, once each. -/
def coresOf (ps : List (Nat × Nat × Nat)) : List Nat := (ps.map fun x => x.1).eraseDups

/-- The warps of a frame that take a slot, with their places. -/
def usedSlots (f : Frame) (p : Placement) : List (Warp × Nat × Nat × Nat) :=
  (f.warps.zip p.slots).filter fun x => !x.1.gone

/-- A frame can be placed as Felzen chose. -/
def State.canPlace (s : State) (f : Frame) (l : Launch) (p : Placement) : Bool :=
  let us := (usedSlots f p).map Prod.snd
  let count (c q : Nat) : Nat := (us.filter fun x => x.1 == c && x.2.1 == q).length
  decide (p.bay < Config.bays) && p.slots.length == f.warps.length && us.eraseDups.length == us.length &&
    us.all (fun (c, q, n) => bayOf c == p.bay && decide (q < Config.partsPerCore) && decide (n < Config.slotsPerPart) &&
      s.slotFree c q n && s.partTakes l c q (count c q)) &&
    (coresOf us).all (s.coreTakes l.ctx) && s.scratchTakes l p.bay && s.ringsFree f p.bay && (s.sliceFor f l).isSome

/-- Warps of a launch that the free slots of a core's partitions take. -/
def State.coreRoom (s : State) (l : Launch) (core : Nat) : Nat :=
  if !s.coreTakes l.ctx core then 0
  else
    ((List.range Config.partsPerCore).map fun q =>
      let rs := s.residents core q
      let free := Config.fileWords / l.width - (rs.map fun x => x.1.vregs).sum
      if rs.all (fun x => x.1.width == l.width) then min (Config.slotsPerPart - (s.slotsTaken core q).length) (free / l.vregs) else 0).sum

/-- A bay has room for a frame. -/
def State.bayRoom (s : State) (f : Frame) (l : Launch) (bay : Nat) : Bool :=
  let warps := (f.warps.filter fun w => !w.gone).length
  let room := ((List.range Config.coresPerBay).map fun i => s.coreRoom l (bay * Config.coresPerBay + i)).sum
  decide (warps ≤ room) && s.scratchTakes l bay && s.ringsFree f bay && (s.sliceFor f l).isSome

/-! ### The state a warp starts in (R33, R234) -/

/-- The capability on a launch's parameter block. -/
def paramCap (l : Launch) : Cap :=
  { kind := 7, len := Config.paramLength l.lid, perm := 1, cls := .release, src := .launch l.lid, tgt := .param l.lid, ctx := l.ctx }

/-- The capability on a launch's data area. -/
def dataCap (l : Launch) : Cap :=
  { kind := 7, len := l.dataSize, perm := 3, cls := .release, src := .launch l.lid, tgt := .data l.lid, ctx := l.ctx }

/-- The context scratch area: SCRMAP's entry, or null (R33). -/
def State.scratchArea (s : State) (ctx : Nat) : Cap :=
  match (s.ctxObj ctx).bind fun c => s.builtMap ctx c.scrmap with
  | some o => s.tableCap ctx o.tabidx
  | none => Cap.null

/-- Capability registers at a start: `k0` of the launch, `k1`, and the list of the header whose data area is `t`'s. -/
def State.startCaps (s : State) (l t : Launch) : SMap Cap :=
  let own := t.caps.map fun (k, i) => (k, match i with | some i => s.tableCap l.ctx i | none => dataCap t)
  ssetMany Cap.null [] ([(0, paramCap l), (1, s.scratchArea l.ctx)] ++ own)

/-- A warp at its start: lanes of the frame's threads live at a PC, registers zero. -/
def startWarp (l : Launch) (idx pc : Nat) (at_ : Nat × Nat × Nat) (ks : SMap Cap) (now : Nat) : Warp :=
  let lane (i : Nat) : Lane := if l.width * idx + i < l.laneCount then { pc := pc, st := .live } else {}
  { idx := idx, core := at_.1, part := at_.2.1, slot := at_.2.2, wc := { lanes := (List.range l.width).map lane }, k := ks, nextIssue := now }

/-- The same for a restore: a warp whose every lane had exited stays so; the collectives it issued stay counted. -/
def restoreWarp (l r : Launch) (old : Warp) (at_ : Nat × Nat × Nat) (ks : SMap Cap) (now : Nat) : Warp :=
  if old.gone then old
  else { startWarp l old.idx r.entry at_ ks now with mode := .restore, cpygSeq := old.cpygSeq }

/-- A frame of a launch before it is placed. -/
def Launch.newFrame (l : Launch) (fid idx : Nat) : Frame :=
  { fid := fid, lid := l.lid, idx := idx, phase := .out
    warps := (List.range l.warpCount).map fun i => { idx := i, core := 0, part := 0, slot := 0 } }

/-- Why a frame starts. -/
inductive Start where
  | entry | restart | restore (r : Launch)
  deriving DecidableEq, Repr

/-- The warps of a frame at their start. -/
def State.startWarps (s : State) (f : Frame) (l : Launch) (p : Placement) (why : Start) : List Warp :=
  let pairs := f.warps.zip p.slots
  match why with
  | .entry => pairs.map fun (w, at_) => startWarp l w.idx l.entry at_ (s.startCaps l l) s.now
  | .restart => pairs.map fun (w, at_) => startWarp l w.idx (if l.restart = 0 then l.entry else l.restart) at_ (s.startCaps l l) s.now
  | .restore r =>
    let k31 := sliceCap s f l
    pairs.map fun (w, at_) =>
      let x := restoreWarp l r w at_ (s.startCaps l r) s.now
      if w.gone then x else x.setBank 0 f k31

/-- A core that held no frame has clear tags for the next (R292). -/
def State.freshTags (s : State) (core : Nat) : State :=
  if s.coreFrames core = [] then { s with tags := s.tags.filter fun (k, _) => k / 64 != core } else s

/-- A frame placed: its space is cleared (R292), its rings are carried in, its warps start, and a gated bay begins to
wake. -/
def placeFrame (s : State) (f : Frame) (l : Launch) (p : Placement) (why : Start) : State :=
  let cores := coresOf ((usedSlots f p).map Prod.snd)
  let s := cores.foldl State.freshTags s
  let f := { f with slice := ((s.sliceFor f l).getD none) }
  let b := s.bay p.bay
  let b := { b with rings := b.rings ++ f.carried, power := if b.power = .gated then .waking else b.power }
  let ws := s.startWarps f l p why
  let f := { f with
    bay := p.bay, phase := .resident, warps := ws, barriers := List.replicate l.groups.length {}, frozen := none
    barrsDone := false, fsb := [], carried := [], tlbSets := cores.map fun c => (c, 2), again := false, stopped := false }
  let s := { s with mem := clearRegion s.mem (.scratch f.fid) }
  let s := s.setBay p.bay b
  let fs := if (s.frame? f.fid).isSome then modifyFirst (fun g => g.fid == f.fid) (fun _ => f) s.frames else s.frames ++ [f]
  { s with frames := fs }

/-! ### Entries of programs and contexts that follow their frames (R254, R256, R257) -/

/-- The frames placed of a launch, which DETAIL of its PROGRAM counts: those on a bay (R329; DEDUCED, log 26). -/
def State.framesPlaced (s : State) (lid : Nat) : Nat := (s.frames.filter fun f => f.lid == lid && f.onBay).length

/-- Every restart record of a launch is written (R328). -/
def ProgObj.recorded (o : ProgObj) (l : Launch) : Bool := l.rstmap.isNone || decide (l.frames ≤ o.recs)

/-- A PROGRAM's entry brought up to date with its frames: BUILT once all have been placed and none is being taken away. -/
def State.settleProgram (s : State) (prog : Nat) : State :=
  match s.progObj prog with
  | none => s
  | some o =>
    match o.lid.bind s.launch? with
    | none => s
    | some l =>
      let e := s.entry 4 prog
      let n := s.framesPlaced l.lid
      let extra := s.frames.any fun f => f.lid == l.lid && decide (l.frames ≤ f.idx)
      if e.st = .building && !o.pending && o.recorded l && !extra && (l.routine || decide (l.frames ≤ o.placed.length)) then
        s.setEntry 4 prog { e with st := .built, version := o.target, live := true, detail := n }
      else if e.countsFrames && e.detail ≠ n then s.setEntry 4 prog { e with detail := n }
      else s

/-- Frames of a context. -/
def State.framesOf (s : State) (ctx : Nat) : List Frame := s.frames.filter fun f => (s.launchOf f).ctx == ctx

/-- A context that is to be suspended, that a snapshot holds, or that a failed restore left half written, gets no frame
placed (R264, R336, R337). -/
def State.ctxHeld (s : State) (ctx : Nat) : Bool :=
  (s.ctxObj ctx).any (fun c => c.run == 1) || s.scribe.torn.contains ctx ||
    s.scribe.snaps.any fun (_, x) => x.any fun x => x.held.contains ctx

/-- No frame of a context runs. -/
def State.quiet (s : State) (ctx : Nat) : Bool :=
  (s.framesOf ctx).all fun f => f.stopped || f.phase == .out || f.phase == .removing

/-- A CONTEXT's entry brought up to date: SUSPENDED once every frame is out or stopped, SWAPPED while Felzen keeps every
frame out. -/
def State.settleContext (s : State) (ctx : Nat) : State :=
  match s.ctxObj ctx with
  | none => s
  | some c =>
    let e := s.entry 1 ctx
    let fs := s.framesOf ctx
    let swapped := fs != [] && fs.all (fun f => f.phase == .out) && !s.ctxHeld ctx
    if c.run = 1 && e.st = .building && s.quiet ctx then s.setEntry 1 ctx { e with st := .built, version := e.target, live := true, suspended := true, swapped := false }
    else if s.ctxHeld ctx && e.st = .built && !e.suspended && s.quiet ctx then s.setEntry 1 ctx { e with suspended := true, swapped := false }
    else if e.swapped ≠ swapped then s.setEntry 1 ctx { e with swapped := swapped }
    else s

/-! ### FRAME_PLACEMENT -/

/-- The routines of a context fit a PROGRAM (R235). -/
def State.routinesFit (s : State) (l : Launch) : Bool :=
  match s.ctxObj l.ctx with
  | none => true
  | some c => [c.save, c.restore, c.trap].all fun r => match s.routineOf r with | some r => routineFits r l | none => true

/-- A PROGRAM still has its frames placed (R257, R331). -/
def State.placing (s : State) (l : Launch) : Bool :=
  let e := s.entry 4 l.prog
  l.live && !l.routine && !s.ctxHeld l.ctx &&
    (e.st == .building || e.st == .built || (e.st == .faulted && e.live && e.fault != Cause.shadowRepeat.code))

/-- A frame placed at its entry for the first time. -/
def placeNew (s : State) (o : ProgObj) (l : Launch) (p : Placement) : State :=
  if o.placed.contains p.frame || l.frames ≤ p.frame || !s.placing l || (l.rstmap.isSome && decide (o.recs ≤ p.frame)) then s
  else if o.placed = [] && !s.routinesFit l then
    let e := s.entry 4 l.prog
    s.setEntry 4 l.prog { e with st := .faulted, fault := Cause.badRoutine.code }
  else
    let f := l.newFrame s.fresh p.frame
    if s.canPlace f l p then
      ((placeFrame s.tick f l p .entry).setProg l.prog { o with placed := o.placed ++ [p.frame] }).settleProgram l.prog
    else s

/-- A pre-empted frame placed again: its warps start the restore routine (R242). -/
def placeBack (s : State) (f : Frame) (l : Launch) (p : Placement) : State :=
  match (s.ctxObj l.ctx).bind fun c => s.routineOf c.restore with
  | none => s
  | some r =>
    if routineFits r l && s.canPlace f l p && l.live && !s.ctxHeld l.ctx then
      ((placeFrame s f l p (.restore r)).settleProgram l.prog).settleContext l.ctx
    else s

/-- `FRAME_PLACEMENT` (R233): Felzen places a frame of a PROGRAM, or one that is out. -/
def execFramePlacement (p : Placement) (s : State) : Res :=
  match s.progObj p.prog with
  | none => .next s
  | some o =>
    match o.lid.bind s.launch? with
    | none => .next s
    | some l =>
      match s.frames.find? fun f => f.lid == l.lid && f.idx == p.frame with
      | none => .next (placeNew s o l p)
      | some f => if f.phase = .out && !f.again then .next (placeBack s f l p) else .next s

/-! ### Pre-emption (R236, R237, R264) -/

/-- A warp stops at its boundary: it leaves runahead and abandons a held instruction (R236, R237). -/
def Warp.stopInPlace (w : Warp) : Warp := { w.rollback with hold := none, burst := none }

/-- A frame of a context without save or restore routine stops in place. -/
def stopFrame (s : State) (f : Frame) : State := s.setFrame { f with stopped := true, warps := f.warps.map Warp.stopInPlace }

/-- Warps that SAVE_REQ finds outside a routine enter the save routine once the commit of a guarded frame's buffer is over; one
with a late fault takes that first. -/
def enterSaves (s : State) (fid : Nat) : State :=
  if s.committing fid then s
  else match s.frame? fid with
    | none => s
    | some f => (f.warps.filter fun w => w.saveReq && !w.priv && w.late.isNone).foldl (fun s w => enterSave s fid w) s

/-- SAVE_REQ (R237): the barriers freeze, the buffer is committed, every warp stops at its boundary and enters the save
routine, or will at the end of the routine it runs. -/
def saveFrame (s : State) (f : Frame) : State :=
  let (s, _) := s.closeBuffer f.fid (s.launchOf f) true
  let f := (s.frame? f.fid).getD f
  let mark (w : Warp) : Warp := if w.gone then w else { if w.priv then w else w.stopInPlace with saveReq := true }
  enterSaves (s.setFrame { f with phase := .saving, frozen := some f.barriers, warps := f.warps.map mark }) f.fid

/-- The routines by which a context's frames can be moved. -/
def State.movable (s : State) (ctx : Nat) : Option (Launch × Launch) :=
  (s.ctxObj ctx).bind fun c =>
    match s.routineOf c.save, s.routineOf c.restore with
    | some a, some b => some (a, b)
    | _, _ => none

/-- A frame is to leave its bay: through its save routine, or stopped in place when its context names no pair of
routines. -/
def preempt (s : State) (f : Frame) (inPlace : Bool) : State :=
  let l := s.launchOf f
  if f.phase ≠ .resident then s
  else match s.movable l.ctx with
    | some (a, _) => if routineFits a l then saveFrame s f else s.faultEntry 4 l.prog Cause.badRoutine.code
    | none => if inPlace then stopFrame s f else s

/-- `SAVE_REQ` (R237): none for a frame of a context without routines (R236); of a frame being saved, the warps that waited for
the commit go on. -/
def execSaveReq (fid : Nat) (s : State) : Res :=
  match s.frame? fid with
  | none => .next s
  | some f =>
    if s.cur.any (fun c => c.fid == fid) then .next s
    else if f.phase = .saving then .next (enterSaves s fid)
    else .next (preempt s f false)

/-- Every frame of a context is suspended (R264, R336). -/
def suspendContext (s : State) (ctx : Nat) : State := ((s.framesOf ctx).foldl (fun s f => preempt s f true) s).settleContext ctx

/-- A context that nothing holds suspended any more: frames stopped in place issue again, the others may be placed, and its
flags are clear. -/
def resumeContext (s : State) (ctx : Nat) : State :=
  if s.ctxHeld ctx then s
  else
    let s := (s.framesOf ctx).foldl (fun s f => if f.stopped then s.setFrame { f with stopped := false } else s) s
    let e := s.entry 1 ctx
    if e.suspended then s.setEntry 1 ctx { e with suspended := false, wake := false } else s

/-! ### Leaving (R242, R255) -/

/-- The outstanding operations of a frame have reached 0. -/
def State.idle (s : State) (f : Frame) : Bool :=
  f.warps.all (fun w => w.ops.isEmpty && w.tagCnt.isEmpty) && !(s.copies.any fun c => c.fid == f.fid) &&
    !(s.ftops.any fun o => o.fid == f.fid) && !(s.deps.any fun d => d.fid == f.fid) &&
    !(s.bays.any fun (_, b) => b.ops.any fun o => o.fid == f.fid) && !(s.dies.any fun (_, d) => d.jobs.any fun j => j.fid == f.fid)

/-- A frame may leave for good: its operations, and the copies of others that reach into it, are done (R178, R279). -/
def State.clearOf (s : State) (f : Frame) : Bool := s.idle f && !s.reached f (s.launchOf f).prog

/-- A slice of a collective that a stopped frame can never start: some member will not issue its own (DEDUCED, log 26). -/
def stranded (f : Frame) (l : Launch) (c : CopyOp) : Bool :=
  c.fid == f.fid && !c.started &&
    match c.coll with
    | none => false
    | some (g, k) => (groupOf f l g).any fun i => match f.warp? i with | some w => !w.issuedSlice g k | none => false

/-- Such slices end without moving a byte, so that the frame can leave. -/
def endStranded (s : State) (f : Frame) : State :=
  (s.copies.filter (stranded f (s.launchOf f))).foldl (fun s c => finishCopy s { c with dep := none }) s

/-- A frame that is gone for good. -/
def removeFrame (s : State) (f : Frame) : State :=
  let s := s.leaveBay f
  { s with frames := s.frames.filter fun g => g.fid != f.fid }

/-- A frame begins to be removed: its warps stop, its buffer is dropped, and the windows onto it end (R255, R278). -/
def startRemoval (s : State) (f : Frame) : State :=
  (s.setFrame { f.emptied with phase := .removing, warps := f.warps.map Warp.halt }).revokeWindows (s.launchOf f).prog f.idx

/-- The copy lanes that wait for a frame which is out, once it is removed: they end, and move nothing (DEDUCED, log 26). -/
def endReaching (s : State) (f : Frame) : State :=
  let prog := (s.launchOf f).prog
  let lost := s.copies.flatMap fun c =>
    (c.lanes.filter fun x => !x.fin && (x.src.into f prog || x.dst.into f prog)).map fun x => (c.id, x.lane)
  lost.foldl (fun s x => laneDone s x.1 x.2 none) s

/-- A frame that is out is removed. -/
def removeOut (s : State) (f : Frame) : State := removeFrame (endReaching (startRemoval s f) f) f

/-- A frame is taken away: one that is out is gone at once, another stops first (R255). -/
def takeFrame (s : State) (f : Frame) : State :=
  if f.phase = .out then removeOut s f else if f.phase = .removing then s else startRemoval s f

/-- The launch of a PROGRAM is removed: its capabilities end (R278), its text and data go. -/
def removeLaunch (s : State) (lid : Nat) : State :=
  let mem := clearRegion (clearRegion s.mem (.text lid)) (.data lid)
  { s with launches := s.launches.filter (fun l => l.lid != lid), mem := mem }

/-- A PROGRAM's drain is complete: ABSENT, or to be built anew by the next pass (R257). -/
def State.programDrained (s : State) (prog : Nat) : State :=
  let e := s.entry 4 prog
  match s.progObj prog with
  | none => s
  | some o =>
    if e.st ≠ .draining || s.frames.any (fun f => o.lid == some f.lid) then s
    else
      let s := match o.lid with | some l => removeLaunch s l | none => s
      let s := { s with scribe := { s.scribe with progs := sset none prog none s.scribe.progs } }
      if e.replace then s.setEntry 4 prog { e with st := .building, live := false, detail := 0 }
      else s.setEntry 4 prog { e with st := .absent, version := e.target, live := false, detail := 0, ofCtx := none, names := [] }

/-- A saved frame leaves: slots, registers and TLB sets are free, its rings go with it (R242). -/
def frameSaved (s : State) (f : Frame) : State :=
  let mine := (s.bay f.bay).rings.filter fun (_, r) => r.fid == f.fid
  let warps := f.warps.map fun w => { w with gone := w.mode != .save }
  let s := (s.commit f.fid).vacate f
  let s := s.setFrame { f.emptied with phase := .out, carried := mine, warps := warps, tlbSets := [], frozen := none }
  let s := { s with mem := clearRegion s.mem (.scratch f.fid) }
  (s.settleProgram (s.launchOf f).prog).settleContext (s.launchOf f).ctx

/-- `FRAME_OUT` (R242, R255): a frame whose save is over, or that is being removed, leaves once its operations are done. -/
def execFrameOut (fid : Nat) (s : State) : Res :=
  match s.frame? fid with
  | none => .next s
  | some f =>
    let l := s.launchOf f
    let s := if f.phase = .removing then endStranded s f else s
    let f := (s.frame? fid).getD f
    if f.phase = .saving && f.warps.all Warp.gone && s.idle f then .next (frameSaved s f)
    else if f.phase = .removing && s.clearOf f then
      .next ((((removeFrame s f).programDrained l.prog).settleProgram l.prog).settleContext l.ctx)
    else .next s

/-! ### Relaunch (R328 to R331) -/

/-- Bytes of a MAPPING at an offset: in its context's address space, or at a peer (Table 12.6, TARGET 0 and 1). -/
def State.mapAccess (s : State) (m off n : Nat) (acc : Acc) : VaAcc :=
  match s.mapObj m with
  | none => .fault s off .capBounds
  | some o =>
    if o.len < off + n then .fault s off .capBounds
    else if o.target = 0 then s.vaRange o.ctx (o.base + off) n acc
    else if o.target = 1 then
      if s.noPath then .fault s off .remoteFault
      else .ok s ((List.range n).map fun i => (Region.peer o.node).at ((o.base + off + i) % 2 ^ 64))
    else .fault s off .capPerm

/-- What reaching the restart record of a frame comes to. -/
inductive RecAcc where
  /-- its addresses; none without a record, and where it cannot be reached -/
  | ok (s : State) (as : List Nat)
  | wait (s : State)
  deriving DecidableEq, Repr

/-- The restart record of a frame that is relaunched; an absent page is asked for (R319). -/
def State.restartRecord (s : State) (f : Frame) (l : Launch) : RecAcc :=
  match l.rstmap with
  | none => .ok s []
  | some m =>
    if f.wait.isSome then .wait s
    else if f.deny then .ok s []
    else match s.mapAccess m (64 * f.idx) 64 .w with
      | .ok s as => .ok s as
      | .fault s _ _ => .ok s []
      | .absent p => .wait ((askJob s (.relaunch f.fid) l.ctx 0xFFFFFFFF p).setFrame { f with wait := some s.fresh })

/-- PROGRESS bytes 32 to 39 of a restart record; 0 without one, and where its line check fails. -/
def State.progress (s : State) (as : List Nat) : Nat := if as.any s.lineBad then 0 else s.rdAt ((as.drop 32).take 8)

/-- The first 32 bytes of a restart record (Table 18.2). -/
def Restart.bytes (r : Restart) : List Byte :=
  recordOf 32 [(0, 4, 0x54525352), (4, 4, r.count), (8, 2, r.cause), (10, 1, r.shrep), (16, 8, r.time), (24, 1, r.bay % 64)]

/-- The record after a relaunch, and whether SHREP would reach 2 (R331). -/
def Restart.next (r : Restart) (cause time bay progress : Nat) : Restart × Bool :=
  let mismatch := cause = Cause.shadowMismatch.code
  let shrep :=
    if !mismatch then 0
    else match r.lastProgress with
      | none => 1
      | some p => if p = progress then r.shrep + 1 else 1
  let r' : Restart :=
    { count := min (r.count + 1) 0xFFFFFFFF, cause := cause, shrep := shrep, time := time, bay := bay
      lastProgress := if mismatch then some progress else r.lastProgress }
  (r', decide (2 ≤ shrep))

/-- A frame to be relaunched leaves its bay, and its record is updated (R329 steps 4 and 5). With SHREP at 2 it is not
placed again: the PROGRAM is FAULTED and its other frames are removed. -/
def leaveForRelaunch (s : State) (f : Frame) : State :=
  let l := s.launchOf f
  match s.restartRecord f l with
  | .wait s => s
  | .ok s as =>
    let (r, full) := f.restart.next f.relaunchCause s.timeNs f.bay (s.progress as)
    let s := (s.wrAt (as.take 32) r.bytes).leaveBay f
    if full then
      let s := ({ s with frames := s.frames.filter fun g => g.fid != f.fid } : State).revokeWindows l.prog f.idx
      let s := s.faultEntry 4 l.prog Cause.shadowRepeat.code
      ((s.frames.filter fun g => g.lid == f.lid && g.phase != .removing).foldl takeFrame s).settleProgram l.prog
    else
      let warps := f.warps.map fun w => { w with gone := false, ops := [], tagCnt := [], cpygSeq := [], run := none, hold := none }
      let f := { f.emptied with
        phase := .out, again := true, restart := r, warps := warps, tlbSets := [], carried := [], collNext := [], deny := false }
      ((s.setFrame f).settleProgram l.prog).settleContext l.ctx

/-- A frame that is out placed again at its restart entry: on its old bay only when no other has room (R329 steps 6, 7). -/
def placeAgain (s : State) (f : Frame) (l : Launch) (p : Placement) : State :=
  let others := (List.range Config.bays).filter fun b => b != f.bay
  if p.bay = f.bay && others.any (s.bayRoom f l) then s
  else if s.canPlace f l p && l.live && !s.ctxHeld l.ctx then (placeFrame s f l p .restart).settleProgram l.prog
  else s

/-- `FRAME_RELAUNCH` (R329): once its operations are done a relaunching frame leaves, and it is placed again as Felzen
chose where it can be. -/
def execFrameRelaunch (fid : Nat) (p : Placement) (s : State) : Res :=
  match s.frame? fid with
  | none => .next s
  | some f =>
    let s := if f.phase = .relaunching then endStranded s f else s
    let f := (s.frame? fid).getD f
    let s := if f.phase = .relaunching && s.clearOf f then leaveForRelaunch s f else s
    match (s.frame? fid).filter fun f => f.again with
    | none => .next s
    | some f => .next (placeAgain s f (s.launchOf f) p)

/-! ### Gating (R302) -/

/-- `BAY_POWER_GATE` (R302): a bay without frame, bound ring or slot loses its tables and its L2 TLB. -/
def execBayPowerGate (bay : Nat) (s : State) : Res :=
  let b := s.bay bay
  if bay < Config.bays && b.power = .on && b.rings = [] && b.slots = [] && s.frames.all (fun f => !(f.onBay && f.bay == bay)) then
    .next { s.setBay bay { power := .gated, passes := b.passes } with tlb := s.tlb.filter fun t => t.at_ != .l2 bay }
  else .next s

end Sys2Proof.Machine
end

