-- ==== Sys2Proof/Machine/Predicate.lean ====
section
/-! DEFINITION. The predicate family, opcodes 0x68 to 0x6F (R107). -/

namespace Sys2Proof.Machine

/-- `PAND` (Table 5.13). -/
def execPand (h : Hdr) (o : AluArgs) (s : State) : Res :=
  laneResult s h 2 o.d (srcsOf o) fun e l => ((e.rdPred o.a l &&& e.rdPred o.b l).setWidth 64, 0)
/-- `POR` (Table 5.13). -/
def execPor (h : Hdr) (o : AluArgs) (s : State) : Res :=
  laneResult s h 2 o.d (srcsOf o) fun e l => ((e.rdPred o.a l ||| e.rdPred o.b l).setWidth 64, 0)
/-- `PXOR` (Table 5.13). -/
def execPxor (h : Hdr) (o : AluArgs) (s : State) : Res :=
  laneResult s h 2 o.d (srcsOf o) fun e l => ((e.rdPred o.a l ^^^ e.rdPred o.b l).setWidth 64, 0)
/-- `PNOT` (Table 5.13). -/
def execPnot (h : Hdr) (o : AluArgs) (s : State) : Res :=
  laneResult s h 2 o.d (srcsOf o) fun e l => ((~~~(e.rdPred o.a l)).setWidth 64, 0)

/-- `PFROMV` (Table 5.13). -/
def execPfromv (h : Hdr) (o : AluArgs) (s : State) : Res :=
  laneResult s h 2 o.d (srcsOf o) fun e l =>
    let ty := o.tyOf 0x6C
    ((predOfElems ty fun i => elem (e.rdVec o.a l) (elemsOf ty).2 i != 0).setWidth 64, 0)

/-- `PTOV` (Table 5.13): all ones or zero per element, or the four bits. -/
def execPtov (h : Hdr) (o : AluArgs) (s : State) : Res :=
  laneResult s h 2 o.d (srcsOf o) fun e l =>
    let ty := o.tyOf 0x6D
    let p := e.rdPred o.a l
    let w := (elemsOf ty).2
    if o.sub = 1 then (p.setWidth 64, 0)
    else ((mapElems ty fun i => (if predBit ty p i then 2 ^ w - 1 else 0, 0)).1.setWidth 64, 0)

/-- The executing lanes, one per pair in a protected frame, whose byte-0 bit is set. -/
def Env.voters (e : Env) (h : Hdr) (p : Opd) : List Nat :=
  (e.visible (e.exec h)).filter fun l => (e.rdPred p l).getLsbD 0

/-- A scalar formed from a predicate over the executing lanes; ghost when some lane's bit is (R314). -/
def voteResult (s : State) (h : Hdr) (d p : Opd) (f : Env → W64) : Res :=
  withEnv s fun e =>
    if e.exec h = [] then finish s e h e.w
    else
      let g := (e.exec h).any fun l => e.ghost p l
      finish s e h (e.w.postG s.now 4 e.width ((e.dst d 0 (f e)).map fun y => (y, g)))

/-- `PVOTE` (Table 5.13). -/
def execPvote (h : Hdr) (o : AluArgs) (s : State) : Res :=
  voteResult s h o.d o.a fun e =>
    let yes := e.voters h o.a
    if o.sub = 0 then BitVec.ofNat 64 (natOf (yes != []))
    else if o.sub = 1 then BitVec.ofNat 64 (natOf (yes == e.visible (e.exec h)))
    else e.laneBits yes

/-- `PCNT` (Table 5.13). -/
def execPcnt (h : Hdr) (o : AluArgs) (s : State) : Res :=
  voteResult s h o.d o.a fun e => BitVec.ofNat 64 (e.voters h o.a).length

end Sys2Proof.Machine
end

