-- ==== Sys2Proof/Machine/Queues.lean ====
section
/-! DEFINITION. Queues: the fate of tail writes (R265, R266, R294, R295), messages placed (R262), resizes (R263), closes
and the return ring (R264, R267), and the faults of the device's own accesses to queue memory (R344). -/

namespace Sys2Proof.Machine

/-! ### Queue memory (R261) -/

/-- The virtual address of queue memory. -/
def State.queueBase (s : State) (q : QueueObj) : Nat := (s.mapObj q.ringmap).elim 0 MapObj.base

/-- Bytes of the control block at offset 16: COUNT, EPOCH, STATE. -/
def QueueObj.tailBytes (q : QueueObj) : List Byte := leBytes 4 q.count ++ leBytes 4 q.epoch ++ leBytes 1 (natOf q.closed)

/-- A queue waits for a page: its group, and which of its two parties waits (R344). -/
def askQueue (s : State) (i : Nat) (q : QueueObj) (out : Bool) (p : Absent) : State :=
  let num := s.fresh
  (askJob s (.queue i out) q.ctx 0xFFFFFFFF p).setQueue i (if out then { q with outWait := some num } else { q with inWait := some num })

/-- What one access to queue memory comes to. -/
inductive QAcc where
  | ok (s : State) (as : List Nat)
  /-- waits for a page -/
  | wait (s : State)
  /-- the access has ended with a fault, which is reported -/
  | fault (s : State)
  deriving DecidableEq, Repr

/-- An access to a queue's context by one of its parties. -/
def queueAccess (s : State) (i : Nat) (q : QueueObj) (out : Bool) (va n : Nat) (acc : Acc) (area : Nat) : QAcc :=
  match if out then q.outDeny else q.inDeny with
  | some a =>
    .fault ((s.reportFault q.ctx a area .pageAbsent).setQueue i (if out then { q with outDeny := none } else { q with inDeny := none }))
  | none =>
    match s.vaRange q.ctx va n acc with
    | .ok s as => .ok s as
    | .absent p => .wait (askQueue s i q out p)
    | .fault s a c => .fault (s.reportFault q.ctx a area c)

/-- The queue as it stands after an access. -/
def State.queueNow (s : State) (i : Nat) (q : QueueObj) : QueueObj := (s.queueObj i).getD q

/-- An entry of a queue changed to FAULTED (BAD_RECORD); its converged version stays (R344). -/
def State.queueFaulted (s : State) (i : Nat) : State :=
  let e := s.entry 3 i
  s.setEntry 3 i { e with st := .faulted, fault := Cause.badRecord.code, detail := 0 }

/-! ### Creation (R261) -/

/-- The control block of a new queue written by the Scribe; BUILT once it is. -/
def makeQueue (s : State) (i : Nat) (q : QueueObj) : State :=
  match queueAccess s i q true (s.queueBase q) 64 .w 2 with
  | .wait s => s
  | .fault s => { s with scribe := { s.scribe with queues := sset none i none s.scribe.queues } }.queueFaulted i
  | .ok s as =>
    let bs := leBytes 8 q.tail ++ leBytes 8 0 ++ q.tailBytes ++ List.replicate 39 0
    let e := s.entry 3 i
    ((s.wrAt as bs).setQueue i { q with made := true }).setEntry 3 i { e with st := .built, version := e.target, live := true, detail := 0 }

/-! ### Tail writes (R265, R266, R294, R295) -/

/-- The queue that holds a number of an interface. -/
def State.queueAt (s : State) (port qif qnum : Nat) : Option (Nat × QueueObj) :=
  (s.queuesOn port qif).find? fun (_, q) => q.qnum == qnum

/-- Frames of a queue's consumer that are on a bay. -/
def State.consumers (s : State) (q : QueueObj) : List Frame :=
  s.frames.filter fun f => f.onBay && (s.launchOf f).prog == q.consumer

/-- A tail write to a queue's latch (R266): the bays of its consumer begin to wake. -/
def latchTail (s : State) (i : Nat) (q : QueueObj) (a : Announce) : State :=
  let wake (s : State) (f : Frame) : State :=
    let b := s.bay f.bay
    if b.power = .gated then s.setBay f.bay { b with power := .waking } else s
  ((s.consumers q).foldl wake s).setQueue i { q with latch := q.latch ++ [a] }

/-- A tail write accepted: held messages of a suspended context set its WAKE flag when the queue asks for it (R265). -/
def acceptTail (s : State) (i : Nat) (q : QueueObj) (a : Announce) : State :=
  let s := s.setQueue i { q with anns := q.anns ++ [a] }
  let e := s.entry 1 q.ctx
  if e.suspended && q.flags % 2 = 1 && !e.wake then s.setEntry 1 q.ctx { e with wake := true } else s

/-- The fate of a tail write (Table 12.16). `replay`: it comes out of the latch. -/
def tailFate (s : State) (port qif qnum value : Nat) (ide replay : Bool) : State :=
  let cfg := (sget ({} : QifRegs) (s.port port).qif qif).cfg.toNat
  let hit := (s.queueAt port qif qnum).filter fun x => x.2.made
  let qid := hit.elim 0xFFFFFFFF Prod.fst
  if !bitOf cfg 20 || ((s.tdi (8 * port + qif)).st == .run && !ide) then s.refuse 4 qid port qif qnum 0
  else match hit with
    | none => s.refuse 3 0xFFFFFFFF port qif qnum 0
    | some (i, q) =>
      let cst := (s.entry 1 q.ctx).st
      let a : Announce := { port := port, qif := qif, qnum := qnum, va := value / 64 * 64, left := value % 64 + 1, ide := ide }
      if cst = .draining || cst = .absent then s.refuse 2 i port qif qnum 0
      else if (s.entry 3 i).st = .draining then s.refuse 1 i port qif qnum 0
      else if !replay && q.flags % 2 = 1 && (q.latch ≠ [] || (s.consumers q).any fun f => (s.bay f.bay).power != .on) then latchTail s i q a
      else acceptTail s i q a

/-- `TAIL_WRITE` (R294): an 8-byte write to a notify page at a multiple of 8. `ide` tells a write over IDE from another
(R298). -/
def execTailWrite (port page off : Nat) (value : Nat) (ide : Bool) (s : State) : Res :=
  if page < 8 && off % 8 = 0 && off < 4096 && !s.bootFailed then .next (tailFate s port page (off / 8) (value % 2 ^ 64) ide false)
  else .next s

/-- The latched tail writes of a queue replayed in order, each as it came. -/
def replayLatch (s : State) (i : Nat) : State :=
  match s.queueObj i with
  | none => s
  | some q =>
    let s := s.setQueue i { q with latch := [] }
    q.latch.foldl (fun s a => tailFate s a.port a.qif a.qnum (a.va + a.left - 1) a.ide true) s

/-- `BAY_WAKE` (R266): the bay is on, and the tail writes latched for frames in it are replayed. -/
def execBayWake (bay : Nat) (s : State) : Res :=
  let b := s.bay bay
  if b.power ≠ .waking then .next s
  else
    let s := s.setBay bay { b with power := .on }
    let mine := s.scribe.queues.filterMap fun (i, q) =>
      q.bind fun q => if q.latch ≠ [] && (s.consumers q).all (fun f => (s.bay f.bay).power == .on) then some i else none
    .next (mine.foldl replayLatch s)

/-! ### Messages placed (R262, R294, R344) -/

/-- The announcement in hand ends: what is left of it is discarded and counts once. -/
def endAnnouncement (s : State) (i : Nat) (q : QueueObj) : State :=
  ((s.queueNow i q) |> fun q => s.setQueue i { q with anns := q.anns.drop 1 }).addRefused q.port q.qif

/-- A resize is under way: its entry still moves to the new COUNT (Table 12.14: not FAULTED or UNSETTLED). -/
def State.resizing (s : State) (i : Nat) (q : QueueObj) : Option Nat :=
  q.newCount.filter fun _ => (s.entry 3 i).st == .building || (s.entry 3 i).st == .waiting

/-- Messages a queue may hold: no more than the new COUNT while it shrinks (R263). -/
def State.queueLimit (s : State) (i : Nat) (q : QueueObj) : Nat := match s.resizing i q with | some n => min n q.count | none => q.count

/-- TAIL − HEAD. -/
def occupancyOf (q : QueueObj) (head : Nat) : Nat := (q.tail + 2 ^ 64 - head) % 2 ^ 64

/-- HEAD found invalid: recorded once per queue (R267). -/
def headBad (s : State) (i : Nat) (q : QueueObj) : Option State :=
  if q.headBad then none
  else some ((s.setQueue i { q with headBad := true }).errorRecord 5 i (queueWhere q.port q.qif q.qnum) 0)

/-- One packet fetched and placed as a message: `none` when the queue has nothing to bring in or no room. While a resize moves
messages acceptance is held (R263); a fetch that did not come over IDE is refused in RUN (R298). -/
def placeOne (s : State) (i : Nat) (q : QueueObj) : Option State :=
  match q.anns with
  | [] => none
  | a :: rest =>
    if q.inWait.isSome || !q.made || (q.newCount.isSome && q.epoch % 2 = 1) then none
    else if (s.tdi (8 * a.port + a.qif)).st == .run && !a.ide then some ((s.setQueue i { q with anns := rest }).refuse 4 i a.port a.qif a.qnum 0)
    else match queueAccess s i q false (s.queueBase q + 8) 8 .r 2 with
      | .wait s => some s
      | .fault s => some (endAnnouncement s i q)
      | .ok s as =>
        let occ := occupancyOf q (s.rdAt as)
        if q.count < occ then headBad s i q
        else if s.queueLimit i q ≤ occ then none
        else
          let where_ := queueWhere q.port q.qif q.qnum
          match s.vaRange q.ctx a.va 64 .r with
          | .absent _ => some ((endAnnouncement s i q).errorRecord 10 i where_ a.va)
          | .fault s _ _ => some ((endAnnouncement s i q).errorRecord 10 i where_ a.va)
          | .ok s src =>
            match queueAccess s i q false (s.queueBase q + 64 + 64 * (q.tail % q.count)) 64 .w 2 with
            | .wait s => some s
            | .fault s => some (endAnnouncement s i q)
            | .ok s dst =>
              match queueAccess s i q false (s.queueBase q) 8 .w 2 with
              | .wait s => some s
              | .fault s => some (endAnnouncement s i q)
              | .ok s cb =>
                let t := (q.tail + 1) % 2 ^ 64
                let s := (s.wrAt dst (src.map fun x => readByte s.mem x)).wrAt cb (leBytes 8 t)
                let anns := if a.left ≤ 1 then rest else { a with va := a.va + 64, left := a.left - 1 } :: rest
                some (s.setQueue i { q with tail := t, anns := anns })

/-- The first queue on which a step can act. -/
def firstQueue (s : State) (f : State → Nat → QueueObj → Option State) : List (Nat × Option QueueObj) → Option State
  | [] => none
  | (i, some q) :: r => match f s i q with
    | some s => some s
    | none => firstQueue s f r
  | (_, none) :: r => firstQueue s f r

/-- `QUEUE_MESSAGE_PLACE` (R262). -/
def execQueueMessagePlace (s : State) : Res := .next ((firstQueue s placeOne s.scribe.queues).getD s)

/-! ### Resize (R263) -/

/-- The messages of a queue moved to their positions for another count, as through a buffer. -/
def moveMessages (s : State) (old new : Nat → List Nat) (head n : Nat) : State :=
  let msgs := (List.range n).map fun k => (old (head + k)).map fun a => readByte s.mem a
  (msgs.zipIdx).foldl (fun s (bs, k) => s.wrAt (new (head + k)) bs) s

/-- The queue object of a step, with the resize over. -/
def QueueObj.resized (q : QueueObj) (n : Nat) : QueueObj := { q with count := n, newCount := none, epoch := (q.epoch + 1) % 2 ^ 32 }

/-- One step of a resize (R263): EPOCH becomes odd once the messages fit; then they are moved as through a buffer, COUNT is
written and EPOCH becomes even. One whose entry has left it since ends with the COUNT that stands. -/
def resizeOne (s : State) (i : Nat) (q : QueueObj) : Option State :=
  match q.newCount with
  | none => none
  | some m =>
    let n := (s.resizing i q).getD q.count
    if q.outWait.isSome || q.reason ≠ 0 || (q.epoch % 2 = 0 && (s.resizing i q).isNone) then none
    else
      let back (s : State) : State := (s.setQueue i ((s.queueNow i q).resized q.count)).queueFaulted i
      match queueAccess s i q true (s.queueBase q) (64 + 64 * max m q.count) .w 2 with
      | .wait s => some s
      | .fault s => some (back s)
      | .ok s as =>
        let head := s.rdAt ((as.drop 8).take 8)
        let occ := occupancyOf q head
        if q.count < occ then headBad s i q
        else if n < occ then none
        else if q.epoch % 2 = 0 then
          let q' := { q with epoch := q.epoch + 1 }
          some ((s.wrAt ((as.drop 16).take 8) (q'.tailBytes.take 8)).setQueue i q')
        else
          let pos (c : Nat) (k : Nat) : List Nat := (as.drop (64 + 64 * (k % c))).take 64
          let s := moveMessages s (pos q.count) (pos n) head occ
          let q' := q.resized n
          let s := (s.wrAt ((as.drop 16).take 8) (q'.tailBytes.take 8)).setQueue i q'
          let e := s.entry 3 i
          some (if e.st = .building || e.st = .waiting then s.setEntry 3 i { e with st := .built, version := e.target, detail := 0 } else s)

/-- `QUEUE_RESIZE` (R263). -/
def execQueueResize (s : State) : Res := .next ((firstQueue s resizeOne s.scribe.queues).getD s)

/-! ### Close (R264) -/

/-- A queue begins to close: latched tail writes are refused. -/
def startQueueDrain (s : State) (i : Nat) (q : QueueObj) (reason : Nat) : State :=
  let s := s.setQueue i { q with reason := reason, latch := [], newCount := none, outWait := none, outDeny := none }
  q.latch.foldl (fun s a => s.refuse 1 i a.port a.qif a.qnum 0) s

/-- A return-ring record (Table 12.17). -/
def returnRecord (i reason seq time : Nat) (msg : List Byte) : List Byte :=
  recordOf 64 [(0, 4, i), (4, 1, reason), (8, 8, seq), (16, 8, time)] ++ msg

/-- The claimed message goes to the return ring, or is discarded and counted. -/
def returnClaimed (s : State) (i : Nat) (q : QueueObj) (seq : Nat) (msg : List Byte) : Option State :=
  let done (s : State) : State := s.setQueue i { s.queueNow i q with claimed := none, outDeny := none }
  let lost (s : State) : State := s.setQueue i { s.queueNow i q with claimed := none, outDeny := none, discarded := q.discarded + 1 }
  match s.ringAt q.ctx ((s.ctxObj q.ctx).bind CtxObj.retmap) 128 with
  | .none => some (lost s)
  | .full => none
  | .at_ base n =>
    match q.outDeny with
    | some va => some (lost (s.reportFault q.ctx va 0 .pageAbsent))
    | none =>
      match appendVa s q.ctx base 128 n (returnRecord i q.reason seq s.timeNs msg) with
      | .wrote s => some (done s)
      | .full => none
      | .absent p => some (askQueue s i q true p)
      | .fault s va c => some (lost (s.reportFault q.ctx va 0 c))

/-- A close is over (R264 step 5, R257): ABSENT, or to be built anew; the messages returned by TDI_LOST leave the queue as
it was. -/
def queueClosed (s : State) (i : Nat) (q : QueueObj) : State :=
  if q.reason = 3 then s.setQueue i { q with reason := 0, discarded := 0 }
  else
    let e := s.entry 3 i
    let s := { s with scribe := { s.scribe with queues := sset none i none s.scribe.queues } }
    if e.replace then s.setEntry 3 i { e with st := .building, live := false, detail := 0 }
    else s.setEntry 3 i { e with st := .absent, version := e.target, live := false, detail := q.discarded, ofCtx := none, names := [] }

/-- HEAD set to TAIL − COUNT where it was invalid, which is recorded once per queue (R264, R267). -/
def repairHead (s : State) (i : Nat) (q : QueueObj) (as : List Nat) : State :=
  ((headBad s i q).getD s).wrAt as (leBytes 8 ((q.tail + 2 ^ 64 - q.count) % 2 ^ 64))

/-- One piece of a close: EPOCH, then CLOSED, which lie in two 8-byte units (R204); a message claimed, a message returned, or
the end. A fault of the drain's own access to queue memory ends it, and what it could not claim is lost (DEDUCED, log 27). -/
def drainOne (s : State) (i : Nat) (q : QueueObj) : Option State :=
  if q.reason = 0 || q.outWait.isSome then none
  else match q.claimed with
    | some (seq, msg) => returnClaimed s i q seq msg
    | none =>
      let lost (s : State) : State := queueClosed s i { s.queueNow i q with anns := [] }
      match queueAccess s i q true (s.queueBase q) (64 + 64 * q.count) .w 2 with
      | .wait s => some s
      | .fault s => some (lost s)
      | .ok s as =>
        if q.reason ≠ 3 && q.epoch % 2 = 0 then
          let q' := { q with epoch := q.epoch + 1 }
          some ((s.wrAt ((as.drop 16).take 8) (q'.tailBytes.take 8)).setQueue i q')
        else if q.reason ≠ 3 && !q.closed then
          let q' := { q with closed := true }
          some ((s.wrAt ((as.drop 24).take 1) (q'.tailBytes.drop 8)).setQueue i q')
        else
          let head := s.rdAt ((as.drop 8).take 8)
          let occ := occupancyOf q head
          if q.count < occ then some (repairHead s i q ((as.drop 8).take 8))
          else if occ = 0 then if q.anns = [] then some (queueClosed s i q) else none
          else
            let msg := ((as.drop (64 + 64 * (head % q.count))).take 64).map fun a => readByte s.mem a
            some ((s.wrAt ((as.drop 8).take 8) (leBytes 8 ((head + 1) % 2 ^ 64))).setQueue i { q with claimed := some (head, msg) })

/-- `QUEUE_CLOSE_DRAIN` (R264). -/
def execQueueCloseDrain (s : State) : Res := .next ((firstQueue s drainOne s.scribe.queues).getD s)

end Sys2Proof.Machine
end

