-- ==== Sys2Proof/Machine/Scalar.lean ====
section
/-! DEFINITION. The scalar family, opcodes 0x00 to 0x17 (R90, R91, R54). -/

namespace Sys2Proof.Machine

/-- `SADD` (Table 5.5). -/
def execSadd (h : Hdr) (o : AluArgs) (s : State) : Res := scalarInt s h o 0x00 2 (addI o.sat)
/-- `SSUB` (Table 5.5). -/
def execSsub (h : Hdr) (o : AluArgs) (s : State) : Res := scalarInt s h o 0x01 2 (subI o.sat)
/-- `SMUL` (Table 5.5). -/
def execSmul (h : Hdr) (o : AluArgs) (s : State) : Res := scalarInt s h o 0x02 4 (mulI o.sat)
/-- `SMULHI` (Table 5.5). -/
def execSmulhi (h : Hdr) (o : AluArgs) (s : State) : Res := scalarInt s h o 0x03 4 (noCount mulHiI)
/-- `SDIV` (R91). -/
def execSdiv (h : Hdr) (o : AluArgs) (s : State) : Res := scalarInt s h o 0x04 24 (noCount divI)
/-- `SMOD` (R91). -/
def execSmod (h : Hdr) (o : AluArgs) (s : State) : Res := scalarInt s h o 0x05 24 (noCount modI)
/-- `SAND` (Table 5.5). -/
def execSand (h : Hdr) (o : AluArgs) (s : State) : Res := scalarInt s h o 0x06 2 (noCount andI)
/-- `SOR` (Table 5.5). -/
def execSor (h : Hdr) (o : AluArgs) (s : State) : Res := scalarInt s h o 0x07 2 (noCount orI)
/-- `SXOR` (Table 5.5). -/
def execSxor (h : Hdr) (o : AluArgs) (s : State) : Res := scalarInt s h o 0x08 2 (noCount xorI)
/-- `SSHL` (Table 5.5). -/
def execSshl (h : Hdr) (o : AluArgs) (s : State) : Res := scalarInt s h o 0x09 2 (noCount shlI)
/-- `SSHR` (Table 5.5). -/
def execSshr (h : Hdr) (o : AluArgs) (s : State) : Res := scalarInt s h o 0x0A 2 (noCount shrI)
/-- `SSAR` (Table 5.5). -/
def execSsar (h : Hdr) (o : AluArgs) (s : State) : Res := scalarInt s h o 0x0B 2 (noCount sarI)
/-- `SMIN` (Table 5.5). -/
def execSmin (h : Hdr) (o : AluArgs) (s : State) : Res := scalarInt s h o 0x0C 2 (noCount minI)
/-- `SMAX` (Table 5.5). -/
def execSmax (h : Hdr) (o : AluArgs) (s : State) : Res := scalarInt s h o 0x0D 2 (noCount maxI)
/-- `SBFX` (R91): position b[5:0], length min(b[14:8], w). -/
def execSbfx (h : Hdr) (o : AluArgs) (s : State) : Res :=
  scalarInt s h o 0x0E 2 (noCount fun t a b => bfxI t a (bits b 5 0) (min (bits b 14 8) t.width))
/-- `SBFI` (R91): the low bits of a into D; length 0 leaves the field unchanged, and a 32-bit type extends the result again. -/
def execSbfi (h : Hdr) (o : AluArgs) (s : State) : Res :=
  scalarResult s h 2 o.d (o.d :: (srcsOf o)) fun e =>
    let t := intFmt (o.tyOf 0x0F)
    let b := (e.scalarB o).toNat
    (extendS t (bfiI t (e.rdScalar o.d).toNat (e.rdScalar o.a).toNat (bits b 5 0) (bits b 14 8)), 0)
/-- `SPOPC` (Table 5.5). -/
def execSpopc (h : Hdr) (o : AluArgs) (s : State) : Res := scalarInt s h o 0x10 2 (noCount fun t a _ => popcI t a)
/-- `SCLZ` (Table 5.5). -/
def execSclz (h : Hdr) (o : AluArgs) (s : State) : Res := scalarInt s h o 0x11 2 (noCount fun t a _ => clzI t a)
/-- `SCTZ` (Table 5.5). -/
def execSctz (h : Hdr) (o : AluArgs) (s : State) : Res := scalarInt s h o 0x12 2 (noCount fun t a _ => ctzI t a)
/-- `SCMP` (R90). -/
def execScmp (h : Hdr) (o : AluArgs) (s : State) : Res :=
  scalarInt s h o 0x13 2 (noCount fun t a b => natOf (cmpI t o.sub a b))
/-- `SSEL` (Table 5.5): in form C the immediate or D by a. -/
def execSsel (h : Hdr) (o : AluArgs) (s : State) : Res :=
  scalarResult s h 2 o.d (if o.form = .c then [o.d, o.a] else (srcsOf o)) fun e =>
    let t := intFmt (o.tyOf 0x14)
    let a := (e.rdScalar o.a).toNat
    if o.form = .c then (if a ≠ 0 then e.scalarB o else e.rdScalar o.d, 0)
    else
      let c := (e.rdScalar o.c).toNat % 2 ^ t.width
      (extendS t (if c ≠ 0 then a else (e.scalarB o).toNat), 0)
/-- `SMOV` (Table 5.5). -/
def execSmov (h : Hdr) (o : AluArgs) (s : State) : Res := scalarInt s h o 0x15 2 (noCount fun _ a _ => a)
/-- `SMOVI` (R53, R54). -/
def execSmovi (h : Hdr) (o : SmoviArgs) (s : State) : Res := scalarResult s h 2 (.s o.d) [] fun _ => (o.imm, 0)
/-- `SLEA` (Table 5.5). -/
def execSlea (h : Hdr) (o : AluArgs) (s : State) : Res :=
  scalarResult s h 2 o.d (srcsOf o) fun e => (e.rdScalar o.a + (e.scalarB o <<< o.sub), 0)

end Sys2Proof.Machine
end

