-- ==== Sys2Proof/Machine/Snapshots.lean ====
section
/-! DEFINITION. Snapshots, restores and firmware updates (R335 to R339): the target and its chunk index, the staging of
chunks in the spare region, the drain to the drive, and the takeover of the control side. -/

namespace Sys2Proof.Machine

/-! ### The target (R335) -/

/-- Bytes of a chunk and of a manifest slot (R335, R336). -/
def chunkBytes : Nat := 2 * 2 ^ 20
def manifestBytes : Nat := 2 ^ 20

/-- Slots of the spare region below the as-built table (R336). -/
def spareSlots : Nat := (Config.spareBytes - 8 * 2 ^ 20) / chunkBytes

/-- What the target descriptor says (Table 18.4). -/
structure SnapTarget where
  indexN : Nat
  /-- physical addresses of the drive's doorbells -/
  sqdb : Nat
  cqdb : Nat
  nsid : Nat
  lba : Nat
  dataLba : Nat
  manLba : Nat
  deriving DecidableEq, Repr

/-- Bytes of a target at an offset; none where they cannot be reached. -/
def State.targetAt (s : State) (m off n : Nat) (acc : Acc) : State × Option (List Nat) :=
  match s.mapAccess m off n acc with
  | .ok s as => (s, some as)
  | .fault s _ _ => (s, none)
  | .absent _ => (s, none)

/-- The descriptor, when it is good. -/
def readTarget (s : State) (m : Nat) : State × Option SnapTarget :=
  match s.targetAt m 0 64 .r with
  | (s, none) => (s, none)
  | (s, some as) =>
    let f (o w : Nat) : Nat := s.rdAt ((as.drop o).take w)
    let n := f 4 4
    let room := match s.mapObj m with | some o => 4096 + 128 * n ≤ o.len | none => false
    if f 0 4 = 0x50475453 && n ≠ 0 && n == 2 ^ n.log2 && 9 ≤ f 28 1 && f 28 1 ≤ 16 && f 29 3 = 0 && f 48 16 = 0 && room then
      (s, some { indexN := n, sqdb := f 8 8, cqdb := f 16 8, nsid := f 24 4, lba := 2 ^ f 28 1, dataLba := f 32 8, manLba := f 40 8 })
    else (s, none)

/-- Where chunk `c` and manifest slot `i` lie on the drive. -/
def SnapTarget.chunkAt (t : SnapTarget) (c : Nat) : Nat := (Region.drive t.nsid).at ((t.dataLba * t.lba + c * chunkBytes) % 2 ^ 64)
def SnapTarget.manifestAt (t : SnapTarget) (i : Nat) : Nat := (Region.drive t.nsid).at ((t.manLba * t.lba + i * manifestBytes) % 2 ^ 64)

/-- The offset of a chunk index entry. -/
def indexAt (e : Nat) : Nat := 4096 + 128 * e

/-! ### A context's data (R336) -/

/-- The device-memory bytes of a range of a context, page by page. -/
def devData (ctx : Nat) : Nat → State → Nat → Nat → State × List Nat
  | 0, s, _, _ => (s, [])
  | k + 1, s, va, n =>
    let m := min n (4096 - va % 4096)
    if m = 0 then (s, [])
    else
      match s.translate none ctx va .r m with
      | (s, .ok l) =>
        let (s, rest) := devData ctx k s (va + m) (n - m)
        let mine := if s.isDevice l.pa then (List.range m).map fun i => l.pa + va % 4096 + i else []
        (s, mine ++ rest)
      | (s, _) => devData ctx k s (va + m) (n - m)

/-- The same for a mapping. -/
def State.mapData (s : State) (m : Nat) : State × List Nat :=
  match s.mapObj m with
  | none => (s, [])
  | some o => devData o.ctx (o.len / 4096 + 2) s o.base o.len

/-- A context's BUILT mappings of its own address space, in ascending TABIDX. -/
def State.dataMaps (s : State) (ctx : Nat) : List Nat :=
  s.scribe.tab.filterMap fun (k, _, m) =>
    if k / 2 ^ 16 = ctx then m.filter fun m => (s.builtMap ctx (some m)).any fun o => o.target == 0 else none

/-- The chunks of one mapping. -/
def mapChunks (pos : Nat) (acc : State × List SnapChunk) (m : Nat) : State × List SnapChunk :=
  let (s, as) := acc.1.mapData m
  let one (k : Nat) : SnapChunk := { pos := pos, map := m, num := k, len := min chunkBytes (as.length - k * chunkBytes) }
  (s, acc.2 ++ (List.range (ceilDiv as.length chunkBytes)).map one)

/-- The chunks of every context of a snapshot, in order. -/
def planChunks (s : State) (ctxs : List Nat) : State × List SnapChunk :=
  ctxs.zipIdx.foldl (fun acc (c, pos) => (acc.1.dataMaps c).foldl (mapChunks pos) acc) (s, [])

/-- The bytes of a chunk where it lies in its mapping. -/
def State.chunkAddrs (s : State) (c : SnapChunk) : State × List Nat :=
  let (s, as) := s.mapData c.map
  (s, (as.drop (c.num * chunkBytes)).take c.len)

/-! ### Snapshots of the Scribe -/

def State.setSnap (s : State) (i : Nat) (x : SnapObj) : State :=
  { s with scribe := { s.scribe with snaps := sset none i (some x) s.scribe.snaps } }

/-- The first snapshot on which a step can act. -/
def firstSnap (s : State) (f : State → Nat → SnapObj → Option State) : List (Nat × Option SnapObj) → Option State
  | [] => none
  | (i, some x) :: r => match f s i x with
    | some s => some s
    | none => firstSnap s f r
  | (_, none) :: r => firstSnap s f r

/-- An operation is over: its entry is BUILT, or FAULTED with a cause. -/
def endSnap (s : State) (i : Nat) (x : SnapObj) (cause : Option Cause) : State :=
  let e := s.entry 5 i
  let s := s.setSnap i { x with phase := if cause.isSome then .failed else .done, held := [], chunks := [], mine := none, waits := none, sub := none }
  match cause with
  | none => s.setEntry 5 i { e with st := .built, version := e.target, live := true, detail := 0 }
  | some c => s.setEntry 5 i { e with st := .faulted, fault := c.code, detail := 0 }

/-- Contexts let go by an operation resume where nothing else holds them. -/
def resumeAll (s : State) (ctxs : List Nat) : State := ctxs.foldl resumeContext s

/-- An operation given up because its record is deleted or replaced. -/
def abandonSnap (s : State) (i : Nat) : State :=
  match s.snapObj i with
  | none => s
  | some x =>
    let s := { s with scribe := { s.scribe with snaps := sset none i none s.scribe.snaps } }
    resumeAll (if x.phase = .restoring then { s with scribe := { s.scribe with torn := s.scribe.torn ++ x.held } } else s) x.held

/-! ### The spare region -/

/-- The address of a slot. -/
def State.slotAt (s : State) (k : Nat) : Nat := s.dev (Config.devBytes - Config.spareBytes + k * chunkBytes)

/-- The lowest slot no chunk is in. -/
def State.freeSpare (s : State) : Option Nat :=
  let used (k : Nat) : Bool := s.scribe.snaps.any fun (_, x) => x.any fun x => x.chunks.any fun c => c.slot == some k
  (List.range spareSlots).find? fun k => !used k

/-- Bytes copied from physical addresses to others; a line whose check fails stays bad (R332). -/
def State.carry (s : State) (src dst : List Nat) : State :=
  let bad := (src.zip dst).filter fun (a, _) => s.lineBad a
  bad.foldl (fun s (_, d) => s.spoil (d / 64)) (s.wrAt dst (src.map fun a => readByte s.mem a))

/-- Consecutive addresses. -/
def addrsFrom (a n : Nat) : List Nat := (List.range n).map fun i => a + i

/-- The next chunk not yet staged is copied into a free slot. -/
def stageOne (s : State) (i : Nat) : State :=
  match s.snapObj i, s.freeSpare with
  | some x, some k =>
    match x.chunks.zipIdx.find? fun (c, _) => c.slot.isNone && c.chunk.isNone with
    | none => s
    | some (c, j) =>
      let (s, as) := s.chunkAddrs c
      (s.carry as (addrsFrom (s.slotAt k) c.len)).setSnap i { x with chunks := modifyAt (fun c => { c with slot := some k }) j x.chunks }
  | _, _ => s

/-- Contexts whose every chunk has been staged resume (R336 step 3). -/
def releaseStaged (s : State) (i : Nat) : State :=
  match s.snapObj i with
  | none => s
  | some x =>
    let open_ (p : Nat) : Bool := x.chunks.any fun c => c.pos == p && c.slot.isNone && c.chunk.isNone
    let done := (x.ctxs.zipIdx.filter fun (_, p) => !open_ p).map Prod.fst
    resumeAll (s.setSnap i { x with held := x.held.filter fun c => !done.contains c }) (done.filter fun c => x.held.contains c)

/-- A snapshot's copies that can be made. -/
def copyDone (s : State) (i : Nat) (x : SnapObj) : Option State :=
  if x.phase = .moving && x.chunks.any (fun c => c.slot.isNone && c.chunk.isNone) then
    some (releaseStaged ((List.range x.chunks.length).foldl (fun s _ => stageOne s i) s) i)
  else none

/-- `IN_CONTROLLER_COPY_DONE` (R336 steps 2 and 3). -/
def execInControllerCopyDone (s : State) : Res := .next ((firstSnap s copyDone s.scribe.snaps).getD s)

/-! ### The drain (R336 steps 4 to 6) -/

/-- Milliseconds of device time. -/
def State.timeMs (s : State) : Nat := s.timeNs / 1000000

/-- The word by which this device claims an entry now. -/
def State.claimWord (s : State) : Nat := 1 + 2 ^ 8 * (Config.deviceId % 256) + 2 ^ 16 * (s.timeMs % 2 ^ 48)

/-- What the probe of the index comes to. -/
inductive Probe where
  | present (chunk : Nat)
  | claimed (e : Nat)
  | free (e : Nat)
  /-- the index is full, or cannot be reached -/
  | stuck
  deriving DecidableEq, Repr

/-- The probe from an entry upward, at most `n` entries. -/
def probeIndex (m size d : Nat) : Nat → State → Nat → State × Probe
  | 0, s, _ => (s, .stuck)
  | n + 1, s, e =>
    match s.targetAt m (indexAt e) 128 .r with
    | (s, none) => (s, .stuck)
    | (s, some as) =>
      let st := s.rdAt ((as.drop 64).take 8)
      if st % 256 = 0 then (s, .free e)
      else if st % 256 = 1 then (s, .claimed e)
      else if s.rdAt (as.take 64) = d then (s, .present (s.rdAt ((as.drop 72).take 8)))
      else probeIndex m size d n s ((e + 1) % size)

/-- An 8-byte compare and swap on the STATE of an index entry. -/
def claimEntry (s : State) (m e old new : Nat) : State × Bool :=
  match s.targetAt m (indexAt e + 64) 8 .a with
  | (s, none) => (s, false)
  | (s, some as) => if s.rdAt as = old then (s.wrAt as (leBytes 8 new), true) else (s, false)

/-! ### The drive (R334) -/

/-- Entries of the device's queue to a drive (DESIGN CHOICE, log 29). -/
def driveQueue : Nat := 64

/-- An NVMe submission entry: opcode, identifier, namespace, the data's physical address, first block and blocks less one. -/
def nvmeEntry (read : Bool) (cid nsid data lba blocks : Nat) : List Byte :=
  recordOf 64 [(0, 1, if read then 2 else 1), (2, 2, cid), (4, 4, nsid), (24, 8, data), (40, 8, lba), (48, 2, blocks - 1)]

/-- A transfer of `n` bytes between device memory and the drive, in two steps: the submission entry is made and the tail
doorbell written; then the drive has moved the data and completed the command, and the head doorbell is written. -/
def driveStep (s : State) (i : Nat) (x : SnapObj) (t : SnapTarget) (read : Bool) (data lba n : Nat) (k : State → SnapObj → State) : State :=
  match x.sub with
  | none =>
    let e := nvmeEntry read x.cmds t.nsid data lba (ceilDiv n t.lba)
    let x := { x with sub := some e, cmds := x.cmds + 1 }
    (s.wr (Region.host.at t.sqdb) 4 (x.cmds % driveQueue)).setSnap i x
  | some _ => k (s.wr (Region.host.at t.cqdb) 4 (x.cmds % driveQueue)) { x with sub := none }

/-- First blocks of chunk `c` and of manifest slot `i`. -/
def SnapTarget.chunkLba (t : SnapTarget) (c : Nat) : Nat := t.dataLba + c * (chunkBytes / t.lba)
def SnapTarget.manifestLba (t : SnapTarget) (i : Nat) : Nat := t.manLba + i * (manifestBytes / t.lba)

/-- A chunk drained: its slot is free again. -/
def SnapObj.drained (x : SnapObj) (j chunk : Nat) : SnapObj :=
  { x with chunks := modifyAt (fun c => { c with chunk := some chunk, slot := none }) j x.chunks, mine := none, waits := none }

/-- The claimed entry: the chunk is written to the drive, then its digest and number, and STATE 2 by a release. A claim
that another has taken over in the meantime is given up. -/
def writeChunk (s : State) (i : Nat) (x : SnapObj) (t : SnapTarget) (j : Nat) (c : SnapChunk) (slot d e word : Nat) : State :=
  match s.targetAt x.tgtmap (indexAt e) 128 .w with
  | (s, none) => s
  | (s, some as) =>
    if s.rdAt ((as.drop 64).take 8) ≠ word then s.setSnap i { x with mine := none, sub := none }
    else
      driveStep s i x t false (s.slotAt slot) (t.chunkLba e) c.len fun s x =>
        let s := s.carry (addrsFrom (s.slotAt slot) c.len) (addrsFrom (t.chunkAt e) c.len)
        let s := s.wrAt (as.take 64) (leBytes 64 d)
        let s := s.wrAt ((as.drop 72).take 8) (leBytes 8 e)
        (s.wrAt ((as.drop 64).take 8) (leBytes 8 2)).setSnap i (x.drained j e)

/-- One step of the drain of a staged chunk: its digest is computed, then the index is probed and the entry claimed or the
chunk written. A line whose check fails is not returned to the drive: the step is redone (R332). -/
def drainChunk (s : State) (i : Nat) (x : SnapObj) (t : SnapTarget) (j : Nat) (c : SnapChunk) (slot : Nat) : State :=
  match c.digest with
  | none =>
    match (addrsFrom (s.slotAt slot) c.len).find? s.lineBad with
    | some a => s.lineError a 0
    | none =>
      let d := sha512 (readBytes s.mem (s.slotAt slot) c.len)
      s.setSnap i { x with chunks := modifyAt (fun c => { c with digest := some d }) j x.chunks }
  | some d =>
    match x.mine with
    | some (e, word) => writeChunk s i x t j c slot d.toNat e word
    | none =>
      match probeIndex x.tgtmap t.indexN d.toNat t.indexN s (d.toNat % 2 ^ 64 % t.indexN) with
      | (s, .present n) => s.setSnap i (x.drained j n)
      | (s, .claimed e) => s.setSnap i { x with waits := some e }
      | (s, .stuck) => s
      | (s, .free e) =>
        let w := s.claimWord
        match claimEntry s x.tgtmap e 0 w with
        | (s, true) => s.setSnap i { x with mine := some (e, w), waits := none }
        | (s, false) => s

/-- The body of a shard: one entry per chunk, digest, CHUNK and length (DESIGN CHOICE, log 29). -/
def shardBody (cs : List SnapChunk) : List Byte :=
  (cs.map fun c => leBytes 64 (c.digest.getD 0).toNat ++ leBytes 8 (c.chunk.getD 0) ++ leBytes 8 c.len).flatten

/-- A shard (R336 step 5): the header's fields, the SHA-512 of the body after them, and the body (DESIGN CHOICE, log 29). -/
def shardBytes (rid : Nat) (x : SnapObj) (pos ctx : Nat) : List Byte :=
  let cs := x.chunks.filter fun c => c.pos == pos
  let body := shardBody cs
  recordOf 64 [(0, 4, 0x54534E4D), (4, 4, rid), (8, 8, x.step_), (16, 4, pos), (20, 4, x.ctxs.length), (24, 4, ctx), (28, 4, cs.length)] ++
    leBytes 64 (sha512 body).toNat ++ body

/-- The next shard made in a free slot of the spare region and written to its manifest slot (R336 steps 5 and 6). -/
def writeShard (s : State) (i : Nat) (x : SnapObj) (t : SnapTarget) (ctx : Nat) : Option State :=
  s.freeSpare.map fun k =>
    let bytes := shardBytes i x x.next_ ctx
    let s := s.setMem (writeBytes s.mem (s.slotAt k) bytes)
    driveStep s i x t false (s.slotAt k) (t.manifestLba x.next_) bytes.length fun s x =>
      let s := s.setMem (writeBytes s.mem (t.manifestAt x.next_) bytes)
      let x := { x with next_ := x.next_ + 1 }
      if x.next_ = x.ctxs.length then endSnap s i x none else s.setSnap i x

/-- One step of a snapshot in hand. -/
def snapStep (s : State) (i : Nat) (x : SnapObj) : Option State :=
  match x.phase with
  | .suspending =>
    if x.ctxs.all s.quiet then
      let s := x.ctxs.foldl State.settleContext s
      let (s, cs) := planChunks s x.ctxs
      some (releaseStaged (s.setSnap i { x with phase := .moving, chunks := cs }) i)
    else none
  | .moving =>
    match readTarget s x.tgtmap with
    | (s, none) => some (resumeAll (endSnap s i x (some .badRecord)) x.held)
    | (s, some t) =>
      match x.chunks.zipIdx.find? fun (c, _) => c.chunk.isNone with
      | some (c, j) => match c.slot with
        | some k => some (drainChunk s i x t j c k)
        | none => none
      | none =>
        match x.ctxs[x.next_]? with
        | some ctx => writeShard s i x t ctx
        | none => some (endSnap s i x none)
  | _ => none

/-- `SNAPSHOT_STEP` (R336). -/
def execSnapshotStep (s : State) : Res := .next ((firstSnap s snapStep s.scribe.snaps).getD s)

/-- A claim of another that is more than 10 s old is taken over by an 8-byte `ACAS`. -/
def takeOver (s : State) (i : Nat) (x : SnapObj) : Option State :=
  match x.waits with
  | none => none
  | some e =>
    match s.targetAt x.tgtmap (indexAt e + 64) 8 .a with
    | (_, none) => none
    | (s, some as) =>
      let st := s.rdAt as
      if st % 256 ≠ 1 then some (s.setSnap i { x with waits := none })
      else if st / 2 ^ 16 + 10000 < s.timeMs then
        let w := s.claimWord
        some ((s.wrAt as (leBytes 8 w)).setSnap i { x with waits := none, mine := some (e, w) })
      else none

/-- `CHUNK_CLAIM_TAKEOVER` (R336 step 4). -/
def execChunkClaimTakeover (s : State) : Res := .next ((firstSnap s takeOver s.scribe.snaps).getD s)

/-! ### Restore (R337) -/

/-- A shard as it is found on the drive: STEP, index, count, context, and its chunks (digest, CHUNK, length). -/
structure Shard where
  step_ : Nat
  idx : Nat
  count : Nat
  ctx : Nat
  chunks : List (Nat × Nat × Nat)
  deriving DecidableEq, Repr

/-- A manifest slot read: a shard with its magic and its body's digest right. -/
def readShard (s : State) (t : SnapTarget) (i : Nat) : Option Shard :=
  let a := t.manifestAt i
  let n := s.rd (a + 28) 4
  let body := readBytes s.mem (a + 128) (80 * n)
  if s.rd a 4 ≠ 0x54534E4D || s.rd (a + 64) 64 ≠ (sha512 body).toNat then none
  else
    some
      { step_ := s.rd (a + 8) 8, idx := s.rd (a + 16) 4, count := s.rd (a + 20) 4, ctx := s.rd (a + 24) 4
        chunks := (List.range n).map fun k => (fld body (80 * k) 64, fld body (80 * k + 64) 8, fld body (80 * k + 72) 8) }

/-- The whole step that the manifest slots hold for a restore: every shard of one step, one for each named context. -/
def wholeStep (x : SnapObj) (found : List Shard) : Option (List Shard) :=
  let any := x.step_ = 2 ^ 64 - 1
  let step := if any then (found.head?).elim 0 Shard.step_ else x.step_
  let mine := found.filter fun h => h.step_ == step
  let n := x.ctxs.length
  let inOrder := (List.range n).filterMap fun i => mine.find? fun h => h.idx == i && h.count == n && some h.ctx == x.ctxs[i]?
  if n ≠ 0 && inOrder.length = n && mine.length = n && (!any || found.length = n) then some inOrder else none

/-- The chunks to restore: each of a shard with where it belongs. -/
def restoreChunks (cs : List SnapChunk) (hs : List Shard) : List SnapChunk :=
  (hs.zipIdx.map fun (h, pos) =>
    ((cs.filter fun c => c.pos == pos).zip h.chunks).map fun (c, d, k, n) =>
      { c with digest := some (BitVec.ofNat 512 d), chunk := some k, len := min c.len n }).flatten

/-- A restore's set checked: nothing changes unless it is one whole step. -/
def checkRestore (s : State) (i : Nat) (x : SnapObj) : State :=
  match readTarget s x.tgtmap with
  | (s, none) => resumeAll (endSnap s i x (some .badRecord)) x.held
  | (s, some t) =>
    driveStep s i x t true (s.slotAt (s.freeSpare.getD 0)) t.manLba (8 * manifestBytes) fun s x =>
      match wholeStep x ((List.range 8).filterMap (readShard s t)) with
      | none => resumeAll (endSnap s i x (some .restoreMixed)) x.held
      | some hs =>
        let (s, cs) := planChunks s x.ctxs
        s.setSnap i { x with phase := .restoring, chunks := restoreChunks cs hs, next_ := 0 }

/-- Contexts whose restore failed half way stay suspended until another succeeds. -/
def State.tear (s : State) (cs : List Nat) : State := { s with scribe := { s.scribe with torn := (s.scribe.torn ++ cs).eraseDups } }

/-- One chunk restored: read into the spare region, checked against its digest, written over its mapping. -/
def restoreOne (s : State) (i : Nat) (x : SnapObj) : Option State :=
  match readTarget s x.tgtmap with
  | (s, none) => some ((endSnap s i x (some .digest)).tear x.ctxs)
  | (s, some t) =>
    match x.chunks[x.next_]? with
    | none =>
      let s := endSnap s i x none
      some (resumeAll { s with scribe := { s.scribe with torn := s.scribe.torn.filter fun c => !x.ctxs.contains c } } x.ctxs)
    | some c =>
      match s.freeSpare with
      | none => none
      | some k =>
        let spare := addrsFrom (s.slotAt k) c.len
        some (driveStep s i x t true (s.slotAt k) (t.chunkLba (c.chunk.getD 0)) c.len fun s x =>
          let s := s.carry (addrsFrom (t.chunkAt (c.chunk.getD 0)) c.len) spare
          if sha512 (readBytes s.mem (s.slotAt k) c.len) ≠ c.digest.getD 0 then (endSnap s i x (some .digest)).tear x.ctxs
          else
            let (s, as) := s.chunkAddrs c
            (s.carry (spare.take as.length) as).setSnap i { x with next_ := x.next_ + 1 })

/-- One step of a restore in hand. -/
def restoreStep (s : State) (i : Nat) (x : SnapObj) : Option State :=
  match x.phase with
  | .checking => some (checkRestore s i x)
  | .restoring => restoreOne s i x
  | _ => none

/-- `SNAPSHOT_RESTORE` (R337). -/
def execSnapshotRestore (s : State) : Res := .next ((firstSnap s restoreStep s.scribe.snaps).getD s)

/-! ### The control side's takeovers (R338, R339) -/

/-- The other I/O die becomes the active one, and BOOTSTAT[5] names it. -/
def State.takeover (s : State) : State :=
  let d := 1 - s.felzen
  { s with felzen := d, bootstat := BitVec.ofNat 64 (s.bootstat.toNat % 32 + 32 * d) }

/-- A firmware update in hand. -/
def updateStep (b : FwBundle) (s : State) (i : Nat) (x : SnapObj) : Option State :=
  if x.phase ≠ .updating then none
  else if b.verified && Config.fusedVersion ≤ b.version && b.tableOk then some (endSnap ((s.extend 5 b.digest).takeover) i x none)
  else some (endSnap s i x (some .fwReject))

/-- `FIRMWARE_UPDATE` (R338): what the other die finds of the bundle of an update in hand. -/
def execFirmwareUpdate (b : FwBundle) (s : State) : Res := .next ((firstSnap s (updateStep b) s.scribe.snaps).getD s)

/-- `FAILOVER` (R339). -/
def execFailover (s : State) : Res :=
  let s := s.takeover
  .next (s.errorRecord 9 s.felzen 0 0)

end Sys2Proof.Machine
end

