-- ==== Sys2Proof/Machine/Records.lean ====
section
/-! DEFINITION. What the Scribe reads of the plan: the header (R246), a record (R247, R250), the payload of each kind (R248)
and the kernel header of an image (R39). -/

namespace Sys2Proof.Machine

/-! ### Kinds (R246) -/

/-- Records an array holds at most, by kind. -/
def kindCap (kind : Nat) : Nat :=
  if kind = 1 then 1024 else if kind = 2 ∨ kind = 3 then 65536 else if kind = 4 then 4096 else 64

/-! ### The plan header (R246) -/

/-- Entries of a report ring: a power of two from 1 to 65,536. -/
def ringCountOk (n : Nat) : Bool := n ≠ 0 && n == 2 ^ n.log2 && n ≤ 65536

/-- Two ranges of addresses share a byte. -/
def overlaps (a b : Nat × Nat) : Bool := spansMeet a.1 a.2 b.1 b.2

/-- The header at its plan address, when it passes R246. Both SPACEs reach device memory (R245), so what overlaps is told by
physical addresses. -/
def readHeader (s : State) : Option PlanHdr :=
  match s.planHeader with
  | none => none
  | some at_ =>
    let h := readBytes s.mem at_ 256
    let arrays := (List.range 5).map fun k => (fld h (64 + 16 * k) 8, fld h (72 + 16 * k) 4)
    let plumb := fld h 16 8
    let conflict := fld h 24 8
    let errors := fld h 40 8
    let hdr : PlanHdr :=
      { plumb := s.planAddr plumb, conflicts := (s.planAddr conflict, fld h 32 4), errors := (s.planAddr errors, fld h 48 4)
        arrays := arrays.map fun x => (s.planAddr x.1, x.2) }
    let kept := (at_, 256) :: (hdr.arrays.filter fun x => x.2 != 0).map fun x => (x.1, 256 * x.2)
    let words := [(hdr.plumb, 8), (hdr.conflicts.1, 64 + 64 * hdr.conflicts.2), (hdr.errors.1, 64 + 64 * hdr.errors.2)]
    if fld h 0 4 = 0x4E414C50 && fld h 4 2 = 1 && allZero h 6 2 && allZero h 36 4 && allZero h 52 12 && allZero h 144 112 &&
        (List.range 5).all (fun k => allZero h (76 + 16 * k) 4) && plumb % 8 = 0 && conflict % 64 = 0 && errors % 64 = 0 &&
        ringCountOk (fld h 32 4) && ringCountOk (fld h 48 4) &&
        arrays.zipIdx.all (fun (x, k) => x.1 % 256 = 0 && x.2 ≤ kindCap (k + 1)) &&
        !(words.any fun w => kept.any (overlaps w)) then some hdr
    else none

/-- G (R246), of the header at its plan address. -/
def State.planG (s : State) : Nat := s.planHeader.elim 0 fun a => s.rd (a + 8) 8

def PlanHdr.count (h : PlanHdr) (kind : Nat) : Nat := (h.arrays.getD (kind - 1) (0, 0)).2
def PlanHdr.record (h : PlanHdr) (kind i : Nat) : Nat := (h.arrays.getD (kind - 1) (0, 0)).1 + 256 * i

/-- The VERSION of a record as its H0 has it; 0 beyond the array's count (R246). -/
def State.versionOf (s : State) (h : PlanHdr) (kind i : Nat) : Nat :=
  if i < h.count kind then s.rd (h.record kind i) 8 % 2 ^ 40 else 0

/-! ### Payloads (Table 12.6) -/

/-- A field whose all-ones value means none. -/
def optional (none_ v : Nat) : Option Nat := if v = none_ then none else some v

/-- An id field names none, or an id of its kind. -/
def idOk (kind v : Nat) : Bool := v == 0xFFFF || v < kindCap kind
def id32Ok (v : Nat) : Bool := v == 0xFFFFFFFF || v < 65536

/-- Reserved bytes of a payload, and its fields' ranges. -/
def payloadOk (kind : Nat) (p : List Byte) : Bool :=
  let f (o w : Nat) : Nat := fld p o w
  if kind = 1 then
    allZero p 40 44 && f 34 1 < 4 && f 35 1 < 2 && idOk 4 (f 16 2) && idOk 4 (f 18 2) && idOk 4 (f 20 2) && id32Ok (f 24 4) && id32Ok (f 28 4)
  else if kind = 2 then
    allZero p 29 1 && allZero p 38 46 && f 20 1 < 32 && f 21 1 < 3 && f 22 1 < 31 && f 23 1 < 31 && f 28 1 < 6 && idOk 1 (f 0 2) && idOk 4 (f 32 2)
  else if kind = 3 then
    allZero p 15 69 && ringCountOk (f 4 4) && f 10 1 < 2 && f 11 1 < 8 && f 12 2 < 512 && f 14 1 < 2 && idOk 1 (f 0 2) && idOk 4 (f 8 2)
  else if kind = 4 then
    let w := f 78 1
    allZero p 81 1 && (w == 16 || w == 32 || w == 64) && 1 ≤ f 72 4 && f 72 4 ≤ 65536 && 1 ≤ f 76 2 && f 76 2 ≤ min 12288 (512 * w) &&
      f 79 1 < 4 && f 80 1 < 32 && idOk 1 (f 64 2)
  else allZero p 27 1 && allZero p 32 52 && f 26 1 < 2 && (List.range 8).all fun i => idOk 1 (f (2 * i) 2)

def ctxOf (p : List Byte) : CtxObj :=
  let f (o w : Nat) : Nat := fld p o w
  { root := BitVec.ofNat 64 (f 0 8), hgatp := BitVec.ofNat 64 (f 8 8)
    save := optional 0xFFFF (f 16 2), restore := optional 0xFFFF (f 18 2), trap := optional 0xFFFF (f 20 2)
    savemap := optional 0xFFFF (f 22 2), retmap := optional 0xFFFFFFFF (f 24 4), quarmap := optional 0xFFFFFFFF (f 28 4)
    scrmap := optional 0xFFFF (f 32 2), prioceil := f 34 1, run := f 35 1, saveslice := f 36 4 }

def mapOf (p : List Byte) : MapObj :=
  let f (o w : Nat) : Nat := fld p o w
  { ctx := f 0 2, tabidx := f 2 2, base := f 4 8, len := f 12 8, perm := BitVec.ofNat 5 (f 20 1)
    cls := if f 21 1 = 0 then .strict else if f 21 1 = 1 then .release else .free
    fmt := f 22 1, view := f 23 1, geom := f 24 4, target := f 28 1, node := f 30 2, tprog := f 32 2, tframe := f 34 4 }

def queueOf (p : List Byte) : QueueObj :=
  let f (o w : Nat) : Nat := fld p o w
  { ctx := f 0 2, ringmap := f 2 2, count := f 4 4, consumer := f 8 2, port := f 10 1, qif := f 11 1, qnum := f 12 2, flags := f 14 1 }

def progOf (p : List Byte) : ProgObj :=
  let f (o w : Nat) : Nat := fld p o w
  { digest := BitVec.ofNat 512 (f 0 64), ctx := f 64 2, imgmap := f 66 2, imgoff := f 68 4, frames := f 72 4, threads := f 76 2
    width := f 78 1, prio := f 79 1, attr := f 80 1, rstmap := f 82 2 }

def snapOf (p : List Byte) : SnapObj :=
  let f (o w : Nat) : Nat := fld p o w
  { ctxs := ((List.range 8).map fun i => f (2 * i) 2).filter fun c => c != 0xFFFF
    step_ := f 16 8, tgtmap := f 24 2, op := f 26 1, domain := f 28 4 }

/-- ATTR of a PROGRAM. -/
def ProgObj.resident (o : ProgObj) : Bool := bitOf o.attr 0
def ProgObj.prot (o : ProgObj) : Bool := bitOf o.attr 2
def ProgObj.guarded (o : ProgObj) : Bool := bitOf o.attr 1 || o.prot
def ProgObj.routine (o : ProgObj) : Bool := bitOf o.attr 3
def ProgObj.rst (o : ProgObj) : Option Nat := if bitOf o.attr 4 then some o.rstmap else none

/-- The mappings that hold a MAPPING in DRAINING (R255). -/
def CtxObj.maps (c : CtxObj) : List Nat := [c.savemap, c.retmap, c.quarmap, c.scrmap].filterMap id
def ProgObj.maps (o : ProgObj) : List Nat := o.imgmap :: o.rst.toList

/-- The context and the mappings that a body names. -/
def namesOf (kind : Nat) (p : List Byte) : Option Nat × List Nat :=
  if kind = 1 then (none, (ctxOf p).maps)
  else if kind = 2 then (some (mapOf p).ctx, [])
  else if kind = 3 then (some (queueOf p).ctx, [(queueOf p).ringmap])
  else if kind = 4 then (some (progOf p).ctx, (progOf p).maps)
  else (none, [])

/-! ### Reading a record (R250) -/

/-- What a record reads as. -/
inductive Rec where
  | absent
  | unsettled
  /-- H0 and BODY0 -/
  | conflict (h0 body0 : Nat)
  | invalid (version : Nat)
  | body (version : Nat) (delete : Bool) (payload : List Byte)
  deriving DecidableEq, Repr

/-- A record of an array. A pass reads it between two steps of the machine, so H0 reads the same before and after. -/
def readRecord (s : State) (kind a : Nat) : Rec :=
  let h := s.rd a 8
  if h % 2 ^ 40 = 0 then .absent
  else
    let b := readBytes s.mem (a + if bitOf h 40 then 160 else 64) 96
    let body0 := fld b 0 8
    if crc32c (b.take 8 ++ b.drop 12) ≠ fld b 8 4 then .unsettled
    else if body0 % 2 ^ 40 + 1 ≠ h % 2 ^ 40 || bits body0 47 40 ≠ bits h 55 48 then .conflict h body0
    else if h / 2 ^ 56 ≠ kind || bits h 55 48 = 0 || bits h 47 41 ≠ 0 || s.rd (a + 8) 56 ≠ 0 || bits body0 63 49 ≠ 0 ||
        (!bitOf body0 48 && !payloadOk kind (b.drop 12)) then .invalid (h % 2 ^ 40)
    else .body (h % 2 ^ 40) (bitOf body0 48) (b.drop 12)

/-- A conflict record (Table 12.7). -/
def conflictRecord (kind i h body0 g time : Nat) : List Byte :=
  recordOf 64 [(0, 4, i), (4, 1, kind), (5, 1, bits h 55 48), (6, 1, bits body0 47 40), (7, 1, bits h 40 40),
    (8, 8, h % 2 ^ 40), (16, 8, body0 % 2 ^ 40), (24, 8, g), (32, 8, time)]

/-! ### The kernel header (R39, R40) -/

/-- A kernel header. -/
structure ImgHdr where
  encver : Nat
  width : Nat
  vregs : Nat
  sregs : Nat
  ngroups : Nat
  attr : Nat
  gtoff : Nat
  entry : Nat
  restart : Nat
  scratch : Nat
  dataoff : Nat
  datasz : Nat
  imgsz : Nat
  caps : List (Nat × Nat × Nat)
  /-- MAGIC and the reserved fields are right -/
  formOk : Bool
  deriving DecidableEq, Repr

def imgHdrOf (b : List Byte) : ImgHdr :=
  let f (o w : Nat) : Nat := fld b o w
  let n := f 0x2C 1
  { encver := f 4 1, width := f 5 1, vregs := f 6 2, sregs := f 8 2, ngroups := f 0xA 2, attr := f 0xC 4, gtoff := f 0x10 4
    entry := f 0x14 4, restart := f 0x18 4, scratch := f 0x1C 4, dataoff := f 0x20 4, datasz := f 0x24 4, imgsz := f 0x28 4
    caps := (List.range (min n 30)).map fun i => (f (0x30 + 4 * i) 1, f (0x31 + 4 * i) 1, f (0x32 + 4 * i) 2)
    formOk := f 0 4 == 0x4B4E4D44 && f 0xC 4 < 4 && allZero b 0x2D 3 && n ≤ 30 && allZero b (0x30 + 4 * min n 30) (4 * (30 - min n 30)) && allZero b 0xA8 0x58 }

def ImgHdr.prot (h : ImgHdr) : Bool := bitOf h.attr 1
def ImgHdr.guarded (h : ImgHdr) : Bool := bitOf h.attr 0 || h.prot

/-- A place of the image, a multiple of 4. -/
def ImgHdr.inImage (h : ImgHdr) (a : Nat) : Bool := a % 4 == 0 && a < h.imgsz

/-- The capability list: registers 2 to 31 once each, known kinds. -/
def ImgHdr.capsOk (h : ImgHdr) : Bool :=
  let ks := h.caps.map fun x => x.1
  h.caps.all (fun (k, kind, _) => 2 ≤ k && k ≤ 31 && kind ≤ 1) && ks.eraseDups.length == ks.length

/-- The header's checks of R40, in order: the fault of the first that fails. -/
def ImgHdr.fault (h : ImgHdr) (o : ProgObj) : Option Cause :=
  let w := h.width
  if h.encver < 3 || 5 < h.encver || (h.encver == 3 && (w == 64 || h.attr % 4 != 0)) then some .badEncver
  else if h.formOk && (w == 16 || w == 32 || w == 64) && w == o.width && 1 ≤ h.vregs && h.vregs ≤ (if w = 64 then 512 else 1024) &&
      1 ≤ h.sregs && h.sregs ≤ 96 && 1 ≤ h.ngroups && h.ngroups ≤ 256 && h.gtoff % 64 == 0 && h.gtoff + 64 * h.ngroups ≤ h.imgsz &&
      h.inImage h.entry && (h.restart == 0 || h.inImage h.restart) &&
      (h.datasz == 0 || (h.dataoff % 64 == 0 && h.dataoff + h.datasz ≤ h.imgsz)) && h.capsOk && h.guarded == o.guarded && h.prot == o.prot then none
  else some .badHeader

/-- Group-table entry `g`: its warps. Entry 0 is ignored. -/
def groupEntry (img : List Byte) (h : ImgHdr) (g : Nat) : List Nat :=
  if g = 0 then [] else
    let v := fld img (h.gtoff + 64 * g) 64
    (List.range 512).filter fun w => bitOf v w

/-- Every group's warps are in the frame, and none is in more than four. -/
def groupsOk (gs : List (List Nat)) (warps : Nat) : Bool :=
  gs.all (fun g => g.all fun w => w < warps) && (List.range warps).all fun w => (gs.filter fun g => g.contains w).length ≤ 4

/-- The launch an image makes (R16, R33, R40). -/
def launchOfImage (h : ImgHdr) (o : ProgObj) (prog lid version : Nat) (gs : List (List Nat)) : Launch :=
  { lid := lid, prog := prog, version := version, ctx := o.ctx, encver := h.encver, width := h.width, vregs := h.vregs, sregs := h.sregs
    groups := gs, textEnd := h.gtoff, entry := h.entry, restart := h.restart, scratch := h.scratch, dataSize := h.datasz
    caps := h.caps.map fun (k, kind, i) => (k, if kind = 0 then some i else none), resident := o.resident, guarded := o.guarded
    prot := o.prot, routine := o.routine, frames := o.frames, threads := o.threads, prio := o.prio, rstmap := o.rst }

end Sys2Proof.Machine
end

