-- ==== Sys2Proof/Machine/Scribe.lean ====
section
/-! DEFINITION. The Scribe: passes (R252), dependencies (R253), updates and replaces (R254), deletions and drains (R255),
the building of images (R40), and the plumb mark (R259). -/

namespace Sys2Proof.Machine

/-! ### Entries (R256, R257) -/

def State.setCtx (s : State) (i : Nat) (c : Option CtxObj) : State :=
  { s with scribe := { s.scribe with ctxs := sset none i c s.scribe.ctxs } }

def State.setMap (s : State) (i : Nat) (o : Option MapObj) : State :=
  { s with scribe := { s.scribe with maps := sset none i o s.scribe.maps } }

def State.setTab (s : State) (key : Nat) (x : Nat × Option Nat) : State :=
  { s with scribe := { s.scribe with tab := sset (0, none) key x s.scribe.tab } }

/-- DETAIL of an entry that has no other use for it: the frames placed of a PROGRAM, else 0 (Table 12.10). -/
def State.detailOf (s : State) (kind i : Nat) : Nat :=
  if kind = 4 then ((s.progObj i).bind ProgObj.lid).elim 0 s.framesPlaced else 0

/-- A step under way towards a version. -/
def State.building (s : State) (kind i v : Nat) : State :=
  s.setEntry kind i { s.entry kind i with st := .building, target := v, replace := false, detail := s.detailOf kind i }

/-- A step complete: the object matches the version. -/
def State.built (s : State) (kind i v detail : Nat) : State :=
  s.setEntry kind i { s.entry kind i with st := .built, version := v, target := v, live := true, replace := false, detail := detail }

/-- A dependency or a condition is missing. -/
def State.waiting (s : State) (kind i detail : Nat) : State :=
  s.setEntry kind i { s.entry kind i with st := .waiting, detail := detail }

/-- A failed check, a conflict or an invalid body. -/
def State.faulted (s : State) (kind i : Nat) (c : Cause) (detail : Nat) : State :=
  s.setEntry kind i { s.entry kind i with st := .faulted, fault := c.code, detail := detail }

/-- A failed check or an invalid body. -/
def State.refused (s : State) (kind i : Nat) (c : Cause) : State := s.faulted kind i c (s.detailOf kind i)

/-- A removal under way; with `replace` the object is built anew after it. -/
def State.draining (s : State) (kind i v : Nat) (replace : Bool) : State :=
  s.setEntry kind i { s.entry kind i with st := .draining, target := v, replace := replace, detail := s.detailOf kind i }

/-- A removal complete (Table 12.12). -/
def State.removed (s : State) (kind i : Nat) : State :=
  let e := s.entry kind i
  if e.replace then s.setEntry kind i { e with st := .building, live := false, detail := 0 }
  else s.setEntry kind i { e with st := .absent, version := e.target, live := false, detail := 0, ofCtx := none, names := [], rtn := none }

/-- What the Scribe remembers of an entry changes; the as-built table is not written. -/
def State.note (s : State) (kind i : Nat) (e : AbEntry) : State :=
  { s with scribe := { s.scribe with entries := sset {} (abKey kind i) e s.scribe.entries } }

/-- The same of a version alone. -/
def State.saw (s : State) (kind i v : Nat) : State := s.note kind i { s.entry kind i with seen := v }

/-! ### Dependencies (R253) -/

/-- What the dependencies of a record come to. -/
inductive Dep where
  | ok
  | wait (detail : Nat)
  | bad
  deriving DecidableEq, Repr

/-- The first that is not met. -/
def Dep.and (a : Dep) (b : Unit → Dep) : Dep := match a with | .ok => b () | _ => a

/-- A record that is to be BUILT. -/
def State.needs (s : State) (kind i : Nat) : Dep := if (s.entry kind i).st = .built then .ok else .wait (kind * 2 ^ 16 + i)

/-- A MAPPING of a context with some permissions. -/
def State.needsMap (s : State) (ctx m : Nat) (perm : BitVec 5) : Dep :=
  (s.needs 2 m).and fun _ =>
    match s.mapObj m with
    | some o => if o.ctx = ctx && o.perm &&& perm = perm then .ok else .bad
    | none => .bad

/-- A routine of a context: a PROGRAM whose record, as last examined, has no ATTR routine is none, BUILT or not (R235). -/
def State.needsRoutine (s : State) (ctx : Nat) (p : Option Nat) : Dep :=
  match p with
  | none => .ok
  | some p =>
    if (s.entry 4 p).rtn = some false then .bad
    else (s.needs 4 p).and fun _ =>
      match s.progObj p with
      | some o => if o.ctx = ctx && o.routine then .ok else .bad
      | none => .bad

/-- The frame of a window is placed. -/
def State.needsFrame (s : State) (o : MapObj) : Dep :=
  if o.target < 2 || 4 < o.target then .ok
  else (s.needs 4 o.tprog).and fun _ =>
    match s.progObj o.tprog with
    | none => .bad
    | some p =>
      if p.ctx ≠ o.ctx then .bad
      else if s.frames.any fun f => some f.lid == p.lid && f.idx == o.tframe then .ok
      else .wait (4 * 2 ^ 16 + o.tprog)

/-- No other queue that is not ABSENT holds the number. -/
def State.needsNumber (s : State) (i : Nat) (q : QueueObj) : Dep :=
  let same (x : QueueObj) : Bool := x.port == q.port && x.qif == q.qif && x.qnum == q.qnum
  match s.scribe.queues.find? fun (j, x) => j != i && (s.entry 3 j).st != .absent && x.any same with
  | some (j, _) => .wait (3 * 2 ^ 16 + j)
  | none => .ok

/-- What a record depends on decides whether its step begins. -/
def withDep (s : State) (kind i : Nat) (d : Dep) (k : State) : State :=
  match d with
  | .ok => k
  | .wait x => s.waiting kind i x
  | .bad => s.refused kind i .badRecord

/-! ### CONTEXT (R254, R264) -/

/-- ROOT and HGATP modes, SAVESLICE (Table 12.8). -/
def CtxObj.ok (c : CtxObj) : Bool :=
  c.root.toNat / 2 ^ 60 == 10 && (c.hgatp == 0 || c.hgatp.toNat / 2 ^ 60 == 10) && c.saveslice % 64 == 0 && (c.savemap.isNone || c.saveslice != 0)

/-- The interfaces of a context's queues, as TDIs. -/
def State.tdisOf (s : State) (ctx : Nat) : List Nat := ((s.interfacesOf ctx).map fun (p, i) => 8 * p + i).eraseDups

/-- A CONTEXT created or updated in place: a new ROOT or HGATP invalidates the whole ASID, and is a change of a locked
field (R297); RUN suspends or resumes. -/
def stepContext (s : State) (i v : Nat) (c : CtxObj) : State :=
  if !c.ok then s.refused 1 i .badRecord
  else
    let old := s.ctxObj i
    let moved := old.filter fun o => o.root != c.root || o.hgatp != c.hgatp
    let s := s.setCtx i (some c)
    let s := match moved with | some o => s.shootdown o.whole | none => s
    let s := if c.run = 1 then suspendContext (s.building 1 i v) i else resumeContext (s.built 1 i v 0) i
    if moved.isSome then (s.tdisOf i).foldl tdiFails s else s

/-! ### MAPPING (R195, R255, R279) -/

/-- The key of a mapping's table entry. -/
def MapObj.key (o : MapObj) : Nat := o.ctx * 2 ^ 16 + o.tabidx

/-- Die and number of a list mapping. -/
def MapObj.list (o : MapObj) : Nat × Nat := (o.node % 8, o.node / 8 % 16)

/-- The table entry is another mapping's; or the list another context's (DEDUCED, log 28). -/
def State.duplicate (s : State) (i : Nat) (o : MapObj) : Bool :=
  (match (sget (0, none) s.scribe.tab o.key).2 with | some j => j != i | none => false) ||
    (o.target == 5 && (s.list o.list.1 o.list.2).bound && (s.list o.list.1 o.list.2).ctx != o.ctx)

/-- A capability derives from a table entry at a generation. -/
def Cap.fromTab (c : Cap) (key gen : Nat) : Bool :=
  match c.src with
  | .table ctx tab g => ctx * 2 ^ 16 + tab == key && g == gen
  | _ => false

def TrussWork.cap? : TrussWork → Option Cap
  | .tld _ c => c
  | .tst _ c _ _ _ _ _ _ _ _ _ _ _ => c
  | .loop _ _ _ _ _ _ => none
  | .tzero => none
  | .tmask _ => none

/-- Work that passed its checks under a generation is still to be performed (R279 step 3); loads, stores and atomics are
performed with the revocation, and engines check each access as they make it. -/
def State.inUse (s : State) (key gen : Nat) : Bool :=
  s.copies.any (fun c => c.lanes.any fun x => !x.fin && (x.src.cap.fromTab key gen || x.dst.cap.fromTab key gen)) ||
    s.ftops.any (fun o => o.cap.fromTab key gen) ||
    s.bays.any fun (_, b) => b.ops.any fun o => o.work.cap?.any fun c => c.fromTab key gen

/-- An entry's revocation still waits: for such work, or for stores that guarded frames of the context buffered before it. -/
def State.revoking (s : State) (e : AbEntry) : Bool :=
  match e.revoke with
  | some (key, gen) => s.inUse key gen || s.stillBuffering e.olds
  | none => false

/-- A mapping's capabilities revoked (R279 steps 1 and 2): its generation advances, what passed its checks is performed, and its
translations are shot down; the entry remembers what is still waited for. -/
def revokeMap (s : State) (i : Nat) (o : MapObj) : State :=
  let (gen, m) := sget (0, none) s.scribe.tab o.key
  if m ≠ some i then s
  else
    let s := s.performEvery.setTab o.key (gen + 1, none)
    let s := match s.ctxObj o.ctx with
      | some c => if o.target = 0 then s.shootdown (c.range o.base o.len) else s
      | none => s
    let e := { s.entry 2 i with revoke := some (o.key, gen), olds := s.buffering fun l => l.ctx == o.ctx }
    if s.revoking e then s.note 2 i e else s

/-- The items of a list that have spilled, the oldest first. -/
def State.spilledItems (s : State) (l : ReadyList) : List W64 :=
  (List.range l.spilled).map fun k => BitVec.ofNat 64 (s.rd (s.spillAt l (l.first + k)) 8)

/-- Items in a spill area that a list mapping gives: it lies in device memory below the spare region (R18, R195). -/
def MapObj.spill (o : MapObj) : Nat := if o.base + o.len ≤ Config.devBytes - Config.spareBytes then o.len / 8 else 0

/-- A list mapping binds its list, with its spill area (R195). The items of a list that is bound already stay; those that have
spilled move to the new area, as many as it holds (DEDUCED, log 28). -/
def bindList (s : State) (i : Nat) (o : MapObj) : State :=
  if o.target ≠ 5 then s
  else
    let (d, n) := o.list
    let l := s.list d n
    let moved := if l.bound then (s.spilledItems l).take o.spill else []
    let l' : ReadyList :=
      { bound := true, ctx := o.ctx, mapping := i, area := o.base, spill := o.spill, items := if l.bound then l.items else [], spilled := moved.length }
    moved.zipIdx.foldl (fun s (x, k) => s.wr (s.spillAt l' k) 8 x.toNat) (s.modList d n fun _ => l')

/-- A mapping named by a record that is not ABSENT (R255). -/
def State.named (s : State) (m : Nat) : Bool :=
  let held (kind i : Nat) : List Nat :=
    if kind = 1 then (s.ctxObj i).elim [] CtxObj.maps
    else if kind = 3 then (s.queueObj i).elim [] fun q => [q.ringmap]
    else if kind = 4 then (s.progObj i).elim [] ProgObj.maps
    else []
  s.scribe.entries.any fun (k, e) =>
    let kind := k / 2 ^ 20
    kind != 2 && e.st != .absent && !(kind == 1 && e.st == .draining) && (e.names.contains m || (held kind (k % 2 ^ 20)).contains m)

/-- A mapping whose revocation is over shows its new state (R279 step 4); one that drains is gone once nothing names it. -/
def settleMap (s : State) (i : Nat) : State :=
  let e := s.entry 2 i
  if s.revoking e then s
  else
    let s :=
      if e.revoke.isNone then s
      else if e.deleting then s.setEntry 2 i { e with revoke := none, olds := [], deleting := false, st := .draining, detail := 0 }
      else s.setEntry 2 i { e with revoke := none, olds := [], st := .built, version := e.target, live := true, detail := 0 }
    if (s.entry 2 i).st = .draining && !s.named i then (s.setMap i none).removed 2 i else s

/-- A MAPPING created or updated in place: what it replaces is revoked, and its entry is written once that is over. -/
def stepMapping (s : State) (i v : Nat) (o : MapObj) : State :=
  withDep s 2 i ((s.needs 1 o.ctx).and fun _ => s.needsFrame o) <|
    if s.duplicate i o then s.refused 2 i .duplicate
    else
      let s := match s.mapObj i with | some old => revokeMap s i old | none => s
      let gen := (sget (0, none) s.scribe.tab o.key).1
      let s := bindList ((s.setMap i (some o)).setTab o.key (gen, some i)) i o
      let e := s.entry 2 i
      if e.revoke.isSome then s.note 2 i { e with target := v, replace := false, deleting := false } else s.built 2 i v 0

/-- A MAPPING deleted, or replaced: DRAINING shows once its revocation is complete (R258). -/
def drainMapping (s : State) (i v : Nat) (replace : Bool) : State :=
  match s.mapObj i with
  | none => (s.draining 2 i v replace).removed 2 i
  | some o =>
    let s := revokeMap s i o
    let e := s.entry 2 i
    if e.revoke.isSome then s.note 2 i { e with target := v, replace := replace, deleting := true }
    else settleMap (s.draining 2 i v replace) i

/-! ### QUEUE (R254, R261, R263) -/

/-- Dependencies of a QUEUE. -/
def State.queueDeps (s : State) (i : Nat) (q : QueueObj) : Dep :=
  ((s.needs 1 q.ctx).and fun _ => s.needsMap q.ctx q.ringmap 3).and fun _ =>
    if (s.mapObj q.ringmap).any fun o => o.len < 64 + 64 * q.count then .bad else s.needsNumber i q

/-- An update that replaces the queue. -/
def QueueObj.replaces (new old : QueueObj) : Bool :=
  new.ctx != old.ctx || new.ringmap != old.ringmap || new.port != old.port || new.qif != old.qif || new.qnum != old.qnum

/-- COUNT changed in place: BUILDING while the messages fit, WAITING with those still to drain otherwise (R263). -/
def resizeTo (s : State) (i v : Nat) (old : QueueObj) (n : Nat) : State :=
  let s := s.setQueue i { old with newCount := some n }
  match s.vaRange old.ctx (s.queueBase old + 8) 8 .r with
  | .ok s as =>
    let occ := occupancyOf old (s.rdAt as)
    if n < occ && occ ≤ old.count then s.setEntry 3 i { s.entry 3 i with st := .waiting, target := v, detail := (occ - n) % 2 ^ 32 }
    else s.building 3 i v
  | _ => s.building 3 i v

/-- A QUEUE created, or updated in place. -/
def stepQueue (s : State) (i v : Nat) (q : QueueObj) : State :=
  withDep s 3 i (s.queueDeps i q) <|
    match s.queueObj i with
    | none => makeQueue ((s.setQueue i q).building 3 i v) i q
    | some old =>
      let now := { old with consumer := q.consumer, flags := q.flags }
      let fresh := { q with outWait := old.outWait, outDeny := old.outDeny }
      if !old.made then
        let s := (s.setQueue i fresh).building 3 i v
        if old.outWait.isSome then s else makeQueue s i fresh
      else if q.count ≠ old.count || (old.newCount.isSome && old.epoch % 2 = 1) then resizeTo s i v now q.count
      else (s.setQueue i { now with newCount := none }).built 3 i v 0

/-- A QUEUE deleted or replaced (R264). -/
def drainQueue (s : State) (i v : Nat) (replace : Bool) : State :=
  match s.queueObj i with
  | none => (s.draining 3 i v replace).removed 3 i
  | some q =>
    if !q.made then
      ({ s with scribe := { s.scribe with queues := sset none i none s.scribe.queues } }.draining 3 i v replace).removed 3 i
    else startQueueDrain (s.draining 3 i v replace) i q (if replace then 2 else 1)

/-- A replace that changes a locked field of a queue (R297). -/
def queueUnlocks (s : State) (old new : QueueObj) : State :=
  if new.port ≠ old.port || new.qif ≠ old.qif || new.qnum ≠ old.qnum then tdiFails s (8 * old.port + old.qif) else s

/-! ### PROGRAM (R40, R254, R328) -/

/-- Dependencies of a PROGRAM. -/
def State.progDeps (s : State) (o : ProgObj) : Dep :=
  let c := (s.ctxObj o.ctx).getD {}
  let rst (_ : Unit) : Dep := match o.rst with
    | none => .ok
    | some m => (s.needsMap o.ctx m 0).and fun _ => if (s.mapObj m).any fun x => x.len < 64 * o.frames then .bad else .ok
  let routines (_ : Unit) : Dep :=
    if o.routine then .ok
    else ((s.needsRoutine o.ctx c.save).and fun _ => s.needsRoutine o.ctx c.restore).and fun _ => s.needsRoutine o.ctx c.trap
  (((s.needs 1 o.ctx).and fun _ => s.needsMap o.ctx o.imgmap 1).and rst).and routines

/-- An update that replaces the launch: any field but PRIO and a resident program's FRAMES, or a new version of a launch
that is DONE. -/
def ProgObj.replaces (new old : ProgObj) (done : Bool) : Bool :=
  done || new.digest != old.digest || new.ctx != old.ctx || new.imgmap != old.imgmap || new.imgoff != old.imgoff ||
    new.threads != old.threads || new.width != old.width || new.attr != old.attr || new.rstmap != old.rstmap ||
    (new.frames != old.frames && !old.resident)

/-- A build that fails. -/
def buildFails (s : State) (i : Nat) (o : ProgObj) (c : Cause) : State :=
  ({ s with scribe := { s.scribe with progs := sset none i (some { o with pending := false, wait := none, deny := false }) s.scribe.progs } }).refused 4 i c

/-- The build waits for a page. -/
def buildAsks (s : State) (i : Nat) (o : ProgObj) (p : Absent) : State :=
  (askJob s (.build i) o.ctx 0xFFFFFFFF p).setProg i { o with wait := some s.fresh, deny := false }

/-- Restart records of a launch, at most `k` more, written in order: MAGIC and zeros (R328). An absent page is asked for; a record
that cannot be reached makes the entry FAULTED (BAD_RECORD) (DEDUCED, log 26). -/
def writeRecs (i : Nat) (l : Launch) (m : Nat) : Nat → State → ProgObj → State
  | 0, s, _ => s
  | k + 1, s, o =>
    match s.mapAccess m (64 * o.recs) 64 .w with
    | .absent p => buildAsks s i o p
    | .fault s _ _ => buildFails s i o .badRecord
    | .ok s as =>
      let o := { o with recs := o.recs + 1 }
      writeRecs i l m k ((s.wrAt as (recordOf 64 [(0, 4, 0x54525352)])).setProg i o) o

/-- The restart records of a launch that are still to be written. -/
def moreRecs (s : State) (i : Nat) (o : ProgObj) (l : Launch) : State :=
  match l.rstmap with
  | none => s
  | some m => writeRecs i l m (l.frames - o.recs) s o

/-- An image that passed every check becomes a launch: its text and data are placed, its restart records made. -/
def buildLaunch (s : State) (i : Nat) (o : ProgObj) (h : ImgHdr) (img : List Byte) (gs : List (List Nat)) : State :=
  let l := launchOfImage h o i s.fresh o.target gs
  let text := (img.drop Config.textStart).take (h.gtoff - Config.textStart)
  let m := writeBytes s.mem ((Region.text l.lid).at Config.textStart) text
  let m := writeBytes m ((Region.data l.lid).at 0) ((img.drop h.dataoff).take h.datasz)
  let o := { o with pending := false, wait := none, deny := false, lid := some l.lid, placed := [], recs := 0 }
  (moreRecs ({ s.tick with mem := m, launches := s.launches ++ [l] }.setProg i o) i o l).settleProgram i

/-- The checks after the image is read: groups (R40), DIGEST, PRIO (Table 12.8). -/
def buildImage (s : State) (i : Nat) (o : ProgObj) (h : ImgHdr) (img : List Byte) : State :=
  let lanes := if o.prot then 2 * o.threads else o.threads
  let gs := (List.range h.ngroups).map (groupEntry img h)
  if !groupsOk gs (ceilDiv lanes h.width) then buildFails s i o .badHeader
  else if sha512 img ≠ o.digest then buildFails s i o .digest
  else if ((s.ctxObj o.ctx).elim 0 CtxObj.prioceil) < o.prio then buildFails s i o .badRecord
  else buildLaunch s i o h img gs

/-- A built PROGRAM whose restart records are still to be written. -/
def recordsOne (s : State) (i : Nat) (o : ProgObj) : Option State :=
  match o.lid.bind s.launch? with
  | none => none
  | some l =>
    if o.recorded l then none
    else some (if o.deny then buildFails s i o .badRecord else (moreRecs s i o l).settleProgram i)

/-- A PROGRAM still to be built: the header is read and checked, then the image. A read that meets a line whose check fails
is made again (Table 18.1). -/
def buildOne (s : State) (i : Nat) (o : ProgObj) : Option State :=
  if o.wait.isSome || (s.entry 4 i).st ≠ .building then none
  else if !o.pending then recordsOne s i o
  else if o.deny then some (buildFails s i o .badHeader)
  else
    let off := 256 * o.imgoff
    match s.mapAccess o.imgmap off 256 .r with
    | .absent p => some (buildAsks s i o p)
    | .fault s _ _ => some (buildFails s i o .badHeader)
    | .ok s as =>
      let h := imgHdrOf (as.map fun a => readByte s.mem a)
      if as.any s.lineBad then none
      else match h.fault o with
        | some c => some (buildFails s i o c)
        | none =>
          match s.mapAccess o.imgmap off h.imgsz .r with
          | .absent p => some (buildAsks s i o p)
          | .fault s _ _ => some (buildFails s i o .badHeader)
          | .ok s as => if as.any s.lineBad then none else some (buildImage s i o h (as.map fun a => readByte s.mem a))

/-- The first program to build. -/
def firstProg (s : State) : List (Nat × Option ProgObj) → Option State
  | [] => none
  | (i, some o) :: r => match buildOne s i o with
    | some s => some s
    | none => firstProg s r
  | (_, none) :: r => firstProg s r

/-- `PROGRAM_BUILD` (R40). -/
def execProgramBuild (s : State) : Res := .next ((firstProg s s.scribe.progs).getD s)

/-- Frames are taken away. -/
def takeFrames (s : State) (fs : List Frame) : State := fs.foldl takeFrame s

/-- PRIO and FRAMES of a launch applied in place (R254). -/
def progInPlace (s : State) (i v : Nat) (old o : ProgObj) (l : Launch) : State :=
  if ((s.ctxObj o.ctx).elim 0 CtxObj.prioceil) < o.prio then s.refused 4 i .badRecord
  else
    let l' := { l with prio := o.prio, frames := o.frames, version := v }
    let s := { s with launches := modifyFirst (fun x => x.lid == l.lid) (fun _ => l') s.launches }
    let s := takeFrames s (s.frames.filter fun f => f.lid == l.lid && decide (o.frames ≤ f.idx))
    let o' := { old with prio := o.prio, frames := o.frames, placed := old.placed.filter fun k => k < o.frames, recs := min old.recs o.frames, target := v }
    let e := s.entry 4 i
    (moreRecs ((s.setProg i o').setEntry 4 i { e with st := .building, target := v, replace := false }) i o' l').settleProgram i

/-- A PROGRAM created, or updated in place. -/
def stepProgram (s : State) (i v : Nat) (o : ProgObj) : State :=
  withDep s 4 i (s.progDeps o) <|
    match s.progObj i with
    | some old =>
      match old.lid.bind s.launch? with
      | some l => progInPlace s i v old o l
      | none => (s.setProg i { o with pending := true, target := v }).building 4 i v
    | none => (s.setProg i { o with pending := true, target := v }).building 4 i v

/-- A PROGRAM deleted or replaced (R255). -/
def drainProgram (s : State) (i v : Nat) (replace : Bool) : State :=
  match s.progObj i with
  | none => (s.draining 4 i v replace).removed 4 i
  | some o =>
    let s := takeFrames s (s.frames.filter fun f => some f.lid == o.lid)
    (s.draining 4 i v replace).programDrained i

/-! ### CONTEXT drains (R255) -/

/-- Some record that is not ABSENT names the context. -/
def State.ctxNamed (s : State) (ctx : Nat) : Bool :=
  let of (kind i : Nat) : Option Nat :=
    if kind = 2 then (s.mapObj i).map MapObj.ctx else if kind = 3 then (s.queueObj i).map QueueObj.ctx else (s.progObj i).map ProgObj.ctx
  s.scribe.entries.any fun (k, e) =>
    let kind := k / 2 ^ 20
    2 ≤ kind && kind ≤ 4 && e.st != .absent && (e.ofCtx == some ctx || of kind (k % 2 ^ 20) == some ctx)

/-- A die without a context's rings, handles and list bindings. -/
def Die.dropCtx (d : Die) (ctx : Nat) : Die :=
  let d := { d with rings := d.rings.filter fun (_, r) => r.ctx != ctx, lists := d.lists.filter fun (_, l) => !(l.bound && l.ctx == ctx) }
  (d.handles.filter fun (_, h) => h.open_ && h.ctx == ctx).foldl (fun d (i, _) => d.dropHandle i) { d with pubs := d.pubs.filter fun (_, p) => p.ctx != ctx }

/-- A context that drains is removed once nothing names it. -/
def settleCtxDrain (s : State) (i : Nat) : State :=
  if (s.entry 1 i).st ≠ .draining || s.ctxNamed i then s
  else
    let s := match s.ctxObj i with | some c => s.shootdown c.whole | none => s
    let bays := s.bays.map fun (k, b) => (k, { b with rings := b.rings.filter fun (_, r) => r.ctx != i })
    let bays := bays.filter fun (_, b) => b != {}
    let dies := (s.dies.map fun (k, d) => (k, d.dropCtx i)).filter fun (_, d) => d != {}
    let s := { s with bays := bays, dies := dies, circles := s.circles.filter fun c => c.ctx != i }
    let s := { s with scribe := { s.scribe with torn := s.scribe.torn.filter fun c => c != i, tab := s.scribe.tab.map fun (k, g, m) => if k / 2 ^ 16 = i then (k, g + 1, m) else (k, g, m) } }
    let e := s.entry 1 i
    ((s.setCtx i none).setEntry 1 i { e with suspended := false, swapped := false, wake := false }).removed 1 i

/-- A CONTEXT deleted. -/
def drainContext (s : State) (i v : Nat) : State :=
  match s.ctxObj i with
  | none => (s.draining 1 i v false).removed 1 i
  | some _ => settleCtxDrain (s.draining 1 i v false) i

/-! ### SNAPSHOT (R335 to R338) -/

/-- The first context of a restore that is not suspended. -/
def State.needsSuspended (s : State) (cs : List Nat) : Dep :=
  match cs.find? fun c => !((s.entry 1 c).st == .built && (s.entry 1 c).suspended) with
  | some c => .wait (2 ^ 16 + c)
  | none => .ok

/-- Dependencies of a SNAPSHOT. -/
def State.snapDeps (s : State) (x : SnapObj) : Dep :=
  let ctxs : Dep := x.ctxs.foldl (fun (d : Dep) c => d.and fun _ => s.needs 1 c) .ok
  (ctxs.and fun _ => s.needs 2 x.tgtmap).and fun _ =>
    if x.ctxs ≠ [] && !((s.mapObj x.tgtmap).any fun o => o.perm &&& 7 = 7) then .bad
    else if x.op = 1 then s.needsSuspended x.ctxs else .ok

/-- A SNAPSHOT operation begins. A restore of no context has nothing to restore. -/
def stepSnapshot (s : State) (i v : Nat) (x : SnapObj) : State :=
  withDep s 5 i (s.snapDeps x) <|
    if x.ctxs = [] && x.op = 0 then (s.setSnap i { x with phase := .updating }).building 5 i v
    else match readTarget s x.tgtmap with
      | (s, none) => s.refused 5 i .badRecord
      | (s, some _) =>
        if x.op = 1 then (s.setSnap i { x with phase := .checking, held := x.ctxs }).building 5 i v
        else
          let s := (s.setSnap i { x with phase := .suspending, held := x.ctxs }).building 5 i v
          x.ctxs.foldl suspendContext s

/-- A SNAPSHOT deleted or replaced: its operation ends. -/
def drainSnapshot (s : State) (i v : Nat) (replace : Bool) : State := (abandonSnap (s.draining 5 i v replace) i).removed 5 i

/-! ### Passes (R252) -/

/-- A deletion, or the removal that begins a replace. -/
def removeRecord (s : State) (kind i v : Nat) (replace : Bool) : State :=
  if kind = 1 then drainContext s i v
  else if kind = 2 then drainMapping s i v replace
  else if kind = 3 then drainQueue s i v replace
  else if kind = 4 then drainProgram s i v replace
  else drainSnapshot s i v replace

/-- The update of a record replaces its object (Table 12.9). -/
def replaces (s : State) (kind i : Nat) (p : List Byte) : Bool :=
  if kind = 2 then (s.mapObj i).any fun o => o.ctx != (mapOf p).ctx
  else if kind = 3 then (s.queueObj i).any fun q => q.made && (queueOf p).replaces q
  else if kind = 4 then (s.progObj i).any fun o => o.lid.isSome && (progOf p).replaces o (!(o.lid.bind s.launch?).any Launch.live)
  else kind = 5 && (s.snapObj i).isSome

/-- A body's step. -/
def stepBody (s : State) (kind i v : Nat) (p : List Byte) : State :=
  if kind = 1 then stepContext s i v (ctxOf p)
  else if kind = 2 then stepMapping s i v (mapOf p)
  else if kind = 3 then stepQueue s i v (queueOf p)
  else if kind = 4 then stepProgram s i v (progOf p)
  else stepSnapshot s i v (snapOf p)

/-- A creation or an update (R254). A replace is a deletion and then a creation in the same pass. -/
def updateRecord (s : State) (kind i v : Nat) (p : List Byte) : State :=
  if replaces s kind i p then
    let old := s.queueObj i
    let s := removeRecord s kind i v true
    let s := if kind = 3 then match old with | some q => queueUnlocks s q (queueOf p) | none => s else s
    let e := s.entry kind i
    if e.st = .building && e.replace then stepBody s kind i v p else s
  else stepBody s kind i v p

/-- The entry takes no new version while it drains, nor while a revocation is under way (R257, R279). -/
def AbEntry.busy (e : AbEntry) : Bool := e.st == .draining || e.revoke.isSome

/-- A queue whose control block is still to be written, with no page asked for. -/
def State.unmade (s : State) (kind i : Nat) : Bool := kind == 3 && (s.queueObj i).any fun q => !q.made && q.outWait.isNone

/-- A record is changed (R252 step 2), or its step goes on in this pass. -/
def State.changed (s : State) (h : PlanHdr) (kind i : Nat) : Bool :=
  let e := s.entry kind i
  !e.busy && (s.versionOf h kind i != e.seen || e.st == .waiting || e.st == .unsettled || (e.st == .building && (e.replace || s.unmade kind i)) ||
    (h.count kind ≤ i && e.st != .absent))

/-- The ids a pass looks at: the array's, and those beyond it that have an entry. -/
def State.idsOf (s : State) (h : PlanHdr) (kind : Nat) : List Nat :=
  List.range (h.count kind) ++ s.scribe.entries.filterMap fun (k, _) =>
    if k / 2 ^ 20 = kind && h.count kind ≤ k % 2 ^ 20 then some (k % 2 ^ 20) else none

/-- A record as the pass comes to it; beyond the array's count it is absent. -/
def State.recordAt (s : State) (h : PlanHdr) (kind i : Nat) : Rec :=
  if i < h.count kind then readRecord s kind (h.record kind i) else .absent

/-- Step 3 for one record. -/
def deleteOne (h : PlanHdr) (kind : Nat) (s : State) (i : Nat) : State :=
  let gone (v : Nat) : State :=
    let e := s.entry kind i
    if e.st = .absent && e.version = v then s.saw kind i v else removeRecord (s.saw kind i v) kind i v false
  match s.recordAt h kind i with
  | .absent => gone 0
  | .body v true _ => gone v
  | _ => s

/-- Step 4 for one record. -/
def createOne (h : PlanHdr) (kind : Nat) (s : State) (i : Nat) : State :=
  if (s.entry kind i).busy then s
  else match s.recordAt h kind i with
    | .absent => s
    | .body _ true _ => s
    | .unsettled => s.setEntry kind i { s.entry kind i with st := .unsettled, detail := s.detailOf kind i }
    | .conflict h0 b0 =>
      let v := h0 % 2 ^ 40
      let s := appendOrDrop (s.saw kind i v) h.conflicts.1 h.conflicts.2 (conflictRecord kind i h0 b0 s.scribe.lastG s.timeNs)
      s.faulted kind i .conflict (v % 2 ^ 32)
    | .invalid v => (s.saw kind i v).refused kind i .badRecord
    | .body v false p =>
      let (ctx, maps) := namesOf kind p
      let rtn := if kind = 4 then some (progOf p).routine else none
      updateRecord (s.note kind i { s.entry kind i with seen := v, ofCtx := ctx, names := maps, rtn := rtn }) kind i v p

/-- A record has converged (R259). -/
def State.converged (s : State) (h : PlanHdr) (kind i : Nat) : Bool :=
  let e := s.entry kind i
  let v := s.versionOf h kind i
  ((e.st == .built || e.st == .done) && e.version == v && v != 0) || (e.st == .absent && (v == 0 || e.version == v))

/-- The status block (Table 12.13), but for REFUSED, which is kept up as it counts. -/
def State.writeStatus (s : State) : State :=
  let a := s.dev (Config.abBase + 0x428800)
  let n (st : AbState) : Nat := (s.scribe.entries.filter fun (_, e) => e.st == st).length
  s.setMem (writeBytes s.mem a
    (leBytes 8 s.scribe.passes ++ leBytes 8 s.scribe.lastG ++ leBytes 8 s.scribe.plumbed ++ leBytes 4 (n .unsettled) ++
      leBytes 4 (n .waiting) ++ leBytes 4 (n .faulted) ++ leBytes 1 (natOf s.scribe.hdrbad) ++ leBytes 27 0))

/-- The plumb mark (R259). -/
def State.plumb (s : State) (h : PlanHdr) : State :=
  let all := [1, 2, 3, 4, 5].all fun kind => (s.idsOf h kind).all (s.converged h kind)
  if all && s.scribe.plumbed < s.scribe.lastG then
    { s.wr h.plumb 8 s.scribe.lastG with scribe := { s.scribe with plumbed := s.scribe.lastG } }
  else s

/-- The steps of a pass over a good header. -/
def runPass (s : State) (h : PlanHdr) : State :=
  let ids (kind : Nat) : List Nat := (s.idsOf h kind).filter (s.changed h kind)
  let work := [1, 2, 3, 4, 5].map fun k => (k, ids k)
  let list (kind : Nat) : List Nat := ((work.find? fun x => x.1 == kind).map Prod.snd).getD []
  let s := [4, 3, 2, 1, 5].foldl (fun s kind => (list kind).foldl (deleteOne h kind) s) s
  let s := [1, 2, 3, 4, 5].foldl (fun s kind => (list kind).foldl (createOne h kind) s) s
  s.plumb h

/-- The Scribe runs passes: a plan is attached and the boot chain is verified (R245, R299). -/
def State.scribeRuns (s : State) : Bool := s.planbase.getLsbD 0 && !s.bootFailed && decide (3 ≤ s.bootstat.toNat % 16)

/-- One pass. -/
def scribePass (s : State) : State :=
  let s := { s with touched := false }
  let s := match readHeader s with
    | none => { s with scribe := { s.scribe with hdrbad := true } }
    | some h => runPass { s with scribe := { s.scribe with hdrbad := false, hdr := h, lastG := s.planG } } h
  { s with scribe := { s.scribe with passes := s.scribe.passes + 1 } }.writeStatus

/-- `SCRIBE_PASS` (R252). -/
def execScribePass (s : State) : Res := .next (if s.scribeRuns then scribePass s else s)

/-! ### Drains that complete (R255) -/

/-- The first entry of a kind that a step changes. -/
def firstEntry (s : State) (kind : Nat) (p : Nat → AbEntry → Bool) (f : State → Nat → State) : State :=
  match s.scribe.entries.find? fun (k, e) => k / 2 ^ 20 == kind && p (k % 2 ^ 20) e with
  | some (k, _) => f s (k % 2 ^ 20)
  | none => s

/-- A mapping's revocation or drain can go on. -/
def State.mapReady (s : State) (i : Nat) (e : AbEntry) : Bool :=
  if e.revoke.isSome then !s.revoking e else e.st == .draining && !s.named i

/-- `MAPPING_DRAIN_COMPLETE` (R255, R279). -/
def execMappingDrainComplete (s : State) : Res := .next (firstEntry s 2 s.mapReady settleMap)

/-- `CONTEXT_DRAIN_COMPLETE` (R255). -/
def execContextDrainComplete (s : State) : Res :=
  .next (firstEntry s 1 (fun i e => e.st == .draining && !s.ctxNamed i) settleCtxDrain)

end Sys2Proof.Machine
end

