-- ==== Sys2Proof/Machine/Vector.lean ====
section
/-! DEFINITION. The vector integer family, opcodes 0x20 to 0x36 (R92 to R94). -/

namespace Sys2Proof.Machine

/-- `VADD` (Table 5.6). -/
def execVadd (h : Hdr) (o : AluArgs) (s : State) : Res := vectorInt s h o 0x20 4 fun t a b _ => addI o.sat t a b
/-- `VSUB` (Table 5.6). -/
def execVsub (h : Hdr) (o : AluArgs) (s : State) : Res := vectorInt s h o 0x21 4 fun t a b _ => subI o.sat t a b
/-- `VMUL` (Table 5.6). -/
def execVmul (h : Hdr) (o : AluArgs) (s : State) : Res := vectorInt s h o 0x22 6 fun t a b _ => mulI o.sat t a b
/-- `VMULHI` (Table 5.6). -/
def execVmulhi (h : Hdr) (o : AluArgs) (s : State) : Res := vectorInt s h o 0x23 6 fun t a b _ => (mulHiI t a b, 0)
/-- `VMAD` (Table 5.6). -/
def execVmad (h : Hdr) (o : AluArgs) (s : State) : Res := vectorInt s h o 0x24 6 fun t a b c => (madI t a b c, 0)
/-- `VAND` (Table 5.6). -/
def execVand (h : Hdr) (o : AluArgs) (s : State) : Res := vectorInt s h o 0x25 4 fun t a b _ => (andI t a b, 0)
/-- `VOR` (Table 5.6). -/
def execVor (h : Hdr) (o : AluArgs) (s : State) : Res := vectorInt s h o 0x26 4 fun t a b _ => (orI t a b, 0)
/-- `VXOR` (Table 5.6). -/
def execVxor (h : Hdr) (o : AluArgs) (s : State) : Res := vectorInt s h o 0x27 4 fun t a b _ => (xorI t a b, 0)
/-- `VSHL` (R92). -/
def execVshl (h : Hdr) (o : AluArgs) (s : State) : Res := vectorInt s h o 0x28 4 fun t a b _ => (shlI t a b, 0)
/-- `VSHR` (R92). -/
def execVshr (h : Hdr) (o : AluArgs) (s : State) : Res := vectorInt s h o 0x29 4 fun t a b _ => (shrI t a b, 0)
/-- `VSAR` (R92). -/
def execVsar (h : Hdr) (o : AluArgs) (s : State) : Res := vectorInt s h o 0x2A 4 fun t a b _ => (sarI t a b, 0)
/-- `VMIN` (Table 5.6). -/
def execVmin (h : Hdr) (o : AluArgs) (s : State) : Res := vectorInt s h o 0x2B 4 fun t a b _ => (minI t a b, 0)
/-- `VMAX` (Table 5.6). -/
def execVmax (h : Hdr) (o : AluArgs) (s : State) : Res := vectorInt s h o 0x2C 4 fun t a b _ => (maxI t a b, 0)
/-- `VABS` (Table 5.6). -/
def execVabs (h : Hdr) (o : AluArgs) (s : State) : Res := vectorInt s h o 0x2D 4 fun t a _ _ => absI o.sat t a
/-- `VBFX` (Table 5.6): position b[4:0], length min(b[13:8], 32). Under the default `.i32` it sign-extends, as R91 says of
`SBFX`; the listing of R272 takes its digits as unsigned (DEDUCED, log 53). -/
def execVbfx (h : Hdr) (o : AluArgs) (s : State) : Res :=
  vectorInt s h o 0x2E 4 fun t a b _ => (bfxI t a (bits b 4 0) (min (bits b 13 8) 32), 0)
/-- `VBFI` (Table 5.6): a with the field of c replaced by b. -/
def execVbfi (h : Hdr) (o : AluArgs) (s : State) : Res :=
  vectorInt s h o 0x2F 4 fun t a b c => (bfiI t a b (bits c 4 0) (bits c 13 8), 0)
/-- `VPOPC` (Table 5.6). -/
def execVpopc (h : Hdr) (o : AluArgs) (s : State) : Res := vectorInt s h o 0x30 4 fun t a _ _ => (popcI t a, 0)
/-- `VCLZ` (Table 5.6). -/
def execVclz (h : Hdr) (o : AluArgs) (s : State) : Res := vectorInt s h o 0x31 4 fun t a _ _ => (clzI t a, 0)
/-- `VCMP` (R93): every byte bit of an element takes its result. -/
def execVcmp (h : Hdr) (o : AluArgs) (s : State) : Res :=
  laneResult s h 4 o.d (srcsOf o) fun e l =>
    let ty := o.tyOf 0x32
    let t := intFmt ty
    let a := e.rdVec o.a l
    let b := e.vecB o l
    ((predOfElems ty fun i => cmpI t o.sub (elem a t.width i) (elem b t.width i)).setWidth 64, 0)
/-- `VSEL` (R93): by the bit of the element's lowest byte. -/
def execVsel (h : Hdr) (o : AluArgs) (s : State) : Res :=
  laneResult s h 4 o.d (srcsOf o) fun e l =>
    let ty := o.tyOf 0x33
    let w := (elemsOf ty).2
    let a := e.rdVec o.a l
    let b := e.vecB o l
    let p := e.rdPred o.c l
    ((mapElems ty fun i => (if predBit ty p i then elem a w i else elem b w i, 0)).1.setWidth 64, 0)
/-- `VMOV` (Table 5.6). -/
def execVmov (h : Hdr) (o : AluArgs) (s : State) : Res :=
  laneResult s h 4 o.d (srcsOf o) fun e l => ((e.rdVec o.a l).setWidth 64, 0)
/-- `VMOVI` (Table 5.6). -/
def execVmovi (h : Hdr) (o : AluArgs) (s : State) : Res := laneResult s h 4 o.d [] fun _ _ => (o.imm.setWidth 64, 0)
/-- `VLEA` (R94): 32-bit, or a pair and the extended b. -/
def execVlea (h : Hdr) (o : AluArgs) (s : State) : Res :=
  laneResult s h 4 o.d (srcsOf o) fun e l =>
    let b := e.vecB o l
    if o.ty = .i64 then (e.rdPair o.a l + (b.signExtend 64 <<< o.sub), 0)
    else if o.ty = .n64 then (e.rdPair o.a l + (b.setWidth 64 <<< o.sub), 0)
    else ((e.rdVec o.a l + (b <<< o.sub)).setWidth 64, 0)

end Sys2Proof.Machine
end

