-- ==== Sys2Proof/Machine/Dispatch.lean ====
section
/-! DEFINITION. The meaning of every instruction and event, one arm per constructor of `Instr`. -/

namespace Sys2Proof.Machine

/-- The meaning of an instruction or event in a state. -/
def exec (i : Instr) (s : State) : Host.Outcome State Fault Refusal :=
  match i with
  | .partitionIssue part => Sys2Proof.Machine.execPartitionIssue part s
  | .warpHoldRelease w => Sys2Proof.Machine.execWarpHoldRelease w s
  | .sleepExpiry w => Sys2Proof.Machine.execSleepExpiry w s
  | .userInterruptDelivery w => Sys2Proof.Machine.execUserInterruptDelivery w s
  | .counterRetire w ctr => Sys2Proof.Machine.execCounterRetire w ctr s
  | .tagLanePerformed opId lane => Sys2Proof.Machine.execTagLanePerformed opId lane s
  | .cpygCollectiveStart fid g => Sys2Proof.Machine.execCpygCollectiveStart fid g s
  | .trussGrant bay => Sys2Proof.Machine.execTrussGrant bay s
  | .trussOpComplete bay => Sys2Proof.Machine.execTrussOpComplete bay s
  | .engineJobStart die eng => Sys2Proof.Machine.execEngineJobStart die eng s
  | .engineRingResume die eng => Sys2Proof.Machine.execEngineRingResume die eng s
  | .engineJobComplete die eng => Sys2Proof.Machine.execEngineJobComplete die eng s
  | .pageResponseDoorbell port value => Sys2Proof.Machine.execPageResponseDoorbell port value s
  | .peerTimeout w ctr => Sys2Proof.Machine.execPeerTimeout w ctr s
  | .peerErrorResponse w ctr => Sys2Proof.Machine.execPeerErrorResponse w ctr s
  | .peerInboundAccess acc => Sys2Proof.Machine.execPeerInboundAccess acc s
  | .hostCxlAccess acc => Sys2Proof.Machine.execHostCxlAccess acc s
  | .linkDown link => Sys2Proof.Machine.execLinkDown link s
  | .linkRetrained link => Sys2Proof.Machine.execLinkRetrained link s
  | .planbase value => Sys2Proof.Machine.execPlanbase value s
  | .configRegisterWrite port off value => Sys2Proof.Machine.execConfigRegisterWrite port off value s
  | .qifcfg port idx value => Sys2Proof.Machine.execQifcfg port idx value s
  | .framePlacement p => Sys2Proof.Machine.execFramePlacement p s
  | .saveReq fid => Sys2Proof.Machine.execSaveReq fid s
  | .frameOut fid => Sys2Proof.Machine.execFrameOut fid s
  | .frameRelaunch fid p => Sys2Proof.Machine.execFrameRelaunch fid p s
  | .tailWrite port page off value ide => Sys2Proof.Machine.execTailWrite port page off value ide s
  | .bayWake bay => Sys2Proof.Machine.execBayWake bay s
  | .bayPowerGate bay => Sys2Proof.Machine.execBayPowerGate bay s
  | .shootdownFileWrite port off value => Sys2Proof.Machine.execShootdownFileWrite port off value s
  | .firmwareUpdate b => Sys2Proof.Machine.execFirmwareUpdate b s
  | .conventionalReset b => Sys2Proof.Machine.execConventionalReset b s
  | .lockInterfaceRequest iface nonce => Sys2Proof.Machine.execLockInterfaceRequest iface nonce s
  | .startInterfaceRequest iface nonce => Sys2Proof.Machine.execStartInterfaceRequest iface nonce s
  | .stopInterfaceRequest iface => Sys2Proof.Machine.execStopInterfaceRequest iface s
  | .tdiError iface => Sys2Proof.Machine.execTdiError iface s
  | .getMeasurements index => Sys2Proof.Machine.execGetMeasurements index s
  | .sadd h o => Sys2Proof.Machine.execSadd h o s
  | .ssub h o => Sys2Proof.Machine.execSsub h o s
  | .smul h o => Sys2Proof.Machine.execSmul h o s
  | .smulhi h o => Sys2Proof.Machine.execSmulhi h o s
  | .sdiv h o => Sys2Proof.Machine.execSdiv h o s
  | .smod h o => Sys2Proof.Machine.execSmod h o s
  | .sand h o => Sys2Proof.Machine.execSand h o s
  | .sor h o => Sys2Proof.Machine.execSor h o s
  | .sxor h o => Sys2Proof.Machine.execSxor h o s
  | .sshl h o => Sys2Proof.Machine.execSshl h o s
  | .sshr h o => Sys2Proof.Machine.execSshr h o s
  | .ssar h o => Sys2Proof.Machine.execSsar h o s
  | .smin h o => Sys2Proof.Machine.execSmin h o s
  | .smax h o => Sys2Proof.Machine.execSmax h o s
  | .sbfx h o => Sys2Proof.Machine.execSbfx h o s
  | .sbfi h o => Sys2Proof.Machine.execSbfi h o s
  | .spopc h o => Sys2Proof.Machine.execSpopc h o s
  | .sclz h o => Sys2Proof.Machine.execSclz h o s
  | .sctz h o => Sys2Proof.Machine.execSctz h o s
  | .scmp h o => Sys2Proof.Machine.execScmp h o s
  | .ssel h o => Sys2Proof.Machine.execSsel h o s
  | .smov h o => Sys2Proof.Machine.execSmov h o s
  | .smovi h o => Sys2Proof.Machine.execSmovi h o s
  | .slea h o => Sys2Proof.Machine.execSlea h o s
  | .vadd h o => Sys2Proof.Machine.execVadd h o s
  | .vsub h o => Sys2Proof.Machine.execVsub h o s
  | .vmul h o => Sys2Proof.Machine.execVmul h o s
  | .vmulhi h o => Sys2Proof.Machine.execVmulhi h o s
  | .vmad h o => Sys2Proof.Machine.execVmad h o s
  | .vand h o => Sys2Proof.Machine.execVand h o s
  | .vor h o => Sys2Proof.Machine.execVor h o s
  | .vxor h o => Sys2Proof.Machine.execVxor h o s
  | .vshl h o => Sys2Proof.Machine.execVshl h o s
  | .vshr h o => Sys2Proof.Machine.execVshr h o s
  | .vsar h o => Sys2Proof.Machine.execVsar h o s
  | .vmin h o => Sys2Proof.Machine.execVmin h o s
  | .vmax h o => Sys2Proof.Machine.execVmax h o s
  | .vabs h o => Sys2Proof.Machine.execVabs h o s
  | .vbfx h o => Sys2Proof.Machine.execVbfx h o s
  | .vbfi h o => Sys2Proof.Machine.execVbfi h o s
  | .vpopc h o => Sys2Proof.Machine.execVpopc h o s
  | .vclz h o => Sys2Proof.Machine.execVclz h o s
  | .vcmp h o => Sys2Proof.Machine.execVcmp h o s
  | .vsel h o => Sys2Proof.Machine.execVsel h o s
  | .vmov h o => Sys2Proof.Machine.execVmov h o s
  | .vmovi h o => Sys2Proof.Machine.execVmovi h o s
  | .vlea h o => Sys2Proof.Machine.execVlea h o s
  | .fadd h o => Sys2Proof.Machine.execFadd h o s
  | .fsub h o => Sys2Proof.Machine.execFsub h o s
  | .fmul h o => Sys2Proof.Machine.execFmul h o s
  | .ffma h o => Sys2Proof.Machine.execFfma h o s
  | .fmin h o => Sys2Proof.Machine.execFmin h o s
  | .fmax h o => Sys2Proof.Machine.execFmax h o s
  | .fcmp h o => Sys2Proof.Machine.execFcmp h o s
  | .fclass h o => Sys2Proof.Machine.execFclass h o s
  | .frnd h o => Sys2Proof.Machine.execFrnd h o s
  | .fdot2 h o => Sys2Proof.Machine.execFdot2 h o s
  | .frcp h o => Sys2Proof.Machine.execFrcp h o s
  | .fsqrt h o => Sys2Proof.Machine.execFsqrt h o s
  | .frsq h o => Sys2Proof.Machine.execFrsq h o s
  | .fexp2 h o => Sys2Proof.Machine.execFexp2 h o s
  | .flog2 h o => Sys2Proof.Machine.execFlog2 h o s
  | .fsin h o => Sys2Proof.Machine.execFsin h o s
  | .fcos h o => Sys2Proof.Machine.execFcos h o s
  | .fact h o => Sys2Proof.Machine.execFact h o s
  | .ftload h o => Sys2Proof.Machine.execFtload h o s
  | .cvt h o => Sys2Proof.Machine.execCvt h o s
  | .cvtpk2 h o => Sys2Proof.Machine.execCvtpk2 h o s
  | .cvtpk4 h o => Sys2Proof.Machine.execCvtpk4 h o s
  | .cvtup h o => Sys2Proof.Machine.execCvtup h o s
  | .qscaleCode h o => Sys2Proof.Machine.execQscaleCode h o s
  | .qscaleApply h o => Sys2Proof.Machine.execQscaleApply h o s
  | .qlq4Nib h o => Sys2Proof.Machine.execQlq4Nib h o s
  | .qlq4Qcode h o => Sys2Proof.Machine.execQlq4Qcode h o s
  | .qlq4Bscale h o => Sys2Proof.Machine.execQlq4Bscale h o s
  | .qmx h o => Sys2Proof.Machine.execQmx h o s
  | .pand h o => Sys2Proof.Machine.execPand h o s
  | .por h o => Sys2Proof.Machine.execPor h o s
  | .pxor h o => Sys2Proof.Machine.execPxor h o s
  | .pnot h o => Sys2Proof.Machine.execPnot h o s
  | .pfromv h o => Sys2Proof.Machine.execPfromv h o s
  | .ptov h o => Sys2Proof.Machine.execPtov h o s
  | .pvote h o => Sys2Proof.Machine.execPvote h o s
  | .pcnt h o => Sys2Proof.Machine.execPcnt h o s
  | .xperm h o => Sys2Proof.Machine.execXperm h o s
  | .xbcast h o => Sys2Proof.Machine.execXbcast h o s
  | .xrot h o => Sys2Proof.Machine.execXrot h o s
  | .xscan h o => Sys2Proof.Machine.execXscan h o s
  | .xred h o => Sys2Proof.Machine.execXred h o s
  | .elect h o => Sys2Proof.Machine.execElect h o s
  | .v2s h o => Sys2Proof.Machine.execV2s h o s
  | .s2v h o => Sys2Proof.Machine.execS2v h o s
  | .mfs h o => Sys2Proof.Machine.execMfs h o s
  | .mts h o => Sys2Proof.Machine.execMts h o s
  | .gmask h o => Sys2Proof.Machine.execGmask h o s
  | .ld h o => Sys2Proof.Machine.execLd h o s
  | .st h o => Sys2Proof.Machine.execSt h o s
  | .ldu h o => Sys2Proof.Machine.execLdu h o s
  | .stu h o => Sys2Proof.Machine.execStu h o s
  | .ldx h o => Sys2Proof.Machine.execLdx h o s
  | .stx h o => Sys2Proof.Machine.execStx h o s
  | .atom h o => Sys2Proof.Machine.execAtom h o s
  | .acas h o => Sys2Proof.Machine.execAcas h o s
  | .xatom h o => Sys2Proof.Machine.execXatom h o s
  | .fence h o => Sys2Proof.Machine.execFence h o s
  | .pfetch h o => Sys2Proof.Machine.execPfetch h o s
  | .shjoin h o => Sys2Proof.Machine.execShjoin h o s
  | .shleave h o => Sys2Proof.Machine.execShleave h o s
  | .cpy h e => Sys2Proof.Machine.execCpy h e s
  | .cpyg h e => Sys2Proof.Machine.execCpyg h e s
  | .cpyw h e => Sys2Proof.Machine.execCpyw h e s
  | .tagclr h e => Sys2Proof.Machine.execTagclr h e s
  | .tagwall h e => Sys2Proof.Machine.execTagwall h e s
  | .tagwany h e => Sys2Proof.Machine.execTagwany h e s
  | .tagff h e => Sys2Proof.Machine.execTagff h e s
  | .rgrsv h e => Sys2Proof.Machine.execRgrsv h e s
  | .rgpub h e => Sys2Proof.Machine.execRgpub h e s
  | .rgawt h e => Sys2Proof.Machine.execRgawt h e s
  | .rgrel h e => Sys2Proof.Machine.execRgrel h e s
  | .rgqryState h e => Sys2Proof.Machine.execRgqryState h e s
  | .rgqryBind h e => Sys2Proof.Machine.execRgqryBind h e s
  | .rgqryUnbind h e => Sys2Proof.Machine.execRgqryUnbind h e s
  | .rgqryWaiters h e => Sys2Proof.Machine.execRgqryWaiters h e s
  | .depdec h e => Sys2Proof.Machine.execDepdec h e s
  | .depdecSet h e => Sys2Proof.Machine.execDepdecSet h e s
  | .rlpush h e => Sys2Proof.Machine.execRlpush h e s
  | .rlpop h e => Sys2Proof.Machine.execRlpop h e s
  | .waitc h o => Sys2Proof.Machine.execWaitc h o s
  | .uisetVec h o => Sys2Proof.Machine.execUisetVec h o s
  | .uisetTags h o => Sys2Proof.Machine.execUisetTags h o s
  | .uisetRing h o => Sys2Proof.Machine.execUisetRing h o s
  | .uimask h o => Sys2Proof.Machine.execUimask h o s
  | .uiret h o => Sys2Proof.Machine.execUiret h o s
  | .bra h o => Sys2Proof.Machine.execBra h o s
  | .brx h o => Sys2Proof.Machine.execBrx h o s
  | .call h o => Sys2Proof.Machine.execCall h o s
  | .ret h o => Sys2Proof.Machine.execRet h o s
  | .join h o => Sys2Proof.Machine.execJoin h o s
  | .exit h o => Sys2Proof.Machine.execExit h o s
  | .nop h o => Sys2Proof.Machine.execNop h o s
  | .yield h o => Sys2Proof.Machine.execYield h o s
  | .utrap h o => Sys2Proof.Machine.execUtrap h o s
  | .bkpt h o => Sys2Proof.Machine.execBkpt h o s
  | .sleep h o => Sys2Proof.Machine.execSleep h o s
  | .bar h o => Sys2Proof.Machine.execBar h o s
  | .bara h o => Sys2Proof.Machine.execBara h o s
  | .barw h o => Sys2Proof.Machine.execBarw h o s
  | .grpqCount h o => Sys2Proof.Machine.execGrpqCount h o s
  | .grpqArrived h o => Sys2Proof.Machine.execGrpqArrived h o s
  | .grpqGen h o => Sys2Proof.Machine.execGrpqGen h o s
  | .grpqMem h o => Sys2Proof.Machine.execGrpqMem h o s
  | .fcommit h o => Sys2Proof.Machine.execFcommit h o s
  | .fabort h o => Sys2Proof.Machine.execFabort h o s
  | .barsv h o => Sys2Proof.Machine.execBarsv h o s
  | .barrs h o => Sys2Proof.Machine.execBarrs h o s
  | .mloop h e => Sys2Proof.Machine.execMloop h e s
  | .mstep h e => Sys2Proof.Machine.execMstep h e s
  | .tld h e => Sys2Proof.Machine.execTld h e s
  | .tst h e => Sys2Proof.Machine.execTst h e s
  | .tzero h e => Sys2Proof.Machine.execTzero h e s
  | .trel h e => Sys2Proof.Machine.execTrel h e s
  | .tmask h e => Sys2Proof.Machine.execTmask h e s
  | .tmaskClr h e => Sys2Proof.Machine.execTmaskClr h e s
  | .tqryFree h e => Sys2Proof.Machine.execTqryFree h e s
  | .tqrySlots h e => Sys2Proof.Machine.execTqrySlots h e s
  | .tqryFault h e => Sys2Proof.Machine.execTqryFault h e s
  | .tqryPend h e => Sys2Proof.Machine.execTqryPend h e s
  | .infl h e => Sys2Proof.Machine.execInfl h e s
  | .xcod h e => Sys2Proof.Machine.execXcod h e s
  | .tokz h e => Sys2Proof.Machine.execTokz h e s
  | .dtok h e => Sys2Proof.Machine.execDtok h e s
  | .mxopen h e => Sys2Proof.Machine.execMxopen h e s
  | .mxapp h e => Sys2Proof.Machine.execMxapp h e s
  | .mxlook h e => Sys2Proof.Machine.execMxlook h e s
  | .mxstatMatch h e => Sys2Proof.Machine.execMxstatMatch h e s
  | .mxstatLen h e => Sys2Proof.Machine.execMxstatLen h e s
  | .mxstatFill h e => Sys2Proof.Machine.execMxstatFill h e s
  | .mxsave h e => Sys2Proof.Machine.execMxsave h e s
  | .mxload h e => Sys2Proof.Machine.execMxload h e s
  | .mxdrop h e => Sys2Proof.Machine.execMxdrop h e s
  | .sfcomp h e => Sys2Proof.Machine.execSfcomp h e s
  | .sfscan h e => Sys2Proof.Machine.execSfscan h e s
  | .sfmask h e => Sys2Proof.Machine.execSfmask h e s
  | .sfstop h e => Sys2Proof.Machine.execSfstop h e s
  | .capld h o => Sys2Proof.Machine.execCapld h o s
  | .capnar h o => Sys2Proof.Machine.execCapnar h o s
  | .capvw h o => Sys2Proof.Machine.execCapvw h o s
  | .capdrp h o => Sys2Proof.Machine.execCapdrp h o s
  | .capqryLen h o => Sys2Proof.Machine.execCapqryLen h o s
  | .capqryBase h o => Sys2Proof.Machine.execCapqryBase h o s
  | .capqryAttr h o => Sys2Proof.Machine.execCapqryAttr h o s
  | .capqryValid h o => Sys2Proof.Machine.execCapqryValid h o s
  | .capclr h o => Sys2Proof.Machine.execCapclr h o s
  | .capsv h o => Sys2Proof.Machine.execCapsv h o s
  | .caprs h o => Sys2Proof.Machine.execCaprs h o s
  | .tret h o => Sys2Proof.Machine.execTret h o s
  | .tretSkip h o => Sys2Proof.Machine.execTretSkip h o s
  | .tretImg h o => Sys2Proof.Machine.execTretImg h o s
  | .ccsv h o => Sys2Proof.Machine.execCcsv h o s
  | .ccsvDrain h o => Sys2Proof.Machine.execCcsvDrain h o s
  | .fltqLanes h o => Sys2Proof.Machine.execFltqLanes h o s
  | .fltqLane h o => Sys2Proof.Machine.execFltqLane h o s
  | .fltqIlen h o => Sys2Proof.Machine.execFltqIlen h o s
  | .fltqErr h o => Sys2Proof.Machine.execFltqErr h o s
  | .fltqRpc h o => Sys2Proof.Machine.execFltqRpc h o s
  | .spdmSessionStart => Sys2Proof.Machine.execSpdmSessionStart s
  | .memoryScrub addr => Sys2Proof.Machine.execMemoryScrub addr s
  | .ftloadFlip => Sys2Proof.Machine.execFtloadFlip s
  | .pageRequestSend => Sys2Proof.Machine.execPageRequestSend s
  | .pageRetryDelayExpiry => Sys2Proof.Machine.execPageRetryDelayExpiry s
  | .touch => Sys2Proof.Machine.execTouch s
  | .scribePass => Sys2Proof.Machine.execScribePass s
  | .programBuild => Sys2Proof.Machine.execProgramBuild s
  | .mappingDrainComplete => Sys2Proof.Machine.execMappingDrainComplete s
  | .contextDrainComplete => Sys2Proof.Machine.execContextDrainComplete s
  | .queueResize => Sys2Proof.Machine.execQueueResize s
  | .queueCloseDrain => Sys2Proof.Machine.execQueueCloseDrain s
  | .queueMessagePlace => Sys2Proof.Machine.execQueueMessagePlace s
  | .shootdownAck => Sys2Proof.Machine.execShootdownAck s
  | .snapshotStep => Sys2Proof.Machine.execSnapshotStep s
  | .snapshotRestore => Sys2Proof.Machine.execSnapshotRestore s
  | .failover => Sys2Proof.Machine.execFailover s
  | .spdmSessionExpiry => Sys2Proof.Machine.execSpdmSessionExpiry s
  | .chunkClaimTakeover => Sys2Proof.Machine.execChunkClaimTakeover s
  | .inControllerCopyDone => Sys2Proof.Machine.execInControllerCopyDone s

end Sys2Proof.Machine
end

