-- ==== Sys2Proof/Machine/Scheduler.lean ====
section
/-! DEFINITION. What the device does next by itself when no issue is in progress and no event of the outside is waiting: every
event that would change the state is a candidate, and so are the performing of an access in flight and one clk passing; one
of them is chosen by a free value (DESIGN CHOICE, log 4). What an event does, and when, is its own meaning's. -/

namespace Sys2Proof.Machine

/-! ### Placements Felzen may choose (R233) -/

/-- The first `n` free places of a partition. -/
def State.freePlaces (s : State) (core part n : Nat) : List (Nat × Nat × Nat) :=
  (((List.range Config.slotsPerPart).filter (s.slotFree core part)).take n).map fun k => (core, part, k)

/-- The places a bay has for warps of a launch, core by core. -/
def State.placesFor (s : State) (l : Launch) (bay : Nat) : List (Nat × Nat × Nat) :=
  ((List.range Config.coresPerBay).map fun i =>
    let core := bay * Config.coresPerBay + i
    if !s.coreTakes l.ctx core then []
    else ((List.range Config.partsPerCore).map fun q =>
      let rs := s.residents core q
      let free := Config.fileWords / l.width - (rs.map fun x => x.1.vregs).sum
      if rs.all fun x => x.1.width == l.width then s.freePlaces core q (free / l.vregs) else []).flatten).flatten

/-- Warps in order take places in order; one whose lanes have all exited takes none. -/
def givePlaces : List Warp → List (Nat × Nat × Nat) → Option (List (Nat × Nat × Nat))
  | [], _ => some []
  | w :: ws, ps =>
    if w.gone then (givePlaces ws ps).map fun r => (0, 0, 0) :: r
    else match ps with
      | [] => none
      | p :: ps => (givePlaces ws ps).map fun r => p :: r

/-- A placement of a frame on each bay that has places for it. -/
def State.placements (s : State) (l : Launch) (f : Frame) : List Placement :=
  (List.range Config.bays).filterMap fun b =>
    (givePlaces f.warps (s.placesFor l b)).map fun ps => { prog := l.prog, frame := f.idx, bay := b, slots := ps }

/-- Placements of frames never placed, and of frames that are out. -/
def State.newPlacements (s : State) : List Placement :=
  (s.scribe.progs.map fun (_, o) =>
    match o.bind fun o => o.lid.bind s.launch? with
    | none => []
    | some l =>
      let placed := (o.map ProgObj.placed).getD []
      ((List.range l.frames).find? fun i => !placed.contains i).elim [] fun i => s.placements l (l.newFrame s.fresh i)).flatten

def State.againPlacements (s : State) (f : Frame) : List Placement := (s.launch? f.lid).elim [] fun l => s.placements l f

/-! ### Events -/

/-- Events of one warp. -/
def warpEvents (f : Frame) (w : Warp) : List Instr :=
  let i : WarpId := ⟨f.fid, w.idx⟩
  [.partitionIssue (8 * w.core + w.part), .warpHoldRelease i, .sleepExpiry i, .userInterruptDelivery i] ++
    (List.range 12).map fun c => .counterRetire i c

/-- Events of one frame. -/
def State.frameEvents (s : State) (f : Frame) : List Instr :=
  (f.warps.map (warpEvents f)).flatten ++ (List.range 256).map (fun g => .cpygCollectiveStart f.fid g) ++ [.saveReq f.fid, .frameOut f.fid] ++
    (if f.phase = .out || f.phase = .relaunching then
      (s.againPlacements f).map fun p => if f.phase = .relaunching || f.again then .frameRelaunch f.fid p else .framePlacement p
    else [])

/-- Events of copies, bays and dies. -/
def State.unitEvents (s : State) : List Instr :=
  (s.copies.map fun c => c.lanes.map fun x => Instr.tagLanePerformed c.id x.lane).flatten ++
    ((List.range Config.bays).map fun b => [Instr.trussGrant b, .trussOpComplete b, .bayWake b, .bayPowerGate b]).flatten ++
    ((List.range Config.dies).map fun d =>
      ((List.range 5).map fun e => [Instr.engineJobStart d e, .engineRingResume d e, .engineJobComplete d e]).flatten).flatten

/-- Events of the control side. -/
def controlEvents : List Instr :=
  [.ftloadFlip, .pageRequestSend, .pageRetryDelayExpiry, .scribePass, .programBuild, .mappingDrainComplete, .contextDrainComplete,
   .queueResize, .queueCloseDrain, .queueMessagePlace, .shootdownAck, .snapshotStep, .snapshotRestore, .chunkClaimTakeover,
   .inControllerCopyDone, .spdmSessionExpiry]

/-- Every event the device might bring about. -/
def State.events (s : State) : List Instr :=
  controlEvents ++ (s.frames.map s.frameEvents).flatten ++ s.newPlacements.map Instr.framePlacement ++ s.unitEvents

/-! ### What may happen next -/

/-- Something the device does by itself. -/
inductive Act where
  /-- one clk passes -/
  | clk
  | event (i : Instr)
  /-- the memory system performs a unit of a warp, by its place, `early` as `performUnit` has it (R163) -/
  | unit (w : WarpId) (k : Nat) (early : Bool)
  /-- a decrement of a dependency record is made (R194) -/
  | dep (id : Nat)
  /-- a register write of a finished job is seen before its counter retires (R138) -/
  | early (die j k : Nat)
  /-- a write to a peer that was reported after 1 ms is performed after all (R320) -/
  | stray (k : Nat)
  /-- bits of a line of device memory change (R332) -/
  | fault
  deriving DecidableEq, Repr

/-- One clk passes. -/
def State.clk (s : State) : State := { s with now := s.now + 1 }

/-- Bits of a line of device memory changed by a fault: where and which are free values (DESIGN CHOICE, log 52). -/
def State.upset (s : State) : State := s.corrupt (s.dev (Config.faultAt s.fresh % Config.devBytes)) (Config.faultBits s.fresh)

/-- What it comes to. -/
def State.act (s : State) : Act → Res
  | .clk => .next s.clk
  | .event i => exec i s
  | .unit w k early => .next (s.performAt w k early)
  | .dep id => .next (performDep s id)
  | .early die j k => .next (((s.earlyJobs die)[j]?.map fun x => s.jobWriteEarly x k).getD s)
  | .stray k => .next (s.performStray k)
  | .fault => .next s.upset

/-- What the memory system and the units might do by themselves. -/
def State.silent (s : State) : List Act :=
  (s.busyWarps.flatMap fun i => ((s.warp? i).elim [] s.performable).flatMap fun k => [Act.unit i k false, .unit i k true]) ++
    s.deps.map (fun d => .dep d.id) ++ (List.range s.strays.length).map .stray ++
    (List.range Config.dies).flatMap fun d =>
      (s.earlyJobs d).zipIdx.flatMap fun (x, j) => (List.range x.writes.length).map fun k => Act.early d j k

/-- It would change the state. -/
def State.enabled (s : State) (a : Act) : Bool := match s.act a with | .next t => t != s | _ => false

/-- What may happen next. -/
def State.candidates (s : State) : List Act := [.clk, .fault] ++ (s.events.map Act.event ++ s.silent).filter s.enabled

/-- One of them, by a free value. -/
def State.pick (s : State) : Act := (s.candidates[Config.choose s.fresh % s.candidates.length]?).getD .clk

end Sys2Proof.Machine
end

