-- ==== Sys2Proof/Machine/Step.lean ====
section
/-! DEFINITION. One step of the machine, and the placing of an instruction where the next step runs it. -/

namespace Sys2Proof.Machine

/-- The issue in progress runs: the checks of R64 and then the instruction's own meaning. -/
def stepIssue (s : State) (c : Issue) : Res :=
  match readyIssue s c with
  | .stop t => .next t
  | .go i t => exec i t

/-- One step: the issue in progress runs its instruction; else the next event of the outside happens; else the
device does one of the things the state enables. -/
def step (s : State) : Host.Outcome State Fault Refusal :=
  match s.cur with
  | some c => stepIssue s c
  | none =>
    match s.agenda with
    | i :: r => if i.parts.isSome then .next { s with agenda := r } else exec i { s with agenda := r }
    | [] => s.tick.act s.pick

/-- `s` with the instruction whose bits are `w` (numbered as the opcode table numbers them, zero from `nbits`
up) where the next step fetches. -/
def State.withFetchWord (s : State) (nbits w : Nat) : State := placeWord s nbits w

end Sys2Proof.Machine
end

