-- ==== Sys2Proof/Machine/Ordering.lean ====
section
/-! DEFINITION. The ordering model (R163, R165, R166, R198 to R213) as a decision procedure over finite executions: events,
what reads from what and the coherence order of each byte are given, and `Exec.allowed` derives the relations of Table 9.1
and checks the seven axioms. `Events.lean` says which events the machine's instructions and operations make. -/

namespace Sys2Proof.Machine

/-! ### Events (R198) -/

/-- A thread: a lane of a warp, a host hart, or a thread of a peer. -/
inductive Agent where
  | lane (frame warp lane : Nat)
  | hart (n : Nat)
  | peer (n : Nat)
  deriving DecidableEq, Repr

/-- Where a thread stands at an event: a lane, in the bay its frame is in then (R200). -/
structure Place where
  thread : Agent
  bay : Nat := 0
  deriving DecidableEq, Repr

/-- The warp of a lane. -/
def Agent.warp : Agent → Option (Nat × Nat)
  | .lane f w _ => some (f, w)
  | _ => none

/-- A thread that stands at `u` lies within a scope of a thread that stands at `t` (R200). -/
def within (s : Scope) (t u : Place) : Bool :=
  match t.thread, u.thread with
  | .lane f w _, .lane g x _ =>
    match s with
    | .wp => f == g && w == x
    | .fr => f == g
    | .by_ => t.bay == u.bay
    | _ => true
  | x, y => s == .sy || x == y

/-- What one event hands to another besides a value (Table 9.3): a slot published by `RGPUB`, at its ring's scope, or by an
engine; an item of a ready list; a quarantine record; an arrival at a barrier. -/
inductive Hand where
  | ring (s : Scope) (ring seq : Nat)
  | slot (ring seq : Nat)
  | item (n : Nat)
  | record (n : Nat)
  | barrier (frame group gen : Nat)
  deriving DecidableEq, Repr

/-- The scope of a hand-off (Table 9.3). -/
def Hand.scope : Hand → Scope
  | .ring s .. => s
  | .barrier .. => .fr
  | _ => .dv

/-- What an operation is counted on: a counter of a warp, or a tag of a core. -/
inductive Tally where
  | counter (frame warp c : Nat)
  | tag (core n : Nat)
  deriving DecidableEq, Repr

/-- What RVWMO asks of an event of a hart or of a peer's thread besides its annotations (R213): the predecessors and
successors of a `fence` (reads, writes), RCsc annotations, an AMO or SC, the LR that an SC is paired with, and the events it
depends on by address, by data and by control. -/
structure Rvwmo where
  fence : Option ((Bool × Bool) × (Bool × Bool)) := none
  rcsc : Bool := false
  amo : Bool := false
  pair : Option Nat := none
  addr : List Nat := []
  data : List Nat := []
  ctrl : List Nat := []
  deriving DecidableEq, Repr

/-- An event: an access of one single-copy atomic unit (R204), a fence, a wait or another synchronisation. -/
structure Event where
  place : Place
  /-- the place of its instruction in the issue order of its warp, or in its hart's program order -/
  pos : Nat
  reads : Bool := false
  writes : Bool := false
  /-- the asynchronous operation it belongs to, which stands where its instruction does (R211), and whether that is a copy -/
  async : Option Nat := none
  copy : Bool := false
  /-- the ORD of a fence: `plain` is ORD 0 -/
  fence : Option MOrd := none
  bytes : List Nat := []
  eff : Effect := { cls := .release }
  scope : Scope := .dv
  /-- the counter or tag its operation is counted on, and the operation's number -/
  on : Option (Tally × Nat) := none
  /-- a wait: on each counter or tag, every operation with a smaller number is covered (R180, R189) -/
  waits : List (Tally × Nat) := []
  gives : List Hand := []
  takes : List Hand := []
  rv : Rvwmo := {}
  deriving DecidableEq, Repr

def Event.access (e : Event) : Bool := e.reads || e.writes
def Event.free (e : Event) : Bool := e.access && e.eff.cls == .free
def Event.strict (e : Event) : Bool := e.access && e.eff.cls == .strict
def Event.thread (e : Event) : Agent := e.place.thread

/-- An execution: its events, which write each byte of a read comes from (none: the initial write), and for each byte its
writes in coherence order. -/
structure Exec where
  events : List Event
  /-- (write, read, byte) -/
  rf : List (Nat × Nat × Nat)
  co : List (Nat × List Nat)
  deriving DecidableEq, Repr

def Exec.ev (x : Exec) (i : Nat) : Event := x.events.getD i { place := { thread := .hart 0 }, pos := 0 }
def Exec.ids (x : Exec) : List Nat := List.range x.events.length

/-- The writes of a byte in coherence order. -/
def Exec.order (x : Exec) (byte : Nat) : List Nat := ((x.co.find? fun c => c.1 == byte).map Prod.snd).getD []

/-- Where a read takes a byte from. -/
def Exec.source (x : Exec) (r byte : Nat) : Option Nat := (x.rf.find? fun y => y.2.1 == r && y.2.2 == byte).map Prod.fst

/-- The bytes of the execution. -/
def Exec.locs (x : Exec) : List Nat := (x.events.flatMap Event.bytes).eraseDups

/-! ### Relations (Table 9.1) -/

def Exec.sameLoc (x : Exec) (a b : Nat) : Bool := (x.ev a).bytes.any (x.ev b).bytes.contains

/-- Two lanes of one instruction that meet at a location apply in lane order (R170, R173, R183). -/
def Exec.laneOrder (x : Exec) (a b : Nat) : Bool :=
  let e := x.ev a
  let f := x.ev b
  match e.thread, f.thread with
  | .lane g w i, .lane h v j =>
    g == h && w == v && e.pos == f.pos && decide (i < j) && e.async == f.async && x.sameLoc a b &&
      ((e.writes && f.writes) || (e.async.isNone && (e.writes || f.writes)))
  | _, _ => false

/-- One event's instruction comes before another's in their thread, or its lane does within one instruction. Nothing comes
after an event of an asynchronous operation (R211). -/
def Exec.before (x : Exec) (a b : Nat) : Bool :=
  let e := x.ev a
  let f := x.ev b
  (e.thread == f.thread && e.async.isNone && decide (e.pos < f.pos)) || x.laneOrder a b

/-- The same for two lanes of a warp. -/
def Exec.warpBefore (x : Exec) (a b : Nat) : Bool :=
  let e := x.ev a
  let f := x.ev b
  e.thread.warp.isSome && e.thread.warp == f.thread.warp && e.async.isNone && decide (e.pos < f.pos)

def Exec.rf_ (x : Exec) (w r : Nat) : Bool := x.rf.any fun y => y.1 == w && y.2.1 == r

/-- Coherence at a byte: `w` comes before `v`. -/
def Exec.coAt (x : Exec) (byte w v : Nat) : Bool := ((x.order byte).dropWhile (· != w)).drop 1 |>.contains v

def Exec.co_ (x : Exec) (w v : Nat) : Bool := x.locs.any fun b => x.coAt b w v

/-- From-read at a byte: the read takes it from a write that comes before `w`. -/
def Exec.frAt (x : Exec) (byte r w : Nat) : Bool :=
  match x.source r byte with
  | none => (x.order byte).contains w
  | some v => x.coAt byte v w

def Exec.fr (x : Exec) (r w : Nat) : Bool := r != w && (x.ev r).reads && (x.ev r).bytes.any fun b => x.frAt b r w

def Exec.external (x : Exec) (a b : Nat) : Bool := (x.ev a).thread != (x.ev b).thread

/-- Event `b`'s thread lies within a scope of event `a`'s. -/
def Exec.inScope (x : Exec) (s : Scope) (a b : Nat) : Bool := within s (x.ev a).place (x.ev b).place

/-- Scope inclusion (R200). -/
def Exec.sc (x : Exec) (a b : Nat) : Bool := x.inScope (x.ev a).scope a b && x.inScope (x.ev b).scope b a

def Exec.least (x : Exec) (a b : Nat) : Scope := scopeMin (x.ev a).scope (x.ev b).scope

/-- A scope, where a row holds. -/
def rowAt (on : Bool) (s : Scope) : List Scope := if on then [s] else []

/-- A wait covers an operation that the event belongs to (R180, R189). -/
def Exec.covers (x : Exec) (k a : Nat) : Bool :=
  match (x.ev a).on with
  | some (t, n) => (x.ev k).waits.any fun y => y.1 == t && decide (n < y.2)
  | none => false

/-- Preserved program order of a lane (Table 9.2). A free-class event is in it only through rows 5 and 6. -/
def Exec.ppoLane (x : Exec) (a b : Nat) : List Scope :=
  let e := x.ev a
  let f := x.ev b
  let plain := !e.free && !f.free
  let fences := x.ids.filter fun k => (x.ev k).fence.isSome && x.before a k && x.before k b
  let fenced (o : MOrd) : List Scope := (fences.filter fun k => (x.ev k).fence == some o).map fun k => (x.ev k).scope
  rowAt (plain && f.writes && x.sameLoc a b) (x.least a b) ++
  rowAt (plain && e.reads) (x.least a b) ++
  rowAt (plain && e.reads && e.eff.acq) e.scope ++
  rowAt (plain && f.writes && f.eff.rel) f.scope ++
  rowAt e.strict e.scope ++
  rowAt f.strict f.scope ++
  (if plain then fenced .plain else []) ++
  (if plain && e.reads then fenced .acq else []) ++
  (if plain && f.writes then fenced .rel else []) ++
  rowAt (plain && x.ids.any fun k => x.covers k a && x.warpBefore k b) e.scope

/-- Preserved program order of a hart or a peer's thread (R213): the thirteen rules of RVWMO (PRESUMED, log 56). -/
def Exec.ppoHart (x : Exec) (a b : Nat) : Bool :=
  let e := x.ev a
  let f := x.ev b
  let mid (p : Nat → Bool) : Bool := x.ids.any fun k => x.before a k && x.before k b && p k
  let shared (p : Nat → Bool) : Bool := e.bytes.any fun y => f.bytes.contains y && p y
  (f.writes && x.sameLoc a b) ||
  (e.reads && f.reads && shared fun y => x.source a y != x.source b y && !mid fun k => (x.ev k).writes && (x.ev k).bytes.contains y) ||
  (e.writes && e.rv.amo && f.reads && shared fun y => x.source b y == some a) ||
  (mid fun k => match (x.ev k).rv.fence with
    | some ((pr, pw), (sr, sw)) => ((pr && e.reads) || (pw && e.writes)) && ((sr && f.reads) || (sw && f.writes))
    | none => false) ||
  (e.reads && e.eff.acq) || (f.writes && f.eff.rel) || (e.rv.rcsc && f.rv.rcsc) || f.rv.pair == some a ||
  f.rv.addr.contains a || (f.writes && (f.rv.data.contains a || f.rv.ctrl.contains a)) ||
  (f.reads && mid fun k => (x.ev k).writes && ((x.ev k).rv.addr.contains a || (x.ev k).rv.data.contains a) && shared' k b) ||
  (f.writes && mid fun k => (x.ev k).rv.addr.contains a)
where
  /-- The load returns a value that the store wrote. -/
  shared' (k b : Nat) : Bool := (x.ev b).bytes.any fun y => x.source b y == some k

/-- Preserved program order with the scope of each edge (R201, R213). -/
def Exec.ppo (x : Exec) (a b : Nat) : List Scope :=
  if !(x.before a b && (x.ev a).access && (x.ev b).access) then []
  else if (x.ev a).thread.warp.isSome then x.ppoLane a b
  else rowAt (x.ppoHart a b) .sy

/-- Program order. Edges into an event of an asynchronous operation are those of Table 9.2 (R211); a copy also sees every
store that its thread made before it (R183). Its events come before what its warp issues after a wait for it (R180, R189). -/
def Exec.po (x : Exec) (a b : Nat) : Bool :=
  let e := x.ev a
  let f := x.ev b
  (x.before a b && (f.async.isNone || x.laneOrder a b || !(x.ppo a b).isEmpty || (f.copy && e.writes && x.sameLoc a b))) ||
  (e.async.isSome && e.thread == f.thread && x.ids.any fun k => x.covers k a && x.warpBefore k b)

/-- What an RMW, or the SC of a pair, reads: the event that reads. -/
def Exec.rmwRead (x : Exec) (u : Nat) : Option Nat :=
  if !(x.ev u).writes then none else if (x.ev u).reads then some u else (x.ev u).rv.pair

/-- A read sees a write or its release sequence: it reads from it, or from an RMW that follows it with only RMWs between. -/
def Exec.seesRelease (x : Exec) (w r : Nat) : Bool :=
  (x.ev r).reads && (x.ev r).bytes.any fun b =>
    match x.source r b with
    | none => false
    | some v => v == w || (x.coAt b w v &&
        (x.order b).all fun u => !(x.coAt b w u && (u == v || x.coAt b u v)) || (x.rmwRead u).isSome)

/-- A release: a release write, or a fence that orders writes before a later write; with the write it stands for. -/
def Exec.releases (x : Exec) (a : Nat) : List Nat :=
  let e := x.ev a
  if e.writes && e.eff.rel then [a]
  else if e.fence == some .rel || e.fence == some .plain then x.ids.filter fun w => (x.ev w).writes && x.po a w
  else []

/-- An acquire: an acquire read, or a fence after an earlier read; with the read. -/
def Exec.acquires (x : Exec) (b : Nat) : List Nat :=
  let f := x.ev b
  if f.reads && f.eff.acq then [b]
  else if f.fence == some .acq || f.fence == some .plain then x.ids.filter fun r => (x.ev r).reads && x.po r b
  else []

/-- Synchronises-with (R202), with the scope of each edge. The completion of an asynchronous operation joins it to its own
thread too. -/
def Exec.sw (x : Exec) (a b : Nat) : List Scope :=
  let e := x.ev a
  let f := x.ev b
  let seen := x.external a b && x.sc a b && (x.releases a).any fun w => (x.acquires b).any fun r => x.seesRelease w r
  let hands := e.gives.filter fun h => f.takes.contains h && x.inScope h.scope a b
  rowAt seen (x.least a b) ++ rowAt (x.covers b a && x.inScope e.scope a b) e.scope ++ if a == b then [] else hands.map Hand.scope

/-- A hand-off joins what comes before or after it in its thread; at a barrier, in its whole warp (R202). -/
def Exec.joins (x : Exec) (h : Hand) (a b : Nat) : Bool :=
  x.before a b || match h with
    | .barrier .. => x.warpBefore a b
    | _ => false

/-- The edges by which a hand-off releases what came before it and acquires for what comes after it. An asynchronous
operation hands over its own events only (R211). -/
def Exec.handOrder (x : Exec) (a b : Nat) : List Scope :=
  (((x.ev b).gives.filter fun h => (x.ev b).async.isNone && x.joins h a b) ++ ((x.ev a).takes.filter fun h => x.joins h a b)).map Hand.scope

/-- A wait comes before what its warp issues after it (R180, R189). -/
def Exec.waitOrder (x : Exec) (a b : Nat) : Bool := (x.ev a).waits != [] && x.warpBefore a b

/-- What is counted on a counter or tag comes before every access that the warp which waits for it makes later. -/
def Exec.doneBefore (x : Exec) (a b : Nat) : Bool :=
  (x.ev a).access && (x.ev b).access && !(x.ev b).free &&
    x.ids.any fun k => x.covers k a && x.inScope (x.ev a).scope a k && x.warpBefore k b

/-! ### Graphs -/

/-- Edges of a relation on the first `n` numbers. -/
def edgesOn (n : Nat) (r : Nat → Nat → Bool) : List (Nat × Nat) :=
  (List.range n).flatMap fun a => ((List.range n).filter fun b => r a b).map fun b => (a, b)

/-- Edges of a relation on the events. -/
def Exec.edges (x : Exec) (r : Nat → Nat → Bool) : List (Nat × Nat) := edgesOn x.events.length r

/-- The sublists of a list. -/
def subsets {α : Type} : List α → List (List α)
  | [] => [[]]
  | a :: r => subsets r ++ (subsets r).map fun t => a :: t

/-- What `n` rounds reach from some nodes. -/
def reach (g : List (Nat × Nat)) : Nat → List Nat → List Nat
  | 0, ns => ns
  | n + 1, ns => reach g n (ns ++ (g.filter fun y => ns.contains y.1 && !ns.contains y.2).map Prod.snd).eraseDups

/-- The nodes left after `n` rounds of taking away those that no edge from one left leads to. -/
def peel (g : List (Nat × Nat)) : Nat → List Nat → List Nat
  | 0, ns => ns
  | n + 1, ns => peel g n (ns.filter fun b => g.any fun y => y.2 == b && ns.contains y.1)

/-- A relation on the events has no cycle. -/
def Exec.acyclic (x : Exec) (r : Nat → Nat → Bool) : Bool := (peel (x.edges r) x.events.length x.ids) == []

/-- Happens-before (R203): the closure of program order and synchronises-with, of which the barrier rule and the waits are
part (R202). -/
def Exec.hb (x : Exec) (a b : Nat) : Bool :=
  let g := x.edges fun i j => x.po i j || !(x.sw i j).isEmpty || !(x.handOrder i j).isEmpty || x.waitOrder i j
  (reach g x.events.length ((g.filter fun y => y.1 == a).map Prod.snd)).contains b

/-- A free-class write is published to a read of another thread (R210). -/
def Exec.published (x : Exec) (w u : Nat) : Bool :=
  let freeFence (k : Nat) : Bool := (x.ev k).fence == some .free
  x.ids.any fun f => freeFence f && x.po w f && x.hb f u && x.inScope (x.ev f).scope f u &&
    (!(x.ev u).free || x.ids.any fun g => freeFence g && x.hb f g && x.po g u)

/-- A write takes part towards a read: it is of no free class, of the read's own thread, or published to it (R210). -/
def Exec.towards (x : Exec) (w r : Nat) : Bool := !(x.ev w).free || !x.external w r || x.published w r

/-- Ordered-before (Table 9.1), with the scope of each edge. -/
def Exec.ob (x : Exec) (a b : Nat) : List Scope :=
  let outside := x.external a b
  let row (on : Bool) : List Scope := rowAt on (x.least a b)
  let plain (i : Nat) : Bool := !(x.ev i).free
  x.ppo a b ++ x.sw a b ++ (if plain a && plain b then x.handOrder a b else []) ++ rowAt (x.doneBefore a b) (x.ev a).scope ++
    row (outside && x.rf_ a b && x.towards a b) ++ row (outside && x.co_ a b && plain a && plain b) ++
    row (outside && x.fr a b && x.towards b a)

/-! ### The axioms -/

/-- Every read takes each of its bytes from at most one write of that byte, and each byte's coherence order holds each of
its writes once. -/
def Exec.wf (x : Exec) : Bool :=
  (x.rf.all fun y => (x.ev y.1).writes && (x.ev y.1).bytes.contains y.2.2 && (x.ev y.2.1).reads && (x.ev y.2.1).bytes.contains y.2.2 &&
    y.1 != y.2.1 && y.1 < x.events.length && y.2.1 < x.events.length && x.source y.2.1 y.2.2 == some y.1) &&
  x.locs.all fun b =>
    let ws := x.order b
    ws.eraseDups == ws && ws.all (fun w => (x.ev w).writes && (x.ev w).bytes.contains b && w < x.events.length) &&
      x.ids.all fun w => !((x.ev w).writes && (x.ev w).bytes.contains b) || ws.contains w

/-- R204: two units stand in one coherence order at every byte they share, and a read that takes one byte from a write takes
each of its other bytes of that write from it or from a later one. -/
def Exec.whole (x : Exec) : Bool :=
  (x.locs.all fun b => (x.order b).all fun w => (x.order b).all fun v => !x.coAt b w v || x.locs.all fun c => !x.coAt c v w) &&
  x.rf.all fun y => (x.ev y.2.1).bytes.all fun b => !(x.ev y.1).bytes.contains b ||
    match x.source y.2.1 b with
    | none => false
    | some v => v == y.1 || x.coAt b y.1 v

/-- R205. An RMW is its read and then its write, so that what comes between the two is for R206 to say: of `n` events, node
`i` is what event `i` reads and node `n + i` is what it writes. -/
def Exec.coherent (x : Exec) : Bool :=
  let n := x.events.length
  x.locs.all fun b =>
    let at_ (i : Nat) : Bool := (x.ev i).bytes.contains b && (!(x.ev i).free || (x.ev i).writes)
    let edge (u v : Nat) : Bool :=
      let i := u % n
      let j := v % n
      if i == j then decide (u < v)
      else at_ i && at_ j && if u < n then decide (n ≤ v) && (x.ev i).reads && x.frAt b i j && x.towards j i
        else if v < n then x.po i j || (x.source j b == some i && x.towards i j)
        else x.coAt b i j
    (peel (edgesOn (2 * n) edge) (2 * n) (List.range (2 * n))) == []

/-- R206: no write that lies within the scope of an RMW comes between what it reads and its own write; of a pair of LR and SC,
no write of another thread. -/
def Exec.rmwAtomic (x : Exec) : Bool :=
  x.ids.all fun u =>
    match x.rmwRead u with
    | none => true
    | some r => (x.ev u).bytes.all fun b => (x.order b).all fun v =>
        !(x.coAt b v u && x.frAt b r v && x.inScope (x.ev u).scope u v && (r == u || x.external u v))

/-- R207. A hart's program order counts as far as RVWMO preserves it (R213). -/
def Exec.noThinAir (x : Exec) : Bool :=
  x.acyclic fun i j => (x.before i j && ((x.ev i).thread.warp.isSome || !(x.ppo i j).isEmpty)) || x.rf_ i j

/-- The places of the execution's threads. -/
def Exec.places (x : Exec) : List Place := (x.events.map Event.place).eraseDups

/-- R208: for every set of threads, the edges that cover all of it make no cycle among its events. -/
def Exec.multiCopy (x : Exec) : Bool :=
  (subsets x.places).all fun ts =>
    x.acyclic fun i j => ts.contains (x.ev i).place && ts.contains (x.ev j).place &&
      (x.ob i j).any fun s => ts.all fun t => within s (x.ev i).place t

/-- R209: for every set of threads within the scopes of one another's strict accesses, their strict events admit one order. -/
def Exec.strictOrder (x : Exec) : Bool :=
  (subsets x.places).all fun ts =>
    let on (i : Nat) : Bool := (x.ev i).strict && ts.contains (x.ev i).place
    let mutual_ := x.ids.all fun i => !on i || x.ids.all fun j => !on j || x.sc i j
    !mutual_ || x.acyclic fun i j => on i && on j && (x.po i j || x.rf_ i j || x.co_ i j || x.fr i j)

/-- A thread sees a write at a read (R203): it happens before it, or comes before it through edges that cover the read's
thread. -/
def Exec.sees (x : Exec) (w r : Nat) : Bool :=
  let g := x.edges fun i j => (x.ob i j).any fun s => x.inScope s i r
  x.hb w r || (reach g x.events.length ((g.filter fun y => y.1 == w).map Prod.snd)).contains r

/-- R163, R203, R210 and R212: no read returns a write that happens after it, nor one that comes before its own thread's
earlier write or before a free-class write published to it; and a free-class read returns none that comes before a write of
another class that it sees. -/
def Exec.readsAllowed (x : Exec) : Bool :=
  (x.rf.all fun y => !x.hb y.2.1 y.1) &&
  x.ids.all fun r => !(x.ev r).reads || (x.ev r).bytes.all fun b =>
    (x.order b).all fun v => v == r || !x.frAt b r v ||
      !(x.po v r || (if (x.ev v).free then x.external v r && x.published v r else (x.ev r).free && x.sees v r))

/-- An execution is allowed exactly when it satisfies the axioms. -/
def Exec.allowed (x : Exec) : Bool :=
  x.wf && x.whole && x.coherent && x.rmwAtomic && x.noThinAir && x.multiCopy && x.strictOrder && x.readsAllowed

end Sys2Proof.Machine
end

