-- ==== Sys2Proof/Machine/Events.lean ====
section
/-! DEFINITION. The events that the machine's instructions and operations make (R198, R204, R211, R213): each access as its
single-copy atomic units, by the lane that makes it, with what its operation is counted on; fences, waits and hand-offs; and
the accesses of host harts and peers. `step` performs each of these units at a moment of its own choice, or of the warp's
choice among those that `State.performable` admits (DESIGN CHOICE, log 7). -/

namespace Sys2Proof.Machine

/-! ### Units (R204) -/

/-- Addresses in runs of consecutive ones, each within one aligned unit. -/
def unitRuns (unit : Nat) : List Nat → List (List Nat)
  | [] => []
  | a :: r =>
    match unitRuns unit r with
    | (b :: q) :: rest => if b = a + 1 ∧ b / unit = a / unit then (a :: b :: q) :: rest else [a] :: (b :: q) :: rest
    | rest => [a] :: rest

/-- The events of an access of some bytes, one for each unit. -/
def Event.across (e : Event) (unit : Nat) (as : List Nat) : List Event := (unitRuns unit as).map fun bs => { e with bytes := bs }

/-! ### Loads, stores, atomics and fences -/

/-- Where a lane of a frame's warp stands (R200). -/
def Frame.placeOf (f : Frame) (widx lane : Nat) : Place := { thread := .lane f.fid widx lane, bay := f.bay }

/-- The scope of an access (R166). -/
def State.scopeAt (s : State) (sc : Scope) (as : List Nat) : Scope := scopeOf sc false (as.any s.isFar)

/-- The place of an instruction in its warp's issue order, from the clk of its issue; the waits of its WAIT bits come before
it. -/
def issuePos (clk : Nat) (waits : Bool) : Nat := 2 * clk + if waits then 0 else 1

/-- What an operation that completes so is counted on, with its number. -/
def doneTally (fin : Done) (fid widx core id : Nat) : Option (Tally × Nat) :=
  match fin with
  | .ctr c => some (.counter fid widx c, id)
  | .tag t => some (.tag core t, id)
  | .none => none

/-- The events of a unit of a warp's access in the state in which it is performed: the access, which is no write where an
`ACAS` finds another value (R174), or a fence of each of its lanes (R175). -/
def State.accessEvents (s : State) (f : Frame) (w : Warp) (u : MemUnit) : List Event :=
  let o := w.ops.find? fun o => o.id == u.op
  let as := s.unitAddrs u
  let misses : Bool := match u.work with
    | .rmw as _ _ (some y) _ _ => ofLe (as.map fun a => readByte s.mem a) != y
    | _ => false
  let e : Event :=
    { place := f.placeOf w.idx u.lane, pos := issuePos (o.elim 0 CtrOp.from_) false, reads := u.work.reads
      writes := u.work.writes && !misses, bytes := as, eff := u.eff, scope := s.scopeAt u.scope as
      on := o.map fun o => (.counter f.fid w.idx o.ctr, o.id) }
  match u.work with
  | .fence o ls => ls.map fun l => { e with place := f.placeOf w.idx l, fence := some o }
  | _ => [e]

/-! ### Asynchronous operations (R211) -/

/-- What the events of an asynchronous operation share: it stands where its instruction does, and belongs to the lane that
issued it, the lowest executing lane where the whole issue is one operation. -/
def opEvent (p : Place) (pos id : Nat) (on : Option (Tally × Nat)) (cls : Cls) : Event :=
  { place := p, pos := pos, async := some id, on := on, eff := { cls := cls } }

/-- The class of an access through a reference (R165). -/
def MemRef.cls (r : MemRef) : Cls := if r.scr then .release else r.cap.cls

/-- A reference's default scope (R166). -/
def State.refScope (s : State) (r : MemRef) (as : List Nat) : Scope := scopeOf .dflt r.scr (as.any s.isFar)

/-- The location of a byte of a frame's registers, by its offset in the register window. -/
def regLoc (fid off : Nat) : Nat := 2 ^ 64 * (7 * fid + 7) + off % 2 ^ 64

/-- What a lane of a copy reads and writes (R183, R186): each byte it moves, or each word that `CPYW` writes. -/
def State.copyEvents (s : State) (f : Frame) (c : CopyOp) (x : CopyLane) (pos : Nat) (src dst : List Nat) : List Event :=
  let e (r : MemRef) (as : List Nat) : Event :=
    { opEvent (f.placeOf c.widx x.lane) pos c.id (doneTally c.fin c.fid c.widx c.core c.id) r.cls with copy := true, scope := s.refScope r as }
  ({ e x.src src with reads := true }.across 1 src) ++ ({ e x.dst dst with writes := true }.across (if c.window then 4 else 1) dst)

/-- The 32-bit words that a Truss operation, an `FTLOAD` or a text-engine job reads or writes (R122, R139). -/
def State.wordEvents (s : State) (e : Event) (r : MemRef) (writes : Bool) (as : List Nat) : List Event :=
  { e with reads := !writes, writes := writes, scope := s.refScope r as }.across 4 as

/-- A decrement of a dependency record (R193): an atomic subtraction and a release; one that makes the count 0 hands its item
to the list. -/
def depEvent (e : Event) (count : List Nat) (item : Option Nat) : Event :=
  { e with reads := true, writes := true, bytes := count, eff := { cls := .release, rel := true }, scope := .dv, gives := item.toList.map .item }

/-! ### Waits (R180, R189) -/

/-- The operations of a counter that a wait with a threshold covers: those before the youngest that may be outstanding. -/
def Warp.coveredTo (w : Warp) (c threshold next : Nat) : Nat :=
  let out := w.ops.filter fun o => o.ctr == c
  match out.drop (out.length - threshold) with
  | o :: _ => o.id
  | [] => next

/-- A wait on counters, by `WAITC` or by WAIT bits. -/
def State.counterWait (s : State) (w : Warp) (p : Place) (fid pos : Nat) (cs : List (Nat × Nat)) : Event :=
  { place := p, pos := pos, waits := cs.map fun (c, n) => (.counter fid w.idx c, w.coveredTo c n s.fresh) }

/-- Tags of a core observed ready. -/
def State.tagWait (s : State) (p : Place) (core pos : Nat) (tags : List Nat) : Event :=
  { place := p, pos := pos, waits := tags.map fun t => (.tag core t, s.fresh) }

/-! ### Hand-offs (R202) -/

/-- An instruction that publishes or takes, by the lowest executing lane. -/
def handEvent (p : Place) (pos : Nat) (gives takes : List Hand) : Event := { place := p, pos := pos, gives := gives, takes := takes }

/-- A ring's own number: codes below 64 name a ring of the bay, the others one of its die (R191). -/
def ringNum (bay code : Nat) : Nat := 128 * (if code < 64 then bay else dieOf bay) + code

/-- What `RGPUB`, and an engine, give with a slot. -/
def ringGives (bay code seq : Nat) (engine : Bool) : Hand :=
  if engine then .slot (ringNum bay code) seq else .ring (if code < 64 then .by_ else .dv) (ringNum bay code) seq

/-- What `RGAWT`, and an engine, take with a slot. -/
def ringTakes (bay code seq : Nat) : List Hand := [ringGives bay code seq false, ringGives bay code seq true]

/-! ### Hosts and peers (R213) -/

/-- The events of an access from outside, in units of up to 8 bytes. An aq annotation makes a load, an LR or an AMO an
acquire, rl makes a store, an SC or an AMO a release; on the A extension they are RCsc. -/
def hostEvents (t : Agent) (pos : Nat) (op : BusOp) (as : List Nat) (aq rl : Bool) : List Event :=
  let e : Event :=
    { place := { thread := t }, pos := pos, eff := { cls := .release, acq := aq, rel := rl }, scope := .sy, rv := { rcsc := aq || rl } }
  match op with
  | .read _ => { e with reads := true }.across 8 as
  | .write _ => { e with writes := true }.across 8 as
  | .rmw .. => [{ e with reads := true, writes := true, bytes := as, rv := { e.rv with amo := true } }]

/-- A `fence` of a hart: `r,rw` acquires after a load, `rw,w` releases before a store, `rw,rw` is an ORD 0 fence. -/
def hostFence (t : Agent) (pos : Nat) (pred succ : Bool × Bool) : Event :=
  let ord : Option MOrd :=
    if pred.1 && pred.2 && succ.1 && succ.2 then some .plain
    else if pred.1 && succ.1 && succ.2 then some .acq
    else if pred.1 && pred.2 && succ.2 then some .rel
    else none
  { place := { thread := t }, pos := pos, fence := ord, scope := .sy, rv := { fence := some (pred, succ) } }

end Sys2Proof.Machine
end

