-- ==== Sys2Proof/Safety.lean ====
section
/-! DEFINITION. What counts as a safe state and a safe step, and the terms in which claims speak of one instruction:
the issue it runs in, how it completes, is held or traps, and what else it leaves alone. -/

namespace Sys2Proof

open Sys2Proof.Machine

/-- Memory has its canonical form. -/
def SafeState (s : State) : Prop := Memory.wf s.mem = true

/-- A step that neither faults nor refuses. -/
def SafeStep (s : State) : Prop := ∃ t, step s = .next t

/-- The issue in progress is that of `e`, and its warp does not run ahead. -/
def Issuing (s : State) (e : Env) : Prop := s.env = some e ∧ e.w.run = none

/-- The issue in progress is that of `e`, outside runahead, and the guard lets some lane execute. -/
def Acts (s : State) (e : Env) (h : Hdr) : Prop := Issuing s e ∧ e.exec h ≠ []

/-- A frame but for its warps. -/
def Frame.bare (f : Frame) : Frame := { f with warps := [] }

/-- The issue of `e` is over in `t`: its warp is `w`, and everything else is as `s` has it: every other warp, the
rest of every frame, memory, and every other part of the device. -/
structure Ends (s t : State) (e : Env) (w : Warp) : Prop where
  rest : t = { s with cur := none, frames := t.frames }
  warp : t.warp? e.id = some w
  others : ∀ j, j ≠ e.id → t.warp? j = s.warp? j
  frames : t.frames.map Frame.bare = s.frames.map Frame.bare

/-- `w` past the instruction: the PCs of the issue group move on, and its distance starts (R46, R47). -/
def past (s : State) (e : Env) (h : Hdr) (w : Warp) : Warp := (w.stalled s.now e.width h).advance e.c

/-- The instruction completes: the next state is `s'` with the issue over and the warp `w` past the instruction. -/
def Completes (i : Instr) (s s' : State) (e : Env) (h : Hdr) (w : Warp) : Prop :=
  ∃ t, exec i s = .next t ∧ Ends s' t e (past s' e h w)

/-- The instruction is held: nothing changes but the warp's hold (R225). -/
def IsHeld (i : Instr) (s : State) (e : Env) (why : HoldWhy) : Prop :=
  ∃ t, exec i s = .next t ∧ Ends s t e { e.w with hold := some { why := why, pc := e.c.pc, lanes := e.c.lanes } }

/-- The instruction takes a trap in `s'`, at its own PC. -/
def Traps (i : Instr) (s s' : State) (e : Env) (cause : Cause) (val : Nat) (lane : Option Nat := none)
    (late : Bool := false) : Prop :=
  exec i s = .next (takeTrap s' e.c.fid e.c.widx e.c.lanes e.c.pc e.c.len cause val lane late)

end Sys2Proof
end

