-- ==== Sys2Proof/Certificates/Slice0/Obligations.lean ====
section
/-! DEFINITION. The statements for the provers. Each is a proposition about the model that a numbered rule of the spec, or
the model's own declared choice, asks for; the words used in several of them are in `Sys2Proof.Claims`. -/

open Sys2Proof Sys2Proof.Machine

/-! ### Encoding -/

/-- Decoding an encoded instruction gives it back, with its length, whatever bytes follow it: no bit of an encoding is
dropped, for every instruction and every operand that the checks of R64 let through (R42 to R62). -/
def Obligations.DecodeEncode : Prop :=
  ∀ (c : DecCtx) (i : Instr) (w : Words) (rest : List Byte), i.wf = true → i.admitted c = true → encode i = some w →
    decodeBytes c (w.toBytes ++ rest) = .ok (i, i.bytes)

/-- What the decoder reads is well formed and admitted, and encoding it gives the bytes it was read from: each word has one
meaning (R42, R64). -/
def Obligations.EncodeDecode : Prop :=
  ∀ (c : DecCtx) (i : Instr) (n : Nat) (bs : List Byte), decodeBytes c bs = .ok (i, n) →
    i.wf = true ∧ i.admitted c = true ∧ n = i.bytes ∧ (encode i).map Words.toBytes = some (bs.take n)

/-- The opcode of word 0 decides whether an instruction exists: the unassigned opcodes of Table 3.11 raise ILLEGAL_OP
whatever the other bits are, and so do, outside a privileged routine, the opcodes of R61, and the opcodes that an older
encoding version does not have (Table 3.13). -/
def Obligations.UnassignedOpcodes : Prop :=
  ∀ (c : DecCtx) (w0 w1 w2 : Nat),
    let op := bits w0 9 2
    ((0x18 ≤ op ∧ op ≤ 0x1F ∨ 0x37 ≤ op ∧ op ≤ 0x3F ∨ 0x53 ≤ op ∧ op ≤ 0x5F ∨ op = 0x67 ∨ 0x7B ≤ op ∧ op ≤ 0x7F ∨
        0x8D ≤ op ∧ op ≤ 0x8F ∨ op = 0x9F ∨ op = 0xAF ∨ 0xB8 ≤ op ∧ op ≤ 0xBF ∨ 0xC8 ≤ op ∧ op ≤ 0xCF ∨ op = 0xDF ∨
        0xEB ≤ op) ∨
      c.priv = false ∧ (op = 0xB6 ∨ op = 0xB7 ∨ 0xE6 ≤ op ∧ op ≤ 0xEA) ∨
      c.encver ≤ 4 ∧ (op = 0x66 ∨ 0xD4 ≤ op ∧ op ≤ 0xDE) ∨
      c.encver ≤ 3 ∧ (op = 0x91 ∨ op = 0xB4 ∨ op = 0xB5)) →
    decodeWords c w0 w1 w2 = .error .illegalOp

/-- Words written out from the encodings of chapters 3, 5 and 8 read as the instructions they stand for. -/
def Obligations.DecodeWords : Prop :=
  decodeTableWord 64 0x66022AA8 = some (.nop { stall := 2, wait := 0x011, pg := 3, pn := true, y := true } { }) ∧
  decodeTableWord 96 0xFFFFFFFB_8000080300000001 =
    some (.sadd {} { form := .c, d := .s 3, a := .s 2, imm := 0xFFFFFFFB }) ∧
  decodeTableWord 96 0x00080004_0030080A0000010D =
    some (.ffma {} { form := .b, d := .v 10, a := .v 2, b := .v 3, c := .v 4, rnd := .rz }) ∧
  decodeTableWord 96 0x00100422_0081800400000201 =
    some (.ld {} { d := .v 4, base := .v 8, k := 2, cc := 1, sz := 2, disp := 4, ty := .b32 }) ∧
  decodeTableWord 64 0x2A4 = some (.exit {} {}) ∧
  decodeTableWord 64 0x3A0 = some (.tret {} {})

/-! ### A step -/

namespace Sys2Proof.Claims

/-- The state once the writes due at the warp of an issue have landed (R85). -/
def landed (s : State) (c : Issue) : State := s.modWarp ⟨c.fid, c.widx⟩ fun w => w.landDue s.now

/-- The word at a text offset of the launch a warp runs. -/
def textWord (s : State) (e : Env) (pc : Nat) : Nat := s.rd (e.textAt pc) 4

/-- Where the instruction of an issue starts: at its PC, or after the one fetch pad that may stand at the end of a block
(R43). -/
def StartsAt (s : State) (e : Env) (pc : Nat) : Prop :=
  e.c.pc % 4 = 0 ∧ Config.textStart ≤ e.c.pc ∧ e.c.pc < e.t.textEnd ∧
    (textWord s e e.c.pc % 4 ≠ 3 ∧ pc = e.c.pc ∨
     textWord s e e.c.pc % 4 = 3 ∧ pc = e.c.pc + 4 ∧ pc % 32 = 0 ∧ pc < e.t.textEnd ∧ textWord s e pc % 4 ≠ 3)

/-- The bytes of the longest instruction at a PC. -/
def textBytes (s : State) (e : Env) (pc : Nat) : List Byte := readBytes s.mem (e.textAt pc) 16

/-- The length that the first byte at a PC gives (Table 3.1). -/
def textLen (s : State) (e : Env) (pc : Nat) : Nat := lenBytes (((textBytes s e pc).headD 0).toNat % 4)

/-- The counters that word 0 at a PC waits for (R47). -/
def waitsFor (s : State) (e : Env) (pc : Nat) : List Nat := waitCounters (bits (ofLe ((textBytes s e pc).take 8)) 24 13)

end Sys2Proof.Claims

open Sys2Proof.Claims

/-- A step with an issue in progress runs the instruction that its bytes decode to, in the state where the writes due have
landed and with its PC and length in the issue: outside runahead, when the fetch checks of R64 pass, the counters of the
WAIT field are zero, none of them has a pending error, and the registers lie in the allocation. -/
def Obligations.StepRunsInstruction : Prop :=
  ∀ (s : State) (c : Issue) (e : Env) (pc n : Nat) (i : Instr),
    s.cur = some c → (landed s c).env = some e → e.w.run = none → StartsAt (landed s c) e pc →
    pc % 32 + n ≤ 32 →
    (∀ k ∈ waitsFor (landed s c) e pc, e.w.outstanding k = 0 ∧ sget none e.w.errs k = none) →
    decodeBytes e.decCtx (textBytes (landed s c) e pc) = .ok (i, n) →
    regRange e.l.vregs e.l.sregs e.w.priv i = none →
    step s = exec i { landed s c with cur := some { c with pc := pc, len := n } }

/-- In runahead a step runs the instruction too, while the limits of R313 and R314 let it, with the run's record of it
added. -/
def Obligations.StepRunsAhead : Prop :=
  ∀ (s : State) (c : Issue) (e : Env) (r : Run) (pc n : Nat) (i : Instr) (op : Nat) (h : Hdr) (b : Body),
    s.cur = some c → (landed s c).env = some e → e.w.run = some r → StartsAt (landed s c) e pc →
    pc % 32 + n ≤ 32 →
    (∀ k ∈ waitsFor (landed s c) e pc, sget none e.w.errs k = none) →
    decodeBytes e.decCtx (textBytes (landed s c) e pc) = .ok (i, n) →
    regRange e.l.vregs e.l.sregs e.w.priv i = none → i.parts = some (op, h, b) →
    let new := if e.exec h = [] then [] else (writtenRegs i).filter fun x => !r.logged.contains x
    let room := r.undo + (new.map fun x => 8 + if x.1 = 0 then 4 * e.l.width else if x.1 = 1 then 8 else e.l.width / 2).sum
    (r.issued ≠ 0 → (512 ≤ r.issued ∨ 16384 < room ∨ notSpeculable op = true) →
      step s = .next (stopRun (landed s c) c.fid e.l.ctx e.w)) ∧
    ((r.issued = 0 ∨ r.issued < 512 ∧ room ≤ 16384 ∧ notSpeculable op = false) →
      step s = exec i { (landed s c).setWarp c.fid
          { e.w with run := some { r with issued := r.issued + 1, undo := room, logged := r.logged ++ new } } with
        cur := some { c with pc := pc, len := n } })

/-- The checks of R64, in their order, each with its trap: the PC's alignment, the text's bounds, the fetch pads, the block
boundary, the wait of R47, a pending error (R181), the decode checks and the register ranges. -/
def Obligations.FetchTraps : Prop :=
  ∀ (s : State) (c : Issue) (e : Env), s.cur = some c → (landed s c).env = some e → e.w.run = none →
    let u := landed s c
    let trapAt := fun pc cause val len => Host.Outcome.next (takeTrap u c.fid c.widx c.lanes pc len cause val none)
    (c.pc % 4 ≠ 0 → step s = trapAt c.pc .illegalPad (textWord u e c.pc) 0) ∧
    (c.pc % 4 = 0 → (c.pc < Config.textStart ∨ e.t.textEnd ≤ c.pc) → step s = trapAt c.pc .capBounds c.pc 0) ∧
    (c.pc % 4 = 0 → Config.textStart ≤ c.pc → c.pc < e.t.textEnd → textWord u e c.pc % 4 = 3 →
      ((c.pc + 4) % 32 ≠ 0 → step s = trapAt c.pc .illegalPad (textWord u e c.pc) 0) ∧
      ((c.pc + 4) % 32 = 0 → e.t.textEnd ≤ c.pc + 4 → step s = trapAt (c.pc + 4) .capBounds (c.pc + 4) 0) ∧
      ((c.pc + 4) % 32 = 0 → c.pc + 4 < e.t.textEnd → textWord u e (c.pc + 4) % 4 = 3 →
        step s = trapAt (c.pc + 4) .illegalPad (textWord u e (c.pc + 4)) 0)) ∧
    (∀ pc, StartsAt u e pc →
      let n := textLen u e pc
      let w0 := ofLe ((textBytes u e pc).take 8)
      let waits := waitsFor u e pc
      (32 < pc % 32 + n → step s = trapAt pc .illegalPad (w0 % 2 ^ 32) 0) ∧
      (pc % 32 + n ≤ 32 →
        ((∃ k ∈ waits, 0 < e.w.outstanding k) →
          step s = .next (u.endIssue c.fid
            { e.w with hold := some { why := .counters (waits.map fun k => (k, 0)), pc := pc, lanes := c.lanes } })) ∧
        ((∀ k ∈ waits, e.w.outstanding k = 0) →
          (e.w.mode ≠ .trap → ∀ k cause val, waits.find? (fun k => (sget none e.w.errs k).isSome) = some k →
            sget none e.w.errs k = some (cause, val) →
            step s = .next (takeTrap (u.setWarp c.fid (e.w.clearErr k)) c.fid c.widx c.lanes pc n (Cause.ofCode cause) val none true)) ∧
          ((e.w.mode = .trap ∨ ∀ k ∈ waits, sget none e.w.errs k = none) →
            (decodeBytes e.decCtx (textBytes u e pc) = .error .illegalOp → step s = trapAt pc .illegalOp w0 n) ∧
            (decodeBytes e.decCtx (textBytes u e pc) = .error .illegalField → step s = trapAt pc .illegalField w0 n) ∧
            (∀ i m v, decodeBytes e.decCtx (textBytes u e pc) = .ok (i, m) →
              regRange e.l.vregs e.l.sregs e.w.priv i = some v → step s = trapAt pc .regRange v n)))))

/-- With no issue in progress a step takes the next event of the outside, if one is waiting; it skips an instruction there,
for an instruction runs only where it is fetched (the model's own field, log 4). -/
def Sys2Proof.Claims.stepTakesEvent : Prop :=
  ∀ (s : State) (i : Instr) (r : List Instr), s.cur = none → s.agenda = i :: r →
    (i.parts = none → step s = exec i { s with agenda := r }) ∧
    (i.parts ≠ none → step s = .next { s with agenda := r })

/-- With no issue in progress and no event waiting, one clk passes, or bits of a line of device memory change (R332), or
something happens that the state enables and that changes it: an event, or what the memory system and the units do by
themselves (R163, R194); whichever the free choice picks (log 4). -/
def Sys2Proof.Claims.stepChooses : Prop :=
  ∀ (s : State), s.cur = none → s.agenda = [] →
    ∃ a : Act, step s = s.tick.act a ∧
      (a = .clk ∨ a = .fault ∨
        (∃ t, s.act a = .next t ∧ t ≠ s) ∧ ((∃ i, a = .event i ∧ i.parts = none ∧ i ∈ s.events) ∨ a ∈ s.silent))

/-- Between issues a step takes the next event of the outside or, with none waiting, does one of the things that the state
enables, or lets a clk pass (the model's own order of events, log 4). -/
def Obligations.StepBetweenIssues : Prop := stepTakesEvent ∧ stepChooses

/-- No data, encoding or event stops the machine: from every state a step answers a next state. -/
def Obligations.StepNeverStops : Prop := ∀ (s : State), SafeStep s

/-! ### Reset -/

/-- What reset leaves. By the spec: plan registers at 0 and no plan latched (R245), every entry of the as-built table 0, which
is ABSENT at version 0 (R256), every accumulator slot free (R112), every tag's count and flag at 0 (R187), no activation table
loaded (R99), and no object of the plan built. By the model's choice, for the spec gives no reset value (DESIGN CHOICE, log 2):
no pending error on a tag, empty Truss queues, ring tables, job queues, handles, lists and TLBs, the count of clks at 0, and
nothing placed, launched or in flight. -/
def Obligations.ResetState : Prop :=
  let s := State.reset
  s.planbase = 0 ∧ s.now = 0 ∧ s.frames = [] ∧ s.launches = [] ∧ s.copies = [] ∧ s.ftops = [] ∧ s.pages = [] ∧ s.circles = [] ∧
  s.cur = none ∧ s.tlb = [] ∧
  (∀ kind i, s.entry kind i = { st := .absent, version := 0 }) ∧
  (∀ kind i, i < 2 ^ 16 → readBytes s.mem (s.dev (Config.abBase + abOff kind + 32 * i)) 32 = List.replicate 32 0) ∧
  (∀ b n, (s.bay b).slot? n = none ∧ (s.bay b).entries = [] ∧ (s.bay b).rings = []) ∧
  (∀ b t, (sget {} (s.bay b).tables t).b0.loaded = false ∧ (sget {} (s.bay b).tables t).b1.loaded = false) ∧
  (∀ c t, s.tag c t = { count := 0, issued := false, err := none }) ∧
  (∀ d, (s.die d).jobs = [] ∧ ∀ n, (sget {} (s.die d).handles n).open_ = false ∧ (sget {} (s.die d).lists n).items = []) ∧
  ∀ i, s.ctxObj i = none ∧ s.mapObj i = none ∧ s.queueObj i = none ∧ s.progObj i = none ∧ s.snapObj i = none

/-- From every state whose memory has its canonical form, a step gives one whose memory has it. -/
def Obligations.StepKeepsMemoryForm : Prop := ∀ (s t : State), SafeState s → step s = .next t → SafeState t

/-! ### Memory -/

/-- A byte reads as it was last written, little-endian numbers too, and a write leaves every other byte alone; no write
reaches a launch parameter block (R7, R278). -/
def Obligations.ReadAfterWrite : Prop :=
  ∀ (m : List Host.Cell) (a n v : Nat) (bs : List Byte), Memory.wf m = true →
    ((∀ i < bs.length, isParam (a + i) = false) →
      readBytes (writeBytes m a bs) a bs.length = bs ∧ (∀ k, k < a ∨ a + bs.length ≤ k → readByte (writeBytes m a bs) k = readByte m k)) ∧
    ((∀ i < n, isParam (a + i) = false) → readNat (writeNat m a n v) a n = v % 256 ^ n) ∧
    (∀ k, isParam k = true → readByte (writeBytes m a bs) k = readByte m k) ∧
    Memory.wf (writeBytes m a bs) = true ∧ Memory.wf (writeNat m a n v) = true ∧ Memory.wf (clearRange m a n) = true

/-! ### Registers -/

namespace Sys2Proof.Claims

/-- The register files of a warp have their canonical form. -/
def RegsOk (w : Warp) : Prop :=
  swf 0 w.wc.v = true ∧ swf 0 w.wc.s = true ∧ swf 0 w.wc.p = true ∧ swf Cap.null w.k = true ∧ swf 0 w.bankS = true

end Sys2Proof.Claims

/-- `p0` reads all ones in every lane whatever has been written to it, and no write to it changes anything; every other
predicate register reads as written (R25). -/
def Sys2Proof.Claims.predicateZero : Prop :=
  ∀ (w : Warp) (lane : Nat) (x : BitVec 4), RegsOk w → w.rdP 0 lane = 0xF#4 ∧ w.put (.p 0 lane x) = w ∧
    ∀ r, r ≠ 0 → (w.put (.p r lane x)).rdP r lane = x

/-- A register read after its write gives the value, and every other register reads as before: vector and predicate
registers lane by lane, scalar and capability registers, and in a routine the bank's s92 to s95 and k31 in place of the
warp's own (R13, R83, R235). Every write keeps the files' canonical form, which a warp starts with. -/
def Sys2Proof.Claims.registerFile : Prop :=
  (∀ (w : Warp) (r q l m : Nat) (x : W32) (z : BitVec 4) (y : W64) (c : Cap), RegsOk w → l < 64 → m < 64 →
    (w.put (.v r l x)).rdV r l = x ∧ ((q ≠ r ∨ m ≠ l) → (w.put (.v r l x)).rdV q m = w.rdV q m) ∧
    ((q ≠ r ∨ m ≠ l) → (w.put (.p r l z)).rdP q m = w.rdP q m) ∧
    (w.put (w.sWrite r y)).rdS r = y ∧ (q ≠ r → (w.put (w.sWrite r y)).rdS q = w.rdS q) ∧
    (w.put (w.kWrite r c)).rdK r = c ∧ (q ≠ r → (w.put (w.kWrite r c)).rdK q = w.rdK q) ∧
    (w.mode ≠ .user → (∀ i, 92 ≤ i → i ≤ 95 → (w.put (w.sWrite i y)).wc.s = w.wc.s) ∧ (w.put (w.kWrite 31 c)).k = w.k)) ∧
  (∀ (w : Warp) (x : RegWrite), RegsOk w → RegsOk (w.put x)) ∧
  ∀ (idx core part slot : Nat), RegsOk { idx := idx, core := core, part := part, slot := slot }

namespace Sys2Proof.Claims

/-- The fixed-latency writes of a warp stand in the order they land. -/
def InOrder (w : Warp) : Prop := w.wc.pend.Pairwise fun p q => p.land ≤ q.land

end Sys2Proof.Claims

/-- A fixed-latency write lands L clk after its issue, one more at W = 64 (R85): before that clk the register reads as it
did, from that clk on it reads the new value; where two writes to one register are in flight, the one that lands later
stays, and of two that land together the younger. The order the writes stand in is kept. -/
def Sys2Proof.Claims.fixedLatency : Prop :=
  ∀ (w : Warp) (now lat width t r l : Nat) (x : RegWrite), RegsOk w → InOrder w → l < 64 →
    let land := now + lat + if width = 64 then 1 else 0
    let w' := w.post now lat width [x]
    InOrder w' ∧ InOrder (w'.landDue t) ∧ (∀ q l, w'.rdV q l = w.rdV q l ∧ w'.rdS q = w.rdS q ∧ w'.rdP q l = w.rdP q l ∧ w'.rdK q = w.rdK q) ∧
    (t < land → ∀ q l, (w'.landDue t).rdV q l = (w.landDue t).rdV q l ∧ (w'.landDue t).rdS q = (w.landDue t).rdS q ∧
      (w'.landDue t).rdP q l = (w.landDue t).rdP q l ∧ (w'.landDue t).rdK q = (w.landDue t).rdK q) ∧
    (land ≤ t →
      (∀ y, x = .v r l y → (∀ p ∈ w.wc.pend, (∃ z, p.w = .v r l z) → p.land ≤ land ∨ t < p.land) → (w'.landDue t).rdV r l = y) ∧
      (∀ y, x = w.sWrite r y → (∀ p ∈ w.wc.pend, (∃ z, p.w = w.sWrite r z) → p.land ≤ land ∨ t < p.land) → (w'.landDue t).rdS r = y) ∧
      (∀ y, x = .p r l y → r ≠ 0 → (∀ p ∈ w.wc.pend, (∃ z, p.w = .p r l z) → p.land ≤ land ∨ t < p.land) → (w'.landDue t).rdP r l = y) ∧
      ∀ y, x = w.kWrite r y → (∀ p ∈ w.wc.pend, (∃ z, p.w = w.kWrite r z) → p.land ≤ land ∨ t < p.land) → (w'.landDue t).rdK r = y)

/-- What an operand supplies: a scalar register whole, its low 32 bits to every lane of a vector instruction, a vector
register lane by lane, a pair with the even register low, and in form C the immediate, sign-extended for a scalar
instruction (R53, R69, R83). -/
def Sys2Proof.Claims.operandForms : Prop :=
  ∀ (e : Env) (o : AluArgs) (r l : Nat),
    e.rdScalar (.s r) = e.w.rdS r ∧ e.rdVec (.v r) l = e.w.rdV r l ∧ e.rdVec (.s r) l = (e.w.rdS r).extractLsb' 0 32 ∧
    e.rdPair (.vp r) l = e.w.rdV (r + 1) l ++ e.w.rdV r l ∧ e.rdPair (.s r) l = e.w.rdS r ∧ e.rdPred (.p r) l = e.w.rdP r l ∧
    e.rdCap (.k r) = e.w.rdK r ∧
    (o.form = .c → e.scalarB o = o.imm.signExtend 64 ∧ e.vecB o l = o.imm) ∧
    (o.form ≠ .c → e.scalarB o = e.rdScalar o.b ∧ e.vecB o l = e.rdVec o.b l)

/-- The register files: what a write leaves in each and when it lands, `p0`, and what an operand reads (R13, R25, R53, R69,
R83, R85, R235). -/
def Obligations.RegistersAndOperands : Prop := predicateZero ∧ registerFile ∧ fixedLatency ∧ operandForms

/-! ### The guard -/

namespace Sys2Proof.Claims

/-- The opcodes that do something, or enrol an operation, with no executing lane: loads, stores and atomics, copies,
`DEPDEC`, `FTLOAD`, the Truss and the engine instructions enrol one; `YIELD` sets Y; `EXIT` and the barriers see whether the
frame is done. -/
def actsUnguarded (op : Nat) : Bool :=
  decide (0x80 ≤ op ∧ op ≤ 0x88) || decide (0x90 ≤ op ∧ op ≤ 0x92) || op == 0x9C || op == 0x52 || op == 0xA9 || op == 0xAB ||
    decide (0xB0 ≤ op ∧ op ≤ 0xB2) || decide (0xC0 ≤ op ∧ op ≤ 0xC6) || (decide (0xD0 ≤ op ∧ op ≤ 0xDE) && op != 0xD7)

/-- How an instruction that runs an operation completes (R58, Table 3.9): loads, stores, atomics, copies, `DEPDEC`, `FTLOAD`,
the Truss and the engine instructions; a slice of a collective is left out, for it counts as issued. -/
def completesOn (op : Nat) : Body → Option Done
  | .mem o => if op ≤ 0x88 then some (.ctr o.cc) else none
  | .alu o => if op = 0x52 then some (.ctr o.c.raw) else none
  | .ext x =>
    if op = 0x90 ∨ op = 0x92 ∨ op = 0x9C ∨ (0xC0 ≤ op ∧ op ≤ 0xC6 ∧ op ≠ 0xC5) ∨ (0xD0 ≤ op ∧ op ≤ 0xDE ∧ op ≠ 0xD7) then some x.fin else none
  | _ => none

end Sys2Proof.Claims

/-- With the guard false in every lane of the issue group an instruction writes no register, makes no access, raises none
of its own traps, and moves the PCs of its lanes on (R48, R84); an instruction that rounds by a random operand may draw it
all the same (the model's counter of free values). -/
def Sys2Proof.Claims.guardFalse : Prop :=
  ∀ (s : State) (e : Env) (i : Instr) (op : Nat) (h : Hdr) (b : Body), Issuing s e → i.parts = some (op, h, b) →
    actsUnguarded op = false → e.exec h = [] →
    Completes i s s e h e.w ∨ (∃ o, b = .alu o ∧ o.rnd = .rs) ∧ Completes i s { s with fresh := s.fresh + 1 } e h e.w

/-- An instruction that names a completion counter enrols one operation on it even when its guard is false in every lane,
with nothing to perform, unless the counter is full (R48, R179); one that completes on a tag changes no tag (R184). -/
def Sys2Proof.Claims.guardFalseEnrols : Prop :=
  ∀ (s : State) (e : Env) (i : Instr) (op : Nat) (h : Hdr) (b : Body) (fin : Done), Issuing s e → i.parts = some (op, h, b) →
    completesOn op b = some fin → e.exec h = [] →
    (∀ c, fin = .ctr c →
      (e.w.outstanding c < 63 → ∃ x : CtrOp, x.id = s.fresh ∧ x.ctr = c ∧ x.done = true ∧ x.writes = [] ∧ x.err = none ∧
        Completes i s { s with fresh := s.fresh + 1 } e h { e.w with ops := e.w.ops ++ [x] }) ∧
      (63 ≤ e.w.outstanding c → IsHeld i s e (.ctrRoom c))) ∧
    (∀ t, fin = .tag t → (s.tag e.w.core t).count ≤ 4095 → ∃ n, Completes i s { s with fresh := n } e h e.w)

/-- An instruction whose guard is false in every lane of the issue group (R48, R84, R179, R184). -/
def Obligations.FalseGuard : Prop := guardFalse ∧ guardFalseEnrols

/-! ### Scalar family -/

namespace Sys2Proof.Claims

/-- A word as a number, signed or not (R72). -/
def num {w : Nat} (sg : Bool) (x : BitVec w) : Int := if sg then x.toInt else x.toNat

/-- An exact result clamped to the format, and 1 when it was clamped (R80, R81). -/
def clamp (w : Nat) (sg : Bool) (x : Int) : BitVec w × Nat :=
  let lo : Int := if sg then -(2 ^ (w - 1) : Int) else 0
  let hi : Int := if sg then (2 ^ (w - 1) : Int) - 1 else (2 ^ w : Int) - 1
  if x < lo then (BitVec.ofInt w lo, 1) else if hi < x then (BitVec.ofInt w hi, 1) else (BitVec.ofInt w x, 0)

/-- An exact result in the format: clamped under `.sat`, else its low bits. -/
def fit (w : Nat) (sg sat : Bool) (x : Int) : BitVec w × Nat := if sat then clamp w sg x else (BitVec.ofInt w x, 0)

/-- The bits `len` wide from `pos` up, those at or above the width 0, extended by the signedness (R91). -/
def field {w : Nat} (sg : Bool) (x : BitVec w) (pos len : Nat) : BitVec w :=
  if len = 0 then 0 else if sg then ((x >>> pos).setWidth len).signExtend w else ((x >>> pos).setWidth len).setWidth w

/-- The condition of a compare, by SUB (R90). -/
def holds (cond : Nat) (a b : Int) : Bool :=
  match cond with | 0 => a == b | 1 => a != b | 2 => a < b | 3 => a ≤ b | 4 => b < a | _ => b ≤ a

/-- A scalar instruction of Table 5.5: its latency (Table 5.1) and, for a width and a signedness, the result and the count
from its sources. -/
structure ScalarRow where
  h : Hdr
  o : AluArgs
  lat : Nat
  f : (w : Nat) → Bool → BitVec w → BitVec w → BitVec w × Nat

/-- The scalar instructions that compute in the type of the instruction. -/
def scalarRow : Instr → Option ScalarRow
  | .sadd h o => some ⟨h, o, 2, fun w sg x y => fit w sg o.sat (num sg x + num sg y)⟩
  | .ssub h o => some ⟨h, o, 2, fun w sg x y => fit w sg o.sat (num sg x - num sg y)⟩
  | .smul h o => some ⟨h, o, 4, fun w sg x y => fit w sg o.sat (num sg x * num sg y)⟩
  | .smulhi h o => some ⟨h, o, 4, fun w sg x y => (BitVec.ofInt w (num sg x * num sg y / 2 ^ w), 0)⟩
  | .sdiv h o => some ⟨h, o, 24, fun w sg x y => (if y = 0 then BitVec.allOnes w else if sg then x.sdiv y else x.udiv y, 0)⟩
  | .smod h o => some ⟨h, o, 24, fun _ sg x y => (if y = 0 then x else if sg then x.srem y else x.umod y, 0)⟩
  | .sand h o => some ⟨h, o, 2, fun _ _ x y => (x &&& y, 0)⟩
  | .sor h o => some ⟨h, o, 2, fun _ _ x y => (x ||| y, 0)⟩
  | .sxor h o => some ⟨h, o, 2, fun _ _ x y => (x ^^^ y, 0)⟩
  | .sshl h o => some ⟨h, o, 2, fun w _ x y => (x <<< (y.toNat % w), 0)⟩
  | .sshr h o => some ⟨h, o, 2, fun w _ x y => (x >>> (y.toNat % w), 0)⟩
  | .ssar h o => some ⟨h, o, 2, fun w _ x y => (x.sshiftRight (y.toNat % w), 0)⟩
  | .smin h o => some ⟨h, o, 2, fun _ sg x y => (if num sg x ≤ num sg y then x else y, 0)⟩
  | .smax h o => some ⟨h, o, 2, fun _ sg x y => (if num sg y ≤ num sg x then x else y, 0)⟩
  | .sbfx h o => some ⟨h, o, 2, fun w sg x y => (field sg x (y.toNat % 64) (min (y.toNat / 256 % 128) w), 0)⟩
  | .spopc h o => some ⟨h, o, 2, fun _ _ x _ => (x.cpop, 0)⟩
  | .sclz h o => some ⟨h, o, 2, fun _ _ x _ => (x.clz, 0)⟩
  | .sctz h o => some ⟨h, o, 2, fun _ _ x _ => (x.ctz, 0)⟩
  | .scmp h o => some ⟨h, o, 2, fun w sg x y => (if holds o.sub (num sg x) (num sg y) then 1#w else 0, 0)⟩
  | .smov h o => some ⟨h, o, 2, fun _ _ x _ => (x, 0)⟩
  | _ => none

/-- The width and signedness of a scalar instruction's type; `.i64` where it names none (R90). -/
def scalarType (ty : Ty) : Nat × Bool :=
  match ty with | .i32 => (32, true) | .n32 | .b32 => (32, false) | .n64 | .b64 => (64, false) | _ => (64, true)

/-- The types of the scalar family. -/
def scalarTypes : List Ty := [.dflt, .i64, .n64, .b64, .i32, .n32, .b32]

/-- A result in its 64-bit register: sign-extended under a signed type, else zero-extended (R90). -/
def extended {w : Nat} (sg : Bool) (x : BitVec w) : W64 := if sg then x.signExtend 64 else x.setWidth 64

end Sys2Proof.Claims

/-- Each scalar instruction of Table 5.5 that computes in its type completes, writes the table's result to D with its
latency and nothing else, and adds its count to `SATCNT` (R81, R84, R85, R90, R91). -/
def Sys2Proof.Claims.scalarResults : Prop :=
  ∀ (s : State) (e : Env) (i : Instr) (row : ScalarRow) (d : Nat), scalarRow i = some row → row.o.d = .s d →
    row.o.ty ∈ scalarTypes → Acts s e row.h →
    let (w, sg) := scalarType row.o.ty
    let (x, n) := row.f w sg ((e.rdScalar row.o.a).setWidth w) ((e.scalarB row.o).setWidth w)
    Completes i s s e row.h ((e.w.post s.now row.lat e.width [e.w.sWrite d (extended sg x)]).count n)

/-- `SBFI`, `SSEL`, `SMOVI` and `SLEA` complete with the results of Table 5.5 (R53, R54, R90, R91): a field inserted into
D, length 0 leaving the field as it was; one of two sources chosen by a third, in form C the immediate or D by a; the immediate;
a base plus a scaled index. -/
def Sys2Proof.Claims.scalarMoves : Prop :=
  ∀ (s : State) (e : Env) (h : Hdr) (o : AluArgs) (m : SmoviArgs) (d : Nat), o.d = .s d → o.ty ∈ scalarTypes → Acts s e h →
    let (w, sg) := scalarType o.ty
    let put := fun (r : Nat) (x : W64) => e.w.post s.now 2 e.width [e.w.sWrite r x]
    let a := (e.rdScalar o.a).setWidth w
    let b := (e.scalarB o).setWidth w
    let pos := b.toNat % 64
    let len := b.toNat / 256 % 128
    let mask : BitVec w := ((BitVec.allOnes 256 <<< pos) &&& ~~~(BitVec.allOnes 256 <<< (pos + len))).setWidth w
    let old := (e.w.rdS d).setWidth w
    Completes (.sbfi h o) s s e h
      (put d (extended sg ((old &&& ~~~mask) ||| ((a <<< pos) &&& mask)))) ∧
    (o.form ≠ .c → Completes (.ssel h o) s s e h (put d (extended sg (if (e.rdScalar o.c).setWidth w = 0#w then b else a)))) ∧
    (o.form = .c → Completes (.ssel h o) s s e h
      (put d (if e.rdScalar o.a = 0 then e.w.rdS d else o.imm.signExtend 64))) ∧
    Completes (.smovi h m) s s e h (put m.d m.imm) ∧
    Completes (.slea h o) s s e h (put d (e.rdScalar o.a + (e.scalarB o <<< o.sub)))

/-- The scalar instructions complete with the results of their tables. -/
def Obligations.ScalarResults : Prop := scalarResults ∧ scalarMoves

/-! ### Vector integer family -/

namespace Sys2Proof.Claims

/-- Element `i` of width `w` of a word (R69). -/
def part (w : Nat) (x : W32) (i : Nat) : BitVec w := x.extractLsb' (w * i) w

/-- A word from its first `n` elements of width `w`, element 0 lowest (R69). -/
def packed (n w : Nat) (g : Nat → BitVec w) : W32 :=
  (List.range n).foldl (fun x i => x ||| ((g i).setWidth 32 <<< (w * i))) 0

/-- The elements, their width and their signedness in a type; `.i32` where it names none (R69, R92). -/
def vectorType (ty : Ty) : Nat × Nat × Bool :=
  match ty with
  | .n32 | .b32 => (1, 32, false)
  | .i16x2 => (2, 16, true)
  | .n16x2 | .b16x2 => (2, 16, false)
  | .i8x4 => (4, 8, true)
  | .n8x4 | .b8x4 => (4, 8, false)
  | _ => (1, 32, true)

/-- The types of the vector integer family. -/
def vectorTypes : List Ty := [.dflt, .i32, .n32, .b32, .i16x2, .n16x2, .b16x2, .i8x4, .n8x4, .b8x4]

/-- The result of a packed instruction in one lane, and its count. -/
def perElement (n w : Nat) (g : Nat → BitVec w × Nat) : W32 × Nat :=
  (packed n w fun i => (g i).1, ((List.range n).map fun i => (g i).2).sum)

/-- The four byte bits of a predicate register (R69). -/
def byteBits (g : Nat → Bool) : BitVec 4 :=
  BitVec.ofBool (g 3) ++ BitVec.ofBool (g 2) ++ BitVec.ofBool (g 1) ++ BitVec.ofBool (g 0)

/-- A vector instruction of Table 5.6: its latency and, per element, the result and the count. -/
structure VectorRow where
  h : Hdr
  o : AluArgs
  lat : Nat
  f : (w : Nat) → Bool → BitVec w → BitVec w → BitVec w → BitVec w × Nat

/-- The bits of a field of `len` bits at `pos`. -/
def fieldMask (w pos len : Nat) : BitVec w := ((BitVec.allOnes 256 <<< pos) &&& ~~~(BitVec.allOnes 256 <<< (pos + len))).setWidth w

/-- The vector instructions that compute per element of their type. -/
def vectorRow : Instr → Option VectorRow
  | .vadd h o => some ⟨h, o, 4, fun w sg x y _ => fit w sg o.sat (num sg x + num sg y)⟩
  | .vsub h o => some ⟨h, o, 4, fun w sg x y _ => fit w sg o.sat (num sg x - num sg y)⟩
  | .vmul h o => some ⟨h, o, 6, fun w sg x y _ => fit w sg o.sat (num sg x * num sg y)⟩
  | .vmulhi h o => some ⟨h, o, 6, fun w sg x y _ => (BitVec.ofInt w (num sg x * num sg y / 2 ^ w), 0)⟩
  | .vmad h o => some ⟨h, o, 6, fun _ _ x y z => (x * y + z, 0)⟩
  | .vand h o => some ⟨h, o, 4, fun _ _ x y _ => (x &&& y, 0)⟩
  | .vor h o => some ⟨h, o, 4, fun _ _ x y _ => (x ||| y, 0)⟩
  | .vxor h o => some ⟨h, o, 4, fun _ _ x y _ => (x ^^^ y, 0)⟩
  | .vshl h o => some ⟨h, o, 4, fun w _ x y _ => (x <<< (y.toNat % w), 0)⟩
  | .vshr h o => some ⟨h, o, 4, fun w _ x y _ => (x >>> (y.toNat % w), 0)⟩
  | .vsar h o => some ⟨h, o, 4, fun w _ x y _ => (x.sshiftRight (y.toNat % w), 0)⟩
  | .vmin h o => some ⟨h, o, 4, fun _ sg x y _ => (if num sg x ≤ num sg y then x else y, 0)⟩
  | .vmax h o => some ⟨h, o, 4, fun _ sg x y _ => (if num sg y ≤ num sg x then x else y, 0)⟩
  | .vabs h o => some ⟨h, o, 4, fun w sg x _ _ => fit w sg o.sat (num sg x).natAbs⟩
  | .vpopc h o => some ⟨h, o, 4, fun _ _ x _ _ => (x.cpop, 0)⟩
  | .vclz h o => some ⟨h, o, 4, fun _ _ x _ _ => (x.clz, 0)⟩
  | _ => none

end Sys2Proof.Claims

/-- Each vector instruction of Table 5.6 that computes per element completes, writes the table's results to D of the
executing lanes with its latency and nothing else, and adds its counts to `SATCNT` (R69, R81, R83, R85, R92). -/
def Obligations.VectorResults : Prop :=
  ∀ (s : State) (e : Env) (i : Instr) (row : VectorRow) (d : Nat), vectorRow i = some row → row.o.d = .v d →
    row.o.ty ∈ vectorTypes → Issuing s e →
    let (n, w, sg) := vectorType row.o.ty
    let res := fun l => perElement n w fun k =>
      row.f w sg (part w (e.rdVec row.o.a l) k) (part w (e.vecB row.o l) k) (part w (e.rdVec row.o.c l) k)
    Completes i s s e row.h ((e.w.post s.now row.lat e.width ((e.exec row.h).map fun l => .v d l (res l).1)).count
      ((e.exec row.h).map fun l => (res l).2).sum)

/-- `VBFX`, `VBFI`, `VCMP`, `VSEL`, `VMOV`, `VMOVI` and `VLEA` complete with the results of Table 5.6 in D of the executing
lanes (R92 to R94): a field, a field replaced, a compare whose result every byte bit of the element takes, a choice by the
bit of the element's lowest byte, a move, the immediate, and a base plus a scaled index, of 32 bits or of a pair. -/
def Sys2Proof.Claims.vectorMoves : Prop :=
  ∀ (s : State) (e : Env) (h : Hdr) (o : AluArgs) (d p : Nat), o.ty ∈ vectorTypes → Issuing s e →
    let (n, w, sg) := vectorType o.ty
    let put := fun (g : Nat → W32) => e.w.post s.now 4 e.width ((e.exec h).map fun l => .v d l (g l))
    let a := fun l => e.rdVec o.a l
    let b := fun l => e.vecB o l
    let c := fun l => (e.rdVec o.c l)
    (o.d = .v d → o.ty ∈ [.dflt, .i32, .n32, .b32] →
      Completes (.vbfx h o) s s e h (put fun l =>
        (field sg ((a l).setWidth w) ((b l).toNat % 32) (min ((b l).toNat / 256 % 64) 32)).setWidth 32) ∧
      Completes (.vbfi h o) s s e h (put fun l =>
        let pos := (c l).toNat % 32
        let m := fieldMask 32 pos ((c l).toNat / 256 % 64)
        (a l &&& ~~~m) ||| ((b l <<< pos) &&& m))) ∧
    (o.d = .p p → Completes (.vcmp h o) s s e h (e.w.post s.now 4 e.width ((e.exec h).map fun l =>
      .p p l (byteBits fun j =>
        let k := j / (4 / n)
        holds o.sub (num sg (part w (a l) k)) (num sg (part w (b l) k)))))) ∧
    (o.d = .v d → o.c = .p p → Completes (.vsel h o) s s e h (put fun l =>
      packed n w fun k => if (e.w.rdP p l).getLsbD (k * (4 / n)) then part w (a l) k else part w (b l) k)) ∧
    (o.d = .v d → Completes (.vmov h o) s s e h (put a) ∧ Completes (.vmovi h o) s s e h (put fun _ => o.imm) ∧
      (o.ty ∈ [.dflt, .i32, .n32, .b32] → Completes (.vlea h o) s s e h (put fun l => a l + (b l <<< o.sub))))

/-- `VLEA` with a 64-bit type adds the shifted index, sign- or zero-extended, to the pair of A and writes the pair of D
(R94). -/
def Sys2Proof.Claims.vleaPair : Prop :=
  ∀ (s : State) (e : Env) (h : Hdr) (o : AluArgs) (d : Nat), o.d = .vp d → (o.ty = .i64 ∨ o.ty = .n64) → Issuing s e →
    let x := fun l => e.rdPair o.a l + ((if o.ty = .i64 then (e.vecB o l).signExtend 64 else (e.vecB o l).setWidth 64) <<< o.sub)
    Completes (.vlea h o) s s e h (e.w.post s.now 4 e.width ((e.exec h).flatMap fun l =>
      [.v d l ((x l).extractLsb' 0 32), .v (d + 1) l ((x l).extractLsb' 32 32)]))

/-- The vector instructions that move fields, compare and choose, and both forms of `VLEA` (R92 to R94, Table 5.6). -/
def Obligations.VectorMoveResults : Prop := vectorMoves ∧ vleaPair

/-! ### Float family -/

namespace Sys2Proof.Claims

/-- The elements of a float type, their width and their format; `.f32` where it names none (R95). -/
def floatType (ty : Ty) : Nat × Nat × Fmt :=
  match ty with | .f16x2 => (2, 16, .f16) | .bf16x2 => (2, 16, .bf16) | _ => (1, 32, .f32)

/-- The types of the float family. -/
def floatTypes : List Ty := [.dflt, .f32, .f16x2, .bf16x2]

/-- The exact value of element `k` of a word (R70). -/
def valueAt (w : Nat) (f : Fmt) (x : W32) (k : Nat) : XVal := f.value (part w x k).toNat

/-- The random operand of element `k` of lane `l` of an instruction that starts with the free-value counter at `n` (R79):
a free value. -/
def draw (n l k : Nat) : W32 := Config.randomOperand ((n + 1) * 4096 + (4 * l + k))

/-- The state in which an instruction that draws random operands completes: the counter of free values moves on. -/
def drawn (s : State) (m : Rnd) : State := if m = .rs then { s with fresh := s.fresh + 1 } else s

/-- A float instruction of Table 5.7 whose result is Convert of an exact result. -/
structure FloatRow where
  h : Hdr
  o : AluArgs
  f : XVal → XVal → XVal → XVal

/-- The exact result of each (R82, R95, R96). -/
def floatRow : Instr → Option FloatRow
  | .fadd h o => some ⟨h, o, fun a b _ => XVal.add (o.rnd == .rm) a b⟩
  | .fsub h o => some ⟨h, o, fun a b _ => XVal.add (o.rnd == .rm) a b.neg⟩
  | .fmul h o => some ⟨h, o, fun a b _ => a.mul b⟩
  | .ffma h o => some ⟨h, o, fun a b c => XVal.add (o.rnd == .rm) (a.mul b) c⟩
  | .fmin h o => some ⟨h, o, fun a b _ => fminmax false a b⟩
  | .fmax h o => some ⟨h, o, fun a b _ => fminmax true a b⟩
  | _ => none

end Sys2Proof.Claims

/-- Each float instruction completes: every element of D of the executing lanes is Convert of the exact result of its
elements in the mode RND, with a free random operand under `.rs`, and the counts of `.sat` add to `SATCNT` (R77 to R82, R95,
R96). -/
def Obligations.FloatResults : Prop :=
  ∀ (s : State) (e : Env) (i : Instr) (row : FloatRow) (d : Nat), floatRow i = some row → row.o.d = .v d →
    row.o.ty ∈ floatTypes → Issuing s e →
    let (n, w, f) := floatType row.o.ty
    let s' := drawn s row.o.rnd
    let res := fun l => perElement n w fun k =>
      let (x, c) := convertF (row.f (valueAt w f (e.rdVec row.o.a l) k) (valueAt w f (e.vecB row.o l) k) (valueAt w f (e.rdVec row.o.c l) k))
        f row.o.rnd row.o.sat (draw s.fresh l k)
      (BitVec.ofNat w x, c)
    Completes i s s' e row.h ((e.w.post s.now 6 e.width ((e.exec row.h).map fun l => .v d l (res l).1)).count
      ((e.exec row.h).map fun l => (res l).2).sum)

/-- `FRND` rounds each element to an integral value of its own format, `FDOT2` forms `a0 × b0 + a1 × b1 + c` exactly and
rounds once to FP32, `FCMP` writes its condition into every byte bit of the element, `FCLASS` one class bit per element
(R95 to R97). -/
def Sys2Proof.Claims.floatOthers : Prop :=
  ∀ (s : State) (e : Env) (h : Hdr) (o : AluArgs) (d p : Nat), o.ty ∈ floatTypes → Issuing s e →
    let (n, w, f) := floatType o.ty
    let val := fun (x : Opd) l k => valueAt w f (e.rdVec x l) k
    (o.d = .v d →
      Completes (.frnd h o) s s e h (e.w.post s.now 6 e.width ((e.exec h).map fun l => .v d l (packed n w fun k =>
        BitVec.ofNat w (convertF (match val o.a l k with
          | .fin neg x y => .fin neg (roundNat o.rnd neg 0 x y) 1
          | v => v) f .rn false 0).1))) ∧
      Completes (.fclass h o) s s e h (e.w.post s.now 6 e.width ((e.exec h).map fun l => .v d l (packed n w fun k =>
        let x := part w (e.rdVec o.a l) k
        let m := x.toNat % 2 ^ f.frac
        let neg := x.msb
        if x.toNat / 2 ^ f.frac % 2 ^ f.expo = 2 ^ f.expo - 1 then
          if m = 0 then if neg then 1#w else 1#w <<< 7 else if 2 ^ (f.frac - 1) ≤ m then 1#w <<< 9 else 1#w <<< 8
        else if x.toNat / 2 ^ f.frac % 2 ^ f.expo = 0 then
          if m = 0 then if neg then 1#w <<< 3 else 1#w <<< 4 else if neg then 1#w <<< 2 else 1#w <<< 5
        else if neg then 1#w <<< 1 else 1#w <<< 6)))) ∧
    (o.d = .p p → Completes (.fcmp h o) s s e h (e.w.post s.now 6 e.width ((e.exec h).map fun l =>
      .p p l (byteBits fun j =>
        let k := j / (4 / n)
        fcmp o.sub (val o.a l k) (valueAt w f (e.vecB o l) k))))) ∧
    (o.d = .v d → o.ty ∈ [.dflt, .bf16x2, .f16x2] →
      let g : Fmt := if o.ty = .f16x2 then .f16 else .bf16
      let rm := o.rnd == .rm
      let res := fun l =>
        let x := fun (y : W32) k => valueAt 16 g y k
        let a := e.rdVec o.a l
        let b := e.vecB o l
        convertF (XVal.add rm (XVal.add rm ((x a 0).mul (x b 0)) ((x a 1).mul (x b 1))) (Fmt.f32.value (e.rdVec o.c l).toNat))
          .f32 o.rnd o.sat (draw s.fresh l 0)
      Completes (.fdot2 h o) s (drawn s o.rnd) e h
        ((e.w.post s.now 6 e.width ((e.exec h).map fun l => .v d l (BitVec.ofNat 32 (res l).1))).count ((e.exec h).map fun l => (res l).2).sum))

/-- The order of numbers that `FCMP` tests (R96): of finite values that of the quotients, with −∞ below and +∞ above them. -/
def Sys2Proof.Claims.numericOrder : Prop :=
  let v := fun (s : Bool) (n : Nat) => if s then -(n : Int) else (n : Int)
  (∀ (a b : Bool) (x y d e : Nat), 0 < d → 0 < e →
    fcmp 2 (.fin a x d) (.fin b y e) = decide (v a x * e < v b y * d) ∧ fcmp 0 (.fin a x d) (.fin b y e) = decide (v a x * e = v b y * d)) ∧
  (∀ (a : Bool) (x d : Nat), fcmp 2 (.inf true) (.fin a x d) = true ∧ fcmp 2 (.fin a x d) (.inf false) = true ∧
    fcmp 2 (.fin a x d) (.inf true) = false ∧ fcmp 2 (.inf false) (.fin a x d) = false) ∧
  fcmp 2 (.inf true) (.inf false) = true ∧ fcmp 2 (.inf false) (.inf true) = false ∧ ∀ s, fcmp 0 (.inf s) (.inf s) = true

/-- `FMIN`, `FMAX` and the conditions of `FCMP` (R96): NaN if either is NaN, −0 below +0 but equal to it, and with a NaN
every condition false but `.ne` and `.un`; of two that differ `FMIN` takes the lower and `FMAX` the higher. -/
def Sys2Proof.Claims.floatOrder : Prop :=
  (∀ (a b : XVal) (m : Bool), (a.isNan = true ∨ b.isNan = true) → fminmax m a b = .nan) ∧
  (∀ (d e : Nat) (a : Bool), fminmax false (.fin a 0 d) (.fin (!a) 0 e) = .fin true 0 (if a then d else e) ∧
    fminmax true (.fin a 0 d) (.fin (!a) 0 e) = .fin false 0 (if a then e else d) ∧ fcmp 0 (.fin a 0 d) (.fin (!a) 0 e) = true) ∧
  (∀ (a b : XVal) (c : Nat), c < 8 → (a.isNan = true ∨ b.isNan = true) → fcmp c a b = (c == 1 || c == 6)) ∧
  (∀ (a b : XVal), a.isNan = false → b.isNan = false →
    fcmp 1 a b = !fcmp 0 a b ∧ fcmp 4 a b = fcmp 2 b a ∧ fcmp 5 a b = fcmp 3 b a ∧ fcmp 3 a b = (fcmp 2 a b || fcmp 0 a b) ∧
    fcmp 6 a b = false ∧ fcmp 7 a b = true ∧ (fcmp 2 a b = true → fminmax false a b = a ∧ fminmax true a b = b))

/-- The other float instructions, and the order that `FMIN`, `FMAX` and `FCMP` use (R95 to R97). -/
def Obligations.FloatOthersAndOrder : Prop := floatOthers ∧ numericOrder ∧ floatOrder

/-- The rounding modes (R77): `.rn` the nearest whole number and the even one of two, `.rz` toward zero, `.rp` toward +∞,
`.rm` toward −∞, `.rs` one of the two neighbours by the random operand, up exactly when the operand exceeds what the
fraction leaves of one. -/
def Sys2Proof.Claims.roundingModes : Prop :=
  ∀ (neg : Bool) (r : W32) (n d : Nat), 0 < d →
    let k := fun m => roundNat m neg r n d
    (2 * (k .rn * d) ≤ 2 * n + d ∧ 2 * n ≤ 2 * (k .rn * d) + d ∧
      ((2 * (k .rn * d) = 2 * n + d ∨ 2 * n = 2 * (k .rn * d) + d) → k .rn % 2 = 0)) ∧
    (k .rz * d ≤ n ∧ n < (k .rz + 1) * d) ∧
    (neg = true → k .rp = k .rz) ∧ (neg = false → n ≤ k .rp * d ∧ k .rp * d < n + d) ∧
    (neg = false → k .rm = k .rz) ∧ (neg = true → n ≤ k .rm * d ∧ k .rm * d < n + d) ∧
    (k .rs = k .rz + if d * 2 ^ 32 ≤ (n % d) * 2 ^ 32 + r.toNat * d then 1 else 0)

/-- Convert keeps every value of the format (R78): a code that is no NaN converts to itself in every mode with no count,
but for an infinity under `.sat`, which becomes the largest finite value and counts 1; every NaN becomes the canonical NaN. -/
def Sys2Proof.Claims.convertExact : Prop :=
  ∀ (f : Fmt) (c : Nat) (m : Rnd) (sat : Bool) (r : W32), c < 2 ^ f.width →
    match f.value c with
    | .nan => convertF (f.value c) f m sat r = (f.canonNan, 0)
    | .inf s => convertF (f.value c) f m sat r = if sat then (f.withSign s f.maxCode, 1) else (c, 0)
    | .fin _ _ _ => convertF (f.value c) f m sat r = (c, 0)

/-- Rounding and Convert (R77, R78). -/
def Obligations.Rounding : Prop := roundingModes ∧ convertExact

/-- The special functions (R98, Table 5.8) complete with a latency of 16; NaN gives the canonical NaN, zeros and infinities
the table's values, and a negative finite input NaN in `FSQRT`, `FRSQ` and `FLOG2`. `FRCP` of a finite value is Convert of
its exact reciprocal; the others give the nearest FP32 value at 1 and 4. -/
def Obligations.SpecialFunctions : Prop :=
  ∀ (s : State) (e : Env) (h : Hdr) (o : AluArgs) (d : Nat), o.d = .v d → Issuing s e →
    (let done := fun i fn => Completes i s s e h (e.w.post s.now 16 e.width ((e.exec h).map fun l => .v d l (specFn fn (e.rdVec o.a l))))
     done (.frcp h o) .rcp ∧ done (.fsqrt h o) .sqrt ∧ done (.frsq h o) .rsq ∧ done (.fexp2 h o) .exp2 ∧ done (.flog2 h o) .log2 ∧
     done (.fsin h o) .sin ∧ done (.fcos h o) .cos) ∧
    (∀ fn (y : W32), Fmt.f32.value y.toNat = .nan → specFn fn y = 0x7FC00000#32) ∧
    ([SpecFn.rcp, .sqrt, .rsq, .exp2, .log2, .sin, .cos].map (specFn · 0x7F800000#32) =
      [0, 0x7F800000, 0, 0x7F800000, 0x7F800000, 0x7FC00000, 0x7FC00000]) ∧
    ([SpecFn.rcp, .sqrt, .rsq, .exp2, .log2, .sin, .cos].map (specFn · 0xFF800000#32) =
      [0x80000000, 0x7FC00000, 0x7FC00000, 0, 0x7FC00000, 0x7FC00000, 0x7FC00000]) ∧
    ([SpecFn.rcp, .sqrt, .rsq, .exp2, .log2, .sin, .cos].map (specFn · 0#32) =
      [0x7F800000, 0, 0x7F800000, 0x3F800000, 0xFF800000, 0, 0x3F800000]) ∧
    ([SpecFn.rcp, .sqrt, .rsq, .exp2, .log2, .sin, .cos].map (specFn · 0x80000000#32) =
      [0xFF800000, 0x80000000, 0xFF800000, 0x3F800000, 0xFF800000, 0x80000000, 0x3F800000]) ∧
    (∀ (y : W32) (neg : Bool) (n k : Nat), Fmt.f32.value y.toNat = .fin neg n k → n ≠ 0 →
      specFn .rcp y = BitVec.ofNat 32 (convertF (.fin neg k n) .f32 .rn false 0).1 ∧
      (neg = true → specFn .sqrt y = 0x7FC00000#32 ∧ specFn .rsq y = 0x7FC00000#32 ∧ specFn .log2 y = 0x7FC00000#32)) ∧
    ([SpecFn.rcp, .sqrt, .rsq, .exp2, .log2, .sin, .cos].map (specFn · 0x3F800000#32) =
      [0x3F800000, 0x3F800000, 0x3F800000, 0x40000000, 0, 0x3F576AA4, 0x3F0A5140]) ∧
    ([SpecFn.sqrt, .rsq, .exp2, .log2].map (specFn · 0x40800000#32) = [0x40000000, 0x3F000000, 0x41800000, 0x40000000])

/-! ### Activation tables -/

/-- `FACT` binds the active bank of its table at issue (R100): with a bank that is loaded, valid and loaded by the warp's
launch it completes, each executing lane with the two fused steps over the segment its key falls in, NaN with the canonical
NaN; with any other bank the issue group traps with ACT_TABLE and the table's number. -/
def Sys2Proof.Claims.factResult : Prop :=
  ∀ (s : State) (e : Env) (h : Hdr) (o : AluArgs) (d : Nat), o.d = .v d → Acts s e h →
    let t : ActTable := sget {} (s.bay e.f.bay).tables o.sub
    let bank := if t.active then t.b1 else t.b0
    (¬(bank.loaded = true ∧ bank.valid = true ∧ bank.owner = e.f.lid) → Traps (.fact h o) s s e .actTable o.sub) ∧
    (bank.loaded = true → bank.valid = true → bank.owner = e.f.lid →
      let y := fun (x : W32) =>
        let key := if x.msb then ~~~x else x ^^^ 0x80000000#32
        let seg := (min 255 (max 0 ((key >>> bank.shift).toNat - (bank.base : Int)))).toNat
        let c := fun i => Fmt.f32.value (bank.coef.getD (3 * seg + i) 0).toNat
        let v := Fmt.f32.value x.toNat
        let t := Fmt.f32.value (convertF (XVal.add false (v.mul (c 2)) (c 1)) .f32 .rn false 0).1
        if v = .nan then 0x7FC00000#32 else BitVec.ofNat 32 (convertF (XVal.add false (v.mul t) (c 0)) .f32 .rn false 0).1
      Completes (.fact h o) s s e h (e.w.post s.now 10 e.width ((e.exec h).map fun l => .v d l (y (e.rdVec o.a l)))))

namespace Sys2Proof.Claims

/-- The state in which an access that first commits a guarded frame's buffer goes on (R325): the buffer closed as it stands,
unless the instruction has done so already; and the copies, issued before, that it waits for as `FCOMMIT` does (R327). -/
def committed (s : State) (e : Env) (commits : Prop) [Decidable commits] : State × List Nat :=
  if commits ∧ e.l.guarded = true ∧ e.closed = false then s.closeBuffer e.c.fid e.l true else (s, [])

/-- The instruction is held in `s'`, where its warp is `w`. -/
def HeldIn (i : Instr) (s s' : State) (e : Env) (w : Warp) (why : HoldWhy) : Prop :=
  ∃ t, exec i s = .next t ∧ Ends s' t e { w with hold := some { why := why, pc := e.c.pc, lanes := e.c.lanes } }

end Sys2Proof.Claims

/-- `FTLOAD` (R101) completes when the counter has room, its offset is 16-byte aligned and the capability reaches the image:
what its warp accessed and the load must come after is performed, one operation is enrolled and the load is in flight, a
strict access committing a guarded frame's buffer first (R325); a misaligned offset, a range beyond the capability, a missing
permission and a revoked capability trap, in this order, and then a page of the first 16 bytes that a `LD` there may not read
(R86). -/
def Sys2Proof.Claims.ftloadIssues : Prop :=
  ∀ (s : State) (e : Env) (h : Hdr) (o : AluArgs), Acts s e h →
    let off := (e.rdScalar o.b).toNat
    let cap := e.rdCap o.a
    let okCap := cap.kind ∈ [0, 2, 6, 7] ∧ cap.perm.getLsbD 0 = true
    let i := Instr.ftload h o
    (63 ≤ e.w.outstanding o.c.raw → IsHeld i s e (.ctrRoom o.c.raw)) ∧
    (e.w.outstanding o.c.raw < 63 →
      (off % 16 ≠ 0 → Traps i s s e .misalign off) ∧
      (off % 16 = 0 → cap.len < off + 3088 → Traps i s s e .capBounds (max off cap.len % 2 ^ 64)) ∧
      (off % 16 = 0 → off + 3088 ≤ cap.len → (cap.view = 0 ∨ cap.geom ≠ 0) →
        (¬okCap → Traps i s s e .capPerm off) ∧
        (okCap → s.current cap = false → Traps i s s e .capRevoked off) ∧
        (okCap → s.current cap = true →
          ∀ x q, (Xst.mk s e.w).capRange (.lane e.tlbUse ((e.exec h).headD 0)) cap off 16 { acc := .r } = (x, q) →
            (∀ c v, q = .trap c v → Traps i s s e c v) ∧ (∀ y, q = .hold y → IsHeld i s e y) ∧
            ((∀ c v, q ≠ .trap c v) → (∀ y, q ≠ .hold y) →
              let (u, ids) := committed x.s { e with w := x.w } (cap.cls = .strict)
              (ids ≠ [] → HeldIn i s u e x.w (.buffer ids)) ∧
              (ids = [] →
                let (v, w) := performBefore u e.c.fid x.w (cap.cls == .strict)
                Completes i s
                  { v with
                    fresh := v.fresh + 1
                    ftops := v.ftops ++ [FtOp.mk v.fresh e.c.fid e.w.idx o.c.raw e.f.bay o.sub e.f.lid cap off none e.c.pc] } e h
                  { w with ops := w.ops ++ [{ id := v.fresh, ctr := o.c.raw, from_ := v.now, done := false }] })))))

/-- `FTLOAD_FLIP` (R101): a load whose image can be read writes it into the table's inactive bank, owned by the launch that
issued it, and the banks flip; its counter operation is done. It sees the stores that its warp made before it. With no load in
flight nothing happens. -/
def Sys2Proof.Claims.ftloadFlips : Prop :=
  (∀ (s : State), s.ftops = [] → exec .ftloadFlip s = .next s) ∧
  ∀ (s : State) (o : FtOp) (f : Frame) (l : Launch) (w : Warp) (x : Xst) (pm : PMap), s.nextFt = some o → s.frame? o.fid = some f →
    s.launch? f.lid = some l → f.warp? o.widx = some w → o.cap.view = 0 →
    (Xst.mk s w).move f l { cap := o.cap, off := o.off } 3088 .r = (x, .ok pm) →
    let as := x.s.physOf { cap := o.cap, off := o.off } 3088 pm
    let u := x.s.performOlder ⟨o.fid, o.widx⟩ o.id as false
    (∀ a ∈ as, u.lineBad a = false) →
    let bs := u.fetch f { cap := o.cap, off := o.off } 3088 pm
    let old : ActTable := sget {} (u.bay o.bay).tables o.table
    ∃ t, exec .ftloadFlip s = .next t ∧
      let new : ActTable := sget {} (t.bay o.bay).tables o.table
      new.active = !old.active ∧ (if old.active then new.b1 = old.b1 else new.b0 = old.b0) ∧
      let bank := if new.active then new.b1 else new.b0
      bank.loaded = true ∧ bank.owner = o.lid ∧ bank.base = ofLe (bs.take 4) ∧ bank.shift = (bs.getD 4 0).toNat % 32 ∧
      (bank.valid = true ↔ (bs.getD 4 0).toNat < 32 ∧ ∀ i < 11, bs.getD (5 + i) 0 = 0) ∧
      (∀ i < 768, bank.coef.getD i 0 = BitVec.ofNat 32 (ofLe ((bs.drop (16 + 4 * i)).take 4))) ∧
      t.ftops = u.ftops.filter (fun p => p.id != o.id) ∧ t.mem = u.mem

/-- Activation tables: what `FACT` computes from one (R100), and how `FTLOAD` loads one (R99, R101). -/
def Obligations.ActivationTables : Prop := factResult ∧ ftloadIssues ∧ ftloadFlips

/-! ### Conversion and quantisation -/

namespace Sys2Proof.Claims

/-- The low bits of a word as an exact value of a type (R102). -/
def source (ty : Ty) (x : W32) : XVal :=
  let whole := fun w sg => XVal.ofInt (num sg (x.setWidth w))
  match ty with
  | .f16 => Fmt.f16.value (x.toNat % 2 ^ 16) | .bf16 => Fmt.bf16.value (x.toNat % 2 ^ 16) | .e4m3 => Fmt.e4m3.value (x.toNat % 2 ^ 8)
  | .e5m2 => Fmt.e5m2.value (x.toNat % 2 ^ 8) | .e2m1 => Fmt.e2m1.value (x.toNat % 2 ^ 4)
  | .i8 => whole 8 true | .i16 => whole 16 true | .i32 => whole 32 true | .n8 => whole 8 false | .n16 => whole 16 false
  | .n32 => whole 32 false
  | _ => Fmt.f32.value x.toNat

/-- An exact value converted to a type: a float code zero-filled, an integer extended by its signedness (R78, R80, R102). -/
def target (ty : Ty) (x : XVal) (m : Rnd) (sat : Bool) (r : W32) : W32 × Nat :=
  let flt := fun f => (BitVec.ofNat 32 (convertF x f m sat r).1, (convertF x f m sat r).2)
  let int := fun w sg => (BitVec.ofInt 32 (convertI x ⟨w, sg⟩ m r).1, (convertI x ⟨w, sg⟩ m r).2)
  match ty with
  | .f16 => flt .f16 | .bf16 => flt .bf16 | .e4m3 => flt .e4m3 | .e5m2 => flt .e5m2 | .e2m1 => flt .e2m1
  | .i8 => int 8 true | .i16 => int 16 true | .i32 => int 32 true | .n8 => int 8 false | .n16 => int 16 false | .n32 => int 32 false
  | _ => flt .f32

/-- The types of `CVT` (Table 5.10). -/
def cvtTypes : List Ty := [.dflt, .f32, .f16, .bf16, .e4m3, .e5m2, .e2m1, .i8, .i16, .i32, .n8, .n16, .n32]

/-- Four codes of 4 bits in one half of a register, the other half kept (R103, R106). -/
def inHalf (old : W32) (half : Nat) (c : Nat → BitVec 4) : W32 :=
  let x : BitVec 16 := c 3 ++ c 2 ++ c 1 ++ c 0
  if half = 0 then old.extractLsb' 16 16 ++ x else x ++ old.extractLsb' 0 16

/-- An FP32 word times 2^(127 − e), exactly (R104, R106). -/
def descaled (x : W32) (e : Nat) : XVal := (Fmt.f32.value x.toNat).scale (127 - (e : Int))

end Sys2Proof.Claims

/-- The conversions (R102, R103) complete with a latency of 6: `CVT` of one element, `CVTPK2` of a and b to the halves of a
word, `CVTPK4` of four registers to the bytes of D or to four nibbles of one half of it, `CVTUP` of elements 2s and 2s + 1 to
a pair, exactly; each through Convert, with its counts. -/
def Obligations.ConvertResults : Prop :=
  ∀ (s : State) (e : Env) (h : Hdr) (o : AluArgs) (d : Nat), o.d = .v d → Issuing s e →
    let s' := drawn s o.rnd
    let put := fun (g : Nat → W32 × Nat) =>
      (e.w.post s.now 6 e.width ((e.exec h).map fun l => .v d l (g l).1)).count ((e.exec h).map fun l => (g l).2).sum
    let conv := fun x f l k => convertF x f o.rnd o.sat (draw s.fresh l k)
    let f32 := fun (x : W32) => Fmt.f32.value x.toNat
    (o.ty ∈ cvtTypes → o.ty2 ∈ cvtTypes →
      Completes (.cvt h o) s s' e h (put fun l => target o.ty (source o.ty2 (e.rdVec o.a l)) o.rnd o.sat (draw s.fresh l 0))) ∧
    (o.ty ∈ [.dflt, .bf16x2, .f16x2] → Completes (.cvtpk2 h o) s s' e h (put fun l =>
      let f : Fmt := if o.ty = .f16x2 then .f16 else .bf16
      let x := conv (f32 (e.rdVec o.a l)) f l 0
      let y := conv (f32 (e.rdVec o.b l)) f l 1
      (BitVec.ofNat 16 y.1 ++ BitVec.ofNat 16 x.1, x.2 + y.2))) ∧
    (o.ty ∈ [.dflt, .e4m3x4, .e5m2x4, .e2m1x4] → Completes (.cvtpk4 h o) s s' e h (put fun l =>
      let f : Fmt := if o.ty = .e5m2x4 then .e5m2 else if o.ty = .e2m1x4 then .e2m1 else .e4m3
      let x := fun k => conv (f32 (e.w.rdV (o.a.raw + k) l)) f l k
      (if o.ty = .e2m1x4 then inHalf (e.w.rdV d l) o.sub fun k => BitVec.ofNat 4 (x k).1
       else BitVec.ofNat 8 (x 3).1 ++ BitVec.ofNat 8 (x 2).1 ++ BitVec.ofNat 8 (x 1).1 ++ BitVec.ofNat 8 (x 0).1,
       (x 0).2 + (x 1).2 + (x 2).2 + (x 3).2))) ∧
    (o.ty ∈ [.dflt, .bf16x2, .f16x2] → o.ty2 ∈ [.dflt, .e4m3x4, .e5m2x4, .e2m1x4] → Completes (.cvtup h o) s s' e h (put fun l =>
      let f : Fmt := if o.ty = .f16x2 then .f16 else .bf16
      let g : Fmt := if o.ty2 = .e5m2x4 then .e5m2 else if o.ty2 = .e2m1x4 then .e2m1 else .e4m3
      let x := fun k => (convertF (g.value (part g.width (e.rdVec o.a l) (2 * o.sub + k)).toNat) f .rn false 0).1
      (BitVec.ofNat 16 (x 1) ++ BitVec.ofNat 16 (x 0), 0)))

/-- The quantising instructions (R104 to R106) complete with a latency of 6. `QSCALE.code`: the E8M0 code of an absolute
maximum, 0xFF of an infinity or NaN, 0 of a zero. `QSCALE.apply`: A × 2^(127 − e), NaN under 0xFF. `QLQ4.nib`: the code of
the nearest level put into nibble SUB of D, a clamp or a NaN counting 1. `QLQ4.qcode`: the least block code that reaches A,
at most 255. `QLQ4.bscale`: the block scale of R75. `QMX`: four saturated E2M1 codes in one half of D. -/
def Obligations.QuantiseResults : Prop :=
  ∀ (s : State) (e : Env) (h : Hdr) (o : AluArgs) (d : Nat), o.d = .v d → Issuing s e →
    let s' := drawn s o.rnd
    let put := fun (g : Nat → W32 × Nat) =>
      (e.w.post s.now 6 e.width ((e.exec h).map fun l => .v d l (g l).1)).count ((e.exec h).map fun l => (g l).2).sum
    let a := fun l => e.rdVec o.a l
    let b := fun l => e.rdVec o.b l
    let f32 := fun (x : W32) => Fmt.f32.value x.toNat
    (o.ty ∈ [.dflt, .e2m1, .e4m3, .e5m2] → Completes (.qscaleCode h o) s s e h (put fun l =>
      let emax : Int := if o.ty = .e4m3 then 8 else if o.ty = .e5m2 then 15 else 2
      (match f32 (a l) with
       | .fin _ 0 _ => 0
       | .fin _ n d => BitVec.ofInt 32 (min 254 (max 0 (floorLog2 n d - emax + 127)))
       | _ => 0xFF, 0))) ∧
    Completes (.qscaleApply h o) s s' e h (put fun l =>
      let c := (b l).toNat % 256
      let x := convertF (descaled (a l) c) .f32 o.rnd o.sat (draw s.fresh l 0)
      if c = 0xFF then (0x7FC00000, 0) else (BitVec.ofNat 32 x.1, x.2)) ∧
    (o.sub < 8 → Completes (.qlq4Nib h o) s s e h (put fun l =>
      let (c, n) := lq4Nib (a l) (b l)
      let m := fieldMask 32 (4 * o.sub) 4
      ((e.w.rdV d l &&& ~~~m) ||| (BitVec.ofNat 32 c <<< (4 * o.sub)), n))) ∧
    Completes (.qlq4Qcode h o) s s e h (put fun l =>
      match f32 (b l) with
      | .fin _ 0 _ => (0, 0)
      | v =>
        match ((f32 (a l)).abs.mul (.ofInt 255)).div v with
        | .nan => (0, 1)
        | .inf true => (Config.qcodeNegative (a l) (b l), 0)
        | .inf false => (255, 1)
        | .fin true n m => (if n < m then 0 else Config.qcodeNegative (a l) (b l), 0)
        | .fin false n m => if 255 * m < n then (255, 1) else (BitVec.ofNat 32 ((n + m - 1) / m), 0)) ∧
    Completes (.qlq4Bscale h o) s s e h (put fun l =>
      let r := fun (x : XVal) => Fmt.f32.value (convertF x .f32 .rn false 0).1
      let q : Nat := (a l).toNat % 256
      (BitVec.ofNat 32 (convertF (r ((r ((XVal.ofInt q).mul (f32 (b l)))).div (.ofInt 255))) .f32 .rn false 0).1, 0)) ∧
    Completes (.qmx h o) s s' e h (put fun l =>
      let c := (b l).toNat % 256
      let x := fun k => if c = 0xFF then (0, 1) else convertF (descaled (e.w.rdV (o.a.raw + k) l) c) .e2m1 o.rnd true (draw s.fresh l k)
      (inHalf (e.w.rdV d l) o.sub fun k => BitVec.ofNat 4 (x k).1, (x 0).2 + (x 1).2 + (x 2).2 + (x 3).2))

/-- The LQ4 code of an element over a block scale (R74, R105): no other code's value lies nearer the quotient, and of two
equally near the higher code is taken; beyond ±1 the end code counts 1, and a NaN gives code 8 and counts 1. -/
def Obligations.NearestLevel : Prop :=
  ∀ (a b : W32),
    let t := (Fmt.f32.value a.toNat).div (Fmt.f32.value b.toNat)
    let dist := fun c => (XVal.add false (lq4Value c) t.neg).abs
    let (c, n) := lq4Nib a b
    (t = .nan → c = 8 ∧ n = 1) ∧
    (t ≠ .nan → XVal.cmp (.ofInt 1) t = .lt → c = 15 ∧ n = 1) ∧
    (t ≠ .nan → XVal.cmp t (.ofInt (-1)) = .lt → c = 0 ∧ n = 1) ∧
    (t ≠ .nan → XVal.cmp (.ofInt 1) t ≠ .lt → XVal.cmp t (.ofInt (-1)) ≠ .lt →
      n = 0 ∧ c < 16 ∧ ∀ k < 16, XVal.cmp (dist k) (dist c) ≠ .lt ∧ (c < k → XVal.cmp (dist k) (dist c) = .gt))

/-! ### Predicates -/

/-- The predicate instructions (Table 5.13) complete: per bit of a predicate in each executing lane, per element between a
predicate and a vector register, and once per issue over the executing lanes into a scalar; in a protected frame a pair of
lanes counts as one (R84, R107, R330). -/
def Obligations.PredicateResults : Prop :=
  ∀ (s : State) (e : Env) (h : Hdr) (o : AluArgs) (d p q a : Nat), Acts s e h →
    let put := fun (g : Nat → BitVec 4) => e.w.post s.now 2 e.width ((e.exec h).map fun l => .p d l (g l))
    let x := fun l => e.w.rdP p l
    let y := fun l => e.w.rdP q l
    (o.d = .p d → o.a = .p p → o.b = .p q →
      Completes (.pand h o) s s e h (put fun l => x l &&& y l) ∧ Completes (.por h o) s s e h (put fun l => x l ||| y l) ∧
      Completes (.pxor h o) s s e h (put fun l => x l ^^^ y l)) ∧
    (o.d = .p d → o.a = .p p → Completes (.pnot h o) s s e h (put fun l => ~~~x l)) ∧
    (o.d = .p d → o.a = .v a → o.ty ∈ [.dflt, .b32, .b16x2, .b8x4] →
      let (n, w, _) := vectorType o.ty
      Completes (.pfromv h o) s s e h (put fun l => byteBits fun j => part w (e.w.rdV a l) (j / (4 / n)) != 0#w)) ∧
    (o.d = .v d → o.a = .p p → o.ty ∈ [.dflt, .b32, .b16x2, .b8x4] →
      let (n, w, _) := vectorType o.ty
      Completes (.ptov h o) s s e h (e.w.post s.now 2 e.width ((e.exec h).map fun l =>
        .v d l (if o.sub = 1 then (x l).setWidth 32
          else packed n w fun k => if (x l).getLsbD (k * (4 / n)) then BitVec.allOnes w else 0#w)))) ∧
    (o.d = .s d → o.a = .p p →
      let lanes := e.visible (e.exec h)
      let yes := lanes.filter fun l => (x l).getLsbD 0
      let res := fun (v : W64) => e.w.post s.now 4 e.width [e.w.sWrite d v]
      (o.sub = 0 → Completes (.pvote h o) s s e h (res (if yes = [] then 0 else 1))) ∧
      (o.sub = 1 → Completes (.pvote h o) s s e h (res (if yes = lanes then 1 else 0))) ∧
      (o.sub = 2 → Completes (.pvote h o) s s e h (res (BitVec.ofNat 64 ((yes.map fun l => 2 ^ if e.l.prot then l / 2 else l).sum)))) ∧
      Completes (.pcnt h o) s s e h (res (BitVec.ofNat 64 yes.length)))

/-! ### Cross-lane instructions -/

namespace Sys2Proof.Claims

/-- What a cross-lane read of index `j` gives, and whether the fill was taken (R108): the register of a live lane, else the
fill; in a protected frame an index names a pair (R330). -/
def crossLane (e : Env) (a : Opd) (j : Nat) (fill : W32) : W32 × Bool :=
  let lane := if e.l.prot then 2 * j else j
  if j < (if e.l.prot then e.l.width / 2 else e.l.width) ∧ (e.w.wc.lanes.getD lane {}).st = .live then (e.rdVec a lane, false)
  else (fill, true)

/-- The operation of a scan or reduction and its identity (Table 5.15). -/
def scanStep (k : Nat) : W32 × (W32 → W32 → W32) :=
  let f32 := fun (x : W32) => Fmt.f32.value x.toNat
  let rn := fun x => BitVec.ofNat 32 (convertF x .f32 .rn false 0).1
  match k with
  | 0 => (0, (· + ·))
  | 1 => (0x80000000, fun x y => rn (XVal.add false (f32 x) (f32 y)))
  | 2 => (0x7FFFFFFF, fun x y => if x.toInt ≤ y.toInt then x else y)
  | 3 => (0x80000000, fun x y => if y.toInt ≤ x.toInt then x else y)
  | 4 => (0xFFFFFFFF, fun x y => if x.toNat ≤ y.toNat then x else y)
  | 5 => (0, fun x y => if y.toNat ≤ x.toNat then x else y)
  | 6 => (0xFFFFFFFF, (· &&& ·))
  | 7 => (0, (· ||| ·))
  | 8 => (0, (· ^^^ ·))
  | 9 => (0x7F800000, fun x y => rn (fminmax false (f32 x) (f32 y)))
  | _ => (0xFF800000, fun x y => rn (fminmax true (f32 x) (f32 y)))

/-- The combination of values in order. -/
def combined (k : Nat) (xs : List W32) : W32 := xs.foldl (scanStep k).2 (scanStep k).1

/-- The number by which a program knows a lane (R330). -/
def laneNo (e : Env) (l : Nat) : Nat := if e.l.prot then l / 2 else l

end Sys2Proof.Claims

/-- The cross-lane reads (R108, Table 5.14) complete with a latency of 8: `XPERM` and `XBCAST` from the lane b names, with
the fill of 0 or, under `.fill`, the reading lane's C; `XROT` from lane (l + b) mod W; `STATUS.xlane` is set when a read took
the fill. -/
def Sys2Proof.Claims.crossLaneReads : Prop :=
  ∀ (s : State) (e : Env) (h : Hdr) (o : AluArgs) (d : Nat), o.d = .v d → Issuing s e →
    let put := fun (g : Nat → W32 × Bool) =>
      let w := e.w.post s.now 8 e.width ((e.exec h).map fun l => .v d l (g l).1)
      { w with wc := { w.wc with xlane := w.wc.xlane || (e.exec h).any fun l => (g l).2 } }
    let read := fun l => crossLane e o.a (e.rdVec o.b l).toNat (if o.sub = 1 then e.rdVec o.c l else 0)
    Completes (.xperm h o) s s e h (put read) ∧ Completes (.xbcast h o) s s e h (put read) ∧
    Completes (.xrot h o) s s e h (put fun l =>
      crossLane e o.a ((laneNo e l + (e.rdVec o.b l).toNat) % (if e.l.prot then e.l.width / 2 else e.l.width)) 0)

/-- Scans and reductions (R109) combine the executing lanes' values in ascending lane order from the identity, with a latency
of 12: each lane takes the combination up to itself, or of the lanes below it under `.excl`; a reduction writes one scalar,
sign-extended for `.min` and `.max`. -/
def Sys2Proof.Claims.scanResults : Prop :=
  ∀ (s : State) (e : Env) (h : Hdr) (o : AluArgs) (d : Nat), Issuing s e →
    let lanes := e.visible (e.exec h)
    let val := fun l => e.rdVec o.a l
    (o.d = .v d → o.sub % 16 ≤ 10 → Completes (.xscan h o) s s e h (e.w.post s.now 12 e.width ((e.exec h).map fun l =>
      .v d l (combined (o.sub % 16) ((lanes.filter fun j =>
        if 16 ≤ o.sub then laneNo e j < laneNo e l else laneNo e j ≤ laneNo e l).map val))))) ∧
    (o.d = .s d → o.sub ≤ 10 → lanes ≠ [] →
      let x := combined o.sub (lanes.map val)
      Completes (.xred h o) s s e h (e.w.post s.now 12 e.width
        [e.w.sWrite d (if o.sub = 2 ∨ o.sub = 3 then x.signExtend 64 else x.setWidth 64)]))

/-- The cross-lane reads, scans and reductions (R108, R109). -/
def Obligations.CrossLaneResults : Prop := crossLaneReads ∧ scanResults

/-- `ELECT` gives the lowest executing lane all ones and the others 0; `V2S` takes A of the lowest executing lane, a pair
under `.b64`; `S2V` gives every executing lane a scalar, or a pair of it; `GMASK` names a set of lanes (Table 5.14). -/
def Sys2Proof.Claims.registerMoves : Prop :=
  ∀ (s : State) (e : Env) (h : Hdr) (o : AluArgs) (d a low : Nat) (r : List Nat), Issuing s e →
    e.visible (e.exec h) = low :: r →
    (o.d = .p d → Completes (.elect h o) s s e h (e.w.post s.now 4 e.width ((e.exec h).map fun l =>
      .p d l (if laneNo e l = laneNo e ((e.exec h).headD 0) then 15#4 else 0#4)))) ∧
    (o.d = .s d → o.a = .v a → Completes (.v2s h o) s s e h (e.w.post s.now 4 e.width [e.w.sWrite d ((e.w.rdV a low).setWidth 64)])) ∧
    (o.d = .s d → o.a = .vp a → Completes (.v2s h o) s s e h
      (e.w.post s.now 4 e.width [e.w.sWrite d (e.w.rdV (a + 1) low ++ e.w.rdV a low)])) ∧
    (o.d = .v d → o.a = .s a → Completes (.s2v h o) s s e h (e.w.post s.now 4 e.width ((e.exec h).map fun l =>
      .v d l ((e.w.rdS a).extractLsb' 0 32)))) ∧
    (o.d = .vp d → o.a = .s a → Completes (.s2v h o) s s e h (e.w.post s.now 4 e.width ((e.exec h).flatMap fun l =>
      [.v d l ((e.w.rdS a).extractLsb' 0 32), .v (d + 1) l ((e.w.rdS a).extractLsb' 32 32)]))) ∧
    (o.d = .s d → o.sub ≤ 4 →
      let inState := fun st => (List.range e.l.width).filter fun l => (e.w.wc.lanes.getD l {}).st = st
      let set := match o.sub with
        | 0 => e.c.lanes | 1 => e.exec h | 2 => inState .live | 3 => inState .exited | _ => inState .absent
      Completes (.gmask h o) s s e h (e.w.post s.now 2 e.width
        [e.w.sWrite d (BitVec.ofNat 64 (((if e.l.prot then set.filter fun l => l % 2 == 0 else set).map fun l => 2 ^ laneNo e l).sum))]))

/-! ### Special registers -/

namespace Sys2Proof.Claims

/-- The special registers by number (Table 5.2), as lane `l` reads them. -/
def specials (s : State) (e : Env) (l : Nat) : List W64 :=
  let n := fun k : Nat => BitVec.ofNat 64 k
  [n (laneNo e l), n e.w.idx, n e.f.idx, n e.l.frames, n (if e.l.prot then e.l.width / 2 else e.l.width), n e.w.core, n e.f.bay, n s.now,
   gmaskOf e.l e.w.idx, e.w.wc.satcnt.setWidth 64, tagReady s e.w.core, e.w.uivec, statusOf e.w e.l, n e.w.trapCause, e.w.trapPc,
   e.w.trapVal, n e.f.restart.count]

end Sys2Proof.Claims

/-- `MFS` reads every special register, into a scalar or, under `.v`, into each executing lane; `MTS` writes `SATCNT`, bit 0
of `STATUS` and, in a routine, the trap registers, at once (R87 to R89). The bits of `STATUS` and of `TAGREADY` are those of
R88 and R187. -/
def Sys2Proof.Claims.specialRegisters : Prop :=
  ∀ (s : State) (e : Env) (h : Hdr) (o : AluArgs) (d r : Nat), Acts s e h →
    (o.a = .x r → r < 17 → o.sub = 0 → o.d = .s d →
      Completes (.mfs h o) s s e h (e.w.post s.now 2 e.width [e.w.sWrite d ((specials s e 0).getD r 0)])) ∧
    (o.a = .x r → r < 17 → o.sub = 1 → o.d = .v d →
      Completes (.mfs h o) s s e h (e.w.post s.now 2 e.width ((e.exec h).map fun l => .v d l (((specials s e l).getD r 0).setWidth 32)))) ∧
    (let x := e.rdScalar o.a
     (o.d = .x 9 → Completes (.mts h o) s s e h { e.w with wc := { e.w.wc with satcnt := x.extractLsb' 0 32 } }) ∧
     (o.d = .x 12 → Completes (.mts h o) s s e h { e.w with wc := { e.w.wc with xlane := x.getLsbD 0 } }) ∧
     (o.d = .x 13 → Completes (.mts h o) s s e h { e.w with trapCause := x.toNat % 2 ^ 16 }) ∧
     (o.d = .x 14 → Completes (.mts h o) s s e h { e.w with trapPc := x }) ∧
     (o.d = .x 15 → Completes (.mts h o) s s e h { e.w with trapVal := x })) ∧
    (∀ k < 64, (statusOf e.w e.l).getLsbD k =
      match k with
      | 0 => e.w.wc.xlane | 4 => e.w.uim | 5 => e.l.guarded || e.l.prot | 6 => e.l.prot | 7 => e.w.mode != .user | _ => false) ∧
    (∀ k < 64, (tagReady s e.w.core).getLsbD k = ((s.tag e.w.core k).count == 0 && (s.tag e.w.core k).issued))

/-- Moves between the register files, and the special registers (R87 to R89, R108). -/
def Obligations.SpecialRegistersAndMoves : Prop := registerMoves ∧ specialRegisters

/-! ### Memory instructions -/

namespace Sys2Proof.Claims

/-- A form M load or store: whether the lanes' own numbers index it (`LDX`, `STX`), whether it acts once per issue (`LDU`,
`STU`). -/
structure MemRow where
  h : Hdr
  o : MemArgs
  indexed : Bool := false
  once : Bool := false

def loadRow : Instr → Option MemRow
  | .ld h o => some ⟨h, o, false, false⟩
  | .ldx h o => some ⟨h, o, true, false⟩
  | .ldu h o => some ⟨h, o, false, true⟩
  | _ => none

def storeRow : Instr → Option MemRow
  | .st h o => some ⟨h, o, false, false⟩
  | .stx h o => some ⟨h, o, true, false⟩
  | .stu h o => some ⟨h, o, false, true⟩
  | _ => none

/-- The bytes of an access. -/
def accSize (o : MemArgs) : Nat := 2 ^ o.sz

/-- The lanes that access: the executing lanes, the lowest alone for an access made once per issue; a store of a protected
frame is made by one lane of each pair (R84, R331). -/
def loadLanes (e : Env) (r : MemRow) : List Nat := if r.once then (e.exec r.h).take 1 else e.exec r.h
def storeLanesOf (e : Env) (r : MemRow) : List Nat := if r.once then (e.exec r.h).take 1 else e.visible (e.exec r.h)

/-- The address a lane forms (R167, R169): base plus DISP times the size, plus the lane's number times the size. -/
def laneAddress (e : Env) (r : MemRow) (l : Nat) : Int :=
  let base : Nat := match r.o.base with | .v q => (e.w.rdV q l).toNat | .s q => (e.w.rdS q).toNat | _ => 0
  (base : Int) + r.o.disp * accSize r.o + if r.indexed then ((laneNo e l * accSize r.o : Nat) : Int) else 0

/-- The registers a lane's bytes make (R170): sizes 1 and 2 extended to a register, larger ones a word each, ascending. -/
def vectorWrites (o : MemArgs) (d l : Nat) (bs : List Byte) : List RegWrite :=
  if o.sz < 2 then
    let x := BitVec.ofNat (8 * accSize o) (ofLe bs)
    [.v d l (if o.ty = .i8 ∨ o.ty = .i16 then x.signExtend 32 else x.setWidth 32)]
  else (List.range (accSize o / 4)).map fun k => .v (d + k) l (BitVec.ofNat 32 (ofLe ((bs.drop (4 * k)).take 4)))

/-- The scalar a uniform load makes (R170). -/
def scalarWrite (o : MemArgs) (bs : List Byte) : W64 :=
  let x := BitVec.ofNat (8 * accSize o) (ofLe bs)
  if o.ty = .i8 ∨ o.ty = .i16 ∨ o.ty = .i32 then x.signExtend 64 else x.setWidth 64

/-- The bytes a lane stores (R170): the low bytes of D, or D and the registers after it. -/
def storedBytesOf (e : Env) (o : MemArgs) (l : Nat) : List Byte :=
  match o.d with
  | .s r => leBytes (accSize o) (e.w.rdS r).toNat
  | .v r => if o.sz < 3 then leBytes (accSize o) (e.w.rdV r l).toNat
    else ((List.range (accSize o / 4)).map fun k => leBytes 4 (e.w.rdV (r + k) l).toNat).flatten
  | _ => []

/-- The pieces of an access that are single-copy atomic (R204): the whole up to 8 bytes, else each 8 bytes; where each begins
and its bytes. -/
def pieces (o : MemArgs) : List (Nat × Nat) := if o.sz ≤ 3 then [(0, accSize o)] else (List.range (accSize o / 8)).map fun k => (8 * k, 8)

/-- The effective class of an instruction's accesses, and their SCOPE field (R165, R166). -/
def accEffect (e : Env) (o : MemArgs) : Effect := effective (if o.scr then .release else (e.w.rdK o.k).cls) o.ord
def accScope (o : MemArgs) : Scope := if o.scr ∧ o.scope = .dflt then .by_ else o.scope

/-- The access commits a guarded frame's buffer first (R325): an atomic, one on `cc11`, and one through a strict capability. -/
def commitsFirst (e : Env) (o : MemArgs) (atomic : Bool) (ls : List LaneAcc) : Prop :=
  ls ≠ [] ∧ (atomic = true ∨ o.cc = 11 ∨ o.scr = false ∧ (e.w.rdK o.k).cls = .strict)

/-- The operation an access enrols (R168). -/
def enrolled (s : State) (o : MemArgs) (done reg : Bool) (peer : Option Nat) : CtrOp :=
  { id := s.fresh, ctr := o.cc, from_ := s.now, done := done, reg := reg, peer := peer }

/-- An access issues from `u`: room is made among the core's outstanding requests (R9), its operation is enrolled and its units
are in flight; then the instruction completes (R163, R168). -/
def Issues (i : Instr) (s u : State) (e : Env) (h : Hdr) (o : MemArgs) (w : Warp) (reg : Bool) (peer : Option Nat) (us : List MemUnit) : Prop :=
  let (v, w) := makeRoom u e.c.fid w us.length
  Completes i s { v with fresh := v.fresh + 1 } e h
    { w with ops := w.ops ++ [enrolled v o true reg peer], acc := w.acc ++ us.map fun x => { x with op := v.fresh } }

end Sys2Proof.Claims

/-- The checks on a lane's access, in the order of R167: alignment, a negative address, then for scratchpad the SCRATCH size,
and for a capability its bounds, its permission and its generation; a range inside the scratchpad passes. -/
def Obligations.AccessChecks : Prop :=
  ∀ (x : Xst) (e : Env) (l n : Nat) (off : Int) (r : Nat → MemRef) (u : Use), 0 < n →
    let val := (off % (2 ^ 64 : Int)).toNat
    let ref := r off.toNat
    (val % n ≠ 0 → x.lane e l off n n r u = (x, .trap .misalign val)) ∧
    (val % n = 0 → off < 0 → x.lane e l off n n r u = (x, .trap .capBounds val)) ∧
    (val % n = 0 → 0 ≤ off → ref.scr = true →
      (e.l.scratch < ref.off + n → x.lane e l off n n r u = (x, .trap .scratchBounds (max ref.off e.l.scratch))) ∧
      (ref.off + n ≤ e.l.scratch → ∃ m, x.lane e l off n n r u = (x, .ok m) ∧
        ∀ i < n, m.phys (ref.off + i) = (Region.scratch e.f.fid).at (ref.off + i))) ∧
    (val % n = 0 → 0 ≤ off → ref.scr = false →
      let c := ref.cap
      let bit := match u.acc with | .r => 0 | .w => 1 | .a => 2
      (c.len < ref.off + n → x.lane e l off n n r u = (x, .trap .capBounds (max ref.off c.len % 2 ^ 64))) ∧
      (ref.off + n ≤ c.len → (c.view = 0 ∨ c.geom ≠ 0) →
        ((c.perm.getLsbD bit = false ∨ c.kind ∉ u.kinds ∨ (c.view ≠ 0 ∧ u.acc ≠ .r) ∨ (c.kind = 1 ∧ u.cc11 = false)) →
          x.lane e l off n n r u = (x, .trap .capPerm ref.off)) ∧
        (c.perm.getLsbD bit = true → c.kind ∈ u.kinds → (c.view = 0 ∨ u.acc = .r) → (c.kind ≠ 1 ∨ u.cc11 = true) →
          x.s.current c = false → x.lane e l off n n r u = (x, .trap .capRevoked ref.off))))

/-- A load, store or atomic is held while its counter is full; it traps where a lane's checks fail, at the lowest failing
lane and with nothing enrolled; it is held where a window's frame is not resident; where a page is absent it traps with
PAGE_ABSENT if no page-request ring is enabled, and else the warp begins to run ahead from it with its checkpoint, unless
another warp of the partition does; what the warp accessed before is performed first, so that what runs ahead sees it (R164, R167, R179, R310, R313, R316). -/
def Sys2Proof.Claims.accessOutcomes : Prop :=
  ∀ (s : State) (e : Env) (i : Instr) (r : MemRow), (loadRow i = some r ∨ storeRow i = some r ∧ r.o.mop = 0) → Issuing s e →
    let acc : Acc := if (loadRow i).isSome then .r else .w
    let lanes := if (loadRow i).isSome then loadLanes e r else storeLanesOf e r
    let chk := memCheck s e r.o r.indexed lanes acc
    (63 ≤ e.w.outstanding r.o.cc → IsHeld i s e (.ctrRoom r.o.cc)) ∧
    (e.w.outstanding r.o.cc < 63 →
      (∀ x c v l, chk = (x, .trap c v l) → Traps i s s e c v (some (laneNo e l))) ∧
      (∀ x y, chk = (x, .hold y) → IsHeld i s e y) ∧
      (∀ x ls l p ps, chk = (x, .ok ls ((l, p) :: ps)) →
        let (u, w) := performAll s e.c.fid e.w
        (s.requestPort = none → Traps i s (u.setWarp e.c.fid w) e .pageAbsent p.off (some (laneNo e l))) ∧
        (s.requestPort ≠ none → e.w.mode = .user →
          (s.runBusy e = true → HeldIn i s u e w .undo) ∧
          (s.runBusy e = false → ∃ t, exec i s = .next t ∧ t.mem = u.mem ∧
            t.warp? e.id = some { w with run := some { ckpt := w.wc, pc := e.c.pc, lanes := e.c.lanes } } ∧ ∀ j, j ≠ e.id → t.warp? j = s.warp? j))))

/-- A load whose checks pass completes: it enrols one operation on its counter and puts the units of every lane in flight; no
register, no memory and no other warp changes before they are performed (R84, R163, R168 to R170, R204). -/
def Sys2Proof.Claims.loadIssues : Prop :=
  ∀ (s : State) (e : Env) (i : Instr) (r : MemRow) (x : Xst) (ls : List LaneAcc) (d : Nat), loadRow i = some r → Issuing s e →
    e.w.outstanding r.o.cc < 63 → memCheck s e r.o r.indexed (loadLanes e r) .r = (x, .ok ls []) →
    r.o.d = (if r.once then .s d else .v d) →
    let e' := { e with w := x.w }
    let us := ls.flatMap fun y => match y.m with
      | some m => (pieces r.o).map fun (k, n) =>
          { op := 0, lane := y.lane, eff := accEffect e' r.o, scope := accScope r.o
            work := .load (e'.memRef r.o (y.off + k)) n m
              (if r.once then { scalar := true, bank := decide (e.w.mode ≠ .user ∧ 92 ≤ d), r := d, signed := decide (r.o.ty = .i8 ∨ r.o.ty = .i16 ∨ r.o.ty = .i32) }
               else { r := d + k / 4, lanes := [y.lane], signed := decide (r.o.ty = .i8 ∨ r.o.ty = .i16) }) : MemUnit }
      | none => []
    (¬commitsFirst e' r.o false ls → Issues i s x.s e r.h r.o x.w true (e'.peerAddr r.o ls) us) ∧
    (commitsFirst e' r.o false ls →
      let (u, ids) := committed x.s e' True
      (ids ≠ [] → HeldIn i s u e x.w (.buffer ids)) ∧ (ids = [] → Issues i s u e r.h r.o x.w true (e'.peerAddr r.o ls) us))

/-- A unit of a load is performed (R163, R168, R170): the registers that the bytes it reads then make wait for the retirement
of its operation. Where a line behind it fails its check, each word that it reaches is all ones, one record is written, and
the warp takes POISON with the capability offset of the line (R321, R332). -/
def Sys2Proof.Claims.loadPerforms : Prop :=
  ∀ (s : State) (f : Frame) (u : MemUnit) (r : MemRef) (n : Nat) (m : PMap) (d : LoadDst) (l : Nat), u.work = .load r n m d →
    s.frame? f.fid = some f → n ∈ [1, 2, 4, 8] → (d.scalar = true ∨ d.lanes = [l]) →
    let bs := s.fetch f r n m
    let as := s.physRead r n m
    let x := BitVec.ofNat (8 * n) (ofLe bs)
    let word := fun k => BitVec.ofNat 32 (ofLe ((bs.drop (4 * k)).take 4))
    ((∀ a ∈ as, s.lineBad a = false) →
      s.unitEffect f.fid u = (s,
        if d.scalar then let v := if d.signed then x.signExtend 64 else x.setWidth 64
          [if d.bank then .bankS d.r v else .s d.r v]
        else if n < 4 then [.v d.r l (if d.signed then x.signExtend 32 else x.setWidth 32)]
        else (List.range (n / 4)).map fun k => .v (d.r + k) l (word k), none)) ∧
    (∀ i, as.length = n → (∃ a, as[i]? = some a ∧ s.lineBad a = true) → (∀ j < i, ∀ a, as[j]? = some a → s.lineBad a = false) →
      ∃ ws a, s.unitEffect f.fid u = (s, ws, some (a, r.off + i - a % 64)) ∧ as[i]? = some a ∧
        (d.scalar = false → ∀ k, 4 * k < n → ∀ y, ws[k]? = some y →
          ((∃ j a, 4 * k ≤ j ∧ j < 4 * k + 4 ∧ as[j]? = some a ∧ s.lineBad a = true) → y = .v (d.r + k) l 0xFFFFFFFF#32) ∧
          ((¬∃ j a, 4 * k ≤ j ∧ j < 4 * k + 4 ∧ as[j]? = some a ∧ s.lineBad a = true) → y = .v (d.r + k) l (word k))))

/-- The bytes that a formatted view gives (R171, R76): byte `a` of a view is the low or the high byte of the 16-bit value that
element `a / 2` decodes to from its stored bytes. -/
def Sys2Proof.Claims.viewReads : Prop :=
  ∀ (s : State) (f : Frame) (r : MemRef) (n i : Nat) (m : PMap), r.scr = false → r.cap.view ≠ 0 → i < n →
    let a := r.cap.base + r.off + i
    let stored := (storedBytes r.cap.fmt r.cap.geom (a / 2)).map fun b => s.seen f (m.phys (b + (s.space r.cap).2))
    (s.fetch f r n m)[i]? = some (BitVec.ofNat 8 (decodeStored r.cap.fmt r.cap.view r.cap.geom (a / 2) stored / 256 ^ (a % 2)))

/-- What a load reads (R167, R326): each lane accesses the address it forms; the bytes behind a raw capability or the
scratchpad are those at the physical addresses of its range, from the frame's store buffer where it holds them and else from
memory. -/
def Sys2Proof.Claims.loadReads : Prop :=
  (∀ (e : Env) (i : Instr) (r : MemRow) (l : Nat), (loadRow i = some r ∨ storeRow i = some r) →
    (∀ k, r.o.base ≠ .sp k ∧ r.o.base ≠ .vp k) → e.memOff r.o r.indexed l = laneAddress e r l) ∧
  (∀ (s : State) (f : Frame) (r : MemRef) (n : Nat) (m : PMap), (r.scr = true ∨ r.cap.view = 0) →
    s.fetch f r n m = (s.physOf r n m).map fun a => (sget none f.fsb a).getD (readByte s.mem a)) ∧
  (∀ (s : State) (r : MemRef) (n i : Nat) (m : PMap), i < n → r.scr = true → (s.physOf r n m)[i]? = some (m.phys (r.off + i))) ∧
  (∀ (s : State) (r : MemRef) (n i : Nat) (m : PMap), i < n → r.scr = false →
    (s.physOf r n m)[i]? = some (m.phys (r.cap.base + r.off + (s.space r.cap).2 + i)))

/-- Which units of a warp may be performed (R201, R205, R210): one that no fence is and that no earlier one must come before:
of one lane, an earlier one that meets it at a location where one of the two writes or the later is not of class free, or that
a row of Table 9.2 puts before it; of one instruction, a lower lane that meets it. -/
def Sys2Proof.Claims.unitOrder : Prop :=
  ∀ (s : State) (w : Warp) (k : Nat),
    let unit := fun j => w.acc[j]?
    let fenceOf := fun (x : MemUnit) l => match x.work with | .fence o ls => if l ∈ ls then some o else none | _ => none
    let isFence := fun (x : MemUnit) => match x.work with | .fence .. => True | _ => False
    let plain := fun (x : MemUnit) => x.eff.cls ≠ .free
    let meets := fun (a b : MemUnit) => (∃ y ∈ s.unitAddrs a, y ∈ s.unitAddrs b) ∧ (a.work.writes = true ∨ b.work.writes = true ∨ plain b)
    let row := fun (a b : MemUnit) =>
      plain a ∧ plain b ∧ (a.work.reads = true ∨ b.work.writes = true ∧ b.eff.rel = true) ∨ a.eff.cls = .strict ∨ b.eff.cls = .strict
    let byFence := fun (o : MOrd) (a b : MemUnit) => match o with
      | .plain => plain a ∧ plain b
      | .acq => plain a ∧ plain b ∧ a.work.reads = true
      | .rel => plain a ∧ plain b ∧ b.work.writes = true
      | .free => ¬plain a ∨ ¬plain b
    k ∈ s.performable w ↔ ∃ b, unit k = some b ∧ ¬isFence b ∧ ∀ j < k, ∀ a, unit j = some a → ¬isFence a →
      ¬(a.lane = b.lane ∧ (meets a b ∨ row a b) ∨ a.lane ≠ b.lane ∧ a.op = b.op ∧ meets a b ∨
        a.lane = b.lane ∧ ∃ i o, j < i ∧ i < k ∧ (∃ c, unit i = some c ∧ fenceOf c b.lane = some o) ∧ byFence o a b)

/-- A unit is performed (R163): it leaves those in flight, and the register writes it makes are its operation's, whose
retirement writes them (R168); a read of the destination before may find them at once. -/
def Sys2Proof.Claims.unitPerformed : Prop :=
  ∀ (s : State) (fid : Nat) (w : Warp) (k : Nat) (early : Bool) (u : MemUnit) (t : State) (ws : List RegWrite), w.acc[k]? = some u →
    s.noPath = false → s.unitEffect fid u = (t, ws, none) →
    ∃ w', performUnit s fid w k early = (t, w') ∧ w'.acc = dropFences (w.acc.eraseIdx k) ∧
      w'.ops = modifyFirst (fun o => o.id == u.op) (fun o => { o with writes := o.writes ++ ws }) w.ops ∧ w'.late = w.late ∧
      w'.wc = if early = true ∧ w.run = none then (w.putAll ws).wc else w.wc

/-- Loads: when they complete, the bytes they read, and what performing one of their units does (R84, R163, R167 to R171, R201,
R204, R205, R321, R326). -/
def Obligations.Loads : Prop := loadIssues ∧ loadReads ∧ viewReads ∧ loadPerforms ∧ unitOrder ∧ unitPerformed

namespace Sys2Proof.Claims

/-- What the lanes of a protected frame's pairs present for the comparison agree (R331). -/
def PairsAgree (e : Env) (shown : Nat → Option (Int × List Byte)) : Prop := e.l.prot = true → ∀ j < e.l.width / 2, shown (2 * j) = shown (2 * j + 1)

/-- The decrement that a store with `.dep` carries (R194): of the record latched by the warp. -/
def depOf (e : Env) (o : MemArgs) (ls : List LaneAcc) (id : Nat) : List DepOp :=
  match if o.mop = 1 ∧ ls ≠ [] then e.w.dep else none with
  | some (c, off) => [{ id := id, fid := e.c.fid, widx := e.w.idx, pc := e.c.pc, cap := c, off := off, amount := 1 }]
  | none => []

/-- A store issues from `v`: its operation is enrolled, open while its decrement is to be made, and its units are in flight. -/
def Stores (i : Instr) (s v : State) (e : Env) (r : MemRow) (w : Warp) (peer : Option Nat) (ls : List LaneAcc) (us : List MemUnit) : Prop :=
  let deps := depOf { e with w := w } r.o ls v.fresh
  Completes i s { v with fresh := v.fresh + 1, deps := v.deps ++ deps } e r.h
    { w with ops := w.ops ++ [enrolled v r.o (deps == []) false peer], acc := w.acc ++ us.map fun x => { x with op := v.fresh } }

end Sys2Proof.Claims

/-- A store whose checks pass completes, `.dep` or not, in a protected frame when the lanes of each pair agree: it enrols one
operation, and puts in flight, or in a guarded frame through a capability of class release or free into the frame's store
buffer, the bytes of every lane, lower lanes first, at the physical addresses of the lane's range; a 513th line of the buffer
traps with GUARD_FULL. With `.dep` the decrement of the latched record is to be made when its bytes are performed, and
DEP_UNSET is raised where none is latched (R168 to R170, R194, R324, R325, R331). -/
def Sys2Proof.Claims.storeIssues : Prop :=
  ∀ (s : State) (e : Env) (i : Instr) (r : MemRow) (x : Xst) (ls : List LaneAcc), storeRow i = some r → (r.o.mop = 0 ∨ r.o.mop = 1) →
    Issuing s e → e.w.outstanding r.o.cc < 63 → (∀ k, r.o.base ≠ .sp k ∧ r.o.base ≠ .vp k) → (∃ d, r.o.d = .v d ∨ r.o.d = .s d) →
    (r.o.mop = 1 → e.exec r.h ≠ [] → e.w.dep = none → Traps i s s e .depUnset 0) ∧
    ((r.o.mop = 1 → e.exec r.h ≠ [] → e.w.dep ≠ none) → memCheck s e r.o r.indexed (storeLanesOf e r) .w = (x, .ok ls []) →
      let e' := { e with w := x.w }
      PairsAgree e (fun l => if l ∈ e.exec r.h then some (laneAddress e' r l, storedBytesOf e' r.o l) else none) →
      let addrs := fun (v : State) (y : LaneAcc) => match y.m with | some m => v.physOf (e'.memRef r.o y.off) (accSize r.o) m | none => []
      let units := fun (v : State) => ls.flatMap fun y => match y.m with
        | some _ => (pieces r.o).map fun (k, n) =>
            { op := 0, lane := y.lane, eff := accEffect e' r.o, scope := accScope r.o
              work := .store (((addrs v y).drop k).take n) (((storedBytesOf e' r.o y.lane).drop k).take n) : MemUnit }
        | none => []
      let cls := (e'.w.rdK r.o.k).cls
      let buffered := ls ≠ [] ∧ e.l.guarded = true ∧ r.o.scr = false ∧ cls ≠ .strict ∧
        ((e'.w.rdK r.o.k).kind = 0 ∨ (e'.w.rdK r.o.k).kind = 7) ∧ r.o.cc ≠ 11
      let direct := fun (u : State) =>
        let (v, w) := makeRoom u e.c.fid x.w (units u).length
        Stores i s v e r w (e'.peerAddr r.o ls) ls (units u)
      (¬buffered → ¬commitsFirst e' r.o false ls → direct x.s) ∧
      (¬buffered → commitsFirst e' r.o false ls →
        let (u, ids) := committed x.s e' True
        (ids ≠ [] → HeldIn i s u e x.w (.buffer ids)) ∧ (ids = [] → direct u)) ∧
      (buffered →
        let (v, w) := performAll x.s e.c.fid x.w
        ∀ f, v.frame? e.c.fid = some f →
          let cells := ls.flatMap fun y => (addrs v y).zip (storedBytesOf e' r.o y.lane)
          let full := 512 < ((fsbLines f.fsb ++ ls.flatMap fun y => (addrs v y).map fun a => a / 64).eraseDups).length
          (full → exec i s = .next (takeTrap (v.setWarp e.c.fid w) e.c.fid e.c.widx e.c.lanes e.c.pc e.c.len .guardFull 0)) ∧
          (¬full → Stores i s (v.setFrame { f with fsb := ssetMany none f.fsb (cells.map fun x => (x.1, some x.2)) }) e r w
            (e'.peerAddr r.o ls) ls [])))

/-- A unit of a store is performed (R163, R170): its bytes are written at its addresses, and every other byte of memory reads as
before; nothing else changes but the lines it makes whole. -/
def Sys2Proof.Claims.storePerforms : Prop :=
  ∀ (s : State) (fid : Nat) (u : MemUnit) (as : List Nat) (bs : List Byte), SafeState s → u.work = .store as bs →
    ∃ t, s.unitEffect fid u = (t, [], none) ∧ t = { s with mem := t.mem, bad := t.bad } ∧ SafeState t ∧
      (∀ a, a ∉ as → readByte t.mem a = readByte s.mem a) ∧
      (as.length = bs.length → as.Nodup → (∀ a ∈ as, isParam a = false) → as.map (readByte t.mem) = bs) ∧
      ∀ a, t.lineBad a = true → s.lineBad a = true

/-- Stores: when they complete, and what performing one of their units does (R163, R168 to R170, R194, R324, R325, R331). -/
def Obligations.StoreResults : Prop := storeIssues ∧ storePerforms

/-- A store in a protected frame compares the two lanes of each pair first: where the addresses or the data of a pair differ
it traps with SHADOW_MISMATCH at the even lane's address, before anything is stored (R331). -/
def Sys2Proof.Claims.shadowCompare : Prop :=
  ∀ (s : State) (e : Env) (i : Instr) (r : MemRow) (x : Xst) (ls : List LaneAcc) (j : Nat), storeRow i = some r → r.o.mop = 0 →
    Issuing s e → e.l.prot = true → e.w.outstanding r.o.cc < 63 →
    (∀ k, r.o.base ≠ .sp k ∧ r.o.base ≠ .vp k) → (∃ d, r.o.d = .v d ∨ r.o.d = .s d) →
    memCheck s e r.o r.indexed (storeLanesOf e r) .w = (x, .ok ls []) →
    let e' := { e with w := x.w }
    let shown := fun l => if l ∈ e.exec r.h then some (laneAddress e' r l, storedBytesOf e' r.o l) else none
    j < e.l.width / 2 → shown (2 * j) ≠ shown (2 * j + 1) → (∀ k < j, shown (2 * k) = shown (2 * k + 1)) →
    ∃ a, exec i s = .next (takeTrap x.s e.c.fid e.c.widx e.c.lanes e.c.pc e.c.len .shadowMismatch a) ∧
      (2 * j ∈ e.exec r.h → a = (laneAddress e' r (2 * j) % (2 ^ 64 : Int)).toNat)

/-- Where a memory instruction is held, traps or runs ahead, and where a protected store traps (R164, R167, R179, R310, R313,
R316, R331). -/
def Obligations.AccessStops : Prop := accessOutcomes ∧ shadowCompare

/-! ### Atomics -/

namespace Sys2Proof.Claims

/-- The atomic instructions: the registers of operand per word of the size, and whether the old value comes back. -/
structure AtomRow where
  h : Hdr
  o : MemArgs
  words : Nat
  back : Bool
  /-- the value stored, from the old value and a lane's operand words, or none -/
  new : Nat → Nat → Nat → Option Nat

/-- Table 8.4: the new value. -/
def atomNew (mop w old x : Nat) : Nat :=
  let a := BitVec.ofNat w old
  let b := BitVec.ofNat w x
  (match mop with
   | 0 => a + b
   | 1 => BitVec.ofNat w (convertF (XVal.add false (Fmt.f32.value old) (Fmt.f32.value x)) .f32 .rn false 0).1
   | 2 => if a.toInt ≤ b.toInt then a else b
   | 3 => if b.toInt ≤ a.toInt then a else b
   | 4 => if a.toNat ≤ b.toNat then a else b
   | 5 => if b.toNat ≤ a.toNat then a else b
   | 6 => a &&& b
   | 7 => a ||| b
   | 8 => a ^^^ b
   | 9 => b
   | _ => if a.msb then a else a + 1).toNat

/-- The atomics (R173, R174). -/
def atomRow : Instr → Option AtomRow
  | .atom h o => some ⟨h, o, 1, true, fun old x _ => some (atomNew o.mop (8 * accSize o) old x)⟩
  | .xatom h o => some ⟨h, o, 1, false, fun old x _ => some (atomNew o.mop (8 * accSize o) old x)⟩
  | .acas h o => some ⟨h, o, 2, true, fun old x y => if old = x then some y else none⟩
  | _ => none

/-- The `k`-th operand of a lane, from register D on. -/
def atomOperand (e : Env) (o : MemArgs) (d k l : Nat) : Nat :=
  if o.sz = 2 then (e.w.rdV (d + k) l).toNat else (e.w.rdV (d + 2 * k) l).toNat + 2 ^ 32 * (e.w.rdV (d + 2 * k + 1) l).toNat

end Sys2Proof.Claims

/-- An atomic whose checks pass completes, in a protected frame when the lanes of each pair agree: it enrols one operation and
puts one read-modify-write of each lane in flight, lower lanes first; a guarded frame commits first (R173, R174, R325,
R330). -/
def Sys2Proof.Claims.atomicIssues : Prop :=
  ∀ (s : State) (e : Env) (i : Instr) (r : AtomRow) (d : Nat) (x : Xst) (ls : List LaneAcc), atomRow i = some r → r.o.d = .v d →
    (r.o.sz = 2 ∨ r.o.sz = 3) → Issuing s e → e.w.outstanding r.o.cc < 63 → (∀ k, r.o.base ≠ .sp k ∧ r.o.base ≠ .vp k) →
    memCheck s e r.o false (e.visible (e.exec r.h)) .a = (x, .ok ls []) →
    let e' := { e with w := x.w }
    PairsAgree e (fun l => if l ∈ e.exec r.h then
      some (laneAddress e' ⟨r.h, r.o, false, false⟩ l,
        ((List.range (r.words * (accSize r.o / 4))).map fun k => leBytes 4 (e.w.rdV (d + k) l).toNat).flatten) else none) →
    let units := fun (v : State) => ls.flatMap fun y => match y.m with
      | some m => [{ op := 0, lane := y.lane, eff := accEffect e' r.o, scope := accScope r.o
                     work := .rmw (v.physOf (e'.memRef r.o y.off) (accSize r.o) m) r.o.mop (atomOperand e' r.o d (r.words - 1) y.lane)
                       (if r.words = 2 then some (atomOperand e' r.o d 0 y.lane) else none)
                       (if r.back then some { r := d, lanes := if e.l.prot then [y.lane, y.lane + 1] else [y.lane] } else none) y.off : MemUnit }]
      | none => []
    (ls = [] → Issues i s x.s e r.h r.o x.w r.back none []) ∧
    (ls ≠ [] →
      let (u, ids) := committed x.s e' True
      (ids ≠ [] → HeldIn i s u e x.w (.buffer ids)) ∧ (ids = [] → Issues i s u e r.h r.o x.w r.back (e'.peerAddr r.o ls) (units u)))

/-- A read-modify-write is performed, atomically (R173, R174, Table 8.4): the word at its addresses takes the new value, and
`ACAS` stores only where it equals the expected value; the old value is what the operation writes when it retires; no other
byte changes. A word on a line whose check fails is not modified and reads as ones (R321). -/
def Sys2Proof.Claims.atomicPerforms : Prop :=
  ∀ (s : State) (fid : Nat) (u : MemUnit) (as : List Nat) (mop x : Nat) (cas : Option Nat) (dst : Option LoadDst) (off : Nat), SafeState s →
    u.work = .rmw as mop x cas dst off → as.length ∈ [4, 8] → as.Nodup → (∀ a ∈ as, isParam a = false) → mop ≤ 10 →
    let n := as.length
    let old := ofLe (as.map (readByte s.mem))
    let back := fun bs => match dst with | some d => d.lanes.flatMap fun l => (List.range (n / 4)).map fun k => .v (d.r + k) l (BitVec.ofNat 32 (ofLe ((bs.drop (4 * k)).take 4))) | none => []
    (∀ d, dst = some d → d.scalar = false) →
    ((∀ a ∈ as, s.lineBad a = false) →
      ∃ t, s.unitEffect fid u = (t, back (as.map (readByte s.mem)), none) ∧ t = { s with mem := t.mem } ∧ SafeState t ∧
        (∀ a, a ∉ as → readByte t.mem a = readByte s.mem a) ∧
        ofLe (as.map (readByte t.mem)) =
          match cas with
          | some y => if old = y then x % 256 ^ n else old
          | none => atomNew mop (8 * n) old x) ∧
    ((∃ a ∈ as, s.lineBad a = true) → ∃ a, s.unitEffect fid u = (s, back (List.replicate n 0xFF), some a))

/-- Atomics: when they complete, and what performing one does (R173, R174, R321, R325, R330). -/
def Obligations.AtomicResults : Prop := atomicIssues ∧ atomicPerforms

/-- `NOP` and `PFETCH` complete and change nothing: a prefetch has no effect a program can observe (R176). `FENCE` completes
and enrols nothing; where the warp has accesses in flight, a fence of the executing lanes stands between them and the later
ones (R175; what it orders is in `unitOrder`). `YIELD` makes the warp ineligible at the partition's next opportunity and
defers its executing lanes (R47, R223). -/
def Sys2Proof.Claims.quietInstructions : Prop :=
  ∀ (s : State) (e : Env) (h : Hdr) (o : AluArgs) (m : MemArgs), Issuing s e →
    Completes (.nop h o) s s e h e.w ∧ Completes (.pfetch h m) s s e h e.w ∧
    ((e.exec h = [] ∨ e.w.acc = []) → Completes (.fence h m) s s e h e.w) ∧
    (e.exec h ≠ [] → e.w.acc ≠ [] → Completes (.fence h m) s { s with fresh := s.fresh + 1 } e h
      { e.w with acc := e.w.acc ++ [{ op := s.fresh, scope := m.scope, work := .fence m.ord (e.exec h) }] }) ∧
    Completes (.yield h o) s s e { h with y := true } (e.w.mapLanes (e.exec h) fun _ l => { l with deferred := true })

/-- `SHJOIN` (R177) adds the frame to a circle of its context: a member gets its index and a window capability of class
release with read, write and atomic permission over 32 MiB, a new one taking the lowest free slot; with eight others D is all
ones and the capability register stays; a circle above 255 traps. `SHLEAVE` (R178) frees the member's slot and is nothing to
a frame that is no member; an access into the slot that it left, through a window capability granted while it was the
member, raises CAP_REVOKED from then on. -/
def Sys2Proof.Claims.shareCircles : Prop :=
  ∀ (s : State) (e : Env) (h : Hdr) (o : MemArgs) (d : Nat), o.d = .s d → Acts s e h →
    let b := (e.rdScalar o.base).toNat
    let c := s.circle e.l.ctx b
    let isMember := fun i => (c.slots.getD i {}).member = some e.c.fid
    let free := fun i => (c.slots.getD i {}).member = none
    let grant := fun (c : Machine.Circle) i w => (w.put (w.sWrite d (BitVec.ofNat 64 i))).put (w.kWrite o.k
      { kind := 6, base := 0, len := 32 * 2 ^ 20, perm := 7, cls := .release
        src := .circle c.ctx c.num i (c.slots.getD i {}).joins (c.slots.map fun x => (x.joins, x.member.isSome))
        tgt := .circle c.ctx c.num, ctx := c.ctx })
    let others := s.circles.filter fun x => !(x.ctx == c.ctx && x.num == c.num)
    (255 < b → Traps (.shjoin h o) s s e .capBounds b) ∧
    (b ≤ 255 →
      (∀ i < 8, isMember i → (∀ j < i, ¬isMember j) → Completes (.shjoin h o) s { s with circles := c :: others } e h (grant c i e.w)) ∧
      ((∀ j < 8, ¬isMember j) → ∀ i < 8, free i → (∀ j < i, ¬free j) →
        let c' := { c with slots := modifyAt (fun x => ⟨x.joins + 1, some e.c.fid⟩) i c.slots }
        Completes (.shjoin h o) s { s with circles := c' :: others } e h (grant c' i e.w)) ∧
      ((∀ j < 8, ¬isMember j ∧ ¬free j) → Completes (.shjoin h o) s s e h (e.w.put (e.w.sWrite d allOnes64)))) ∧
    ((∀ j < 8, ¬isMember j) → Completes (.shleave h o) s s e h e.w) ∧
    (∀ i < 8, isMember i →
      let c' := { c with slots := c.slots.map fun x => if x.member = some e.c.fid then { x with member := none } else x }
      let t := { s with circles := c' :: others }
      Completes (.shleave h o) s t e h e.w ∧
      ∀ (w : Warp) (who : Who) (acc : Acc) (a n : Nat) (grant : List (Nat × Bool)), a / (4 * 2 ^ 20) = i →
        grant.getD i (0, false) = ((c.slots.getD i {}).joins, true) →
        ((Xst.mk t w).page who (.circ e.l.ctx b grant) acc a n).2 = .trap .capRevoked 0)

/-- The instructions that only complete, and the share circles. -/
def Obligations.QuietInstructions : Prop := quietInstructions ∧ shareCircles


/-! ### Tags -/

/-- The tag instructions (R187, R188, R319). A tag is ready when its count is 0 and its issued flag is set. `TAGCLR` clears
the issued flags and pending errors of the tags that A names and no other tag. `TAGWALL` holds until every one is ready,
`TAGWANY` until one is, and gives the lowest; `TAGFF` does not hold, and gives all ones when none is ready. A pending error
of a ready tag is taken, and cleared, in place of completing: late, at the instruction. -/
def Obligations.TagResults : Prop :=
  ∀ (s : State) (e : Env) (h : Hdr) (x : ExtArgs) (d : Nat), x.d = .s d → Acts s e h → swf {} s.tags = true →
    let m := e.rdScalar x.a
    let tag := s.tag e.w.core
    let named := fun n => n < 64 ∧ m.getLsbD n = true
    let ready := fun n => (tag n).count = 0 ∧ (tag n).issued = true
    let res := fun v => e.w.put (e.w.sWrite d v)
    let taken := fun i n => ∀ c v, (tag n).err = some (c, v) →
      Traps i s (s.setTag e.w.core n { tag n with err := none }) e (Cause.ofCode c) v none true
    (∃ t, exec (.tagclr h x) s = .next t ∧ Ends { s with tags := t.tags } t e (past s e h e.w) ∧
      ∀ core n, n < 64 → t.tag core n =
        if core = e.w.core ∧ named n then { tag n with issued := false, err := none } else s.tag core n) ∧
    ((∃ n, named n ∧ ¬ready n) → IsHeld (.tagwall h x) s e (.tagsAll m.toNat)) ∧
    ((∀ n, named n → ready n) →
      ((∀ n, named n → (tag n).err = none) → Completes (.tagwall h x) s s e h e.w) ∧
      ∀ n, named n → (∀ j < n, named j → (tag j).err = none) → taken (.tagwall h x) n) ∧
    ((∀ n, named n → ¬ready n) → IsHeld (.tagwany h x) s e (.tagsAny m.toNat) ∧ Completes (.tagff h x) s s e h (res allOnes64)) ∧
    (∀ n, named n → ready n → (∀ j < n, named j → ¬ready j) →
      ((tag n).err = none → Completes (.tagwany h x) s s e h (res (BitVec.ofNat 64 n))) ∧ taken (.tagwany h x) n ∧
      ((∀ j, named j → ready j → (tag j).err = none) → Completes (.tagff h x) s s e h (res (BitVec.ofNat 64 n)))) ∧
    ∀ n, named n → ready n → (∀ j < n, named j → ready j → (tag j).err = none) → taken (.tagff h x) n

/-! ### Rings -/

namespace Sys2Proof.Claims

/-- The counters of a ring, in the order of R190, and the sequences between them. -/
structure RingOk (r : Ring) : Prop where
  size : r.logn ≤ 10 ∧ 1 ≤ r.size8 ∧ r.size8 ≤ 8192 ∧ r.base < 2 ^ 32 ∧ r.creg < 32
  words : r.rsv < 2 ^ 32 ∧ r.wr < 2 ^ 32 ∧ r.tk < 2 ^ 32 ∧ r.rd < 2 ^ 32
  order : seqSub r.tk r.rd ≤ seqSub r.wr r.rd ∧ seqSub r.wr r.rd ≤ seqSub r.rsv r.rd ∧ seqSub r.rsv r.rd ≤ 2 ^ r.logn
  pub : r.pub.Nodup ∧ ∀ q ∈ r.pub, q < 2 ^ 32 ∧ seqSub q r.wr < seqSub r.rsv r.wr
  rel : r.rel.Nodup ∧ ∀ q ∈ r.rel, q < 2 ^ 32 ∧ seqSub q r.rd < seqSub r.tk r.rd

/-- A ring just bound: its descriptor holds no published or released sequence that has not moved a counter. -/
def RingPlain (r : Ring) : Prop := RingOk r ∧ r.pub = [] ∧ r.rel = []

/-- The 32 bytes of a ring's descriptor (Table 8.8). -/
def ringBytes (r : Ring) : List Byte :=
  leBytes 4 r.base ++ [BitVec.ofNat 8 ((if r.cap = none then 0 else 1) + 2 * r.creg), BitVec.ofNat 8 r.logn] ++ leBytes 2 r.size8 ++
    List.replicate 8 0 ++ leBytes 4 r.rsv ++ leBytes 4 r.wr ++ leBytes 4 r.tk ++ leBytes 4 r.rd

/-- The value a program gets for a slot: its offset and its sequence (R191). -/
def slotWord (r : Ring) (q : Nat) : W64 := BitVec.ofNat 64 ((r.base + q % 2 ^ r.logn * (8 * r.size8)) % 2 ^ 32 + 2 ^ 32 * q)

/-- A counter moves over every sequence that has been marked, in order, and those marks are dropped. -/
def Advanced (q : Nat) (marks : List Nat) (q' : Nat) (marks' : List Nat) : Prop :=
  ∃ k, q' = (q + k) % 2 ^ 32 ∧ (∀ j < k, (q + j) % 2 ^ 32 ∈ marks) ∧ q' ∉ marks ∧
    ∀ y, y ∈ marks' ↔ y ∈ marks ∧ ∀ j < k, y ≠ (q + j) % 2 ^ 32

/-- The ring of a code is bound, by the context of the issue. -/
def BoundRing (s : State) (e : Env) (code : Nat) (r : Ring) : Prop :=
  s.ring? e.f.bay code = some r ∧ r.ctx = e.l.ctx

/-- A descriptor job waits for a slot on the ring of a code (R192, Table 7.1): its input ring in byte 9, its output ring in
byte 10, each with bit 7 for a ring and bit 6 for one of a bay. -/
def jobWaits (j : Job) (bay code : Nat) : Bool :=
  match j.work with
  | .desc _ d _ _ _ =>
    let byte := fun k => (d.getD k 0).toNat
    let names := fun k => decide (128 ≤ byte k ∧ (byte k % 64 + if byte k / 64 % 2 = 1 then 0 else 64) = code)
    (decide (64 ≤ code) || j.bay == bay) && (j.phase == .waitIn && names 9 || j.phase == .waitOut && names 10)
  | _ => false

end Sys2Proof.Claims

/-- A ring is known in its bay, or under codes 64 to 127 on its die; setting one leaves every other as it was (R191). -/
def Sys2Proof.Claims.ringCodes : Prop :=
  ∀ (s : State) (b c b' c' : Nat) (r : Option Ring), c < 128 → c' < 128 → swf {} s.bays = true → swf {} s.dies = true →
    (s.setRing b c r).ring? b' c' = if c = c' ∧ (if c < 64 then b = b' else dieOf b = dieOf b') then r else s.ring? b' c'

/-- The ring instructions trap with RING_BAD on a ring that is not bound or was bound by another context. `RGRSV` and `RGAWT`
give the next slot and move RSV and TK on; on a full or empty ring they hold, or give all ones under `.try`. `RGPUB` and
`RGREL` mark a sequence, and WR and RD pass every marked sequence in order; a sequence not reserved or taken, or marked
before, is RING_BAD. The counters keep their order (R190, R191). `RGQRY.state` gives the four counters, and
`RGQRY.waiters` the warps held on reservation and on taking, and the jobs that wait (R192). -/
def Sys2Proof.Claims.ringResults : Prop :=
  ∀ (s : State) (e : Env) (h : Hdr) (x : ExtArgs) (code d : Nat), x.x = .ring code → (x.d = .s d ∨ x.d = .sp d) → Acts s e h →
    let res := fun v => e.w.put (e.w.sWrite d v)
    let q := (e.rdScalar x.a).toNat / 2 ^ 32
    ((∀ r, ¬BoundRing s e code r) →
      ∀ i ∈ [Instr.rgrsv h x, .rgpub h x, .rgawt h x, .rgrel h x, .rgqryState h x, .rgqryUnbind h x, .rgqryWaiters h x],
        Traps i s s e .ringBad code) ∧
    ∀ r, BoundRing s e code r → RingOk r →
      let set := fun r => s.setRing e.f.bay code (some r)
      (seqSub r.rsv r.rd = 2 ^ r.logn →
        (x.sub = 1 → Completes (.rgrsv h x) s s e h (res allOnes64)) ∧ (x.sub ≠ 1 → IsHeld (.rgrsv h x) s e (.ringRoom code))) ∧
      (seqSub r.rsv r.rd ≠ 2 ^ r.logn → RingOk { r with rsv := (r.rsv + 1) % 2 ^ 32 } ∧
        Completes (.rgrsv h x) s (set { r with rsv := (r.rsv + 1) % 2 ^ 32 }) e h (res (slotWord r r.rsv))) ∧
      (r.tk = r.wr →
        (x.sub = 1 → Completes (.rgawt h x) s s e h (res allOnes64)) ∧ (x.sub ≠ 1 → IsHeld (.rgawt h x) s e (.ringItem code))) ∧
      (r.tk ≠ r.wr → RingOk { r with tk := (r.tk + 1) % 2 ^ 32 } ∧
        Completes (.rgawt h x) s (set { r with tk := (r.tk + 1) % 2 ^ 32 }) e h (res (slotWord r r.tk))) ∧
      ((seqSub r.rsv r.wr ≤ seqSub q r.wr ∨ q ∈ r.pub) → Traps (.rgpub h x) s s e .ringBad code) ∧
      (seqSub q r.wr < seqSub r.rsv r.wr → q ∉ r.pub → ∃ wr pub, Advanced r.wr (q :: r.pub) wr pub ∧
        RingOk { r with wr := wr, pub := pub } ∧
        let goes := fun (u : State) =>
          let (v, w) := performAll u e.c.fid e.w
          Completes (.rgpub h x) s (v.setRing e.f.bay code (some { r with wr := wr, pub := pub })) e h w
        let (u, ids) := committed s e (r.cap ≠ none)
        (ids ≠ [] → HeldIn (.rgpub h x) s u e e.w (.buffer ids)) ∧ (ids = [] → goes u)) ∧
      ((seqSub r.tk r.rd ≤ seqSub q r.rd ∨ q ∈ r.rel) → Traps (.rgrel h x) s s e .ringBad code) ∧
      (seqSub q r.rd < seqSub r.tk r.rd → q ∉ r.rel → ∃ rd rel, Advanced r.rd (q :: r.rel) rd rel ∧
        RingOk { r with rd := rd, rel := rel } ∧ Completes (.rgrel h x) s (set { r with rd := rd, rel := rel }) e h e.w) ∧
      Completes (.rgqryState h x) s s e h
        ((e.w.put (e.w.sWrite d (BitVec.ofNat 64 (r.rsv * 2 ^ 32 + r.wr)))).put (e.w.sWrite (d + 1) (BitVec.ofNat 64 (r.tk * 2 ^ 32 + r.rd)))) ∧
      Completes (.rgqryWaiters h x) s s e h (res (BitVec.ofNat 64
        (s.ringWaiters e.f.bay code (.ringRoom code) % 2 ^ 16 + 2 ^ 16 * (s.ringWaiters e.f.bay code (.ringItem code) % 2 ^ 16) +
          2 ^ 32 * (((s.die (dieOf e.f.bay)).jobs.filter fun j => jobWaits j e.f.bay code).length % 2 ^ 16))))

/-- `RGQRY.bind` binds the ring that the descriptor at its scratchpad address holds, under the context and the frame of the
issue, and `RGQRY.unbind` writes the descriptor of a ring with no slot in use back and unbinds it: a misaligned address, a
bad descriptor, a bound ring to bind and a ring in use are RING_BAD, an address outside the allocation SCRATCH_BOUNDS (R192,
Table 8.8). -/
def Sys2Proof.Claims.ringBinding : Prop :=
  ∀ (s : State) (e : Env) (h : Hdr) (x : ExtArgs) (code : Nat), x.x = .ring code → Acts s e h →
    let off := (e.rdScalar x.a).toNat
    let at_ := (Region.scratch e.f.fid).at off
    let (v, w) := performAll s e.c.fid e.w
    let held := readBytes v.mem at_ 32
    let bad := fun i => Traps i s s e .ringBad code
    let badNow := fun i => Traps i s (v.setWarp e.c.fid w) e .ringBad code
    let idle := fun (r : Ring) => r.rsv = r.wr ∧ r.wr = r.tk ∧ r.tk = r.rd
    (off % 32 ≠ 0 → bad (.rgqryBind h x)) ∧
    (off % 32 = 0 → e.l.scratch < off + 32 → Traps (.rgqryBind h x) s s e .scratchBounds (max off e.l.scratch)) ∧
    (off % 32 = 0 → off + 32 ≤ e.l.scratch →
      (s.ring? e.f.bay code ≠ none → badNow (.rgqryBind h x)) ∧
      ((∀ r, RingPlain r → held ≠ ringBytes r) → badNow (.rgqryBind h x)) ∧
      ∀ r, RingPlain r → held = ringBytes r → s.ring? e.f.bay code = none → r.ctx = e.l.ctx → r.fid = e.c.fid →
        (∀ c, r.cap = some c → c = e.w.rdK r.creg) →
        Completes (.rgqryBind h x) s (v.setRing e.f.bay code (some r)) e h w) ∧
    ∀ r, BoundRing s e code r →
      (¬idle r → bad (.rgqryUnbind h x)) ∧
      (idle r → off % 32 ≠ 0 → bad (.rgqryUnbind h x)) ∧
      (idle r → off % 32 = 0 → e.l.scratch < off + 32 → Traps (.rgqryUnbind h x) s s e .scratchBounds (max off e.l.scratch)) ∧
      (idle r → off % 32 = 0 → off + 32 ≤ e.l.scratch →
        Completes (.rgqryUnbind h x) s ({ v with mem := writeBytes v.mem at_ (ringBytes r) }.setRing e.f.bay code none) e h w)

/-- The rings: their codes, instructions, binding and unbinding (R190 to R192). -/
def Obligations.Rings : Prop := ringCodes ∧ ringResults ∧ ringBinding

/-! ### Dependency counters and ready lists -/

/-- The decrement of a dependency record (R193, R321): one on a line whose check fails is POISON, one with a set bit in its
reserved fields DEP_BAD, and both stay as they were; otherwise COUNT falls by the amount, and when it becomes 0 the record's
ITEM goes to the end of its list, behind what has spilled, if a mapping of the issuing context binds that list, else CAP_PERM; a
full list makes it wait. Every other byte of memory stays. -/
def Sys2Proof.Claims.recordDecrement : Prop :=
  ∀ (s : State) (ctx a : Nat) (x : W64) (val off : Nat), SafeState s → (∀ i < 32, isParam (a + i) = false) →
    let n := BitVec.ofNat 64 (readNat s.mem a 8) - x
    let item := BitVec.ofNat 64 (readNat s.mem (a + 8) 8)
    let id := readNat s.mem (a + 16) 2
    let l := s.list (id % 8) (id / 8 % 16)
    let m := writeNat s.mem a 8 n.toNat
    let badId := 128 ≤ id ∨ readBytes s.mem (a + 18) 14 ≠ List.replicate 14 0
    let bound := l.bound = true ∧ l.ctx = ctx
    let ends := depSubtract s ctx a x val off
    (s.rangeBad a 32 = true → ends = .done (s.lineError a 2) (some (Cause.poison.code, off - a % 64))) ∧
    (s.rangeBad a 32 = false →
      (badId → ends = .done s (some (Cause.depBad.code, val))) ∧
      (¬badId → n ≠ 0 → ends = .done { s with mem := m } none) ∧
      (¬badId → n = 0 → ¬bound → ends = .done { s with mem := m } (some (Cause.capPerm.code, off))) ∧
      (¬badId → n = 0 → bound → 1024 ≤ l.items.length → l.spill ≤ l.spilled → ends = .wait) ∧
      (¬badId → n = 0 → bound → l.items.length < 1024 → ∃ t, ends = .done t none ∧ t = { s with mem := m, dies := t.dies } ∧
        t.list (id % 8) (id / 8 % 16) = { l with items := l.items ++ [item] }) ∧
      (¬badId → n = 0 → bound → 1024 ≤ l.items.length → l.spilled < l.spill → ∃ t, ends = .done t none ∧
        t = { s with mem := writeNat m (s.dev (l.area + 8 * ((l.first + l.spilled) % l.spill))) 8 item.toNat, dies := t.dies } ∧
        t.list (id % 8) (id / 8 % 16) = { l with spilled := l.spilled + 1 }))

namespace Sys2Proof.Claims

/-- The checks on the record of a dependency instruction: one access of 32 bytes at the byte offset B (log 17). -/
def recordCheck (s : State) (e : Env) (h : Hdr) (x : ExtArgs) (k : Nat) : Xst × MemChk :=
  Xst.lanes e 32 32 (fun o => { cap := e.w.rdK k, off := o }) { acc := .a, kinds := [0, 7] }
    (((e.exec h).take 1).map fun l => (l, some ((e.rdScalar x.b).toNat : Int))) ⟨s, e.w⟩ [] []

end Sys2Proof.Claims

/-- `DEPDEC` enrols an operation on its counter that is done when the decrement of the record by A is made; `DEPDEC.set` makes
the record the warp's dependency target, with nothing left to do; both check the record first, and a full counter holds them
(R167, R179, R194). -/
def Sys2Proof.Claims.dependencyInstructions : Prop :=
  ∀ (s : State) (e : Env) (h : Hdr) (x : ExtArgs) (c k : Nat), x.fin = .ctr c → x.x = .cap k → Acts s e h →
    let chk := recordCheck s e h x k
    (63 ≤ e.w.outstanding c → IsHeld (.depdec h x) s e (.ctrRoom c) ∧ IsHeld (.depdecSet h x) s e (.ctrRoom c)) ∧
    (e.w.outstanding c < 63 →
      (∀ y t v l, chk = (y, .trap t v l) → Traps (.depdec h x) s s e t v (some (laneNo e l)) ∧
        Traps (.depdecSet h x) s s e t v (some (laneNo e l))) ∧
      ∀ y ls, chk = (y, .ok ls []) →
        let e' := { e with w := y.w }
        let off := (e'.rdScalar x.b).toNat
        let op := fun done => { id := y.s.fresh, ctr := c, from_ := y.s.now, done := done : CtrOp }
        let target := { id := y.s.fresh, fid := e.c.fid, widx := e.c.widx, pc := e.c.pc, cap := e.w.rdK k, off := off
                        amount := e'.rdScalar x.a : DepOp }
        Completes (.depdec h x) s { y.s with fresh := y.s.fresh + 1, deps := y.s.deps ++ [target] } e h
          { y.w with ops := y.w.ops ++ [op false] } ∧
        Completes (.depdecSet h x) s { y.s with fresh := y.s.fresh + 1 } e h
          { y.w with ops := y.w.ops ++ [op true], dep := some (e.w.rdK k, off) })

/-- A decrement in flight is made when what its warp accessed up to its operation is performed, a release, and when the copies
issued before it have entered the buffer that it commits (R193, R325): its record is translated once more; a page that has
gone away is asked for, and the decrement waits (R319); else its operation is done, with the record's error, or its copy goes
on to its completion. Before that nothing happens (R194). -/
def Sys2Proof.Claims.decrementMade : Prop :=
  ∀ (s : State) (d : DepOp) (f : Frame) (l : Launch), s.deps.find? (fun x => x.id == d.id) = some d → s.frame? d.fid = some f →
    s.launch? f.lid = some l →
    let early := fun (c : CopyOp) => c.fid = d.fid ∧ c.id < d.id ∧ c.fate = none ∧ ∃ x ∈ c.lanes, x.fin = false ∧ x.dst.buffered l = true
    let ready := d.paused = none ∧ (l.guarded = true → ∀ c ∈ s.copies, ¬early c) ∧
      ∀ w, s.warp? ⟨d.fid, d.widx⟩ = some w → ∀ u ∈ w.acc, d.id < u.op
    let u := if l.guarded then s.commit f.fid else s
    let ended := fun (t : State) err =>
      let t := { t with deps := t.deps.filter fun x => x.id != d.id }
      ((∀ c ∈ s.copies, c.id ≠ d.id) → s.act (.dep d.id) = .next ((t.modWarp ⟨d.fid, d.widx⟩ fun w =>
        { w with ops := modifyFirst (fun o => o.id == d.id) (fun o => { o with done := true, err := err }) w.ops }).settleDone)) ∧
      ((∃ c ∈ s.copies, c.id = d.id) → s.act (.dep d.id) = .next (settleCopy { t with
        copies := modifyFirst (fun c => c.id == d.id) (fun c => { c with dep := none, derr := err }) t.copies } d.id).settleDone)
    (¬ready → s.act (.dep d.id) = .next s) ∧
    (ready → ∀ y q, (Xst.mk u { idx := 0, core := 0, part := 0, slot := 0 }).capRange .agent d.cap d.off 32 { acc := .a, kinds := [0, 7] } = (y, q) →
      (∀ c v, q = .trap c v → ended u (some (c.code, v))) ∧
      (∀ p ps, q = .absent (p :: ps) → ∃ t, s.act (.dep d.id) = .next t ∧ t.mem = s.mem ∧ (∃ g, t.pages = s.pages ++ [g] ∧
        g.party = .dep d.id ∧ g.recs = [(p.page, p.write, p.stage2, true, 0, d.pc)] ∧
        t.deps = modifyFirst (fun x => x.id == d.id) (fun x => { x with paused := some g.num }) s.deps)) ∧
      (∀ m a, q = .ok m → y.s.physOf { cap := d.cap, off := d.off } 1 m = [a] →
        (∀ t err, depSubtract y.s l.ctx a d.amount ((d.cap.base + d.off) % 2 ^ 64) d.off = .done t err → ended t err) ∧
        (depSubtract y.s l.ctx a d.amount ((d.cap.base + d.off) % 2 ^ 64) d.off = .wait → s.act (.dep d.id) = .next s)))

/-- `RLPUSH` puts A at the end of the list that its capability names, in the hardware entries or in the spill area behind what
has spilled, with everything its warp accessed before performed, a guarded frame committing first, and is held while both are
full; `RLPOP` takes the oldest item with 1 in the second register, the oldest spilled item taking the place that comes free,
or 0 and 0 from an empty list; a capability that names no list, or without the permission, is CAP_PERM, a stale one
CAP_REVOKED (R195, R325). -/
def Sys2Proof.Claims.readyLists : Prop :=
  ∀ (s : State) (e : Env) (h : Hdr) (x : ExtArgs) (k d : Nat), x.x = .cap k → (x.d = .sp d ∨ x.d = .s d) → Acts s e h →
    let c := e.w.rdK k
    let both := fun p => p (Instr.rlpush h x) (c.perm.getLsbD 1) ∧ p (.rlpop h x) (c.perm.getLsbD 0)
    (c.kind ≠ 5 → both fun i _ => Traps i s s e .capPerm 0) ∧
    ∀ die idx, c.kind = 5 → c.tgt = .list die idx →
      let l := s.list die idx
      let leaves := fun i (u : State) w (l' : ReadyList) => ∃ t, exec i s = .next t ∧ Ends { u with dies := t.dies } t e (past u e h w) ∧
        ∀ die' idx', t.list die' idx' = if die' = die ∧ idx' = idx then l' else s.list die' idx'
      both (fun i p => (p = false → Traps i s s e .capPerm 0) ∧ (p = true → s.current c = false → Traps i s s e .capRevoked 0)) ∧
      (c.perm.getLsbD 1 = true → s.current c = true → swf {} s.dies = true → swf {} (s.die die).lists = true →
        (1024 ≤ l.items.length → l.spill ≤ l.spilled → IsHeld (.rlpush h x) s e (.listRoom die idx)) ∧
        ((l.items.length < 1024 ∨ l.spilled < l.spill) →
          let (u, ids) := committed s e True
          let (v, w) := performAll u e.c.fid e.w
          let place := s.dev (l.area + 8 * ((l.first + l.spilled) % l.spill))
          (ids ≠ [] → HeldIn (.rlpush h x) s u e e.w (.buffer ids)) ∧
          (ids = [] → l.items.length < 1024 → leaves (.rlpush h x) v w { l with items := l.items ++ [e.rdScalar x.a] }) ∧
          (ids = [] → 1024 ≤ l.items.length →
            leaves (.rlpush h x) { v with mem := writeNat v.mem place 8 (e.rdScalar x.a).toNat } w { l with spilled := l.spilled + 1 }))) ∧
      (c.perm.getLsbD 0 = true → s.current c = true → swf {} s.dies = true → swf {} (s.die die).lists = true →
        let two := fun a b => (e.w.put (e.w.sWrite d a)).put (e.w.sWrite (d + 1) b)
        (l.items = [] → Completes (.rlpop h x) s s e h (two 0 0)) ∧
        ∀ y ys, l.items = y :: ys →
          (l.spilled = 0 → leaves (.rlpop h x) s (two y 1) { l with items := ys }) ∧
          (0 < l.spilled → l.spill ≠ 0 → leaves (.rlpop h x) s (two y 1)
            { l with items := ys ++ [BitVec.ofNat 64 (readNat s.mem (s.dev (l.area + 8 * (l.first % l.spill))) 8)]
                     first := (l.first + 1) % l.spill, spilled := l.spilled - 1 }))

/-- Dependency records and ready lists (R193 to R195). -/
def Obligations.DependenciesAndLists : Prop := recordDecrement ∧ dependencyInstructions ∧ decrementMade ∧ readyLists


/-! ### Copies -/

namespace Sys2Proof.Claims

/-- The copy instructions: into a register window (R186), and of a collective (R185). -/
structure CopyRow where
  h : Hdr
  x : ExtArgs
  wide : Bool
  coll : Bool

def copyRow : Instr → Option CopyRow
  | .cpy h x => some ⟨h, x, false, false⟩
  | .cpyg h x => some ⟨h, x, false, true⟩
  | .cpyw h x => some ⟨h, x, true, false⟩
  | _ => none

/-- A lane's count: the immediate, or the lane's B under CR (R183). -/
def laneCount (e : Env) (x : ExtArgs) (c : CopyFields) (l : Nat) : Nat := if c.cr then (e.rdVec x.b l).toNat else c.cnt

/-- What a lane of a copy names: its source, its count and its destination of 32 bytes (R183). -/
def laneCopy (s : State) (e : Env) (x : ExtArgs) (c : CopyFields) (l : Nat) : CopyLane :=
  { lane := l
    src := s.pinned { scr := c.sx, cap := if c.sx then Cap.null else e.w.rdK c.sk, off := (e.rdVec x.a l).toNat } (laneCount e x c l)
    n := laneCount e x c l
    dst := s.pinned { scr := c.dx, cap := if c.dx then Cap.null else e.w.rdK c.dk, off := (e.rdVec x.d l).toNat } 32 }

end Sys2Proof.Claims

/-- The copies (R183 to R186): a full counter or tag count holds; a group the warp is no member of is ILLEGAL_FIELD, `.dep`
without a target DEP_UNSET; a count above 32 is COUNT_RANGE at the lowest such lane; a lane whose ranges fail traps. Else, in a
protected frame when the lanes of each pair agree, the instruction completes: its lanes are in flight, counted one by one on
its tag, whose issued flag is set, or enrolled as one operation on its counter; no byte moves yet. What its warp accessed and
the copy must come after is performed first (R211). -/
def Sys2Proof.Claims.copyIssues : Prop :=
  ∀ (s : State) (e : Env) (i : Instr) (r : CopyRow), copyRow i = some r → Acts s e r.h →
    let c := copyFields r.x
    let lanes := e.visible (e.exec r.h)
    let full := (∃ k, r.x.fin = .ctr k ∧ 63 ≤ e.w.outstanding k) ∨ ∃ t, r.x.fin = .tag t ∧ 4095 < (s.tag e.w.core t).count + lanes.length
    (full → ∃ y, IsHeld i s e y ∧ (∀ k, r.x.fin = .ctr k → y = .ctrRoom k) ∧ ∀ t, r.x.fin = .tag t → y = .tagRoom t lanes.length) ∧
    (¬full →
      (r.coll = true → e.w.idx ∉ e.members c.group → Traps i s s e .illegalField (e.word0 s)) ∧
      ((r.coll = true → e.w.idx ∈ e.members c.group) →
        (c.dep = true → e.w.dep = none → Traps i s s e .depUnset 0) ∧
        ((c.dep = true → e.w.dep ≠ none) →
          (∀ p l q, lanes = p ++ l :: q → (∀ j ∈ p, laneCount e r.x c j ≤ 32) → 32 < laneCount e r.x c l →
            Traps i s s e .countRange (laneCount e r.x c l) (some (laneNo e l))) ∧
          ((∀ l ∈ lanes, laneCount e r.x c l ≤ 32) →
            (∀ y t v l, copyChecks e r.x c r.wide lanes ⟨s, e.w⟩ [] [] = (y, .trap t v l) → Traps i s s e t v (some (laneNo e l))) ∧
            ∀ y ls, copyChecks e r.x c r.wide lanes ⟨s, e.w⟩ [] [] = (y, .ok ls []) → lanes ≠ [] →
              let e' := { e with w := y.w }
              PairsAgree e (fun l => if l ∈ e.exec r.h then
                some (((e'.rdVec r.x.d l).toNat : Int), leBytes 4 (e'.rdVec r.x.a l).toNat ++ leBytes 4 (laneCount e' r.x c l)) else none) →
              let strict := c.sx = false ∧ (y.w.rdK c.sk).cls = .strict ∨ c.dx = false ∧ (y.w.rdK c.dk).cls = .strict
              let (v, w) := performBefore y.s e.c.fid y.w (decide strict)
              let e' := { e with w := w }
              let k := sget 0 w.cpygSeq c.group
              let op : CopyOp :=
                { id := v.fresh, fid := e.c.fid, widx := w.idx, core := w.core, pc := e.c.pc, fin := r.x.fin
                  coll := if r.coll then some (c.group, k) else none, started := !r.coll, window := r.wide
                  dep := if c.dep then w.dep else none, lanes := lanes.map (laneCopy v e' r.x c) }
              let w := if r.coll then { w with cpygSeq := sset 0 c.group (k + 1) w.cpygSeq } else w
              (∀ n, r.x.fin = .ctr n → Completes i s { v with copies := v.copies ++ [op], fresh := v.fresh + 1 } e r.h
                { w with ops := w.ops ++ [{ id := v.fresh, ctr := n, from_ := v.now, done := false }] }) ∧
              ∀ n, r.x.fin = .tag n →
                let g := v.tag w.core n
                Completes i s ({ v with copies := v.copies ++ [op], fresh := v.fresh + 1 }.setTag w.core n
                    { g with count := g.count + lanes.length, issued := true }) e r.h
                  { w with tagCnt := sset 0 n (sget 0 w.tagCnt n + lanes.length) w.tagCnt }))))

namespace Sys2Proof.Claims

/-- An access to memory through a strict capability, in a guarded frame (R325). -/
def strictCopy (l : Launch) (x : CopyLane) : Prop :=
  l.guarded = true ∧ (x.src.scr = false ∧ x.src.cap.cls = .strict ∨ x.dst.scr = false ∧ x.dst.cap.cls = .strict)

/-- A copy that reaches a peer, which no link leads to any more (R333). -/
def cutOff (s : State) (x : CopyLane) : Prop :=
  s.noPath = true ∧ (x.src.scr = false ∧ x.src.cap.kind = 1 ∨ x.dst.scr = false ∧ x.dst.cap.kind = 1)

/-- Both ranges of a lane translate: the state `v` in which its bytes move, with what its warp stored before there performed and,
where a guarded frame copies through a strict capability, its buffer committed; `as` are the addresses its source bytes depend
on and `dst` those of its destination in memory (R183, R205, R319, R325). -/
def LaneAt (s : State) (f : Frame) (l : Launch) (c : CopyOp) (x : CopyLane) (v : State) (ms : PMap) (as dst : List Nat) : Prop :=
  let t0 : Xst := ⟨s, { idx := 0, core := 0, part := 0, slot := 0 }⟩
  ∃ y z md, (if x.n = 0 then y = t0 ∧ ms = [] else t0.move f l x.src x.n .r = (y, .ok ms)) ∧ y.move f l x.dst 32 .w = (z, .ok md) ∧
    as = (if x.n = 0 then [] else z.s.sourceAddrs x.src x.n ms) ∧ dst = (if c.window then [] else z.s.physOf x.dst 32 md) ∧
    let u := z.s.performOlder ⟨c.fid, c.widx⟩ c.id (as ++ dst) false
    (strictCopy l x → v = u.commit c.fid) ∧ (¬strictCopy l x → v = u)

/-- A lane of a copy that can move now, with what it works with (R184, R319). -/
def CanMove (s : State) (c : CopyOp) (x : CopyLane) (f : Frame) (l : Launch) : Prop :=
  s.copies.filter (fun o => o.id == c.id) = [c] ∧ c.lanes.filter (fun y => y.lane == x.lane) = [x] ∧ s.frame? c.fid = some f ∧
    s.launch? f.lid = some l ∧ s.laneReady l c x = true ∧ f.phase ≠ .relaunching ∧ c.err = none ∧ c.derr = none ∧
    (∀ y ∈ c.lanes, y.err = none) ∧ ¬cutOff s x

/-- The copy with a lane of it done, before its completion is counted. -/
def afterLane (c : CopyOp) (x : CopyLane) : CopyOp :=
  { c with lanes := modifyFirst (fun y => y.lane == x.lane) (fun y => { y with fin := true, err := none, paused := none }) c.lanes }

end Sys2Proof.Claims

/-- `TAG_LANE_PERFORMED` (R183, R184): a lane whose ranges translate stores its n source bytes and zeros up to 32 at its
destination and nothing else; its tag's count falls by 1 at once, or, when it is the last lane, its counter's operation is
done. A lane at an absent page asks for it and waits (R319); with no copy in flight nothing happens. -/
def Sys2Proof.Claims.laneMoves : Prop :=
  (∀ (s : State) (id lane : Nat), s.copies = [] → exec (.tagLanePerformed id lane) s = .next s) ∧
  ∀ (s : State) (c : CopyOp) (x : CopyLane) (f : Frame) (l : Launch), CanMove s c x f l → c.window = false → c.coll = none →
    c.dep = none → l.guarded = false →
    let t0 : Xst := ⟨s, { idx := 0, core := 0, part := 0, slot := 0 }⟩
    let asks := fun (p : Absent) => ∃ t g, exec (.tagLanePerformed c.id x.lane) s = .next t ∧ t.mem = s.mem ∧ t.pages = s.pages ++ [g] ∧
      g.num = s.fresh ∧ g.party = .copy c.id x.lane ∧ g.ctx = l.ctx ∧ g.recs = [(p.page, p.write, p.stage2, true, 0, c.pc)] ∧
      t.frames = s.frames ∧ t.copies = modifyFirst (fun o => o.id == c.id) (fun o => { o with
        lanes := modifyFirst (fun y => y.lane == x.lane) (fun y => { y with paused := some g.num }) o.lanes }) s.copies
    (∀ y p ps, 0 < x.n → t0.move f l x.src x.n .r = (y, .absent (p :: ps)) → asks p) ∧
    (∀ y ms z p ps, (if x.n = 0 then y = t0 else t0.move f l x.src x.n .r = (y, .ok ms)) → y.move f l x.dst 32 .w = (z, .absent (p :: ps)) →
      asks p) ∧
    ∀ v ms as dst g, LaneAt s f l c x v ms as dst → v.frame? c.fid = some g → (∀ a ∈ as, v.lineBad a = false) →
      let bytes := v.copyBytes g x.src x.n ms ++ List.replicate (32 - x.n) 0
      ∃ u : State, exec (.tagLanePerformed c.id x.lane) s = .next u.settleDone ∧ u.mem = writeCells v.mem (dst.zip bytes) ∧
        (SafeState v → ∀ a, a ∉ dst → readByte u.mem a = readByte v.mem a) ∧
        (∀ o ∈ s.copies, o.id ≠ c.id → o ∈ u.copies) ∧
        let last := (afterLane c x).lanes.all CopyLane.fin
        (∀ o ∈ u.copies, o.id = c.id → last = false ∧ o = afterLane c x) ∧
        (∀ n, c.fin = .tag n → swf {} v.tags = true → n < 64 →
          let g := v.tag c.core n
          u.tag c.core n = { g with count := g.count - 1 } ∧ ∀ core k, k < 64 → (core ≠ c.core ∨ k ≠ n) → u.tag core k = v.tag core k) ∧
        ∀ n, c.fin = .ctr n → u.tags = v.tags ∧
          ∀ w, v.warp? ⟨c.fid, c.widx⟩ = some w → u.warp? ⟨c.fid, c.widx⟩ = some (if last then
            { w with ops := modifyFirst (fun o => o.id == c.id) (fun o => { o with done := true, err := none }) w.ops } else w)

/-- What moving a lane's bytes comes to (R183, R184, R186, R321, R323 to R327): in memory; in the store buffer of a guarded
frame, or as a commit or an abort since its issue has decided, a 513th line ending the lane with GUARD_FULL; or in the
registers behind a window. A source line whose check fails makes every word it reaches all ones and gives the warp POISON; in a
guarded frame nothing is written and the frame is relaunched. -/
def Sys2Proof.Claims.laneBytes : Prop :=
  ∀ (s v : State) (f g : Frame) (l : Launch) (c : CopyOp) (x : CopyLane) (ms : PMap) (as dst : List Nat),
    LaneAt s f l c x v ms as dst → ¬cutOff s x → v.frame? c.fid = some g →
    let src := v.copyBytes g x.src x.n ms ++ List.replicate (32 - x.n) 0
    let ends := moveLane s f l c x
    let toMem := fun (v : State) bs => { v with mem := writeCells v.mem (dst.zip bs) }.heal dst
    let buffered := l.guarded = true ∧ x.dst.scr = false ∧ x.dst.cap.cls ≠ .strict ∧ (x.dst.cap.kind = 0 ∨ x.dst.cap.kind = 7)
    ((∀ a ∈ as, v.lineBad a = false) →
      (c.window = false → ¬buffered → ends = .done (toMem v src) none) ∧
      (c.window = false → buffered →
        (c.fate = some true → ends = .done (toMem v src) none) ∧ (c.fate = some false → ends = .done v none) ∧
        (c.fate = none →
          let full := 512 < (fsbLines g.fsb ++ dst.map fun a => a / 64).eraseDups.length
          (full → ends = .done v (some (Cause.guardFull.code, 0))) ∧
          (¬full → ends = .done (v.setFrame { g with fsb := ssetMany none g.fsb ((dst.zip src).map fun (a, b) => (a, some b)) }) none))) ∧
      (c.window = true → ∀ p i add, v.space x.dst.cap = (.regs p i, add) →
        ends = .done (v.windowWords p i (x.dst.cap.base + x.dst.off) 8 src) none)) ∧
    (∀ k a, as[k]? = some a → v.lineBad a = true → (∀ j < k, ∀ b, as[j]? = some b → v.lineBad b = false) →
      (l.guarded = true → ends = .done (startRelaunch (v.lineError a 2) c.fid .poison) none) ∧
      (l.guarded = false → c.window = false → as.length = x.n →
        let hit := fun i => ∃ j b, j / 4 = i / 4 ∧ as[j]? = some b ∧ v.lineBad b = true
        ∃ bs, ends = .done (toMem ((v.lineError a 2).modWarp ⟨c.fid, c.widx⟩ fun w => w.setLate .poison (x.src.off + k - a % 64)) bs) none ∧
          ∀ i < 32, (hit i → bs[i]? = some 0xFF) ∧ (¬hit i → bs[i]? = src[i]?)))

/-- A word that reaches a live lane's register through a window is written there, and to no other warp; one that reaches no
such register is discarded (R186, Table 8.1). -/
def Sys2Proof.Claims.windowWrites : Prop :=
  ∀ (s : State) (p i a : Nat) (x : W32) (f : Frame) (l : Launch) (w : Warp), s.frameNamed p i = some f → s.launch? f.lid = some l →
    s.warp? ⟨f.fid, a / (256 * 1024)⟩ = some w → s.frame? f.fid = some f →
    let lane := a % 256 / 4
    let r := a / 256 % 1024
    let t := s.windowWord p i a x
    t.mem = s.mem ∧ (∀ j, j ≠ ⟨f.fid, a / (256 * 1024)⟩ → t.warp? j = s.warp? j) ∧
    t.warp? ⟨f.fid, a / (256 * 1024)⟩ = some (if r < l.vregs ∧ lane < l.width ∧ (w.lane lane).st = .live then w.put (.v r lane x) else w)

/-- When a lane of a copy may move: it has not moved and waits for no page, its collective has started and no lane of it waits
for a page, no lower lane whose destination may meet its own is left, and where a guarded frame commits by it no earlier copy
still has bytes to enter the buffer (R183, R185, R319, R325). Of two lanes with a byte in common through one capability the
lower moves first. A lane that may not move does nothing. -/
def Sys2Proof.Claims.laneOrderOf : Prop :=
  ∀ (s : State) (l : Launch) (c : CopyOp) (x : CopyLane),
    (s.laneReady l c x = true → c.started = true ∧ x.fin = false ∧ x.paused = none ∧
      (∀ k, c.coll = some k → ∀ d ∈ s.copies, d.fid = c.fid → d.coll = some k → ∀ y ∈ d.lanes, y.paused = none) ∧
      (∀ y ∈ c.lanes, y.lane < x.lane → y.fin = false → y.dst.scr = x.dst.scr → y.dst.cap = x.dst.cap →
        y.dst.off + 32 ≤ x.dst.off ∨ x.dst.off + 32 ≤ y.dst.off) ∧
      (strictCopy l x → ∀ d ∈ s.copies, d.fid = c.fid → d.id < c.id → d.fate = none → ∀ y ∈ d.lanes, y.fin = false → y.dst.buffered l = false)) ∧
    (c.started = true → x.fin = false → x.paused = none → c.coll = none → (∀ y ∈ c.lanes, y.lane < x.lane → y.fin = true) →
      l.guarded = false → s.laneReady l c x = true) ∧
    ∀ f, s.copies.find? (fun o => o.id == c.id) = some c → c.lanes.find? (fun y => y.lane == x.lane) = some x →
      s.frame? c.fid = some f → s.launch? f.lid = some l → s.laneReady l c x = false → exec (.tagLanePerformed c.id x.lane) s = .next s

/-- What follows the last lane of a copy (R184, R185, R194): first the decrement of a `.dep` copy begins; then its operation is
done, with the first error, or the last lane's count falls. The slices of a collective are over together, when every lane of
every one is performed and no decrement is left, and the group's next collective may start. -/
def Sys2Proof.Claims.copyEnds : Prop :=
  ∀ (s : State) (c : CopyOp), (s.copies.map CopyOp.id).Nodup → c ∈ s.copies →
    (c.coll = none → (c.started = false ∨ ∃ x ∈ c.lanes, x.fin = false) → settleCopy s c.id = s) ∧
    (c.coll = none → c.started = true → (∀ x ∈ c.lanes, x.fin = true) →
      (∀ cap off, c.dep = some (cap, off) → (∀ d ∈ s.deps, d.id ≠ c.id) → settleCopy s c.id = { s with
        deps := s.deps ++ [{ id := c.id, fid := c.fid, widx := c.widx, pc := c.pc, cap := cap, off := off, amount := 1 }] }) ∧
      (c.dep = none → ∀ n, c.fin = .ctr n → (∀ x ∈ c.lanes, x.err = none) → c.err = none →
        settleCopy s c.id = { s with copies := s.copies.filter fun o => o.id != c.id }.modWarp ⟨c.fid, c.widx⟩ fun w =>
          { w with ops := modifyFirst (fun o => o.id == c.id) (fun o => { o with done := true, err := c.derr }) w.ops }) ∧
      (c.dep = none → ∀ n lane x, c.fin = .tag n → c.last = some lane → c.lanes.filter (fun y => y.lane == lane) = [x] →
        swf {} s.tags = true → n < 64 →
        let g := s.tag c.core n
        (settleCopy s c.id).tag c.core n = { g with count := g.count - 1, err := (g.err.orElse fun _ => x.err).orElse fun _ => c.derr })) ∧
    ∀ k f, c.coll = some k → s.frame? c.fid = some f → swf 0 f.collNext = true →
      let mine := fun (d : CopyOp) => d.fid = c.fid ∧ d.coll = some k
      let t := settleCopy s c.id
      ((∃ d ∈ s.copies, mine d ∧ (d.started = false ∨ ∃ x ∈ d.lanes, x.fin = false)) → t = s) ∧
      ((∀ d ∈ s.copies, mine d → d.started = true ∧ ∀ x ∈ d.lanes, x.fin = true) →
        ((∃ d ∈ s.copies, mine d ∧ d.dep ≠ none) → t.copies = s.copies ∧
          ∀ d ∈ s.copies, mine d → d.dep ≠ none → ∃ x ∈ t.deps, x.id = d.id) ∧
        ((∀ d ∈ s.copies, mine d → d.dep = none) →
          (∀ d, d ∈ t.copies ↔ d ∈ s.copies ∧ ¬mine d) ∧
          (∀ f', t.frame? c.fid = some f' → sget 0 f'.collNext k.1 = k.2 + 1) ∧
          ∀ d ∈ s.copies, mine d → ∀ n w, d.fin = .ctr n → t.warp? ⟨d.fid, d.widx⟩ = some w →
            ∀ o, w.ops.find? (fun o => o.id == d.id) = some o → o.done = true))

/-- `CPYG_COLLECTIVE_START` (R185): once every member of the group has issued its slice of the next collective, or has
exited (a save routine that ended is no exit), every slice starts; before that nothing happens. -/
def Sys2Proof.Claims.collectiveStarts : Prop :=
  ∀ (s : State) (f : Frame) (l : Launch) (g : Nat), s.frame? f.fid = some f → s.launch? f.lid = some l →
    let k := sget 0 f.collNext g
    let mine := fun (c : CopyOp) => c.fid = f.fid ∧ c.coll = some (g, k)
    let issued := ∀ j ∈ groupOf f l g, ∀ w, f.warp? j = some w → k < sget 0 w.cpygSeq g ∨ (w.liveLanes = [] ∧ w.mode ≠ .save)
    (¬issued → exec (.cpygCollectiveStart f.fid g) s = .next s) ∧
    (issued → (∀ c ∈ s.copies, mine c → c.started = false) → (∃ c ∈ s.copies, mine c ∧ ∃ y ∈ c.lanes, y.fin = false) →
      exec (.cpygCollectiveStart f.fid g) s =
        .next { s with copies := s.copies.map fun c => if mine c then { c with started := true } else c }.settleDone)

/-- Copies, from issue to the last lane (R182 to R186). -/
def Obligations.Copies : Prop :=
  copyIssues ∧ laneOrderOf ∧ laneMoves ∧ laneBytes ∧ windowWrites ∧ copyEnds ∧ collectiveStarts


/-! ### Counters -/

/-- `WAITC` (R180, R181) holds while an operation count of one of its slots exceeds the slot's threshold; then it completes,
or takes the pending error of the first slot that has one, late and cleared; in a trap routine errors stay pending (R307). -/
def Sys2Proof.Claims.waitcResults : Prop :=
  ∀ (s : State) (e : Env) (h : Hdr) (o : WaitcArgs), Acts s e h →
    let cs := [o.s0, o.s1, o.s2, o.s3].filterMap fun x => x.map fun y => (y.ctr, y.threshold)
    let err := fun c => sget none e.w.errs c
    ((∃ x ∈ cs, x.2 < e.w.outstanding x.1) → IsHeld (.waitc h o) s e (.counters cs)) ∧
    ((∀ x ∈ cs, e.w.outstanding x.1 ≤ x.2) →
      ((e.w.mode = .trap ∨ ∀ x ∈ cs, err x.1 = none) → Completes (.waitc h o) s s e h e.w) ∧
      ∀ p c n q k v, e.w.mode ≠ .trap → cs = p ++ (c, n) :: q → (∀ x ∈ p, err x.1 = none) → err c = some (k, v) →
        Traps (.waitc h o) s (s.setWarp e.c.fid { e.w with errs := sset none c none e.w.errs }) e (Cause.ofCode k) v none true)

namespace Sys2Proof.Claims

/-- The oldest operation of a counter, among the operations of a warp in issue order. -/
def Oldest (w : Warp) (c : Nat) (p : List CtrOp) (o : CtrOp) (q : List CtrOp) : Prop :=
  w.ops = p ++ o :: q ∧ (∀ x ∈ p, x.ctr ≠ c) ∧ o.ctr = c ∧ ∀ x ∈ p ++ q, x.id ≠ o.id

/-- A pending error, unless one is pending already (R181). -/
def withErr (errs : SMap (Option (Nat × Nat))) (c : Nat) (x : Option (Nat × Nat)) : SMap (Option (Nat × Nat)) :=
  if x = none ∨ sget none errs c ≠ none then errs else sset none c x errs

end Sys2Proof.Claims

/-- `COUNTER_RETIRE` (R168, R179, R181): the oldest operation of the counter retires once it is done and its accesses are
performed, and no other does: it leaves the counter, writes its registers, into a checkpoint of runahead too, and leaves its
error pending unless one is. A fixed-latency write to one of those registers that was issued before it never lands over it
(R85, R306). -/
def Sys2Proof.Claims.retirement : Prop :=
  ∀ (s : State) (i : WarpId) (w : Warp) (c : Nat), s.warp? i = some w →
    ((∀ o ∈ w.ops, o.ctr ≠ c) → exec (.counterRetire i c) s = .next s) ∧
    ∀ p o q, Oldest w c p o q →
      ((o.done = false ∨ ∃ u ∈ w.acc, u.op = o.id) → exec (.counterRetire i c) s = .next s) ∧
      (o.done = true → (∀ u ∈ w.acc, u.op ≠ o.id) →
        let older := fun (x : WCore) => { x with pend := x.pend.filter fun y => !(decide (y.from_ < o.from_) && o.writes.any fun z => z.same y.w) }
        let w' := o.writes.foldl Warp.put { w with ops := p ++ q, wc := older w.wc }
        exec (.counterRetire i c) s = .next (s.setWarp i.fid { w' with
          errs := withErr w.errs c o.err
          run := w.run.map fun r => { r with ckpt := (o.writes.foldl Warp.put { w with wc := older r.ckpt }).wc } }).settleDone)

/-- `PEER_TIMEOUT` and `PEER_ERROR_RESPONSE` (R320): the oldest operation of the counter, if it accesses a peer, ends in
error, and its accesses not performed yet fail: the words of its reads are all ones and REMOTE_FAULT is due at the warp's next
boundary; the error REMOTE_FAULT of an operation that reads nothing waits for its counter. After a timeout an answer on its
way is lost too, and a write not performed yet may be performed later; a refused access is not performed, and none is refused
where nothing is left to perform. -/
def Sys2Proof.Claims.peerErrors : Prop :=
  ∀ (s : State) (i : WarpId) (w : Warp) (c : Nat), s.warp? i = some w →
    (∀ ev ∈ [Instr.peerTimeout i c, .peerErrorResponse i c], (∀ o ∈ w.ops, o.ctr ≠ c) → exec ev s = .next s) ∧
    ∀ p o q, Oldest w c p o q →
      (∀ ev ∈ [Instr.peerTimeout i c, .peerErrorResponse i c], o.peer = none → exec ev s = .next s) ∧
      ∀ a, o.peer = some a →
        let us := w.acc.filter fun u => u.op == o.id
        let ones := fun x => match x with
          | RegWrite.v r l _ => RegWrite.v r l (BitVec.allOnes 32)
          | .s r _ => .s r (BitVec.allOnes 64)
          | .bankS r _ => .bankS r (BitVec.allOnes 64)
          | x => x
        let late := if w.late = none then some ⟨0xC, a⟩ else w.late
        let ends := fun (o' : CtrOp) late => { w with acc := dropFences (w.acc.filter fun u => u.op != o.id), ops := p ++ { o' with peer := none } :: q, late := late }
        let t := { s with strays := s.strays ++ (us.map MemUnit.work).filter UnitWork.writes }
        (us = [] → o.writes ≠ [] → exec (.peerTimeout i c) s = .next (t.setWarp i.fid (ends { o with writes := o.writes.map ones } late))) ∧
        (us = [] → o.writes = [] → exec (.peerTimeout i c) s = .next (t.setWarp i.fid (ends { o with err := some (0xC, a) } w.late))) ∧
        (us = [] → exec (.peerErrorResponse i c) s = .next s) ∧
        (us ≠ [] → (∀ u ∈ us, u.work.ones = []) → o.writes = [] →
          let x := ends { o with err := o.err.orElse fun _ => some (0xC, a) } w.late
          exec (.peerTimeout i c) s = .next (t.setWarp i.fid x) ∧ exec (.peerErrorResponse i c) s = .next (s.setWarp i.fid x)) ∧
        (us ≠ [] → (∀ u ∈ us, u.work.ones ≠ []) →
          let x := fun ws => ends { o with writes := ws ++ us.flatMap fun u => u.work.ones } late
          exec (.peerTimeout i c) s = .next (t.setWarp i.fid (x (o.writes.map ones))) ∧
          exec (.peerErrorResponse i c) s = .next (s.setWarp i.fid (x o.writes)))

/-- The words that an access lost at a peer leaves (R320): each register of a load's unit, of a read-modify-write each of
those it returns to, all ones; a store has none. -/
def Sys2Proof.Claims.lostWords : Prop :=
  (∀ r n m (d : LoadDst) l, d.scalar = false → d.lanes = [l] → n ∈ [1, 2, 4, 8] →
    UnitWork.ones (.load r n m d) = (List.range (max 1 (n / 4))).map fun k => .v (d.r + k) l 0xFFFFFFFF#32) ∧
  (∀ as bs, UnitWork.ones (.store as bs) = []) ∧
  ∀ as mop x cas off, UnitWork.ones (.rmw as mop x cas none off) = []

/-- With every link down a unit for a peer is not performed: it ends as `PEER_ERROR_RESPONSE` ends it (R333, R320). -/
def Sys2Proof.Claims.linksAllDown : Prop :=
  ∀ (s : State) (fid : Nat) (w : Warp) (k : Nat) (early : Bool) (u : MemUnit) (a : Nat), w.acc[k]? = some u →
    (∀ i < 16, sget false s.linksDown i = true) → w.peerOf u = some a →
    performUnit s fid w k early = (s, { w with acc := dropFences (w.acc.eraseIdx k) }.remoteFails u a)

/-- Completion counters: waiting, retiring, and peers that do not answer (R179 to R181, R320). -/
def Obligations.Counters : Prop := waitcResults ∧ retirement ∧ peerErrors ∧ lostWords ∧ linksAllDown

/-! ### The issue of a warp -/

namespace Sys2Proof.Claims

/-- The conditions that end a hold (Table 11.4); the hold on a full queue ends at an issue (`queueOrder`), sleep and pages with
their own events. -/
def HoldEnds (s : State) (f : Frame) (w : Warp) : HoldWhy → Prop
  | .counters cs => w.run = none → ∀ x ∈ cs, w.outstanding x.1 ≤ x.2
  | .tagsAll m => ∀ n < 64, m.testBit n → (s.tag w.core n).count = 0 ∧ (s.tag w.core n).issued = true
  | .tagsAny m => ∃ n < 64, m.testBit n ∧ (s.tag w.core n).count = 0 ∧ (s.tag w.core n).issued = true
  | .ringRoom c => ∀ r, s.ring? f.bay c = some r → seqSub r.rsv r.rd ≠ 2 ^ r.logn
  | .ringItem c => ∀ r, s.ring? f.bay c = some r → r.tk ≠ r.wr
  | .listRoom d i => (s.list d i).items.length < 1024 ∨ (s.list d i).spilled < (s.list d i).spill
  | .ctrRoom c => w.outstanding c < 63
  | .tagRoom t n => (s.tag w.core t).count + n ≤ 4095
  | .queueRoom => False
  | .trussRoom g => (s.bay f.bay).room f.fid g = true
  | .sfu => Config.sfuBusy s.now w.core = false
  | .sleep _ => False
  | .barrs => f.barrsDone = true
  | .drain => w.ops = [] ∧ w.tagCnt = []
  | .window p i => ∀ g, s.frameNamed p i = some g → g.phase ≠ .out ∧ ∀ v ∈ g.warps, v.mode ≠ .restore
  | .page _ => False
  | .undo => ∀ g ∈ s.frames, ∀ v ∈ g.warps, v.run ≠ none → v.core * 8 + v.part = w.core * 8 + w.part → g.fid = f.fid ∧ v.idx = w.idx
  | .buffer ids => ∀ c ∈ s.copies, c.id ∈ ids → ∀ y ∈ c.lanes, y.fin = true

/-- The instruction has not issued: what holds it is looked at before its issue. -/
def notIssued : HoldWhy → Prop
  | .ctrRoom _ | .tagRoom .. | .trussRoom _ | .sfu => True
  | _ => False

end Sys2Proof.Claims

/-- `WARP_HOLD_RELEASE` (R222, R225): a hold ends when its condition is true, and stays while it is not. An instruction held
before issue may then issue; one held after it goes on from there without issuing again, as soon as no other issue is in
progress and its warp may run. Lanes waiting at a `JOIN` go on past it once every live lane whose bit of the predicate is set
waits there, the writes due having landed. `SLEEP_EXPIRY` (R223): the lanes that slept go on after the instruction once the
time has come. -/
def Sys2Proof.Claims.holdsEnd : Prop :=
  ∀ (s : State) (f : Frame) (w : Warp) (l : Launch), s.frame? f.fid = some f → f.warp? w.idx = some w → s.launch? f.lid = some l →
    let i : WarpId := ⟨f.fid, w.idx⟩
    (∀ h, w.hold = some h →
      let t := s.setWarp f.fid { w with hold := none }
      (¬HoldEnds s f w h.why → exec (.warpHoldRelease i) s = .next s) ∧
      (HoldEnds s f w h.why →
        (notIssued h.why → exec (.warpHoldRelease i) s = .next t) ∧
        (¬notIssued h.why → s.cur = none → s.warpRuns f w = true → exec (.warpHoldRelease i) s = .next { t with
          cur := some { fid := f.fid, widx := w.idx, pc := h.pc, len := 0, lanes := h.lanes, after := some h.why } }) ∧
        (¬notIssued h.why → (s.cur ≠ none ∨ s.warpRuns f w = false) → exec (.warpHoldRelease i) s = .next s))) ∧
    (w.hold = none →
      let v := w.landDue s.now
      let waits := fun p pc (y : Lane) => y.waitJoin = some p ∧ y.pc = pc
      let whole := fun p pc => ∀ k, (v.lane k).st = .live → (v.rdP p k).getLsbD 0 = true → waits p pc (v.lane k)
      ((∀ y ∈ v.wc.lanes, y.st = .live → ∀ p, y.waitJoin = some p → ¬whole p y.pc) → exec (.warpHoldRelease i) s = .next s) ∧
      ∀ y ∈ v.wc.lanes, y.st = .live → ∀ p, y.waitJoin = some p → whole p y.pc →
        (∀ z ∈ v.wc.lanes, z.st = .live → ∀ r, z.waitJoin = some r → whole r z.pc → r = p ∧ z.pc = y.pc) →
        let next := y.pc + lenBytes (readNat s.mem ((Region.text (s.textLaunch l w).lid).at y.pc) 1 % 4)
        let pass := fun z : Lane => if z.st = .live ∧ waits p y.pc z then { z with waitJoin := none, pc := next } else z
        exec (.warpHoldRelease i) s = .next (s.setWarp f.fid { v with wc := { v.wc with lanes := v.wc.lanes.map pass } })) ∧
    ∀ t h, w.hold = some h → h.why = .sleep t →
      (s.now < t → exec (.sleepExpiry i) s = .next s) ∧
      (t ≤ s.now → exec (.sleepExpiry i) s = .next (s.setWarp f.fid { w with hold := none, wc := { w.wc with
        lanes := w.wc.lanes.mapIdx fun k z => if k ∈ h.lanes then { z with pc := h.pc + 12 } else z } }))

/-- The choice of an issue group (R220, R221): lanes that are live and wait for nothing, all of them at one PC. With no lane
starved and no burst under way it is the lowest PC of the lanes not deferred, or of all when every one is, with every
runnable lane at that PC; the other runnable lanes' miss counts grow by 1 up to 32 and all others become 0; and a starved
lane, one whose count is 32, makes its PC the first of a burst over the PCs of the starved lanes, ascending. A warp with a
runnable lane always has an issue group. -/
def Sys2Proof.Claims.issueGroups : Prop :=
  ∀ (w : Warp), w.burst = none →
    let run := fun k => k < w.wc.lanes.length ∧ (w.lane k).st = .live ∧ (w.lane k).waitJoin = none ∧ (w.lane k).waitBar = none
    let starved := fun k => run k ∧ (w.lane k).miss = 32
    ((∃ k, run k) ↔ w.chooseIssue ≠ none) ∧
    ∀ pc ls w', w.chooseIssue = some (pc, ls, w') →
      ls ≠ [] ∧ (∀ k ∈ ls, run k ∧ (w.lane k).pc = pc) ∧
      ((∃ k, starved k) →
        (∃ k ∈ ls, (w.lane k).miss = 32) ∧ (∀ k, starved k → pc ≤ (w.lane k).pc) ∧ (∀ k, run k → (w.lane k).pc = pc → k ∈ ls) ∧
        ((∃ k, starved k ∧ (w.lane k).pc ≠ pc) → ∃ b, w'.burst = some b ∧ b.done = ls ∧ (∀ k, k ∈ b.run ↔ run k) ∧
          b.pcs.Pairwise (· < ·) ∧ ∀ x, x ∈ b.pcs ↔ x ≠ pc ∧ ∃ k, starved k ∧ (w.lane k).pc = x)) ∧
      ((∀ k, ¬starved k) →
        let cand := fun k => run k ∧ ((w.lane k).deferred = false ∨ ∀ j, run j → (w.lane j).deferred = true)
        (∃ k ∈ ls, cand k) ∧ (∀ k, cand k → pc ≤ (w.lane k).pc) ∧ (∀ k, run k → (w.lane k).pc = pc → k ∈ ls) ∧
        w' = { w with wc := { w.wc with lanes := w.wc.lanes.map fun y =>
          { y with deferred := false, miss := if (y.st = .live ∧ y.waitJoin = none ∧ y.waitBar = none) ∧ y.pc ≠ pc then min 32 (y.miss + 1) else 0 } } })

/-- A burst (R221): its issues take its PCs in order, passing over one at which no lane is left, each with the lanes that were
runnable at its start, are so still, stand there and have not been issued in it; with the last it ends, and counts as one issue
for the miss counts; with nothing left it ends before a new choice. -/
def Sys2Proof.Claims.bursts : Prop :=
  ∀ (w : Warp) (b : Burst), w.burst = some b →
    let run := fun k => k < w.wc.lanes.length ∧ (w.lane k).st = .live ∧ (w.lane k).waitJoin = none ∧ (w.lane k).waitBar = none
    let at_ := fun pc k => k ∈ b.run ∧ k ∉ b.done ∧ run k ∧ (w.lane k).pc = pc
    let ended := fun (v : Warp) (done : List Nat) => { v with burst := none, wc := { v.wc with lanes := v.wc.lanes.mapIdx fun k y =>
      { y with miss := if k ∈ b.run ∧ (y.st = .live ∧ y.waitJoin = none ∧ y.waitBar = none) ∧ k ∉ done then min 32 (y.miss + 1) else 0 } } }
    ((∀ pc ∈ b.pcs, ∀ k, ¬at_ pc k) → w.chooseIssue = (ended w b.done).chooseIssue) ∧
    ∀ p pc q, b.pcs = p ++ pc :: q → (∀ x ∈ p, ∀ k, ¬at_ x k) → (∃ k, at_ pc k) →
      ∃ ls w', w.chooseIssue = some (pc, ls, w') ∧ (∀ k, k ∈ ls ↔ at_ pc k) ∧
        (q = [] → w' = ended w (b.done ++ ls)) ∧
        (q ≠ [] → w'.burst = some { b with pcs := q, done := b.done ++ ls } ∧
          ∀ k, w'.lane k = if k < w.wc.lanes.length ∧ k ∈ ls then { w.lane k with miss := 0 } else w.lane k)

/-- What holds an instruction before its issue (R85, R218, Table 11.4): a counter with 63 operations outstanding, a tag that the
lanes would fill, a queue whose free entries are all spoken for by the warps held on it before, a Truss entry with no room, and a
busy special-function unit. A warp whose next instruction is held so, or waits for a counter, is not eligible. -/
def Sys2Proof.Claims.eligibility : Prop :=
  (∀ (s : State) (e : Env) (i : Instr) (op : Nat) (h : Hdr), e.w.run = none →
    (∀ o, i.parts = some (op, h, .mem o) → 0x80 ≤ op → op ≤ 0x88 →
      s.issueHold e i = if 63 ≤ e.w.outstanding o.cc then some (.ctrRoom o.cc) else none) ∧
    (∀ o, i.parts = some (op, h, .alu o) → 0x4A ≤ op → op ≤ 0x50 →
      s.issueHold e i = if Config.sfuBusy s.now e.w.core then some .sfu else none) ∧
    ∀ x, i.parts = some (op, h, .ext x) →
      (0x90 ≤ op → op ≤ 0x92 →
        (∀ c, x.fin = .ctr c → s.issueHold e i = if 63 ≤ e.w.outstanding c then some (.ctrRoom c) else none) ∧
        ∀ t, x.fin = .tag t → let n := (e.visible (e.exec h)).length
          s.issueHold e i = if 4095 < (s.tag e.w.core t).count + n then some (.tagRoom t n) else none) ∧
      (0xC0 ≤ op → op ≤ 0xC6 → op ≠ 0xC5 → ∀ c, x.fin = .ctr c → e.w.outstanding c < 63 → e.exec h ≠ [] →
        s.issueHold e i = if (s.bay e.f.bay).room e.c.fid (trussGroup x) then none else some (.trussRoom (trussGroup x))) ∧
      (0xD0 ≤ op → op ≤ 0xDE → op ≠ 0xD7 → e.exec h ≠ [] → s.queueTurn e.f e.w = false → s.issueHold e i = some .queueRoom)) ∧
  ∀ (s : State) (f : Frame) (w : Warp) (e : Env),
    (∀ pc cs, s.upNext f w = some (e, .wait pc cs) → s.eligible f w = false) ∧
    (∀ i pc n, s.upNext f w = some (e, .instr i pc n) → s.issueHold { e with c := { e.c with pc := pc } } i ≠ none → s.eligible f w = false) ∧
    (s.eligible f w = true → s.warpRuns f w = true ∧ w.nextIssue ≤ s.now ∧ (∀ h, w.hold = some h → h.why = .queueRoom) ∧
      (s.atIssue f w).chooseIssue ≠ none)

/-- Warps that meet the full queue of their die enter it in the order in which they were held (R230): it is a warp's turn when the
free entries exceed the warps held on that queue before it. -/
def Sys2Proof.Claims.queueOrder : Prop :=
  ∀ (s : State) (f : Frame) (w : Warp),
    let held := s.queueHeld (dieOf f.bay)
    let free := (64 : Int) - (s.die (dieOf f.bay)).jobs.length
    (∀ t, (∀ x ∈ held, x.1 = ⟨f.fid, w.idx⟩ → x.2 = t) → (⟨f.fid, w.idx⟩, t) ∈ held →
      (s.queueTurn f w = true ↔ ((held.filter fun x => decide (x.2 < t)).length : Int) < free)) ∧
    ((∀ x ∈ held, x.1 ≠ ⟨f.fid, w.idx⟩) → (s.queueTurn f w = true ↔ (held.length : Int) < free))

/-- `PARTITION_ISSUE` (R47, R218, R219): with no issue in progress, no fault to take late and the datapath free, the eligible
warp at the least distance from the rotating pointer issues the group that is chosen for it, one with the Y hint only where no
other is eligible; the pointer moves past its slot, and no hint of the partition stays. With nothing eligible, or in a clk that
has issued already, nothing issues. A warp that meets a full queue is held on it from then on (R230). -/
def Sys2Proof.Claims.partitionIssues : Prop :=
  ∀ (s : State) (p : Nat), s.cur = none → (s.frames.map Frame.fid).Nodup → (∀ f ∈ s.frames, (f.warps.map Warp.idx).Nodup) →
    (∀ f ∈ s.frames, ∀ w ∈ f.warps, w.partNo = p → ∀ x, w.late = some x → s.warpRuns f w = false ∧ s.frameRuns f = false) →
    let u := (s.partWarps p).foldl State.noteHeld s
    let ws := u.partWarps p
    let able := ws.filter fun x => u.eligible x.1 x.2
    let free := ∀ t, (s.part p).last = some t → t ≠ s.now ∧ ((s.part p).width = 64 → t + 1 ≠ s.now)
    (∀ i w, s.warp? i = some w → ∃ w', u.warp? i = some w' ∧
      (w' = w ∨ w.hold = none ∧ ∃ h, w' = { w with hold := some h } ∧ h.why = .queueRoom)) ∧
    ((¬free ∨ able = []) → exec (.partitionIssue p) s = .next u) ∧
    (free → able ≠ [] → swf {} s.parts = true →
      ∃ f w pc ls w' t, (f, w) ∈ able ∧ exec (.partitionIssue p) s = .next t ∧
        (u.atIssue f { w with yHint := false }).chooseIssue = some (pc, ls, w') ∧
        t.cur = some { fid := f.fid, widx := w.idx, pc := pc, len := 0, lanes := ls } ∧
        t.warp? ⟨f.fid, w.idx⟩ = some w' ∧
        (t.part p).ptr = (w.slot + 1) % 16 ∧ (t.part p).last = some s.now ∧ t.mem = s.mem ∧ t.now = s.now ∧
        (∀ x ∈ ws, u.warp? ⟨x.1.fid, x.2.idx⟩ = some x.2 → ∀ v, t.warp? ⟨x.1.fid, x.2.idx⟩ = some v → v.yHint = false) ∧
        (w.yHint = true → ∀ x ∈ able, x.2.yHint = true) ∧
        ∀ x ∈ able, (w.yHint = false → x.2.yHint = false) → (w.slot + 16 - (s.part p).ptr) % 16 ≤ (x.2.slot + 16 - (s.part p).ptr) % 16)

/-- Holds, joins, sleeping, issue groups, bursts, eligibility and the issue of a partition (R218 to R223, R225, R230). -/
def Obligations.WarpIssue : Prop := holdsEnd ∧ issueGroups ∧ bursts ∧ eligibility ∧ queueOrder ∧ partitionIssues


/-! ### Control flow -/

namespace Sys2Proof.Claims

/-- The lanes of an issue: `g` says what an executing lane becomes; the others of the issue group go past the instruction. -/
def moved (e : Env) (h : Hdr) (w : Warp) (g : Nat → Lane → Lane) : Warp :=
  let one := fun k y => if k ∈ e.exec h then g k y else if k ∈ e.c.lanes then { y with pc := e.c.pc + e.c.len } else y
  { w with wc := { w.wc with lanes := w.wc.lanes.mapIdx one } }

/-- The instruction completes and has placed its lanes itself. -/
def Places (i : Instr) (s s' : State) (e : Env) (h : Hdr) (w : Warp) : Prop :=
  ∃ t, exec i s = .next t ∧ Ends s' t e (w.stalled s'.now e.width h)

end Sys2Proof.Claims

/-- `BRA` and `CALL` send the executing lanes to the instruction's own PC plus a signed byte distance, `BRX` and `RET` each to
the PC that its B holds; the rest of the issue group falls through, and no target is checked before it issues. `CALL` gives D
the address of the next instruction, with a latency of 4 (R223). -/
def Sys2Proof.Claims.branchResults : Prop :=
  ∀ (s : State) (e : Env) (h : Hdr) (o : AluArgs) (d : Nat), Issuing s e →
    let near := moved e h e.w fun _ y => { y with pc := ((e.c.pc + o.imm.toInt) % (2 ^ 32 : Int)).toNat }
    let far := moved e h e.w fun k y => { y with pc := (e.rdVec o.b k).toNat }
    let ret := BitVec.ofNat 64 (e.c.pc + 12)
    Places (.bra h o) s s e h near ∧ Places (.brx h o) s s e h far ∧ Places (.ret h o) s s e h far ∧
    (o.d = .v d → Places (.call h o) s s e h (near.post s.now 4 e.width ((e.exec h).map fun l => .v d l (ret.setWidth 32)))) ∧
    (o.d = .s d → Places (.call h o) s s e h (near.post s.now 4 e.width ((e.exec h).map fun _ => e.w.sWrite d ret)))

/-- `JOIN` (R222): the executing lanes whose bit of p is set wait at it; the others go on. `EXIT` (R224): the executing lanes
exit, a warp that loses its last live lane is gone with what it accessed performed, and outside a save routine its exit may
complete barriers and end its launch (R202, R228); in a restore routine it is ILLEGAL_OP. `SLEEP` (R223) holds the warp for IMM32 clk. `UTRAP` and `BKPT` trap with
USER and BREAKPOINT and their operand (R223, R312). -/
def Sys2Proof.Claims.stopsAndTraps : Prop :=
  ∀ (s : State) (e : Env) (h : Hdr) (o : AluArgs) (p : Nat), Acts s e h →
    (o.a = .p p → Places (.join h o) s s e h (moved e h e.w fun k y =>
      if (e.w.rdP p k).getLsbD 0 = true then { y with pc := e.c.pc, waitJoin := some p, miss := 0 }
      else { y with pc := e.c.pc + e.c.len })) ∧
    (let w := moved e h e.w fun _ y =>
       { y with pc := e.c.pc + e.c.len, st := .exited, waitJoin := none, waitBar := none, ended := e.w.mode == .save }
     (e.w.mode = .restore → Traps (.exit h o) s s e .illegalOp (e.word0 s)) ∧
     (e.w.mode ≠ .restore → w.liveLanes ≠ [] → Places (.exit h o) s s e h { w with gone := false }) ∧
     (e.w.mode ≠ .restore → w.liveLanes = [] →
       let (v, w') := performAll s e.c.fid { w with gone := true }
       ∃ u, Ends v u e (w'.stalled s.now e.width h) ∧
         exec (.exit h o) s = .next (if e.w.mode = .save then u else (u.settleBarriers e.c.fid (some e.w.idx)).settleDone))) ∧
    IsHeld (.sleep h o) s { e with w := e.w.stalled s.now e.width h } (.sleep (s.now + o.imm.toNat)) ∧
    Traps (.utrap h o) s s e .user o.imm.toNat ∧ Traps (.bkpt h o) s s e .breakpoint o.sub

/-- User-level interrupts (R196, R197): `UISET` sets the vector, the armed tags and the armed ring, `UIMASK` the mask, `UIRET`
takes every live lane back to its return PC and ends the handler, and is ILLEGAL_OP outside one. A delivery, due when a tag
or ring that is armed is ready and the warp is unmasked and waits at no `JOIN` or barrier, saves every live lane's PC, sends
it to the vector, masks, disarms what fired, and ends a hold that can be interrupted; otherwise nothing happens. -/
def Sys2Proof.Claims.interruptResults : Prop :=
  (∀ (s : State) (e : Env) (h : Hdr) (o : AluArgs), Acts s e h →
    let code := o.imm.toNat % 128
    Completes (.uisetVec h o) s s e h { e.w with uivec := o.imm.setWidth 64 } ∧
    Completes (.uisetTags h o) s s e h { e.w with uitags := e.rdScalar o.a } ∧
    (o.imm.getLsbD 7 = true → Completes (.uisetRing h o) s s e h { e.w with uiring := some code }) ∧
    (o.imm.getLsbD 7 = false → Completes (.uisetRing h o) s s e h
      { e.w with uiring := if e.w.uiring = some code then none else e.w.uiring }) ∧
    Completes (.uimask h o) s s e h { e.w with uim := o.sub % 2 == 1 } ∧
    (e.w.inUi = false → Traps (.uiret h o) s s e .illegalOp (e.word0 s)) ∧
    (e.w.inUi = true →
      let back := fun y : Lane => if y.st = .live then { y with pc := y.retPc } else y
      Places (.uiret h o) s s e h { e.w with uim := false, inUi := false, wc := { e.w.wc with lanes := e.w.wc.lanes.map back } })) ∧
  ∀ (s : State) (f : Frame) (w : Warp), s.frame? f.fid = some f → f.warp? w.idx = some w → w.run = none →
    let ready := fun n => n < 64 ∧ (s.tag w.core n).count = 0 ∧ (s.tag w.core n).issued = true
    let tagFires := ∃ n, w.uitags.getLsbD n = true ∧ ready n
    let ringFires := ∃ c r, w.uiring = some c ∧ s.ring? f.bay c = some r ∧ r.tk ≠ r.wr
    let due := w.uivec ≠ 0 ∧ w.uim = false ∧ w.mode = .user ∧ (tagFires ∨ ringFires) ∧ w.liveLanes ≠ [] ∧
      ∀ k ∈ w.liveLanes, (w.lane k).waitJoin = none ∧ (w.lane k).waitBar = none
    let runs := f.phase = .resident ∧ f.stopped = false ∧ (s.bay f.bay).power = .on ∧ w.stopped = false
    let ends := ∀ y, w.hold = some y → y.why.interruptible = true
    (¬(due ∧ runs ∧ ends) → exec (.userInterruptDelivery ⟨f.fid, w.idx⟩) s = .next s) ∧
    (due → runs → ends → ∃ v, exec (.userInterruptDelivery ⟨f.fid, w.idx⟩) s = .next (s.setWarp f.fid v) ∧
      v = { w with wc := { w.wc with lanes := v.wc.lanes }, uim := true, inUi := true, hold := none, burst := none, uitags := v.uitags, uiring := v.uiring } ∧
      v.wc.lanes = w.wc.lanes.map (fun y => if y.st = .live then { y with retPc := y.pc, pc := w.uivec.toNat, miss := 0 } else y) ∧
      (∀ n, v.uitags.getLsbD n = true ↔ w.uitags.getLsbD n = true ∧ ¬ready n) ∧
      (ringFires → v.uiring = none) ∧ (¬ringFires → v.uiring = w.uiring))

/-- Branches, `JOIN`, `EXIT`, `SLEEP`, the traps an instruction asks for, and interrupts (R196, R197, R222 to R224, R312). -/
def Obligations.ControlFlow : Prop := branchResults ∧ stopsAndTraps ∧ interruptResults

/-! ### Traps -/

namespace Sys2Proof.Claims

/-- The frame is killed with a cause (R243): it is being removed, its warps are stopped, its buffer is dropped, and its
PROGRAM's entry, where it is BUILT or BUILDING, faults with the cause. -/
def Killed (s t : State) (f : Frame) (l : Launch) (cause : Nat) : Prop :=
  (∃ g, t.frame? f.fid = some g ∧ g.phase = .removing ∧ g.fsb = [] ∧ ∀ w ∈ g.warps, w.stopped = true ∧ w.hold = none ∧ w.run = none) ∧
    (swf {} s.scribe.entries = true → t.entry 4 l.prog =
      let x := s.entry 4 l.prog
      if x.st = .built ∨ x.st = .building then { x with st := .faulted, fault := cause, live := true } else x)

/-- The frame is stopped to be relaunched with a cause (R329). -/
def Relaunching (t : State) (f : Frame) (cause : Nat) : Prop :=
  ∃ g, t.frame? f.fid = some g ∧ g.phase = .relaunching ∧ g.relaunchCause = cause ∧ g.fsb = [] ∧
    ∀ w ∈ g.warps, w.stopped = true ∧ w.hold = none ∧ w.run = none

/-- The trap routine of a launch's context (R235). -/
def trapRoutine (s : State) (l : Launch) : Option Launch := (s.ctxObj l.ctx).bind fun c => s.routineOf c.trap

/-- A routine fits a launch: its width, no more registers, and no capability for k31 (R235). -/
def Fits (r l : Launch) : Prop := r.width = l.width ∧ r.vregs ≤ l.vregs ∧ min r.sregs 92 ≤ l.sregs ∧ ∀ x ∈ r.caps, x.1 ≠ 31

end Sys2Proof.Claims

/-- Taking a trap (R306 to R308, R310, Table 17.1). What the warp accessed before is performed. A mismatch of shadow lanes, and
POISON in a guarded frame, relaunch the frame; so does a trap inside a routine of a guarded frame, and another such frame is
killed with ROUTINE_TRAP; without a trap routine the frame is killed with the cause, and with one that does not fit it with
BAD_ROUTINE (the model's choice, log 40). Else older writes have landed and older loads retired (in the order of log 22);
TRAPCAUSE, TRAPPC and TRAPVAL say what happened; every live lane's PC and waiting flags are held aside and it stands at the
routine's entry, waiting for nothing; the bank holds the cause, WARP, FRAME, the number of warps and the save slice; the
program's own registers and memory are untouched. -/
def Sys2Proof.Claims.trapEntry : Prop :=
  ∀ (s : State) (f : Frame) (w : Warp) (l : Launch) (lanes : List Nat) (pc len : Nat) (cause : Cause) (val : Nat)
    (lane : Option Nat) (late : Bool),
    let u := { s with cur := none }.performWarp ⟨f.fid, w.idx⟩
    u.frame? f.fid = some f → f.warp? w.idx = some w → u.launch? f.lid = some l → (f.phase = .resident ∨ f.phase = .saving) →
    let t := takeTrap s f.fid w.idx lanes pc len cause val lane late
    let relaunches := cause = .shadowMismatch ∨ cause = .poison ∧ l.guarded = true
    w.acc = [] ∧
    (relaunches → Relaunching t f cause.code ∧ t.mem = u.mem) ∧
    (¬relaunches → w.mode ≠ .user →
      (l.guarded = true → Relaunching t f cause.code ∧ t.mem = u.mem) ∧ (l.guarded = false → Killed u t f l 0x108)) ∧
    (¬relaunches → w.mode = .user →
      (trapRoutine u l = none → Killed u t f l cause.code) ∧
      ∀ r, trapRoutine u l = some r →
        (¬Fits r l → Killed u t f l 0x107) ∧
        (Fits r l → w.run = none →
          let due := fun (o : CtrOp) => o.reg && o.done
          let w' := (w.wc.pend.map Pend.w).foldl Warp.put { w with wc := { w.wc with pend := [] } }
          let w' := ((w.ops.filter due).flatMap CtrOp.writes).foldl Warp.put w'
          ∃ v, t = u.setWarp f.fid v ∧ v.mode = .trap ∧ v.trapCause = cause.code ∧
            v.trapPc = BitVec.ofNat 64 pc ∧ v.trapVal = BitVec.ofNat 64 val ∧
            v.trap.lanes = lanes ∧ v.trap.lane = lane ∧ v.trap.ilen = len ∧ v.trap.late = late ∧ v.hold = none ∧ v.wc.pend = [] ∧
            v.wc.lanes = w.wc.lanes.map (fun y => if y.st = .live then
              { y with pc := r.entry, waitJoin := none, waitBar := none, miss := 0, deferred := false, lastPage := none
                       heldPc := y.pc, heldJoin := y.waitJoin, heldBar := y.waitBar, heldMiss := y.miss } else y) ∧
            v.rdS 92 = BitVec.ofNat 64 cause.code ∧ v.rdS 93 = BitVec.ofNat 64 w.idx ∧ v.rdS 94 = BitVec.ofNat 64 f.idx ∧
            v.rdS 95 = BitVec.ofNat 64 f.warps.length ∧ v.rdK 31 = sliceCap u f l ∧
            v.wc.v = w'.wc.v ∧ v.wc.s = w'.wc.s ∧ v.wc.p = w'.wc.p ∧ v.k = w'.k ∧ v.uim = w.uim ∧ v.inUi = w.inUi ∧
            v.ops = w.ops.filter fun o => !(w.ops.filter due).any fun p => p.id == o.id))

/-- `TRET` (R309): the trap lanes go on at TRAPPC as the routine left it, under `.skip` after the trap instruction; every other
live lane goes on where it was held, with the waiting flags it had; the bank is gone and the warp is a program again. `.skip`
over a trap delivered late, or one without a length, is ILLEGAL_OP, which inside a routine ends the frame; so is either
outside a trap routine. A SAVE_REQ that waits is taken then, once a commit is over (R237). -/
def Sys2Proof.Claims.trapReturns : Prop :=
  ∀ (s : State) (e : Env) (h : Hdr) (o : AluArgs), Acts s e h →
    let back := fun pc => { e.w with
      wc := { e.w.wc with lanes := e.w.wc.lanes.mapIdx fun k y =>
        if y.st = .live then { y with pc := if k ∈ e.w.trap.lanes then pc else y.heldPc, waitJoin := y.heldJoin, waitBar := y.heldBar } else y }
      mode := .user, bankS := [], bankK := Cap.null : Warp }
    (e.w.mode ≠ .trap → Traps (.tret h o) s s e .illegalOp (e.word0 s) ∧ Traps (.tretSkip h o) s s e .illegalOp (e.word0 s)) ∧
    (e.w.mode = .trap → (e.w.trap.ilen = 0 ∨ e.w.trap.late = true) → Traps (.tretSkip h o) s s e .illegalOp (e.word0 s)) ∧
    (e.w.mode = .trap →
      let goes := fun i pc => ∃ u, let v := (back pc).stalled s.now e.width h
        Ends s u e v ∧
        (e.w.saveReq = false → exec i s = .next (u.settleBarriers e.c.fid)) ∧
        (e.w.saveReq = true → s.committing e.c.fid = true → exec i s = .next u) ∧
        (e.w.saveReq = true → s.committing e.c.fid = false → exec i s = .next (enterSave u e.c.fid v))
      goes (.tret h o) e.w.trapPc.toNat ∧
      (e.w.trap.ilen ≠ 0 → e.w.trap.late = false → goes (.tretSkip h o) (e.w.trapPc.toNat + e.w.trap.ilen)))

/-- Traps, from entry to return (R306 to R310). -/
def Obligations.TrapEntryAndReturn : Prop := trapEntry ∧ trapReturns

/-! ### Groups -/

/-- The barriers (R226 to R228, R237): a warp that is no member of the group is ILLEGAL_FIELD. `BAR` and `BARA` perform what
the warp accessed and add it, once, to those that have arrived; under `BAR` and `BARW` the executing lanes wait at the
instruction. When every member has arrived or has exited, and none runs its restore routine, the generation is complete; for a
group whose members have all exited, at the exit of the last. From SAVE_REQ on the barrier state is frozen. -/
def Sys2Proof.Claims.barrierResults : Prop :=
  (∀ (s : State) (e : Env) (h : Hdr) (o : AluArgs) (g : Nat), o.a = .g g → Acts s e h → g < e.f.barriers.length →
    (e.w.idx ∉ e.members g →
      ∀ i ∈ [Instr.bar h o, .bara h o, .barw h o], Traps i s s e .illegalField (e.word0 s)) ∧
    (e.w.idx ∈ e.members g →
      let waits := moved e h e.w fun _ y => { y with pc := e.c.pc, waitBar := some g, miss := 0 }
      let on := moved e h e.w fun _ y => { y with pc := e.c.pc + e.c.len }
      let b := e.f.barriers.getD g {}
      let b' := if e.w.idx ∈ b.arrived then b else { b with arrived := b.arrived ++ [e.w.idx] }
      let result := fun i w arrives =>
        let (v, w') := if arrives then performAll s e.c.fid w else (s, w)
        ∃ f, exec i s = .next (({ v with cur := none }.setFrame f).settleBarriers e.c.fid) ∧
          f.warp? e.w.idx = some (w'.stalled s.now e.width h) ∧ (∀ k, k ≠ e.w.idx → f.warp? k = e.f.warp? k) ∧
          f = { e.f with warps := f.warps, barriers := f.barriers } ∧ f.warps.map Warp.idx = e.f.warps.map Warp.idx ∧
          f.barriers = if arrives ∧ e.f.frozen = none then e.f.barriers.set g b' else e.f.barriers
      result (.bar h o) waits true ∧ result (.bara h o) on true ∧ result (.barw h o) waits false)) ∧
  (∀ (s : State) (f : Frame), s.frame? f.fid = some f → f.frozen ≠ none → ∀ gone, s.settleBarriers f.fid gone = s) ∧
  ∀ (s : State) (f : Frame) (l : Launch) (gone : Option Nat) (g : Nat), g < f.barriers.length →
    let b := f.barriers.getD g {}
    let f' := completeBarrier s f l gone g
    let members := (groupOf f l g).filterMap f.warp?
    let exited := fun w : Warp => w.liveLanes = [] ∧ w.mode ≠ .save
    let allDone := ∀ w ∈ members, (w.idx ∈ b.arrived ∨ exited w) ∧ w.mode ≠ .restore
    let now := (∃ w ∈ members, ¬exited w) ∨ ∃ k ∈ groupOf f l g, gone = some k
    let next := fun lid pc => pc + lenBytes (readNat s.mem ((Region.text lid).at pc) 1 % 4)
    let pass := fun lid (y : Lane) => if y.waitBar = some g then { y with waitBar := none, pc := next lid y.pc } else y
    let passHeld := fun y : Lane => if y.heldBar = some g then { y with heldBar := none, heldPc := next l.lid y.heldPc } else y
    let go := fun w : Warp => { w with wc := { w.wc with lanes := w.wc.lanes.map fun y => passHeld (pass (s.textLaunch l w).lid y) } }
    (¬(allDone ∧ now) → f' = f) ∧
    (allDone → now → f' = { f with warps := f.warps.map go, barriers := f.barriers.set g ⟨(b.gen + 1) % 2 ^ 32, []⟩ })

/-- `GRPQ` (R227) gives, with a latency of 4, the number of a group's members, of those that have arrived, the generation, and
the membership of 64 warps from a block on; a block above 7 is ILLEGAL_FIELD, and so is a group the warp is no member of. -/
def Sys2Proof.Claims.groupQueries : Prop :=
  ∀ (s : State) (e : Env) (h : Hdr) (o : AluArgs) (g d : Nat), o.a = .g g → o.d = .s d → Acts s e h →
    let b := e.f.barriers.getD g {}
    let block := (e.rdScalar o.b).toNat
    let res := fun i v => Completes i s s e h (e.w.post s.now 4 e.width [e.w.sWrite d v])
    let bad := fun i => Traps i s s e .illegalField (e.word0 s)
    (e.w.idx ∉ e.members g → bad (.grpqCount h o) ∧ bad (.grpqArrived h o) ∧ bad (.grpqGen h o) ∧ bad (.grpqMem h o)) ∧
    (7 < block → bad (.grpqMem h o)) ∧
    (e.w.idx ∈ e.members g →
      res (.grpqCount h o) (BitVec.ofNat 64 (e.members g).length) ∧ res (.grpqArrived h o) (BitVec.ofNat 64 b.arrived.length) ∧
      res (.grpqGen h o) (BitVec.ofNat 64 b.gen) ∧
      (block ≤ 7 → ∃ v, res (.grpqMem h o) v ∧ ∀ k < 64, v.getLsbD k = true ↔ 64 * block + k ∈ e.members g))

/-- `FCOMMIT` and `FABORT` (R324, R327): nothing in a frame that is not guarded. In a guarded one every buffered byte goes to
memory, or none does, and the buffer is empty; copies that the frame has issued and that still have bytes to put into it share
that fate, and the instruction is held for them; what enters later is not affected, and coming out of that hold the instruction
only completes. -/
def Sys2Proof.Claims.bufferResults : Prop :=
  ∀ (s : State) (e : Env) (h : Hdr) (o : AluArgs), Acts s e h →
    let mine := fun (c : CopyOp) => c.fid = e.c.fid ∧ c.fate = none ∧ ∃ y ∈ c.lanes, y.fin = false ∧ y.dst.buffered e.l = true
    ((e.l.guarded = false ∨ ∃ ids, e.c.after = some (.buffer ids)) → Completes (.fcommit h o) s s e h e.w ∧ Completes (.fabort h o) s s e h e.w) ∧
    (e.l.guarded = true → e.c.after = none → SafeState s → swf none e.f.fsb = true → ∀ commits : Bool,
      ∃ t f ids, (∀ n, n ∈ ids ↔ ∃ c ∈ s.copies, mine c ∧ c.id = n) ∧
        exec (if commits then .fcommit h o else .fabort h o) s = .next t ∧ t.frame? e.c.fid = some f ∧ f.fsb = [] ∧
        f.warp? e.w.idx = some (if ids = [] then past s e h e.w
          else { e.w with hold := some { why := .buffer ids, pc := e.c.pc, lanes := e.c.lanes } }) ∧
        (∀ j, j ≠ e.id → t.warp? j = s.warp? j) ∧
        t = { s with cur := none, frames := t.frames, mem := t.mem, bad := t.bad
                     copies := s.copies.map fun c => if ids.contains c.id then { c with fate := some commits } else c } ∧
        ∀ a, readByte t.mem a = if commits = true ∧ isParam a = false then (sget none e.f.fsb a).getD (readByte s.mem a) else readByte s.mem a)

/-- Barriers, group queries and the frame's buffer (R226 to R228, R327). -/
def Obligations.Groups : Prop := barrierResults ∧ groupQueries ∧ bufferResults


/-! ### Capabilities -/

namespace Sys2Proof.Claims

/-- What a built mapping grants to a context at a table entry of a generation (Table 12.6). -/
structure Grants (m : MapObj) (ctx tab gen : Nat) (c : Cap) : Prop where
  kind : c.kind = m.target
  base : c.base = if m.target = 5 then 0 else m.base
  len : c.len = m.len
  perm : c.perm = m.perm
  cls : c.cls = m.cls
  fmt : c.fmt = m.fmt ∧ c.view = m.view ∧ c.geom = m.geom
  src : c.src = .table ctx tab gen ∧ c.ctx = ctx
  tgt : (m.target = 1 → c.tgt = .node m.node) ∧ (2 ≤ m.target → m.target ≤ 4 → c.tgt = .frame m.tprog m.tframe) ∧
    (m.target = 5 → c.tgt = .list (m.node % 8) (m.node / 8 % 16)) ∧ (m.target = 0 → c.tgt = .none)

/-- The object of an entry serves: BUILT, or still LIVE after it faulted or was left unsettled (R257, R260). -/
def Stands (x : AbEntry) : Prop := x.st = .built ∨ x.live = true ∧ (x.st = .faulted ∨ x.st = .unsettled)

/-- A derived capability reaches no byte and permits no access that its source does not. -/
def Within (c d : Cap) : Prop :=
  (d.len = 0 ∨ c.base ≤ d.base ∧ d.base + d.len ≤ c.base + c.len) ∧ (∀ k < 5, d.perm.getLsbD k = true → c.perm.getLsbD k = true) ∧
    d.kind = c.kind ∧ d.src = c.src ∧ d.tgt = c.tgt ∧ d.cls = c.cls ∧ d.ctx = c.ctx

end Sys2Proof.Claims

/-- The capability instructions (R280 to R285) complete once per issue, with a latency of 16 for `CAPLD` and 4 for the others:
`CAPLD` the grant of a table entry, null where no mapping that stands is bound; `CAPNAR` a part of A, which must permit deriving, and in a
formatted view start on a row; `CAPVW` another view of A, whole rows between raw and formatted; `CAPDRP` A without some
permissions; `CAPCLR` null; and `CAPQRY` its fields, zeros for a null register. A failed check traps with CAP_PERM or
CAP_BOUNDS. -/
def Sys2Proof.Claims.capabilityResults : Prop :=
  ∀ (s : State) (e : Env) (h : Hdr) (o : AluArgs) (d : Nat), Acts s e h →
    let c := e.rdCap o.a
    let put := fun lat c => e.w.post s.now lat e.width [e.w.kWrite d c]
    (o.d = .k d →
      (let i := if o.form = .c then o.imm.toNat else (e.rdScalar o.b).toNat
       let slot := sget (0, none) s.scribe.tab (e.l.ctx * 2 ^ 16 + i)
       (o.form ≠ .c → 65535 < i → Traps (.capld h o) s s e .capBounds i) ∧
       (i ≤ 65535 →
         (∀ gen m x, slot = (gen, some m) → s.mapObj m = some x → x.target ≤ 5 → Stands (s.entry 2 m) → ∃ g, Grants x e.l.ctx i gen g ∧
           Completes (.capld h o) s s e h (put 16 g)) ∧
         ((slot.2 = none ∨ ∃ m, slot.2 = some m ∧ (s.mapObj m = none ∨ ¬Stands (s.entry 2 m))) →
           Completes (.capld h o) s s e h (put 16 Cap.null)))) ∧
      (∀ r, o.b = .sp r →
        let off := (e.w.rdS r).toNat
        let len := (e.w.rdS (r + 1)).toNat
        let row := viewRow c.geom
        let onRow := c.view = 0 ∨ c.geom ≠ 0 ∧ off % row = 0
        (c.perm.getLsbD 4 = false → Traps (.capnar h o) s s e .capPerm 0) ∧
        (c.perm.getLsbD 4 = true →
          (c.len < off + len → Traps (.capnar h o) s s e .capBounds ((off + len) % 2 ^ 64)) ∧
          (off + len ≤ c.len → ¬onRow → Traps (.capnar h o) s s e .capBounds off) ∧
          (off + len ≤ c.len → onRow → Within c { c with base := c.base + off, len := len } ∧
            Completes (.capnar h o) s s e h (put 4 { c with base := c.base + off, len := len })))) ∧
      (let v := (e.rdScalar o.b).toNat % 32
       let pair := v = 0 ∨ viewOk c.fmt v = true
       let row := storedRow c.fmt c.geom
       let vrow := viewRow c.geom
       ((c.perm.getLsbD 4 = false ∨ ¬pair) → Traps (.capvw h o) s s e .capPerm 0) ∧
       (c.perm.getLsbD 4 = true → pair →
         ((c.view = 0 ↔ v = 0) → Completes (.capvw h o) s s e h (put 4 { c with view := v })) ∧
         (c.view = 0 → v ≠ 0 → ∀ a n, 0 < row → c.base = a * row → c.len = n * row →
           Completes (.capvw h o) s s e h (put 4 { c with view := v, base := a * vrow, len := n * vrow })) ∧
         (c.view ≠ 0 → v = 0 → ∀ a n, 0 < vrow → c.base = a * vrow → c.len = n * vrow →
           Completes (.capvw h o) s s e h (put 4 { c with view := v, base := a * row, len := n * row })) ∧
         (c.view = 0 → v ≠ 0 → (row = 0 ∨ c.base % row ≠ 0) → Traps (.capvw h o) s s e .capBounds 0) ∧
         (c.view = 0 → v ≠ 0 → row ≠ 0 → c.base % row = 0 → c.len % row ≠ 0 →
           Traps (.capvw h o) s s e .capBounds (c.len / row * row)) ∧
         (c.view ≠ 0 → v = 0 → (vrow = 0 ∨ c.base % vrow ≠ 0) → Traps (.capvw h o) s s e .capBounds 0) ∧
         (c.view ≠ 0 → v = 0 → vrow ≠ 0 → c.base % vrow = 0 → c.len % vrow ≠ 0 →
           Traps (.capvw h o) s s e .capBounds (c.len / vrow * row)))) ∧
      (let keep := c.perm &&& ~~~((e.rdScalar o.b).setWidth 5)
       Within c { c with perm := keep } ∧ Completes (.capdrp h o) s s e h (put 4 { c with perm := keep })) ∧
      Completes (.capclr h o) s s e h (put 4 Cap.null)) ∧
    (o.d = .s d →
      let res := fun i (n : Nat) => Completes i s s e h (e.w.post s.now 4 e.width [e.w.sWrite d (BitVec.ofNat 64 (if c.len = 0 then 0 else n))])
      let cls := match c.cls with | .strict => 0 | .release => 1 | .free => 2
      res (.capqryLen h o) c.len ∧ res (.capqryBase h o) c.base ∧
      res (.capqryAttr h o) (c.perm.toNat + 2 ^ 8 * cls + 2 ^ 12 * c.kind + 2 ^ 16 * c.fmt + 2 ^ 24 * c.view + 2 ^ 32 * (c.geom % 2 ^ 32)) ∧
      res (.capqryValid h o) (if s.current c then 1 else 0))

/-- The capability instructions (R280 to R285). -/
def Obligations.Capabilities : Prop := capabilityResults

/-! ### Saving and restoring -/

namespace Sys2Proof.Claims

/-- The checks on an image of `n` bytes that a privileged instruction names (R238): once per issue, 64-byte aligned. -/
def imageCheck (s : State) (e : Env) (h : Hdr) (o : AluArgs) (n : Nat) (acc : Acc) : Xst × MemChk :=
  Xst.lanes e 64 n (fun off => { cap := e.rdCap o.a, off := off }) { acc := acc }
    (((e.exec h).take 1).map fun l => (l, some ((e.rdScalar o.b).toNat : Int))) ⟨s, e.w⟩ [] []

/-- The image an instruction names. -/
def imageRef (e : Env) (o : AluArgs) : MemRef := { cap := e.rdCap o.a, off := (e.rdScalar o.b).toNat }

/-- Where an image instruction whose check has passed goes on: a strict access in a guarded frame has committed its buffer, and
what its warp accessed is performed; and the copies it is held for first (R205, R325). -/
def imageAt (y : Xst) (e : Env) (o : AluArgs) : State × Warp × State × List Nat :=
  let (u, ids) := committed y.s { e with w := y.w } ((e.rdCap o.a).cls = .strict)
  let (v, w) := performAll u e.c.fid y.w
  (v.setWarp e.c.fid w, w, u, ids)

/-- What an instruction answers that stores bytes through a checked reference as a store of the frame, the warp `w` past it:
the bytes go into memory, or into the buffer of a guarded frame, which has no room for a 513th line (R324). -/
def ImageStores (out : Res) (u : State) (e : Env) (h : Hdr) (r : MemRef) (m : PMap) (bs : List Byte) (w : Warp) : Prop :=
  let as := u.physOf r bs.length m
  let buffered := e.l.guarded = true ∧ r.cap.cls ≠ .strict ∧ (r.cap.kind = 0 ∨ r.cap.kind = 7)
  (¬buffered → ∃ t, out = .next t ∧ Ends { u with mem := t.mem, bad := t.bad } t e (past u e h w) ∧
    t.mem = writeCells u.mem (as.zip bs)) ∧
  (buffered → ∀ f, u.frame? e.c.fid = some f →
    let full := 512 < ((fsbLines f.fsb ++ as.map fun a => a / 64).eraseDups).length
    (full → out = .next (takeTrap u e.c.fid e.c.widx e.c.lanes e.c.pc e.c.len .guardFull 0)) ∧
    (¬full → ∃ t g, out = .next t ∧ t.frame? e.c.fid = some g ∧ g.fsb = ssetMany none f.fsb (as.zip (bs.map some)) ∧
      g.warp? e.w.idx = some (past u e h w) ∧ (∀ j, j ≠ e.id → t.warp? j = u.warp? j) ∧ t = { u with frames := t.frames, cur := none }))

/-- The bytes of an image, none of whose lines fails its check. -/
def imageBytes (v : State) (e : Env) (o : AluArgs) (n : Nat) (m : PMap) (img : List Byte) : Prop :=
  img = v.fetch ((v.frame? e.c.fid).getD e.f) (imageRef e o) n m ∧ ∀ a ∈ v.physRead (imageRef e o) n m, v.lineBad a = false

/-- A number in an image, little-endian. -/
def at_ (bs : List Byte) (o w : Nat) : Nat := ofLe ((bs.drop o).take w)

/-- The barrier image of R239. -/
def barrierBytes (bs : List Barrier) (warps : Nat) : List Byte :=
  leBytes 4 0x52534142 ++ leBytes 2 bs.length ++ leBytes 2 warps ++ List.replicate 56 0 ++
    bs.flatMap fun b => leBytes 4 b.gen ++ leBytes 2 b.arrived.length ++ List.replicate 2 0 ++ leBytes 64 ((b.arrived.map (2 ^ ·)).sum)

/-- Barriers as an image holds them: every arrived warp one of the frame's, in ascending order, and a 32-bit generation. -/
def BarriersOk (bs : List Barrier) (warps : Nat) : Prop :=
  bs.length < 2 ^ 16 ∧ ∀ b ∈ bs, b.gen < 2 ^ 32 ∧ b.arrived = (List.range warps).filter (· ∈ b.arrived)

/-- A lane that was live when its warp's routine began: it is so still, or its save routine has ended. -/
abbrev heldLive (y : Lane) : Prop := y.st = .live ∨ y.ended = true

/-- The LANEINF of a lane (Table 11.7): one that is not live waits for nothing and has missed nothing. -/
def laneWord (y : Lane) : Nat :=
  if heldLive y then (if y.heldJoin = none then 0 else 4) + (if y.heldBar = none then 0 else 8) + 16 * y.heldMiss
  else match y.st with | .live => 0 | .exited => 1 | .absent => 2

/-- The warp image of Table 11.7, field by field. -/
def WarpBytes (w : Warp) (l : Launch) (tagiss : Nat) (depSeal bs : List Byte) : Prop :=
  let lane := fun k => if k < l.width then w.lane k else { st := .absent }
  bs.length = 1152 ∧ at_ bs 0 4 = 0x57534343 ∧ at_ bs 4 1 = l.encver ∧ at_ bs 5 1 = l.width ∧ at_ bs 6 2 = w.idx ∧ at_ bs 8 8 = w.uivec.toNat ∧
  at_ bs 0x10 8 = w.uitags.toNat ∧ at_ bs 0x18 1 = (match w.uiring with | some c => 128 + c | none => 0) ∧
  at_ bs 0x19 1 = (if w.wc.xlane then 1 else 0) + (if w.uim then 2 else 0) + (if w.inUi then 4 else 0) + (if w.dep = none then 0 else 8) ∧
  at_ bs 0x1A 6 = 0 ∧ (∀ k < 4, at_ bs (0x20 + 8 * k) 8 = (sget 0 w.wc.s (92 + k)).toNat) ∧ at_ bs 0x40 8 = tagiss ∧
  at_ bs 0x48 8 = (match w.dep with | some x => x.2 | none => 0) ∧ (bs.drop 0x50).take 64 = depSeal ∧
  (∀ c < 12, let x := 0x90 + 16 * c
    match sget none w.errs c with
    | some (k, a) => at_ bs x 2 = k ∧ at_ bs (x + 2) 1 = 1 ∧ at_ bs (x + 3) 5 = 0 ∧ at_ bs (x + 8) 8 = a
    | none => at_ bs x 16 = 0) ∧
  at_ bs 0x150 0xB0 = 0 ∧
  ∀ k < 64, at_ bs (0x200 + 4 * k) 4 = (if heldLive (lane k) then (lane k).heldPc else (lane k).pc) ∧ at_ bs (0x300 + 4 * k) 4 = (lane k).retPc ∧ at_ bs (0x400 + 2 * k) 2 = laneWord (lane k)

/-- The fields of a warp fit the image. -/
def WarpFits (w : Warp) (l : Launch) : Prop :=
  l.encver < 256 ∧ l.width ≤ 64 ∧ w.idx < 2 ^ 16 ∧ (∀ c, w.uiring = some c → c < 128) ∧ (∀ x, w.dep = some x → x.2 < 2 ^ 64) ∧
  (∀ c x, sget none w.errs c = some x → x.1 < 2 ^ 16 ∧ x.2 < 2 ^ 64) ∧
  ∀ k, (w.lane k).heldPc < 2 ^ 32 ∧ (w.lane k).pc < 2 ^ 32 ∧ (w.lane k).retPc < 2 ^ 32 ∧ (w.lane k).heldMiss ≤ 32

/-- The image of a warp is whole and its own (R241). -/
def WholeImage (w : Warp) (l : Launch) (bs : List Byte) : Prop :=
  at_ bs 0 4 = 0x57534343 ∧ at_ bs 4 1 = l.encver ∧ at_ bs 5 1 = l.width ∧ at_ bs 6 2 = w.idx ∧ at_ bs 0x19 1 < 16 ∧ at_ bs 0x1A 6 = 0 ∧
  at_ bs 0x150 0xB0 = 0 ∧ (∀ c < 12, at_ bs (0x92 + 16 * c) 1 ≤ 1 ∧ at_ bs (0x93 + 16 * c) 5 = 0) ∧
  ∀ k < 64, let x := at_ bs (0x400 + 2 * k) 2
    x < 1024 ∧ x / 16 % 64 ≤ 32 ∧ if k < l.width ∧ (w.lane k).st ≠ .absent then x % 4 ≤ 1 else x % 4 = 2

/-- The warp that a whole image restores (R241). -/
def Restored (s : State) (l : Launch) (bs : List Byte) (dep : Option (Cap × Nat)) (w v : Warp) : Prop :=
  let operand := fun pc => readNat s.mem ((Region.text l.lid).at pc) 8 / 2 ^ 42 % 1024
  let lane := fun k (y : Lane) =>
    let x := at_ bs (0x400 + 2 * k) 2
    let pc := at_ bs (0x200 + 4 * k) 4
    { y with pc := pc, retPc := at_ bs (0x300 + 4 * k) 4, miss := x / 16 % 64, deferred := false
             st := if x % 4 = 0 then .live else if x % 4 = 1 then .exited else .absent
             waitJoin := if x.testBit 2 then some (operand pc) else none, waitBar := if x.testBit 3 then some (operand pc) else none }
  let flags := at_ bs 0x19 1
  v.mode = .user ∧ v.bankS = [] ∧ v.bankK = Cap.null ∧ v.dep = dep ∧ v.uim = flags.testBit 1 ∧ v.inUi = flags.testBit 2 ∧
  v.uivec.toNat = at_ bs 8 8 ∧ v.uitags.toNat = at_ bs 0x10 8 ∧
  v.uiring = (if (at_ bs 0x18 1).testBit 7 then some (at_ bs 0x18 1 % 128) else none) ∧ v.wc.xlane = flags.testBit 0 ∧
  v.wc.lanes = w.wc.lanes.mapIdx (fun k y => if k < l.width then lane k y else y) ∧ v.wc.v = w.wc.v ∧ v.wc.p = w.wc.p ∧ v.k = w.k ∧
  (swf 0 w.wc.s = true → ∀ r, sget 0 v.wc.s r =
    if 92 ≤ r ∧ r < 96 ∧ r < l.sregs then BitVec.ofNat 64 (at_ bs (0x20 + 8 * (r - 92)) 8) else sget 0 w.wc.s r) ∧
  ∀ c, sget none v.errs c =
    if c < 12 ∧ at_ bs (0x92 + 16 * c) 1 = 1 then some (at_ bs (0x90 + 16 * c) 2, at_ bs (0x98 + 16 * c) 8) else none

end Sys2Proof.Claims

/-- What the image instructions trap on: the checks on their range (R167, R238). -/
def Sys2Proof.Claims.imageTraps : Prop :=
  ∀ (s : State) (e : Env) (h : Hdr) (o : AluArgs), Acts s e h →
    let fails := fun i n acc => ∀ y c v l, imageCheck s e h o n acc = (y, .trap c v l) → Traps i s s e c v (some (laneNo e l))
    fails (.barsv h o) (64 + 72 * (e.f.frozen.getD e.f.barriers).length) .w ∧
    (e.f.barrsDone = false → fails (.barrs h o) (64 + 72 * e.f.barriers.length) .r) ∧
    fails (.capsv h o) 64 .w ∧ fails (.caprs h o) 64 .r ∧
    (e.w.ops = [] → e.w.tagCnt = [] → fails (.ccsv h o) 1152 .w) ∧ (e.w.mode = .restore → fails (.tretImg h o) 1152 .r)

/-- An image instruction whose strict access commits a guarded frame's buffer is held for the copies already issued (R325,
R327). One that reads a line whose check fails has all ones in every word the line reaches, writes one record, and gives its warp
POISON (R321, R332). -/
def Sys2Proof.Claims.imageHoldsAndPoison : Prop :=
  (∀ (s : State) (e : Env) (h : Hdr) (o : AluArgs) (y : Xst) (lane off : Nat) (m : PMap), Acts s e h →
    let (_, _, u, ids) := imageAt y e o
    let held := fun i n acc => imageCheck s e h o n acc = (y, .ok [⟨lane, off, some m⟩] []) → ids ≠ [] → HeldIn i s u e y.w (.buffer ids)
    held (.barsv h o) (64 + 72 * (e.f.frozen.getD e.f.barriers).length) .w ∧
    (e.f.barrsDone = false → held (.barrs h o) (64 + 72 * e.f.barriers.length) .r) ∧
    held (.capsv h o) 64 .w ∧ held (.caprs h o) 64 .r ∧
    (e.w.ops = [] → e.w.tagCnt = [] → held (.ccsv h o) 1152 .w) ∧ (e.w.mode = .restore → held (.tretImg h o) 1152 .r)) ∧
  ∀ (s : State) (e : Env) (r : MemRef) (n : Nat) (m : PMap) (k : State → Env → List Byte → Res),
    let as := s.physRead r n m
    let bs := s.fetch ((s.frame? e.c.fid).getD e.f) r n m
    as.length = n → ∀ i a, as[i]? = some a → s.lineBad a = true → (∀ j < i, ∀ b, as[j]? = some b → s.lineBad b = false) →
      let w := if e.w.late = none then { e.w with late := some ⟨Cause.poison.code, r.off + i - a % 64⟩ } else e.w
      let hit := fun q => ∃ j b, j / 4 = q / 4 ∧ as[j]? = some b ∧ s.lineBad b = true
      ∃ img, readImage s e r n m k = k ((s.lineError a 2).setWarp e.c.fid w) { e with w := w } img ∧
        ∀ q < n, (hit q → img[q]? = some 0xFF) ∧ (¬hit q → img[q]? = bs[q]?)

/-- `BARSV` and `BARRS` (R239): the barriers as they were frozen, or as they are, written as an image; an image read back into
the frame, where a generation that is complete completes (R226); one that is no image of this frame is BAD_IMAGE, a second
`BARRS` of a restore ILLEGAL_OP. -/
def Sys2Proof.Claims.barrierImages : Prop :=
  ∀ (s : State) (e : Env) (h : Hdr) (o : AluArgs) (y : Xst) (lane off : Nat) (m : PMap), Acts s e h →
    let warps := e.f.warps.length
    let (v, w, _, ids) := imageAt y e o
    (let bs := e.f.frozen.getD e.f.barriers
     imageCheck s e h o (64 + 72 * bs.length) .w = (y, .ok [⟨lane, off, some m⟩] []) → ids = [] →
     ImageStores (exec (.barsv h o) s) v { e with w := w } h (imageRef e o) m (barrierBytes bs warps) w) ∧
    (e.f.barrsDone = true → Traps (.barrs h o) s s e .illegalOp (e.word0 s)) ∧
    (e.f.barrsDone = false → warps ≤ 512 → imageCheck s e h o (64 + 72 * e.f.barriers.length) .r = (y, .ok [⟨lane, off, some m⟩] []) →
      ids = [] → ∀ img, imageBytes v e o (64 + 72 * e.f.barriers.length) m img →
      (∀ bs f, v.frame? e.c.fid = some f → bs.length = e.f.barriers.length → BarriersOk bs warps → img = barrierBytes bs warps →
        ∃ t, Ends (v.setFrame { f with barriers := bs, barrsDone := true }) t e (past v e h w) ∧
          exec (.barrs h o) s = .next (t.settleBarriers e.c.fid)) ∧
      ((∀ bs, bs.length = e.f.barriers.length → BarriersOk bs warps → img ≠ barrierBytes bs warps) →
        Traps (.barrs h o) s v e .badImage (e.rdScalar o.b).toNat))

/-- `CAPSV` and `CAPRS` (R240): a capability register's own value sealed for the context, and read back; an image that this
device did not seal in this boot for this context is BAD_IMAGE (what its bytes are is free, log 10). -/
def Sys2Proof.Claims.sealedImages : Prop :=
  ∀ (s : State) (e : Env) (h : Hdr) (o : AluArgs) (d : Nat) (y : Xst) (lane off : Nat) (m : PMap), o.d = .k d → Acts s e h →
    let sealed := fun n => (List.range 64).map fun k => Config.sealByte n k
    let (v, w, _, ids) := imageAt y e o
    (imageCheck s e h o 64 .w = (y, .ok [⟨lane, off, some m⟩] []) → ids = [] →
      let u := { v with fresh := v.fresh + 1, seals := (v.fresh, e.l.ctx, sget Cap.null w.k d) :: v.seals }
      ImageStores (exec (.capsv h o) s) u { e with w := w } h (imageRef e o) m (sealed v.fresh) w) ∧
    (imageCheck s e h o 64 .r = (y, .ok [⟨lane, off, some m⟩] []) → ids = [] → ∀ img, imageBytes v e o 64 m img →
      (∀ p n c q, v.seals = p ++ (n, e.l.ctx, c) :: q → img = sealed n → (∀ x ∈ p, x.2.1 = e.l.ctx → img ≠ sealed x.1) →
        Completes (.caprs h o) s v e h (w.put (.k d c))) ∧
      ((∀ x ∈ v.seals, x.2.1 = e.l.ctx → img ≠ sealed x.1) → Traps (.caprs h o) s v e .badImage (e.rdScalar o.b).toNat))

/-- `CCSV` (R238) waits until nothing of the warp is outstanding and then writes its image, in which its pending errors end;
`.drain` only waits. `TRET.img` (R241) waits for the frame's `BARRS` and restores the warp from a whole image of it, the issued
flags ORed into its core's tags; outside a restore routine it is ILLEGAL_OP, and an image that is not whole, or whose latched
target was not sealed here, is BAD_IMAGE. The barriers are looked at again when it has ended, or a SAVE_REQ that waits is taken. -/
def Sys2Proof.Claims.warpImages : Prop :=
  ∀ (s : State) (e : Env) (h : Hdr) (o : AluArgs) (y : Xst) (lane off : Nat) (m : PMap), Acts s e h →
    let drained := e.w.ops = [] ∧ e.w.tagCnt = []
    let (v, w, _, ids) := imageAt y e o
    (¬drained → IsHeld (.ccsv h o) s e .drain ∧ IsHeld (.ccsvDrain h o) s e .drain) ∧
    (drained → Completes (.ccsvDrain h o) s s e h e.w) ∧
    (drained → imageCheck s e h o 1152 .w = (y, .ok [⟨lane, off, some m⟩] []) → ids = [] → WarpFits w e.l →
      let sealed := (List.range 64).map fun k => Config.sealByte v.fresh k
      let tagiss := ((List.range 64).map fun n => if (v.tag e.w.core n).issued then 2 ^ n else 0).sum
      let u := match w.dep with
        | some x => { v with fresh := v.fresh + 1, seals := (v.fresh, e.l.ctx, x.1) :: v.seals }
        | none => v
      ∃ bs, WarpBytes w e.l tagiss (if w.dep = none then List.replicate 64 0 else sealed) bs ∧
        ImageStores (exec (.ccsv h o) s) u { e with w := w } h (imageRef e o) m bs { w with errs := [] }) ∧
    (e.w.mode ≠ .restore → Traps (.tretImg h o) s s e .illegalOp (e.word0 s)) ∧
    (e.w.mode = .restore → imageCheck s e h o 1152 .r = (y, .ok [⟨lane, off, some m⟩] []) → ids = [] →
      ∀ img f, imageBytes v e o 1152 m img → v.frame? e.c.fid = some f →
      let cap := v.unseal e.l.ctx ((img.drop 0x50).take 64)
      let latched := (at_ img 0x19 1).testBit 3 = true
      let good := WholeImage w e.l img ∧ (latched → cap ≠ none)
      (¬good → Traps (.tretImg h o) s v e .badImage (e.rdScalar o.b).toNat) ∧
      (good → f.barrsDone = false → HeldIn (.tretImg h o) s v e w .barrs) ∧
      (good → f.barrsDone = true → swf {} v.tags = true → ∃ t x,
        Ends { v with tags := t.tags } t e (x.stalled s.now e.width h) ∧
        exec (.tretImg h o) s = .next (if w.saveReq then if t.committing e.c.fid then t else enterSave t e.c.fid (x.stalled s.now e.width h)
          else t.settleBarriers e.c.fid) ∧
        Restored { v with tags := t.tags } e.l img (if latched then cap.map fun c => (c, at_ img 0x48 8) else none) w x ∧
        ∀ core n, n < 64 → t.tag core n =
          if core = e.w.core ∧ (at_ img 0x40 8).testBit n = true then { v.tag core n with issued := true } else v.tag core n))

/-- `FLTQ` (R311) gives, with a latency of 4, the trap lanes (0 outside a trap routine), the failing lane (all ones where the
cause names none), the length, the held PC of a live lane (all ones for another), and a counter's pending error, which it
clears. -/
def Sys2Proof.Claims.trapQueries : Prop :=
  ∀ (s : State) (e : Env) (h : Hdr) (o : AluArgs) (d : Nat), (o.d = .s d ∨ o.d = .sp d) → Acts s e h →
    let b := (e.rdScalar o.b).toNat
    let y := e.w.lane (if e.l.prot then 2 * b else b)
    let res := fun i v => o.d = .s d → Completes i s s e h (e.w.post s.now 4 e.width [e.w.sWrite d v])
    (e.w.mode ≠ .trap → res (.fltqLanes h o) 0) ∧
    (e.w.mode = .trap → ∃ v, res (.fltqLanes h o) v ∧
      ((e.w.trap.lanes.Nodup ∧ ∀ k ∈ e.w.trap.lanes, k < 64) →
        ∀ k < 64, v.getLsbD k = true ↔ ∃ j ∈ e.w.trap.lanes, (e.l.prot = true → j % 2 = 0) ∧ laneNo e j = k)) ∧
    res (.fltqLane h o) (match e.w.trap.lane with | some l => BitVec.ofNat 64 l | none => allOnes64) ∧
    res (.fltqIlen h o) (BitVec.ofNat 64 e.w.trap.ilen) ∧
    res (.fltqRpc h o) (if b < (if e.l.prot then e.l.width / 2 else e.l.width) ∧ y.st = .live then BitVec.ofNat 64 y.heldPc else allOnes64) ∧
    (let two := fun x z => e.w.post s.now 4 e.width [e.w.sWrite d x, e.w.sWrite (d + 1) z]
     let clear := fun w : Warp => { w with errs := sset none b none w.errs }
     (∀ k a, sget none e.w.errs b = some (k, a) →
       Completes (.fltqErr h o) s s e h (clear (two (BitVec.ofNat 64 (k % 2 ^ 16 + 2 ^ 16)) (BitVec.ofNat 64 a)))) ∧
     (sget none e.w.errs b = none → Completes (.fltqErr h o) s s e h (clear (two 0 0))))

/-- Images of barriers, capabilities and warps, and the trap context (R238 to R241, R311). -/
def Obligations.SavingAndRestoring : Prop := imageTraps ∧ imageHoldsAndPoison ∧ barrierImages ∧ sealedImages ∧ warpImages ∧ trapQueries


/-! ### The Truss -/

namespace Sys2Proof.Claims

/-- The checks on a locator (R116, R118): `whole` for `TLD` and `TST`, `cap` where its rows lie behind a capability. -/
def LocatorOk (l : Locator) (reserved : Bool) (fmts : List Nat) (whole cap : Bool) : Prop :=
  reserved = false ∧ l.fmt ∈ fmts ∧ 1 ≤ l.vr ∧ l.vr ≤ 64 ∧ 1 ≤ l.vc ∧ l.vc ≤ (if whole = false ∧ l.fmt ≤ 1 then 32 else 64) ∧
    (l.reg = true → l.rpitch = 0 ∧ l.rot = 0 ∧ l.base < 1024 ∧ cap = false ∧ l.fmt ≤ 5) ∧ (cap = true → l.rot = 0)

/-- Every valid byte of some steps' rows lies in the scratchpad allocation (R117, R120). -/
def InScratch (l : Locator) (limit steps : Nat) : Prop :=
  l.reg = false → ∀ t < steps, ∀ i < l.vr, ∀ x ∈ l.spans, x.2 = 0 ∨ l.rowAddr t i + x.1 + x.2 ≤ limit

/-- Every register of some steps' rows lies in the allocation (R118). -/
def InRegs (l : Locator) (width vregs steps : Nat) : Prop :=
  l.reg = true → ∀ t < steps, ∀ i < l.vr, ∀ x ∈ l.spans, ∀ j < ceilDiv x.2 4, x.1 / 4 + j < l.rowRegs →
    l.rowReg width t i + x.1 / 4 + j < vregs

/-- Every valid byte of some rows lies in a capability that may be used so, and is current (R120, R172). -/
def InCap (s : State) (l : Locator) (rows : List Nat) (c : Cap) (bit : Nat) : Prop :=
  (c.view = 0 ∨ c.geom ≠ 0 ∧ bit = 0) ∧ (c.kind = 0 ∨ c.kind = 7) ∧ c.perm.getLsbD bit = true ∧ s.current c = true ∧
    ∀ i ∈ rows, l.base + i * l.rpitch + l.vc * colBytes l.fmt ≤ c.len

/-- A Truss instruction that queues an operation (R119, R120): its group, whether D may name a new slot, the work, whether a
guarded frame commits first, and the writes beside the handle. -/
structure TrussRow where
  h : Hdr
  x : ExtArgs
  g : Nat
  new : Bool
  work : TrussWork
  commits : Bool
  more : List RegWrite
  /-- the checks of R120 from item 3 on pass -/
  fine : Prop

/-- A locator pair's low word moved on by one step (R124). -/
def stepped (e : Env) (o : Opd) (l : Locator) : RegWrite :=
  e.w.sWrite o.raw (BitVec.ofNat 64 ((e.w.rdS o.raw).toNat / 2 ^ 32 * 2 ^ 32 + (((l.base : Int) + l.tpitch) % (2 ^ 32 : Int)).toNat))

/-- The Truss instructions that queue an operation. -/
def trussRow (s : State) (e : Env) : Instr → Option TrussRow
  | .mloop h x =>
    match x.x with
    | .loop g n p =>
      let (a, ra) := e.locator x.a
      let (b, rb) := e.locator x.b
      some { h, x, g, new := true, work := .loop a b (n + 1) 0 (x.sub == 1) p, commits := false, more := []
             fine := LocatorOk a ra (List.range 6) false false ∧ LocatorOk b rb (List.range 6) false false ∧ fmtClass a.fmt = fmtClass b.fmt ∧
               InRegs a e.width e.l.vregs (n + 1) ∧ InRegs b e.width e.l.vregs (n + 1) ∧ InScratch a e.l.scratch (n + 1) ∧ InScratch b e.l.scratch (n + 1) }
    | _ => none
  | .mstep h x =>
    match x.x with
    | .loop g _ p =>
      let (a, ra) := e.locator x.a
      let (b, rb) := e.locator x.b
      some { h, x, g, new := true, work := .loop a b 1 0 (x.sub == 1) p, commits := false, more := [stepped e x.a a, stepped e x.b b]
             fine := LocatorOk a ra (List.range 6) false false ∧ LocatorOk b rb (List.range 6) false false ∧ fmtClass a.fmt = fmtClass b.fmt ∧
               InRegs a e.width e.l.vregs 1 ∧ InRegs b e.width e.l.vregs 1 ∧ InScratch a e.l.scratch 1 ∧ InScratch b e.l.scratch 1 }
    | _ => none
  | .tld h x =>
    match x.x with
    | .tld g k =>
      let (a, ra) := e.locator x.a
      let c := e.w.rdK k
      some { h, x, g, new := true, work := .tld a (if k = 0 then none else some c)
             commits := e.l.guarded && k != 0 && c.cls == .strict, more := []
             fine := LocatorOk a ra [0, 1, 6, 7] true (k != 0) ∧ InRegs a e.width e.l.vregs 1 ∧
               (k = 0 → InScratch a e.l.scratch 1) ∧ (k ≠ 0 → InCap s a (List.range a.vr) c 0) }
    | _ => none
  | .tst h x =>
    match x.x with
    | .tst g k rnd sat rs cs msk act tbl start rel =>
      let (a, ra) := e.locator x.a
      let c := e.w.rdK k
      let int := x.sub == 1
      let b := if rs || cs then (e.rdScalar x.b).toNat else 0
      let rows := (List.range a.vr).filter fun i => start ≤ i
      let t := sget {} (s.bay e.f.bay).tables tbl
      let bank := if t.active then t.b1 else t.b0
      let row := fun i => if k = 0 then a.rowAddr 0 i else a.base + i * a.rpitch
      let size := a.vc * colBytes a.fmt
      let count := (row (a.vr - 1) + size + 63) / 64 * 64
      some { h, x, g, new := false
             work := .tst a (if k = 0 then none else some c) int rnd sat rs cs msk (if act then some bank else none) (b % 2 ^ 32) (b / 2 ^ 32) start rel
             commits := e.l.guarded && k != 0, more := []
             fine := LocatorOk a ra (if int then [4, 7] else [0, 1, 2, 3, 4, 6, 7]) true (k != 0) ∧ a.reg = false ∧ start < a.vr ∧
               (rs = true ∨ cs = true ∨ x.b.raw = 0) ∧
               (int = true → rs = false ∧ cs = false ∧ msk = false ∧ act = false ∧ rnd = .rn ∧ sat = false) ∧
               b % 2 ^ 32 % 4 = 0 ∧ b / 2 ^ 32 % 4 = 0 ∧
               (rs = true → b % 2 ^ 32 + 4 * start + 4 * rows.length ≤ e.l.scratch) ∧
               (cs = true → b / 2 ^ 32 + 4 * a.vc ≤ e.l.scratch) ∧
               (k = 0 → (∀ i ∈ rows, row i + size ≤ e.l.scratch) ∧ count + 4 ≤ e.l.scratch) ∧
               (k ≠ 0 → c.view = 0 ∧ InCap s a rows c 1 ∧ count + 4 ≤ c.len) ∧
               (act = true → bank.loaded = true ∧ bank.valid = true ∧ bank.owner = e.f.lid) }
    | _ => none
  | .tzero h x =>
    match x.x with
    | .grp g => some { h, x, g, new := true, work := .tzero, commits := false, more := [], fine := True }
    | _ => none
  | .tmask h x =>
    match x.x with
    | .grp g =>
      let a := (e.rdScalar x.a).toNat
      some { h, x, g, new := false, work := .tmask (some a), commits := false, more := [], fine := a < 2 ^ 32 ∧ a + 512 ≤ e.l.scratch }
    | _ => none
  | .tmaskClr h x =>
    match x.x with
    | .grp g => some { h, x, g, new := false, work := .tmask none, commits := false, more := [], fine := True }
    | _ => none
  | _ => none

/-- The handle of a slot (Table 6.1). -/
def handle (bay n : Nat) : Nat := 2 ^ 15 + 2 ^ 8 * bay + n

/-- A register names a slot that the frame owns and has not released (R113). -/
def Names (b : Bay) (bay fid v n : Nat) : Prop :=
  v = handle bay n ∧ n < 128 ∧ ∃ x, b.slot? n = some x ∧ x.owner = fid ∧ x.released = false

/-- The lowest free slot of a bay (R112). -/
def LowestFree (b : Bay) (n : Nat) : Prop := n < 128 ∧ b.slot? n = none ∧ ∀ j < n, b.slot? j ≠ none

end Sys2Proof.Claims

/-- The Truss instructions (R119 to R121, R124, R128, R129): held while the counter or the group's queue is full; ILLEGAL_FIELD
for a warp outside the group; SLOT_BAD for a register that names no slot of the frame; a check of R120 that fails traps;
SLOTS_EXHAUSTED where a new slot is asked for and none is free. Else the instruction completes: it allocates the lowest free
slot if D asks for one, writes its handle, enrols an operation and puts it at the end of its group's queue, with memory and
registers as they are (R122); what its warp accessed and it must come after is performed first (R211), a guarded frame
committing for a `TST` through a capability or a strict `TLD` (R123, R325). -/
def Sys2Proof.Claims.trussIssues : Prop :=
  ∀ (s : State) (e : Env) (i : Instr) (r : TrussRow) (c d : Nat), trussRow s e i = some r → r.x.fin = .ctr c → r.x.d = .s d →
    Acts s e r.h → e.f.bay < 64 → 0 < e.l.width →
    let b := s.bay e.f.bay
    let v := (e.w.rdS d).toNat
    let asks := r.new = true ∧ v = 0xFFFF
    let named := ∃ n, Names b e.f.bay e.c.fid v n
    (63 ≤ e.w.outstanding c → IsHeld i s e (.ctrRoom c)) ∧
    (e.w.outstanding c < 63 →
      (b.room e.c.fid r.g = false → IsHeld i s e (.trussRoom r.g)) ∧
      (b.room e.c.fid r.g = true →
        (e.w.idx ∉ e.members r.g → Traps i s s e .illegalField (e.word0 s)) ∧
        (e.w.idx ∈ e.members r.g →
          (¬asks → ¬named → Traps i s s e .slotBad v) ∧
          (asks ∨ named →
            (¬r.fine → ∃ k y, Traps i s s e k y) ∧
            (r.fine →
              (asks → (∀ n < 128, b.slot? n ≠ none) → Traps i s s e .slotsExhausted 0) ∧
              ∀ n, (if asks then LowestFree b n else Names b e.f.bay e.c.fid v n) →
                let (u, ids) := committed s e (r.commits = true)
                let all := match r.work with | .tst .. => true | .tld _ (some c) => c.cls == .strict | _ => false
                let (v, w) := performBefore u e.c.fid e.w all
                let b' := if asks then { b with slots := (n, { owner := e.c.fid }) :: b.slots } else b
                let op : TrussOp := { id := v.fresh, fid := e.c.fid, widx := e.w.idx, ctr := c, slot := n, work := r.work, pc := e.c.pc
                                      old := v.memOf e.c.fid, oldV := w.wc.v }
                let w := w.enrol { id := v.fresh, ctr := c, from_ := v.now, done := false }
                let w := match r.work with | .tld .. => { w with trussFault := none } | .tst .. => { w with trussFault := none } | _ => w
                (ids ≠ [] → HeldIn i s u e e.w (.buffer ids)) ∧
                (ids = [] → Completes i s ({ v with fresh := v.fresh + 1 }.setBay e.f.bay (b'.enqueue e.c.fid r.g s.now op)) e r.h
                  (w.post s.now 4 e.width ((if asks then [e.w.sWrite d (BitVec.ofNat 64 (handle e.f.bay n))] else []) ++ r.more))))))))

/-- A group's queue: an operation goes to its end, behind those before it, and makes an entry where there is none; there is
room for 8 operations of a group and 32 entries of a bay (R119). -/
def Sys2Proof.Claims.trussQueues : Prop :=
  ∀ (b : Bay) (fid g now : Nat) (o : TrussOp),
    (∀ x, b.entry? fid g = some x → (b.room fid g = true ↔ x.ops.length < 8) ∧
      (b.enqueue fid g now o).entry? fid g = some { x with ops := x.ops ++ [o] }) ∧
    (b.entry? fid g = none → (b.room fid g = true ↔ b.entries.length < 32) ∧
      (b.enqueue fid g now o).entry? fid g = some { fid := fid, group := g, created := now, ops := [o] }) ∧
    ∀ fid' g', (fid', g') ≠ (fid, g) → (b.enqueue fid g now o).entry? fid' g' = b.entry? fid' g'

/-- `TREL` releases the slot that D names: it is free when no queued operation names it; a register that names none is SLOT_BAD
(R112, R128). `TQRY` gives, with a latency of 8, the free slots, the slots the frame owns, the latest fault of a tile
operation, and the steps that its group has queued (R133). -/
def Sys2Proof.Claims.slotsAndQueries : Prop :=
  ∀ (s : State) (e : Env) (h : Hdr) (x : ExtArgs) (d : Nat), (x.d = .s d ∨ x.d = .sp d) → Acts s e h → e.f.bay < 64 →
    let b := s.bay e.f.bay
    let v := (e.w.rdS d).toNat
    let res := fun i v => Completes i s s e h (e.w.post s.now 8 e.width [e.w.sWrite d v])
    ((∀ n, ¬Names b e.f.bay e.c.fid v n) → Traps (.trel h x) s s e .slotBad v) ∧
    (∀ n, Names b e.f.bay e.c.fid v n → ∃ b', Completes (.trel h x) s (s.setBay e.f.bay b') e h e.w ∧ b'.entries = b.entries ∧
      let busy := fun k => ∃ y ∈ b.entries, ∃ o ∈ y.ops, o.slot = k
      (busy n → ∃ z, b'.slot? n = some z ∧ z.released = true) ∧
      ((b.slots.map Prod.fst).Nodup → ¬busy n → b'.slot? n = none) ∧
      ((b.slots.map Prod.fst).Nodup → ∀ k z, k ≠ n → b.slot? k = some z → (z.released = false ∨ busy k) → b'.slot? k = some z)) ∧
    (x.d = .s d →
      res (.tqryFree h x) (BitVec.ofNat 64 ((List.range 128).filter fun n => b.slot? n = none).length) ∧
      res (.tqryFault h x) (match e.w.trussFault with
        | some (k, row) => BitVec.ofNat 64 (k * 2 ^ 16 + 2 ^ 15 + row % 128)
        | none => 0) ∧
      ∀ g, x.a = .g g → res (.tqryPend h x) (match b.entry? e.c.fid g with
        | some y => BitVec.ofNat 64 (y.ops.map fun o => match o.work with
            | .loop _ _ n done _ _ => n - done
            | _ => if o.fin then 0 else 1).sum
        | none => 0)) ∧
    (x.d = .sp d → ∃ lo hi, Completes (.tqrySlots h x) s s e h (e.w.post s.now 8 e.width [e.w.sWrite d lo, e.w.sWrite (d + 1) hi]) ∧
      ∀ n < 64, (lo.getLsbD n = true ↔ ∃ y, b.slot? n = some y ∧ y.owner = e.c.fid ∧ y.released = false) ∧
        (hi.getLsbD n = true ↔ ∃ y, b.slot? (64 + n) = some y ∧ y.owner = e.c.fid ∧ y.released = false))

namespace Sys2Proof.Claims

/-- The elements of a row of an operand tile (R125, Table 6.4): floats of the format, or E2M1 codes with a scale for 32. -/
def tileRow (s : State) (q : TrussSrc) (l : Locator) (t i n : Nat) : List XVal :=
  let bytes := fun o k => s.chunk q l t i o k
  let f : Fmt := if l.fmt = 0 then .bf16 else if l.fmt = 1 then .f16 else if l.fmt = 2 then .e4m3 else .e5m2
  let size := if l.fmt ≤ 1 then 2 else 1
  (List.range n).map fun k =>
    if l.fmt = 5 then
      let c := ((bytes 0 (ceilDiv n 2)).getD (k / 2) 0).toNat / 16 ^ (k % 2) % 16
      let x := ((bytes 64 (ceilDiv n 32)).getD (k / 32) 0).toNat
      if x = 255 then .nan else (Fmt.e2m1.value c).scale ((x : Int) - 127)
    else f.value (ofLe (((bytes 0 (n * size)).drop (k * size)).take size))

/-- The elements of a step that count: both operands' valid ones (R125). -/
def depth (a b : Locator) : Nat := min (if a.fmt = 5 then 2 * a.vc else a.vc) (if b.fmt = 5 then 2 * b.vc else b.vc)

/-- An accumulator word after a step (R126): the exact sum of the products, then one addition rounded to the nearest even;
for INT8 the sum modulo 2^32. -/
def accumulated (s : State) (q : TrussSrc) (a b : Locator) (t m n : Nat) (x : W32) : W32 :=
  let k := depth a b
  if a.fmt = 4 then
    x + BitVec.ofInt 32 (List.zipWith (fun y z : Byte => y.toInt * z.toInt) (s.chunk q a t m 0 k) (s.chunk q b t n 0 k)).sum
  else
    let sum := (List.zipWith XVal.mul (tileRow s q a t m k) (tileRow s q b t n k)).foldl (XVal.add false) (.fin true 0 1)
    BitVec.ofNat 32 (convertF (XVal.add false (Fmt.f32.value x.toNat) sum) .f32 .rn false 0).1

/-- A word of an accumulator tile after steps `t` to `t + n − 1` (R124, R126). -/
def afterSteps (s : State) (q : TrussSrc) (a b : Locator) (zero : Bool) (m k : Nat) : Nat → Nat → W32 → W32
  | _, 0, x => x
  | t, n + 1, x =>
    let x := if zero && t = 0 then 0 else x
    afterSteps s q a b zero m k (t + 1) n (if m < a.vr ∧ k < b.vr then accumulated s q a b t m k x else x)

/-- One element of a `TST` (R130, R131): its code and whether it was clamped. -/
def storedElem (fmt : Nat) (int : Bool) (rnd : Rnd) (sat : Bool) (x : W32) (rs cs : Option W32) (masked : Bool)
    (act : Option ActBank) (r : W32) : Nat × Nat :=
  let round := fun v => Fmt.f32.value (convertF v .f32 .rn false 0).1
  let scaled := fun v k => match k with | some (y : W32) => round (v.mul (Fmt.f32.value y.toNat)) | none => v
  if int then if fmt = 7 then (x.toNat, 0) else
    if x.toInt < -128 then (0x80, 1) else if 127 < x.toInt then (0x7F, 1) else ((x.toInt % 256).toNat, 0)
  else
    let v := scaled (scaled (Fmt.f32.value x.toNat) rs) cs
    let v := if masked then .inf true else v
    let v := match act with | some b => Fmt.f32.value (factValue b (BitVec.ofNat 32 (convertF v .f32 .rn false 0).1)).toNat | none => v
    if fmt = 4 then let (y, n) := convertI v ⟨8, true⟩ rnd r; ((y % 256).toNat, n)
    else if fmt = 7 then let (y, n) := convertI v ⟨32, true⟩ rnd r; ((y % 2 ^ 32).toNat, n)
    else convertF v (if fmt = 0 then .bf16 else if fmt = 1 then .f16 else if fmt = 2 then .e4m3 else if fmt = 3 then .e5m2 else .f32) rnd sat r

end Sys2Proof.Claims

/-- `TRUSS_GRANT` (R119, R126, R128, R130, R131, R229): the pass of an entry's head, at its beginning or, of a tile operation, as
a whole. A loop runs up to 16 of its steps; `TZERO` clears the slot; `TMASK` takes 512 bytes of scratchpad as the mask, or none;
`TLD` from scratchpad fills the tile, +0 beyond the valid part; `TST` to scratchpad writes the valid rows from its first and
the count of clamped elements. Every other entry loses a pass. With nothing queued nothing happens. -/
def Sys2Proof.Claims.trussGrants : Prop :=
  (∀ (s : State) (bay : Nat), (s.bay bay).entries = [] → exec (.trussGrant bay) s = .next s) ∧
  ∀ (s : State) (bay : Nat) (x : TrussEntry) (o : TrussOp) (ops : List TrussOp) (f : Frame) (l : Launch) (w : Warp) (sl : Slot),
    (s.bay bay).nextEntry s = some x → x.ops = o :: ops → s.frame? x.fid = some f → s.launch? f.lid = some l → f.warp? o.widx = some w →
    (s.bay bay).slot? o.slot = some sl → (s.bay bay).entry? x.fid x.group = some x → o.busy = false → o.paused = none → o.row = 0 → o.err = none → w.run = none →
    swf {} s.bays = true →
    let q : TrussSrc := ⟨o.fid, w, o.id, o.old, o.oldV⟩
    ∃ t sl' o', exec (.trussGrant bay) s = .next t ∧ (t.bay bay).slot? o.slot = some sl' ∧ sl'.owner = sl.owner ∧
      ((t.bay bay).entry? x.fid x.group = some { x with ops := o' :: ops, loss := 0, urgentAt := none }) ∧
      ((∀ a c int rnd sat rs cs msk act ro co start rel, o.work ≠ .tst a c int rnd sat rs cs msk act ro co start rel) →
        (∀ a c, o.work ≠ .tld a (some c)) → t.mem = s.mem ∧ t.frames = s.frames) ∧
      (∀ y ∈ (s.bay bay).entries, (y.fid, y.group) ≠ (x.fid, x.group) → ∃ z ∈ (t.bay bay).entries, z.fid = y.fid ∧ z.group = y.group ∧
        z.ops = y.ops ∧ z.loss = y.loss + 1) ∧
      (∀ a b n done zero p, o.work = .loop a b n done zero p → a.fmt < 6 → b.fmt < 6 → fmtClass a.fmt = fmtClass b.fmt →
        let k := min 16 (n - done)
        o' = { o with work := .loop a b n (done + k) zero p, fin := done + k == n } ∧ sl'.mask = sl.mask ∧
        ∀ i j, i < 64 → j < 64 → sget 0 sl'.words (64 * i + j) = afterSteps s q a b zero i j done k (sget 0 sl.words (64 * i + j))) ∧
      (o.work = .tzero → o' = { o with fin := true } ∧ sl' = { sl with words := [] }) ∧
      (o.work = .tmask none → o' = { o with fin := true } ∧ sl' = { sl with mask := [] }) ∧
      (∀ a, o.work = .tmask (some a) → o' = { o with fin := true } ∧ sl'.words = sl.words ∧ ∀ n < 4096, sget false sl'.mask n =
        (s.raced q 0 ((Region.scratch o.fid).at a + n / 8)).getLsbD (n % 8)) ∧
      (∀ a, o.work = .tld a none → swf 0 sl.words = true → o' = { o with fin := true, row := 64 } ∧ sl'.mask = sl.mask ∧
        ∀ i j, i < 64 → j < 64 → sget 0 sl'.words (64 * i + j) =
          if i < a.vr ∧ j < a.vc then
            let n := colBytes a.fmt
            let y := ofLe (((s.chunk q a 0 i 0 (a.vc * n)).drop (j * n)).take n)
            if 6 ≤ a.fmt then BitVec.ofNat 32 y else BitVec.ofNat 32 (convertF ((tileFmt a.fmt).value y) .f32 .rn false 0).1
          else 0) ∧
      ∀ a int rnd sat rs cs msk act ro co start rel, o.work = .tst a none int rnd sat rs cs msk act ro co start rel → start < a.vr →
        let word := fun off => BitVec.ofNat 32 (ofLe (s.racedBytes q 0 ((Region.scratch o.fid).at off) 4))
        let elem := fun i j => storedElem a.fmt int rnd sat (sget 0 sl.words (64 * i + j)) (if rs then some (word (ro + 4 * i)) else none)
          (if cs then some (word (co + 4 * j)) else none) (msk && sget false sl.mask (64 * i + j)) act
          (Config.randomOperand (o.id * 4096 + 64 * i + j))
        let rows := (List.range a.vr).filter fun i => start ≤ i
        let cols := List.range a.vc
        let m := rows.foldl (fun m i => writeBytes m ((Region.scratch o.fid).at (a.rowAddr 0 i))
          (cols.flatMap fun j => leBytes (colBytes a.fmt) (elem i j).1)) s.mem
        let count := (rows.map fun i => (cols.map fun j => (elem i j).2).sum).sum
        sl' = sl ∧ o'.fin = true ∧ o'.err = none ∧ t.frames = s.frames ∧
          t.mem = writeNat m ((Region.scratch o.fid).at ((a.rowAddr 0 (a.vr - 1) + a.vc * colBytes a.fmt + 63) / 64 * 64)) 4 count

/-- What an operation reads (R117, R118, R122): of the scratchpad the bytes of a row's chunk from its address on, and of a register
locator the bytes of the row's registers in its lane; each 32-bit word either as it was when the operation issued or as it is
now, chosen anew for each word and each step. -/
def Sys2Proof.Claims.trussReads : Prop :=
  (∀ (s : State) (q : TrussSrc) (t k : Nat), ∃ m, (m = q.old ∨ m = s.mem) ∧ ∀ a, a / 4 = k → s.raced q t a = readByte m a) ∧
  (∀ (q : TrussSrc) (t r l : Nat), q.word t r l = sget 0 q.oldV (64 * r + l) ∨ q.word t r l = q.w.rdV r l) ∧
  (∀ (s : State) (q : TrussSrc) (l : Locator) (t i o n j : Nat), l.reg = false → j < n →
    (s.chunk q l t i o n)[j]? = some (s.raced q t ((Region.scratch q.fid).at (l.rowAddr t i + o) + j))) ∧
  ∀ (s : State) (q : TrussSrc) (l : Locator) (t i o n j : Nat), l.reg = true → j < n → (o + j) / 4 < (if l.fmt = 5 then 17 else 16) →
    let width := q.w.wc.lanes.length
    (s.chunk q l t i o n)[j]? = some (BitVec.ofNat 8
      ((q.word t (l.rowReg width t i + (o + j) / 4) (i % width)).toNat / 256 ^ ((o + j) % 4)))

/-- A row of a `TLD` or `TST` through a capability (R128, R130, R132, R321): its page is translated again; an absent one pauses the
operation at the row, another fault ends it there with the row's number; else a `TLD` fills the row of the slot from the bytes,
each word old or new, a column that a bad line reaches with all ones, and a `TST` writes the row's bytes, or after the last the
overflow count. -/
def Sys2Proof.Claims.tileRows : Prop :=
  ∀ (s : State) (f : Frame) (l : Launch) (q : TrussSrc) (a : Locator) (c : Cap) (n : Nat) (o : TrussOp) (sl : Slot),
    (let size := a.vc * colBytes a.fmt
     let r : MemRef := { cap := c, off := a.base + o.row * a.rpitch }
     let fill := fun (t : State) (ws : Nat → W32) => tldRows f l q a (some c) n t { o with row := o.row + 1 } { sl with
       words := ssetMany 0 sl.words ((List.range 64).map fun j => (64 * o.row + j, ws j)) }
     (a.vr ≤ o.row → tldRows f l q a (some c) (n + 1) s o sl = fill s fun _ => 0) ∧
     (o.row < a.vr → ∀ x y, (Xst.mk s q.w).move f l r size .r = (x, y) →
       (∀ p ps, y = .absent (p :: ps) → tldRows f l q a (some c) (n + 1) s o sl = .paused s o sl p) ∧
       (∀ k v, y = .trap k v → tldRows f l q a (some c) (n + 1) s o sl = .ended s { o with fin := true, err := some (k.code, v, o.row) } sl) ∧
       ∀ pm, y = .ok pm → 0 < size →
         let as := x.s.physRead r size pm
         let now := x.s.fetch f r size pm
         let old := { x.s with mem := q.old }.fetch { f with fsb := [] } r size pm
         ∃ bs : List Byte, bs.length = size ∧ (∀ k, ∃ from_, (from_ = now ∨ from_ = old) ∧ ∀ j < size, (r.off + j) / 4 = k → bs.getD j 0 = from_.getD j 0) ∧
           let elem := fun j =>
             let z := ofLe ((bs.drop (j * colBytes a.fmt)).take (colBytes a.fmt))
             if 6 ≤ a.fmt then BitVec.ofNat 32 z else BitVec.ofNat 32 (convertF ((tileFmt a.fmt).value z) .f32 .rn false 0).1
           ((∀ b ∈ as, x.s.lineBad b = false) →
             tldRows f l q a (some c) (n + 1) s o sl = fill x.s fun j => if j < a.vc then elem j else 0) ∧
           (as.length = size → ∀ i b, as[i]? = some b → x.s.lineBad b = true → (∀ j < i, ∀ b, as[j]? = some b → x.s.lineBad b = false) →
             let hit := fun j => decide (∃ k < colBytes a.fmt, ∃ b ∈ as[j * colBytes a.fmt + k]?, x.s.lineBad b = true)
             tldRows f l q a (some c) (n + 1) s o sl = fill (consumed (x.s.lineError b 3) l ⟨o.fid, o.widx⟩ (r.off + i - b % 64))
               fun j => if a.vc ≤ j then 0 else if hit j then 0xFFFFFFFF#32 else elem j))) ∧
    ∀ start,
     let count := o.row = a.vr
     let off := if count then (a.base + (a.vr - 1) * a.rpitch + a.vc * colBytes a.fmt + 63) / 64 * 64 else a.base + o.row * a.rpitch
     let bs := if count then leBytes 4 o.count else o.out.getD (o.row - start) []
     ∀ x y, (Xst.mk s q.w).move f l { cap := c, off := off } bs.length .w = (x, y) →
       (∀ p ps, y = .absent (p :: ps) → tstWrite f l q a (some c) start (n + 1) s o sl = .paused s o sl p) ∧
       (∀ k v, y = .trap k v → tstWrite f l q a (some c) start (n + 1) s o sl = .ended s { o with fin := true, err := some (k.code, v, o.row) } sl) ∧
       ∀ pm, y = .ok pm →
         let as := x.s.physOf { cap := c, off := off } bs.length pm
         tstWrite f l q a (some c) start (n + 1) s o sl = tstWrite f l q a (some c) start n
           ({ x.s with mem := writeCells x.s.mem (as.zip bs) }.heal as) { o with row := o.row + 1 } sl

/-- A bad line that an operation in flight consumes (R321, R323): a guarded frame is relaunched, another frame's warp takes POISON
at its next boundary. A paused pass keeps the Truss, its operation busy, and asks for its page (R132, R134, R319). -/
def Sys2Proof.Claims.trussFaults : Prop :=
  (∀ (s : State) (l : Launch) (i : WarpId) (off : Nat), consumed s l i off =
    if l.guarded then startRelaunch s i.fid .poison
    else s.modWarp i fun w => { w with late := if w.late = none then some ⟨Cause.poison.code, off⟩ else w.late }) ∧
  ∀ (s : State) (bay : Nat) (x : TrussEntry) (o : TrussOp) (ops : List TrussOp) (f : Frame) (l : Launch) (w : Warp) (sl : Slot),
    (s.bay bay).nextEntry s = some x → x.ops = o :: ops → s.frame? x.fid = some f → s.launch? f.lid = some l → f.warp? o.widx = some w →
    (s.bay bay).slot? o.slot = some sl →
    let u := if o.busy then s else s.setBay bay ((s.bay bay).counted x.fid x.group)
    ∀ v o' sl' p, trussPass u f l w o sl = .paused v o' sl' p →
      ∃ g, g.num = v.fresh ∧ g.party = .truss o.id ∧ g.ctx = l.ctx ∧ g.recs = [(p.page, p.write, p.stage2, true, 0, o.pc)] ∧
        exec (.trussGrant bay) s = .next ({ v with fresh := v.fresh + 1, pages := v.pages ++ [g] }.trussPut bay x.fid x.group
          { o' with busy := true, paused := some g.num } sl')

/-- `TRUSS_OP_COMPLETE` (R112, R121, R132): a finished head leaves its queue, its counter's operation is done with the fault that
stopped it, a `TST` with REL and no fault releases its slot, and an entry without operations goes. -/
def Sys2Proof.Claims.trussCompletes : Prop :=
  ∀ (s : State) (bay : Nat), swf {} s.bays = true →
    let b := s.bay bay
    let isOver := fun (x : TrussEntry) => ∃ o r, x.ops = o :: r ∧ o.fin = true
    ((∀ x ∈ b.entries, ¬isOver x) → exec (.trussOpComplete bay) s = .next s) ∧
    ∀ p x q o r, b.entries = p ++ x :: q → (∀ y ∈ p, ¬isOver y) → x.ops = o :: r → o.fin = true →
      (∀ y ∈ p ++ q, (y.fid, y.group) ≠ (x.fid, x.group) ∧ y.ops ≠ []) →
      ∃ u : State, exec (.trussOpComplete bay) s = .next u.settleDone ∧
        (u.bay bay).entries = p ++ (if r = [] then [] else [{ x with ops := r }]) ++ q ∧
        (∀ w, s.warp? ⟨o.fid, o.widx⟩ = some w →
          let ended := fun y : CtrOp => { y with done := true, err := o.err.map fun z => (z.1, z.2.1) }
          u.warp? ⟨o.fid, o.widx⟩ = some { w with ops := modifyFirst (fun y => y.id == o.id) ended w.ops }) ∧
        (∀ k z, b.slot? k = some z → z.released = false → (k ≠ o.slot ∨ ∀ a c int rnd sat rs cs msk act ro co start rel,
          o.work = .tst a c int rnd sat rs cs msk act ro co start rel → rel = false ∨ o.err ≠ none) → (u.bay bay).slot? k = some z) ∧
        u.mem = s.mem

/-- The Truss: issue, queues, slots, passes and completion (R110 to R134, R229). -/
def Obligations.Truss : Prop :=
  trussIssues ∧ trussQueues ∧ slotsAndQueries ∧ trussReads ∧ trussGrants ∧ tileRows ∧ trussFaults ∧ trussCompletes


/-! ### Text engines -/

namespace Sys2Proof.Claims

/-- The engine instructions that read a descriptor, by opcode (R136). -/
def descRow : Instr → Option (Hdr × ExtArgs × Eng × Nat)
  | .infl h x => some (h, x, .inflate, 0xD0)
  | .xcod h x => some (h, x, .transcode, 0xD1)
  | .tokz h x => some (h, x, .tokenise, 0xD2)
  | .dtok h x => some (h, x, .tokenise, 0xD3)
  | .sfcomp h x => some (h, x, .scarf, 0xDB)
  | .sfscan h x => some (h, x, .scarf, 0xDC)
  | .sfmask h x => some (h, x, .scarf, 0xDD)
  | .sfstop h x => some (h, x, .scarf, 0xDE)
  | _ => none

/-- The Mortise instructions (R152 to R157): the job, and the range checked at issue. -/
def mortiseRow (s : State) (e : Env) : Instr → Option (Hdr × ExtArgs × JobWork × List (Cap × Nat × Nat × Acc))
  | .mxopen h x => match x.x with | .mxbits b => some (h, x, .mxopen (e.rdCap x.a) b, []) | _ => none
  | .mxapp h x => some (h, x, .mxapp (e.rdScalar x.a).toNat (e.rdScalar x.b).toNat, [])
  | .mxlook h x =>
    match x.x with
    | .mxlook n k =>
      let off := (e.rdScalar x.b).toNat
      some (if x.m0 then (h, x, .mxlook (e.rdScalar x.a).toNat n (some (e.w.rdK k, off)) 0, [(e.w.rdK k, off, 4 * n, .w)])
        else (h, x, .mxlook (e.rdScalar x.a).toNat n none x.b.raw, []))
    | _ => none
  | .mxsave h x =>
    match x.x with
    | .mxcap k =>
      let v := (e.rdScalar x.a).toNat
      let off := (e.rdScalar x.b).toNat
      let d := s.die (dieOf e.f.bay)
      some (h, x, .mxsave v (e.w.rdK k) off,
        if (d.named (dieOf e.f.bay) e.l.ctx v).isSome then [(e.w.rdK k, off, 64 + 2 ^ ((d.handle (v % 4096)).bits + 6), .w)] else [])
    | _ => none
  | .mxload h x => match x.x with | .mxcap k => some (h, x, .mxload (e.rdCap x.a) (e.w.rdK k) (e.rdScalar x.b).toNat, []) | _ => none
  | .mxdrop h x => some (h, x, .mxdrop (e.rdScalar x.a).toNat, [])
  | _ => none

/-- A range that a job names may be used (R136, R172). -/
def RangeOk (s : State) (r : Cap × Nat × Nat × Acc) : Prop :=
  let (c, off, n, acc) := r
  n = 0 ∨ off + n ≤ c.len ∧ (c.kind = 0 ∨ c.kind = 7) ∧ c.perm.getLsbD (match acc with | .r => 0 | .w => 1 | .a => 2) = true ∧
    (c.view = 0 ∨ c.geom ≠ 0 ∧ acc = .r) ∧ s.current c = true

/-- The job of an issue enters its die's queue and its operation is enrolled on the counter or counted on the tag (R136); its
warp's reads, and what a fence or a strict access puts first, are performed before it (R211), and words it reads may later be
as they were in memory then (R139). -/
def Submits (i : Instr) (s : State) (e : Env) (h : Hdr) (x : ExtArgs) (eng : Eng) (work : JobWork) (u : State) (w : Warp) : Prop :=
  let (u, w) := performBefore u e.c.fid w false
  let die := dieOf e.f.bay
  let d := u.die die
  let j : Job :=
    { jid := 2 ^ 29 * die + d.accepted % 2 ^ 29, ctx := e.l.ctx, fid := e.c.fid, widx := e.w.idx, pc := e.c.pc, eng, fin := x.fin
      opId := u.fresh, core := e.w.core, dreg := x.d.raw, bank := e.w.mode != .user && decide (92 ≤ x.d.raw), width := e.l.width
      paired := e.l.prot, encver := e.l.encver, bay := e.f.bay, work, from_ := u.now, old := u.mem }
  let u' := { u with fresh := u.fresh + 1 }.setDie die { d with jobs := d.jobs ++ [j], accepted := d.accepted + 1 }
  (∀ c, x.fin = .ctr c → Completes i s u' e h { w with ops := w.ops ++ [{ id := u.fresh, ctr := c, from_ := u.now, done := false }] }) ∧
  ∀ t, x.fin = .tag t →
    let g := u.tag e.w.core t
    Completes i s (u'.setTag e.w.core t { g with count := g.count + 1, issued := true }) e h
      { w with tagCnt := sset 0 t (sget 0 w.tagCnt t + 1) w.tagCnt }

/-- A submission can go on now: room in the die's queue and on its counter or tag (R136). -/
def Room (s : State) (e : Env) (fin : Done) : Prop :=
  (s.die (dieOf e.f.bay)).jobs.length < 64 ∧ (∀ c, fin = .ctr c → e.w.outstanding c < 63) ∧
    (∀ t, fin = .tag t → (s.tag e.w.core t).count < 4095)

/-- What both lanes of a pair show the comparison of R331: the offset that the instruction names. -/
def offsetShown (e : Env) (h : Hdr) (x : ExtArgs) (l : Nat) : Option (Int × List Byte) :=
  if l ∈ e.exec h then some (((e.rdScalar x.b).toNat : Int), []) else none

end Sys2Proof.Claims

/-- The engine instructions (R136, R179, R184, R325, R327, R331): a full die queue, counter or tag holds; a pair of which one lane
executes and the other does not is SHADOW_MISMATCH; then a guarded frame commits, and waits for its copies issued before; a
descriptor is read as two blocks of 32 bytes, which trap as accesses do; a named range that may not be used traps; else the
instruction completes with its job at the end of the queue. -/
def Sys2Proof.Claims.jobSubmits : Prop :=
  ∀ (s : State) (e : Env) (i : Instr) (h : Hdr) (x : ExtArgs), Acts s e h → x.fin ≠ .none →
    let (u, ids) := committed s e True
    (∀ work ranges, mortiseRow u e i = some (h, x, work, ranges) →
      (¬Room s e x.fin → ∃ y, IsHeld i s e y) ∧
      (Room s e x.fin →
        (¬PairsAgree e (offsetShown e h x) → ∃ a, Traps i s s e .shadowMismatch a) ∧
        (PairsAgree e (offsetShown e h x) →
          (ids ≠ [] → HeldIn i s u e e.w (.buffer ids)) ∧
          (ids = [] → (∃ r ∈ ranges, ¬RangeOk u r) → ∃ k v, Traps i s u e k v) ∧
          (ids = [] → (∀ r ∈ ranges, RangeOk u r) → Submits i s e h x .mortise work u e.w)))) ∧
    ∀ eng op, descRow i = some (h, x, eng, op) →
      let a := (e.rdScalar x.b).toNat / 64 * 64
      let ref := fun o : Nat => { cap := e.rdCap x.a, off := o : MemRef }
      let lane := e.c.lanes.headD 0
      let chk := Xst.lanes e 32 32 ref { acc := .r } [(lane, some (a : Int)), (lane, some ((a + 32 : Nat) : Int))] ⟨u, e.w⟩ [] []
      (¬Room s e x.fin → ∃ y, IsHeld i s e y) ∧
      (Room s e x.fin →
        (¬PairsAgree e (offsetShown e h x) → ∃ v, Traps i s s e .shadowMismatch v) ∧
        (PairsAgree e (offsetShown e h x) → (ids ≠ [] → HeldIn i s u e e.w (.buffer ids)) ∧
        (ids = [] → (∀ y c v l, chk = (y, .trap c v l) → Traps i s u e c v (some (laneNo e l))) ∧
        ∀ y m n, chk = (y, .ok [⟨lane, a, some m⟩, ⟨lane, a + 32, some n⟩] []) →
          let as := y.s.physRead (ref a) 32 m ++ y.s.physRead (ref (a + 32)) 32 n
          let z := (y.s.setWarp e.c.fid y.w).performOlder ⟨e.c.fid, e.w.idx⟩ y.s.fresh as false
          let w := (z.warp? ⟨e.c.fid, e.w.idx⟩).getD y.w
          (∀ b ∈ as, z.lineBad b = false) →
          let f := (z.frame? e.c.fid).getD e.f
          let d := z.fetch f (ref a) 32 m ++ z.fetch f (ref (a + 32)) 32 n
          let cap := fun o => if at_ d o 1 % 32 = 0 then Cap.null else w.rdK (at_ d o 1 % 32)
          let range := fun (kb off len : Nat) (acc : Acc) => if at_ d len 8 < 2 ^ 32 ∧ at_ d kb 1 % 32 ≠ 0 then [(cap kb, at_ d off 8, at_ d len 8, acc)] else []
          let ranges := range 8 16 24 .r ++ range 11 32 40 .w
          let tab := if op = 0xD0 then Cap.null else if op = 0xD1 then cap 50 else cap 48
          let v := z.setWarp e.c.fid w
          ((∃ r ∈ ranges, ¬RangeOk v r) → ∃ k x, Traps i s v { e with w := w } k x) ∧
          ((∀ r ∈ ranges, RangeOk v r) → Submits i s { e with w := w } h x eng (.desc op d (cap 8) (cap 11) tab) v w))))

/-- `MXSTAT` (R156) gives, with a latency of 16, what a handle's registers held when its last job completed: the latest match,
the tokens, the entries in use; a register that names no open handle of the context gives HANDLE_BAD. -/
def Sys2Proof.Claims.mxstatResults : Prop :=
  ∀ (s : State) (e : Env) (h : Hdr) (x : ExtArgs) (d : Nat), x.d = .s d → Acts s e h →
    let v := (e.rdScalar x.a).toNat
    let die := dieOf e.f.bay
    let p : MxPub := sget {} (s.die die).pubs (v % 2 ^ 12)
    let good := v = v % 2 ^ 12 + 2 ^ 12 * die + 2 ^ 16 * p.gen ∧ p.gen < 2 ^ 16 ∧ p.open_ = true ∧ p.ctx = e.l.ctx
    let res := fun i v => Completes i s s e h (e.w.post s.now 16 e.width [e.w.sWrite d v])
    (good → die < 8 → res (.mxstatMatch h x) (BitVec.ofNat 64 p.found) ∧ res (.mxstatLen h x) (BitVec.ofNat 64 p.len) ∧
      res (.mxstatFill h x) (BitVec.ofNat 64 p.fill)) ∧
    (¬good → die < 8 → ∀ i ∈ [Instr.mxstatMatch h x, .mxstatLen h x, .mxstatFill h x], res i 0x8010000000000000)

namespace Sys2Proof.Claims

/-- The oldest job of an engine without a result, which an event moves: one that starts, or one that goes on (R137, R139). -/
def Moves (s : State) (die eng : Nat) (j : Job) (ev : Instr) : Prop :=
  (s.die die).jobs.find? (fun x => x.eng.num == eng && x.phase != .finished) = some j ∧ dieOf j.bay = die ∧ j.deny = none ∧ swf {} s.dies = true ∧
    (∀ x ∈ (s.die die).jobs, x.jid = j.jid → x.opId = j.opId → x = j) ∧
    (ev = .engineJobStart die eng ∧ j.phase = .queued ∨
      ev = .engineRingResume die eng ∧ (j.phase = .running ∨ j.phase = .waitIn ∨ j.phase = .waitOut ∨ j.phase = .waitQuar))

/-- The event leaves the job with its result, to be written when it completes, and changes nothing outside the die. -/
def GetsResult (s : State) (die : Nat) (j : Job) (ev : Instr) (result : W64) (handles : SMap MxHandle) : Prop :=
  ∃ t k, exec ev s = .next t ∧ t = { s with dies := t.dies } ∧ k ∈ (t.die die).jobs ∧ k.jid = j.jid ∧ k.opId = j.opId ∧ k.phase = .finished ∧
    k.result = result ∧ k.writes = [if j.bank then .bankS j.dreg result else .s j.dreg result] ∧ (t.die die).handles = handles

/-- A register that names an open handle of the context (R152). -/
def HandleOf (d : Die) (die ctx v i : Nat) : Prop :=
  let h := d.handle i
  i < 2 ^ 12 ∧ v = i + 2 ^ 12 * die + 2 ^ 16 * h.gen ∧ h.gen < 2 ^ 16 ∧ h.open_ = true ∧ h.ctx = ctx

end Sys2Proof.Claims

/-- `ENGINE_JOB_START` and `ENGINE_RING_RESUME` (R137 to R140, R152, R154, R157): an engine moves its oldest job, from the queue or
on from where it waits, and no other job of the engine. `MXOPEN` takes the lowest free handle while the pool has its entries,
else NO_ROOM; `MXDROP` frees one, whose next use has another generation; a register that names no handle is HANDLE_BAD;
`MXAPP` of more than 65536 tokens, or beyond 2^31, is DESC_BAD; and so is a Scarf descriptor that breaks a static rule. -/
def Sys2Proof.Claims.jobsRun : Prop :=
  (∀ (s : State) (die eng : Nat), (∀ j ∈ (s.die die).jobs, j.eng.num = eng → j.phase = .finished) →
    exec (.engineJobStart die eng) s = .next s ∧ exec (.engineRingResume die eng) s = .next s) ∧
  ∀ (s : State) (die eng : Nat) (j : Job) (ev : Instr), Moves s die eng j ev → die < 8 →
    let d := s.die die
    let used := (d.handles.map fun x => if x.2.open_ then 4 * 2 ^ x.2.bits else 0).sum
    let ended := fun r => GetsResult s die j ev r d.handles
    let err := fun reason part => BitVec.ofNat 64 (part % 2 ^ 32 + 2 ^ 48 * reason + 2 ^ 63)
    (∀ log b, j.work = .mxopen log b →
      ((2 ^ 20 < used + 4 * 2 ^ b ∨ ∀ i < 2 ^ 12, (d.handle i).open_ = true) → ended (err 17 0)) ∧
      ∀ i < 2 ^ 12, used + 4 * 2 ^ b ≤ 2 ^ 20 → (d.handle i).open_ = false → (∀ k < i, (d.handle k).open_ = true) →
        let g := (d.handle i).gen
        GetsResult s die j ev (BitVec.ofNat 64 ((i + 2 ^ 12 * die + 2 ^ 16 * g) % 2 ^ 63))
          (sset {} i { log, bits := b, ctx := j.ctx, open_ := true, gen := g } d.handles)) ∧
    (∀ v, (∀ i, ¬HandleOf d die j.ctx v i) →
      (j.work = .mxdrop v ∨ (∃ c, j.work = .mxapp v c) ∨ (∃ n dst r, j.work = .mxlook v n dst r) ∨ ∃ c off, j.work = .mxsave v c off) →
      ended (err 16 0)) ∧
    (∀ v i, HandleOf d die j.ctx v i →
      (j.work = .mxdrop v → GetsResult s die j ev (BitVec.ofNat 64 (v % 2 ^ 63)) (sset {} i { gen := ((d.handle i).gen + 1) % 2 ^ 16 } d.handles)) ∧
      ∀ c, j.work = .mxapp v c → j.at_ = 0 → (65536 < c ∨ 2 ^ 31 ≤ (d.handle i).n + c) → ended (err 1 (d.handle i).n)) ∧
    (∀ op desc inCap outCap tab, j.work = .desc op desc inCap outCap tab → 0xDB ≤ op → op ≤ 0xDE → j.checked = false → j.err = none →
      (at_ desc 9 1 ≠ 0 ∨ at_ desc 10 1 ≠ 0 ∨ at_ desc 12 4 ≠ 0 ∨ at_ desc 48 1 = 0 ∨ 32 ≤ at_ desc 48 1 ∨ at_ desc 50 6 ≠ 0 ∨
        op = 0xDD ∧ at_ desc 24 8 ≠ 0 ∨ op = 0xDE ∧ at_ desc 40 8 ≠ 32) → ended (err 1 0))

/-- An engine runs its oldest job without a result, piece by piece, until the job waits or has its result (R137, R139): no other
job of the die changes, and the job keeps its place. -/
def Sys2Proof.Claims.jobsAdvance : Prop :=
  ∀ (s : State) (die eng : Nat) (p q : List Job) (j : Job), swf {} s.dies = true → (s.die die).jobs = p ++ j :: q → j.eng.num = eng →
    (∀ k ∈ p, k.eng.num = eng → k.phase = .finished) → (∀ k ∈ p ++ q, k.jid ≠ j.jid ∨ k.opId ≠ j.opId) →
    let runs := fun ev => ∃ t k, exec ev s = .next t ∧ (t.die die).jobs = p ++ k :: q ∧ k.jid = j.jid ∧ k.opId = j.opId ∧ k.eng = j.eng ∧
      k.phase ≠ .queued ∧ k.fin = j.fin ∧ k.fid = j.fid ∧ k.widx = j.widx ∧ k.dreg = j.dreg
    (j.phase = .queued → runs (.engineJobStart die eng)) ∧
    (j.phase = .running ∨ j.phase = .waitIn ∨ j.phase = .waitOut ∨ j.phase = .waitQuar → runs (.engineRingResume die eng))

/-- The reads and writes of a job (R139, R141, R205, R332): each 32-bit word is as memory is, or as it was when the instruction
issued, and nothing of a store buffer; a piece of a table is read once, and a bad line, like a failed check, ends the read; an
absent page pauses the job and is asked for; what a job writes lands after the stores that its warp made before it. -/
def Sys2Proof.Claims.jobAccesses : Prop :=
  (∀ (s : State) (j : Job) (r : MemRef) (n : Nat) (m : PMap),
    let now := s.fetch noFrame r n m
    let old := { s with mem := j.old }.fetch noFrame r n m
    (jobBytes s j r n m).1.length = now.length ∧
      ∀ k, ∃ b, (b = now ∨ b = old) ∧ ∀ i < now.length, (r.cap.base + r.off + i) / 4 = k → old.length = now.length →
        (jobBytes s j r n m).1.getD i 0 = b.getD i 0) ∧
  (∀ (s : State) (j : Job) (cap : Cap) (which off n : Nat), j.deny = none →
    let r : MemRef := { cap := cap, off := off }
    let note := fun x : Option (List Byte) => { j with cache := ((which, off, n), x) :: j.cache }
    (∀ p, jobAccess s j 0 r n .r = .absent p → ∃ g, g.num = s.fresh ∧ g.party = .job j.opId ∧ g.ctx = j.ctx ∧
      g.recs = [(p.page, p.write, p.stage2, true, 0, j.pc)] ∧
      readPiece s j cap which off n = .stop { s with fresh := s.fresh + 1, pages := s.pages ++ [g] } { j with phase := .paused }) ∧
    (∀ u v, jobAccess s j 0 r n .r = .bad u v → readPiece s j cap which off n = .go u (note none)) ∧
    ∀ u m, jobAccess s j 0 r n .r = .ok u m →
      ((∀ a ∈ u.physRead r n m, u.lineBad a = false) → readPiece s j cap which off n = .go u (note (some (jobBytes u j r n m).1))) ∧
      let as : List Nat := u.physRead r n m
      ∀ (i a : Nat), as[i]? = some a → u.lineBad a = true → (∀ k < i, ∀ b, as[k]? = some b → u.lineBad b = false) →
        readPiece s j cap which off n = .go (u.lineError a 4) (note none)) ∧
  ∀ (s : State) (j : Job) (r : MemRef) (m : PMap) (bs : List Byte),
    let as := s.physOf r bs.length m
    let u := s.performOlder ⟨j.fid, j.widx⟩ j.opId as false
    s.jobWrites j r m bs = ({ u with mem := writeCells u.mem (as.zip bs) }.heal as)

/-- A slot of a job's input ring (R141, R143): its header is read first; an empty ring makes the job wait; a header with bits set
beyond Table 7.4, or a length above the slot's payload, ends the input with DESC_BAD and one with POISON with UPSTREAM, its
payload unread; each is taken and released. -/
def Sys2Proof.Claims.slotsTaken : Prop :=
  ∀ (s : State) (j : Job) (code : Nat) (r : Ring), s.jobRing j code = some r → j.badIn = none →
    let slot := r.slot r.tk
    (r.empty = true → takeSlot s j code false = .stop s { j with phase := .waitIn }) ∧
    (r.empty = false → ∀ u m, jobAccess s j r.fid slot 8 .r = .ok u m → (∀ a ∈ u.physRead slot 8 m, u.lineBad a = false) →
      let h := ofLe (u.fetch noFrame slot 8 m)
      let taken := fun (v : State) (k : Job) => Tick.go (v.setRing j.bay code (some r.takeRelease)) { k with lastIn := h.testBit 49 }
      let len := h % 2 ^ 32
      takeSlot s j code true = taken u j ∧
      (h / 2 ^ 50 ≠ 0 ∨ 8 * r.size8 - 8 < len → takeSlot s j code false = taken u { j with badIn := some (1, j.input.length) }) ∧
      (h / 2 ^ 50 = 0 → len ≤ 8 * r.size8 - 8 →
        (h.testBit 48 = true → takeSlot s j code false = taken u { j with badIn := some (3, j.input.length) }) ∧
        (h.testBit 48 = false →
          let body := { slot with off := slot.off + 8 }
          (∀ v k, jobAccess u { j with lastIn := h.testBit 49 } r.fid body len .r = .bad v k →
            takeSlot s j code false = taken v { j with badIn := some (2, j.input.length) }) ∧
          ∀ v m, jobAccess u { j with lastIn := h.testBit 49 } r.fid body len .r = .ok v m →
            (∀ a ∈ v.physRead body len m, v.lineBad a = false) →
            takeSlot s j code false = taken v { j with input := j.input ++ v.fetch noFrame body len m })))

/-- `ENGINE_JOB_COMPLETE` (R138, R156, R179): the first job of the engine with a result whose operation is the oldest on its
counter leaves the queue: its registers are written, over fixed-latency writes that are older (R306), its operation retires or
its tag's count falls, and its handle's registers are what `MXSTAT` reads from then on unless a younger job's stand there
already. With no such job nothing happens. -/
def Sys2Proof.Claims.jobsComplete : Prop :=
  ∀ (s : State) (die eng : Nat), swf {} s.dies = true → swf {} s.tags = true →
    let due := fun j : Job => j.eng.num = eng ∧ j.phase = .finished ∧ ∀ c w, j.fin = .ctr c → s.warp? ⟨j.fid, j.widx⟩ = some w →
      ∃ p o q, Oldest w c p o q ∧ o.id = j.opId
    let ids := ∀ j ∈ (s.die die).jobs, ∀ w, s.warp? ⟨j.fid, j.widx⟩ = some w → (w.ops.map CtrOp.id).Nodup
    (ids → (∀ j ∈ (s.die die).jobs, ¬due j) → exec (.engineJobComplete die eng) s = .next s) ∧
    ∀ p j q, ids → (s.die die).jobs = p ++ j :: q → (∀ k ∈ p, ¬due k) → due j → (∀ k ∈ p ++ q, k.jid ≠ j.jid ∨ k.opId ≠ j.opId) →
      ∀ w, s.warp? ⟨j.fid, j.widx⟩ = some w → w.run = none → (∀ a ∈ w.acc, a.op ≠ j.opId) →
      let written := fun issued : Nat =>
        j.writes.foldl Warp.put { w with wc := { w.wc with pend := w.wc.pend.filter fun y => !(decide (y.from_ < issued) && j.writes.any fun z => z.same y.w) } }
      ∃ u : State, exec (.engineJobComplete die eng) s = .next u.settleDone ∧ u.mem = s.mem ∧ (u.die die).jobs = p ++ q ∧
        (u.die die).pubs = (match j.pub with
          | some (i, x) => if x.job < (sget {} (s.die die).pubs i).job then (s.die die).pubs else sset {} i x (s.die die).pubs
          | none => (s.die die).pubs) ∧
        (∀ c, j.fin = .ctr c → ∀ x y o, w.ops = x ++ o :: y → o.id = j.opId → o.writes = [] →
          u.warp? ⟨j.fid, j.widx⟩ = some { written o.from_ with ops := x ++ y }) ∧
        ∀ t, j.fin = .tag t → t < 64 → (∀ o ∈ w.ops, o.id ≠ j.opId) →
          (u.tag j.core t) = { s.tag j.core t with count := (s.tag j.core t).count - 1 } ∧
          u.warp? ⟨j.fid, j.widx⟩ = some { written j.from_ with tagCnt := sset 0 t (sget 0 w.tagCnt t - 1) w.tagCnt }

/-- The text engines: submission, `MXSTAT`, running, accesses and completion (R135 to R157). -/
def Obligations.TextEngines : Prop := jobSubmits ∧ mxstatResults ∧ jobsRun ∧ jobsAdvance ∧ jobAccesses ∧ slotsTaken ∧ jobsComplete

/-! ### The registers of a host port, and shootdowns -/

namespace Sys2Proof.Claims

/-- A register holds the bits of a written value that its layout has. -/
def Bits (r : W64) (v : Nat) (has : Nat → Bool) : Prop := ∀ i < 64, r.getLsbD i = (v.testBit i && has i)

/-- An interface's registers on a port. -/
def qifOf (s : State) (port i : Nat) : QifRegs := sget {} (s.port port).qif i

/-- The state with an interface's registers `q`. -/
def withQif (s : State) (port i : Nat) (q : QifRegs) : State :=
  s.setPort port { s.port port with qif := sset {} i q (s.port port).qif }

/-- The fields of a trusted interface are locked (R297). -/
def Locked (s : State) (k : Nat) : Prop := (s.tdi k).st = .locked ∨ (s.tdi k).st = .run

/-- A port's shootdown ring is enabled, at `base` with `n` entries (R290). -/
def ShootRing (p : Port) (base n : Nat) : Prop :=
  p.sdbase.getLsbD 0 = true ∧ base = p.sdbase.toNat / 64 * 64 ∧ n = p.sdn.toNat % 2 ^ 17 ∧ ∃ k ≤ 16, n = 2 ^ k

/-- The request at `a` matches a cached translation (Table 16.5, R291): of an address space and a VMID, through two stages or
one, for a page of the range or for a table. -/
def Hit (s : State) (a asid vmid : Nat) (two : Bool) (vpn gpn : Nat) (table : Bool) : Prop :=
  let flags := s.rd (a + 12) 1
  let start := s.rd (a + 16) 8
  let len := s.rd (a + 24) 8
  let within := fun page => table = true ∨ flags.testBit 0 = true ∨ start / 4096 ≤ page ∧ page < (start + len) / 4096
  (16 ≤ flags ∨ s.rd (a + 14) 2 ≠ 0 ∨ s.rd (a + 32) 32 ≠ 0 ∨ start % 4096 ≠ 0 ∨ len % 4096 ≠ 0) ∨
  (flags.testBit 3 = true → two = true ∧ vmid = s.rd (a + 10) 2) ∧
    if flags.testBit 2 then two = true ∧ within gpn else (flags.testBit 1 = true ∨ asid = s.rd (a + 8) 2) ∧ within vpn

/-- What a shootdown leaves of the cached translations of `s`, where `hit` tells those that match. -/
def ShotDown (s t : State) (hit : Nat → Nat → Bool → Nat → Nat → Bool → Prop) : Prop :=
  (∀ x, x ∈ t.tlb ↔ x ∈ s.tlb ∧ ¬hit x.asid x.vmid x.two x.vpn x.gpn x.isTable) ∧
  (t.frames.map Frame.bare = s.frames.map Frame.bare) ∧
  ∀ i w, s.warp? i = some w → ∃ w', t.warp? i = some w' ∧ w'.wc.lanes.length = w.wc.lanes.length ∧
    w' = { w with wc := { w.wc with lanes := w'.wc.lanes }, run := w'.run } ∧
    ∀ (l : Nat) (x y : Lane), w.wc.lanes[l]? = some x → w'.wc.lanes[l]? = some y → y = { x with lastPage := y.lastPage } ∧
      ∀ p, y.lastPage = some p ↔ x.lastPage = some p ∧ ¬hit p.asid p.vmid p.two p.vpn p.gpn false

/-- The device takes what an enabled ring holds from CONS to PROD: nothing; on an overrun ring one request for everything; else
the next request (R290). What translated before is performed, the matching translations become invalid, and the
acknowledgement waits for the guarded frames whose buffers hold stores then (R291, R326; the model's reading, log 55). -/
def Takes (s t : State) (port base n cons prod : Nat) : Prop :=
  let left := (prod + 2 ^ 64 - cons) % 2 ^ 64
  let p := s.performEvery.port port
  let takes := fun (cons ack : Nat) (hit : Nat → Nat → Bool → Nat → Nat → Bool → Prop) =>
    ∃ olds, t.port port = { p with shoot := some { cons, ack, prod, olds } } ∧
      t = { s.performEvery with ports := t.ports, tlb := t.tlb, frames := t.frames } ∧ ShotDown s.performEvery t hit ∧
      ∀ fid k, (fid, k) ∈ olds ↔ ∃ f ∈ t.frames, f.fid = fid ∧ f.closes = k ∧ f.fsb ≠ [] ∧
        ∃ l c, t.launch? f.lid = some l ∧ t.ctxObj l.ctx = some c ∧ hit c.asid c.vmid c.two 0 0 true
  if left = 0 then t = s.setPort port { s.port port with shoot := none }
  else if n < left then takes prod (s.rd (base + 64 + 64 * ((prod + 2 ^ 64 - 1) % 2 ^ 64 % n)) 8) fun _ _ _ _ _ _ => True
  else takes ((cons + 1) % 2 ^ 64) (s.rd (base + 64 + 64 * (cons % n)) 8) (Hit s (base + 64 + 64 * (cons % n)))

/-- The old stores that a request waits for are performed or gone. -/
def Settled (s : State) (x : ShootWait) : Prop := ∀ y ∈ x.olds, ∀ f, s.frame? y.1 = some f → f.closes ≠ y.2 ∨ f.fsb = []

end Sys2Proof.Claims

/-- The first write of PLANBASE with VALID = 1 latches its bits [63:12] and [0]; a later one, and one with VALID = 0, is ignored.
Any write of TOUCH sets the latch (R245). -/
def Sys2Proof.Claims.planRegisters : Prop :=
  ∀ (s : State) (v port : Nat),
    (∃ b : W64, exec (.planbase v) s = .next { s with planbase := b } ∧ exec (.configRegisterWrite port 0x10 v) s = .next { s with planbase := b } ∧
      (s.planbase.getLsbD 0 = true ∨ v.testBit 0 = false → b = s.planbase) ∧
      (s.planbase.getLsbD 0 = false → v.testBit 0 = true → Bits b v fun i => i == 0 || decide (12 ≤ i))) ∧
    exec .touch s = .next { s with touched := true } ∧ exec (.configRegisterWrite port 0x18 v) s = .next { s with touched := true }

/-- The other registers of a port take the bits their layouts have (R290, R293, R316); ABBASE, BOOTSTAT and every offset that no
table assigns ignore a write (R245, R301). -/
def Sys2Proof.Claims.portRegisters : Prop :=
  ∀ (s : State) (v port off : Nat),
    (∃ r m : W64, (Bits r v fun i => i == 0 || decide (6 ≤ i)) ∧ (Bits m v fun i => decide (i < 17)) ∧
      let p := s.port port
      let put := fun (off : Nat) (p : Port) => exec (.configRegisterWrite port off v) s = .next (s.setPort port p)
      put 0x28 { p with sdbase := r } ∧ put 0x30 { p with sdn := m } ∧ put 0x100 { p with prbase := r } ∧ put 0x108 { p with prn := m } ∧
      put 0x110 { p with prsbase := r } ∧ put 0x118 { p with prsn := m }) ∧
    (off ∉ [0x10, 0x18, 0x28, 0x30, 0x100, 0x108, 0x110, 0x118] → ¬(off % 8 = 0 ∧ 0x40 ≤ off ∧ off < 0x100) →
      exec (.configRegisterWrite port off v) s = .next s)

/-- QIFCFG, QIFMSIB and QIFMSIT take the bits their layouts have; where the interface is locked it then goes on as in
`TDI_ERROR` (R297). A QIFCFG write that clears PV or changes the PASID discards every announcement of the interface, each
counted once in REFUSED, and messages already placed stay (R295). -/
def Sys2Proof.Claims.interfaceRegisters : Prop :=
  ∀ (s : State) (v port i : Nat), i < 8 →
    (∃ c m r : W64, (Bits c v fun j => decide (j < 22)) ∧ (Bits m v fun j => j == 0 || decide (18 ≤ j) && decide (j ≤ 58)) ∧
      (Bits r v fun j => decide (12 ≤ j)) ∧
      let q := qifOf s port i
      let k := 8 * port + i
      let put := fun (ev : Instr) (u : State) => exec ev s = exec (.tdiError k) u ∧ (¬Locked s k → exec ev s = .next u)
      put (.configRegisterWrite port (0x80 + 8 * i) v) (withQif s port i { q with msib := m }) ∧
      put (.configRegisterWrite port (0xC0 + 8 * i) v) (withQif s port i { q with msit := r }) ∧
      exec (.configRegisterWrite port (0x40 + 8 * i) v) s = exec (.qifcfg port i v) s ∧
      let stops := q.cfg.getLsbD 20 = true ∧ (v.testBit 20 = false ∨ q.cfg.toNat % 2 ^ 20 ≠ v % 2 ^ 20)
      let u := withQif s port i { q with cfg := c }
      (¬stops → put (.qifcfg port i v) u) ∧
      (stops → swf none s.scribe.queues = true → ∃ t : State, put (.qifcfg port i v) t ∧ t.ports = u.ports ∧ t.frames = s.frames ∧
        (∀ j, t.queueObj j = (s.queueObj j).map fun x =>
          if x.port = port ∧ x.qif = i then { x with anns := [], latch := [], inWait := none, inDeny := none } else x) ∧
        sget 0 t.scribe.refused k = sget 0 s.scribe.refused k +
          (s.scribe.queues.map fun x => x.2.elim 0 fun x => if x.port = port ∧ x.qif = i then x.anns.length + x.latch.length else 0).sum)) ∧
    ∀ j, 8 ≤ j → exec (.qifcfg port j v) s = .next s

/-- What a read of a port's DVSEC gives (R245, R256, R290, R293, R301, R316): the registers as they are, TOUCH 0, and 0 at an
offset that no table assigns; a reserved bit reads 0, for no write ever sets one. -/
def Sys2Proof.Claims.registerReads : Prop :=
  ∀ (s : State) (port off : Nat),
    let p := s.port port
    s.readConfig port 0x10 = s.planbase ∧ s.readConfig port 0x18 = 0 ∧ s.readConfig port 0x20 = BitVec.ofNat 64 Config.abBase ∧
    s.readConfig port 0x28 = p.sdbase ∧ s.readConfig port 0x30 = p.sdn ∧ s.readConfig port 0x38 = s.bootstat ∧
    s.readConfig port 0x100 = p.prbase ∧ s.readConfig port 0x108 = p.prn ∧ s.readConfig port 0x110 = p.prsbase ∧
    s.readConfig port 0x118 = p.prsn ∧
    (∀ i < 8, s.readConfig port (0x40 + 8 * i) = (qifOf s port i).cfg ∧ s.readConfig port (0x80 + 8 * i) = (qifOf s port i).msib ∧
      s.readConfig port (0xC0 + 8 * i) = (qifOf s port i).msit) ∧
    (off ∉ [0x10, 0x20, 0x28, 0x30, 0x38, 0x100, 0x108, 0x110, 0x118] → ¬(off % 8 = 0 ∧ 0x40 ≤ off ∧ off < 0x100) →
      s.readConfig port off = 0)

/-- A write of a nonzero identity at offset 0 of the shootdown file makes the device take what the ring holds; where a request is
in hand it looks on to the new PROD, and finds the ring overrun as before; other writes, any while the ring is not enabled,
and any after a failed boot (R299) are ignored (R290). The acknowledgement of a request, once what it waits for is performed,
writes CONS and then ACK, and the next request is taken (R291). -/
def Sys2Proof.Claims.shootdowns : Prop :=
  ∀ (s : State) (port off v : Nat),
    let p := s.port port
    let ev := Instr.shootdownFileWrite port off v
    ((off ≠ 0 ∨ v % 2 ^ 32 = 0 ∨ s.bootFailed = true ∨ ∀ base n, ¬ShootRing p base n) → exec ev s = .next s) ∧
    (∀ base n, off = 0 → v % 2 ^ 32 ≠ 0 → s.bootFailed = false → ShootRing p base n →
      let prod := s.rd base 8
      let cons := s.rd (base + 8) 8
      (∀ x, p.shoot = some x →
        ((prod + 2 ^ 64 - cons) % 2 ^ 64 ≤ n → exec ev s = .next (s.setPort port { p with shoot := some { x with prod } })) ∧
        (n < (prod + 2 ^ 64 - cons) % 2 ^ 64 → ∃ t, exec ev s = .next t ∧ Takes s t port base n cons prod)) ∧
      (p.shoot = none → ∃ t, exec ev s = .next t ∧ Takes s t port base n cons prod)) ∧
    ((∀ k x, k < 2 → (s.port k).shoot = some x → ¬Settled s x) → exec .shootdownAck s = .next s) ∧
    ∀ x, p.shoot = some x → Settled s x → (port = 0 ∨ port = 1 ∧ ∀ y, (s.port 0).shoot = some y → ¬Settled s y) →
      ((∀ base n, ¬ShootRing p base n) → exec .shootdownAck s = .next (s.setPort port { p with shoot := none })) ∧
      ∀ base n, ShootRing p base n →
        ∃ t, exec .shootdownAck s = .next t ∧ Takes ((s.wr (base + 8) 8 x.cons).wr (base + 16) 8 x.ack) t port base n x.cons x.prod

/-- The registers of a host port and what their writes do. -/
def Obligations.DeviceRegisters : Prop := planRegisters ∧ portRegisters ∧ interfaceRegisters ∧ registerReads ∧ shootdowns

/-! ### Trusted interfaces, boot, and accesses from outside -/

namespace Sys2Proof.Claims

/-- The queues and contexts of the interfaces that `on` names (port, interface) are lost (R298): the announcements stop, the
messages queued leave for the return ring with reason 3, and each context of such a queue that is BUILT or BUILDING is FAULTED
(TDI_LOST; Table 12.12); the frames,
the other queues and the other entries stay as they were. -/
def TdiLost (s t : State) (on : Nat → Nat → Prop) : Prop :=
  t.frames = s.frames ∧ t.ports = s.ports ∧ t.scribe.ctxs = s.scribe.ctxs ∧ t.scribe.maps = s.scribe.maps ∧
  (∀ j, s.queueObj j = none → t.queueObj j = none) ∧
  (∀ j x, s.queueObj j = some x → t.queueObj j ≠ none ∧
    (on x.port x.qif → t.queueObj j = some
      { x with anns := [], latch := [], inWait := none, inDeny := none, reason := if x.reason = 0 then 3 else x.reason }) ∧
    (¬on x.port x.qif → t.queueObj j = some x)) ∧
  ∀ kind i, i < 2 ^ 20 →
    ((kind = 1 ∧ ∃ j x, s.queueObj j = some x ∧ on x.port x.qif ∧ x.ctx = i) →
      t.entry kind i = if (s.entry kind i).st = .built ∨ (s.entry kind i).st = .building
        then { s.entry kind i with st := .faulted, fault := 0x10A, live := true } else s.entry kind i) ∧
    (¬(kind = 1 ∧ ∃ j x, s.queueObj j = some x ∧ on x.port x.qif ∧ x.ctx = i) → t.entry kind i = s.entry kind i)

/-- The control side's tables have their canonical form, and contexts' ids are in range. -/
def TablesOk (s : State) : Prop :=
  swf none s.scribe.queues = true ∧ swf {} s.scribe.entries = true ∧ swf {} s.tdis = true ∧ ∀ j x, s.queueObj j = some x → x.ctx < 2 ^ 16

/-- The SPDM session is live: no two heartbeat periods of 60 s, at 1.8 GHz, have passed since the last secured message. -/
def SessionLive (s : State) : Prop := ∃ x, s.spdm = some x ∧ s.now ≤ x.last + 216000000000

/-- Requests are answered: in a live session of a device that has booted (R298, R299). -/
def Answers (s : State) : Prop := SessionLive s ∧ s.bootFailed = false

end Sys2Proof.Claims

/-- Table 16.8: an unlocked interface is locked in a live session, a locked one runs on the nonce it was given; a fault of the
stream, the end of the session or its expiry moves a locked or running one to ERROR with the losses of R298; a stop unlocks
any. Each request of a live session keeps it alive. Any other request is refused (the model's choice of an answer, log 41). -/
def Sys2Proof.Claims.tdiMoves : Prop :=
  ∀ (s : State) (k n : Nat),
    let tdi := s.tdi k
    let v : State := { s with spdm := some ⟨s.now⟩ }
    let refused := fun (u : State) => Host.Outcome.next { u with reply := .refused }
    (¬Answers s → ∀ ev ∈ [Instr.lockInterfaceRequest k n, .startInterfaceRequest k n, .stopInterfaceRequest k], exec ev s = refused s) ∧
    (Answers s →
      (tdi.st = .unlocked → exec (.lockInterfaceRequest k n) s =
        .next { v with tdis := sset {} k { st := .locked, nonce := n } s.tdis, reply := .nonce n }) ∧
      (tdi.st ≠ .unlocked → exec (.lockInterfaceRequest k n) s = refused v) ∧
      (tdi.st = .locked → tdi.nonce = n → exec (.startInterfaceRequest k n) s =
        .next { v with tdis := sset {} k { st := .run, nonce := n } s.tdis, reply := .none }) ∧
      (¬(tdi.st = .locked ∧ tdi.nonce = n) → exec (.startInterfaceRequest k n) s = refused v) ∧
      (¬Locked s k → exec (.stopInterfaceRequest k) s = .next { v with tdis := sset {} k {} s.tdis, reply := .none }) ∧
      (Locked s k → TablesOk s → ∃ t, exec (.stopInterfaceRequest k) s = .next t ∧ TdiLost s t (fun p i => p = k / 8 ∧ i = k % 8) ∧
        t.tdi k = {} ∧ (∀ j, j ≠ k → t.tdi j = s.tdi j) ∧ t.spdm = v.spdm)) ∧
    (¬Locked s k → exec (.tdiError k) s = .next s) ∧
    (Locked s k → TablesOk s → ∃ t, exec (.tdiError k) s = .next t ∧ TdiLost s t (fun p i => p = k / 8 ∧ i = k % 8) ∧
      t.tdi k = { tdi with st := .error } ∧ (∀ j, j ≠ k → t.tdi j = s.tdi j) ∧ t.spdm = s.spdm)

/-- A session starts; one that no secured message kept alive expires, and every locked interface is lost, at the latest when
another starts (R297, R298); a device that did not boot starts none (R299). -/
def Sys2Proof.Claims.sessions : Prop :=
  ∀ (s : State),
    let ends := fun (t : State) => TdiLost s t (fun p i => p < 2 ∧ i < 8 ∧ Locked s (8 * p + i)) ∧
      ∀ k < 16, (Locked s k → t.tdi k = { s.tdi k with st := .error }) ∧ (¬Locked s k → t.tdi k = s.tdi k)
    (s.bootFailed = true → exec .spdmSessionStart s = .next s) ∧
    (s.bootFailed = false → s.spdm = none ∨ SessionLive s → exec .spdmSessionStart s = .next { s with spdm := some ⟨s.now⟩ }) ∧
    (s.spdm = none ∨ SessionLive s → exec .spdmSessionExpiry s = .next s) ∧
    (s.spdm ≠ none → ¬SessionLive s → TablesOk s →
      (s.bootFailed = false → ∃ t, exec .spdmSessionStart s = .next t ∧ t.spdm = some ⟨s.now⟩ ∧ ends t) ∧
      ∃ t, exec .spdmSessionExpiry s = .next t ∧ t.spdm = none ∧ ends t)

/-- The trusted interfaces. -/
def Obligations.TrustedInterfaces : Prop := tdiMoves ∧ sessions

/-- `GET_MEASUREMENTS` reports register M(index − 1) for indices 1 to 16 (R300), unless the boot failed (R299); it keeps a live
session alive. -/
def Sys2Proof.Claims.measurements : Prop :=
  ∀ (s : State) (i : Nat),
    ∃ keep, (SessionLive s → keep = some ⟨s.now⟩) ∧ (¬SessionLive s → keep = s.spdm) ∧
      (i < 16 → s.bootFailed = false →
        exec (.getMeasurements (i + 1)) s = .next { s with spdm := keep, reply := .measurement [sget 0 s.meas i] }) ∧
      (i = 0 ∨ 16 < i ∨ s.bootFailed = true → exec (.getMeasurements i) s = .next { s with spdm := keep, reply := .refused })

/-- A conventional reset leaves the state after reset, but for memory outside the launches and frames, which keeps its bytes
except in the as-built table (the model's choice; the table is 0, R256), and then the boot chain runs: BOOTSTAT names the last
stage verified, FAIL, and I/O die 0 as the active one, and ignores writes (R299, R301), and M0, M6 and the register of each stage verified hold SHA-512 of 64 zeros and the digest
of what was measured (R300); the others are 0. -/
def Sys2Proof.Claims.conventionalResets : Prop :=
  ∀ (s : State) (b : BootInput), Memory.wf s.mem = true →
    let last := b.failStage.elim 4 fun k => min (k - 1) 4
    let digest := fun m => ((b.digests.find? fun x => x.1 == m).map Prod.snd).getD (Config.bootDigest (s.boots + 1) m)
    let table := s.hdmBase + Config.abBase
    ∃ t : State, exec (.conventionalReset b) s = .next t ∧
      t = { State.reset with
        mem := t.mem, meas := t.meas, bootstat := t.bootstat, hdmBase := s.hdmBase, bad := s.bad, boots := s.boots + 1
        agenda := s.agenda, fresh := s.fresh } ∧
      t.bootstat.toNat = last + (if b.failStage.isSome then 16 else 0) ∧ t.felzen = 0 ∧
      (∀ port v, exec (.configRegisterWrite port 0x38 v) t = .next t) ∧ Memory.wf t.mem = true ∧
      (∀ a, isParam a = false →
        readByte t.mem a = if isOutside a ∧ ¬(table ≤ a ∧ a < table + 8 * 2 ^ 20) then readByte s.mem a else 0) ∧
      ∀ m, sget 0 t.meas m =
        if m = 0 ∨ m = 6 ∨ 1 ≤ m ∧ m ≤ last then sha512 (List.replicate 64 0 ++ leBytes 64 (digest m).toNat) else 0

/-- `FAILOVER` makes the other I/O die the active one, changes BOOTSTAT[5] and writes an error record with CODE 9 (R339). -/
def Sys2Proof.Claims.failovers : Prop :=
  ∀ (s : State), ∃ b : W64, (∀ i < 64, b.getLsbD i = if i < 5 then s.bootstat.getLsbD i else i == 5 && s.felzen == 0) ∧
    let u := { s with felzen := 1 - s.felzen, bootstat := b }
    exec .failover s = .next (u.errorRecord 9 (1 - s.felzen) 0 0)

/-- A firmware update in hand (R338): a bundle that is verified, not older than the fused version and importable extends M5,
changes the active die and BOOTSTAT[5], and its entry is BUILT; any other makes the entry FAULTED (FW_REJECT) and nothing else
changes. With no update in hand nothing does. -/
def Sys2Proof.Claims.firmwareUpdates : Prop :=
  ∀ (s : State) (b : FwBundle),
    let up := s.scribe.snaps.find? fun y => y.2.any fun x => x.phase == .updating
    (up = none → exec (.firmwareUpdate b) s = .next s) ∧
    ∀ i x, up = some (i, some x) → swf none s.scribe.snaps = true → swf 0 s.meas = true → ∃ t : State, exec (.firmwareUpdate b) s = .next t ∧
      t.frames = s.frames ∧ t.launches = s.launches ∧ t.planbase = s.planbase ∧ t.ports = s.ports ∧ t.scribe.queues = s.scribe.queues ∧
      let e := s.entry 5 i
      (b.verified = true ∧ Config.fusedVersion ≤ b.version ∧ b.tableOk = true →
        t.entry 5 i = { e with st := .built, version := e.target, live := true, detail := 0 } ∧ t.felzen = 1 - s.felzen ∧
        (∀ i < 64, t.bootstat.getLsbD i = if i < 5 then s.bootstat.getLsbD i else i == 5 && s.felzen == 0) ∧
        sget 0 t.meas 5 = sha512 (leBytes 64 (sget 0 s.meas 5).toNat ++ leBytes 64 b.digest.toNat) ∧
        (t.snapObj i).map SnapObj.phase = some .done) ∧
      (¬(b.verified = true ∧ Config.fusedVersion ≤ b.version ∧ b.tableOk = true) →
        t.entry 5 i = { e with st := .faulted, fault := 0x10C, detail := 0 } ∧ t.felzen = s.felzen ∧ t.bootstat = s.bootstat ∧
        t.meas = s.meas ∧ (t.snapObj i).map SnapObj.phase = some .failed)

/-- Boot, measurement and the takeovers of the control side. -/
def Obligations.BootAndMeasurement : Prop := measurements ∧ conventionalResets ∧ failovers ∧ firmwareUpdates

namespace Sys2Proof.Claims

/-- An access performed at the addresses `as`: a write stores its bytes and gives a line wholly written a new check; a read or
read-modify-write answers the bytes, or, where a line's check fails, an error with a CODE 7 record of that line (R332). -/
def Bus (s t : State) (op : BusOp) (as : List Nat) (point : Nat) : Prop :=
  let good := ∀ a ∈ as, s.lineBad a = false
  let olds := as.map fun a => readByte s.mem a
  let others := SafeState s → ∀ a, a ∉ as → readByte t.mem a = readByte s.mem a
  let holds := fun bs : List Byte => SafeState s → ∀ (k a : Nat) (b : Byte), as[k]? = some a → bs[k]? = some b → isParam a = false → readByte t.mem a = b
  let poisoned := ∀ (k a : Nat), as[k]? = some a → s.lineBad a = true → (∀ (j b : Nat), j < k → as[j]? = some b → s.lineBad b = false) →
    t = { s.errorRecord 7 0 (a / 64 * 64 - s.hdmBase) point with reply := .error }
  match op with
  | .write bs =>
    t = { s with mem := t.mem, bad := t.bad, reply := .none } ∧ holds bs ∧ others ∧
      ∀ a, t.lineBad a = true ↔ s.lineBad a = true ∧ ∃ i < 64, a / 64 * 64 + i ∉ as
  | .read _ => (good → t = { s with reply := .data olds }) ∧ poisoned
  | .rmw mop n x =>
    (good → t = { s with mem := t.mem, reply := .data olds } ∧ others ∧
      holds (leBytes n (atomNew mop (8 * n) (ofLe olds) x))) ∧ poisoned

/-- Bytes an access covers, and the permission it needs. -/
def busLen (op : BusOp) : Nat := match op with | .read n => n | .write bs => bs.length | .rmw _ n _ => n
def busNeed (op : BusOp) : Acc := match op with | .read _ => .r | .write _ => .w | .rmw _ _ _ => .a

end Sys2Proof.Claims

/-- A host access is performed whole at host physical addresses, unless the boot chain failed (R213, R299). A peer's is
translated in the context it carries; one that fails is not performed, answered with an error, and recorded with CODE 6, the
node, the address and the cause (R320). -/
def Sys2Proof.Claims.outsideAccesses : Prop :=
  ∀ (s : State) (x : BusAccess), swf 0 s.bad = true → busLen x.op ≤ 2 ^ 64 → (∀ mop n y, x.op = .rmw mop n y → mop ≤ 10 ∧ (n = 4 ∨ n = 8) ∧ (mop = 1 → n = 4) ∧ y < 256 ^ n) →
    (s.bootstat.getLsbD 4 = true → exec (.hostCxlAccess x) s = .next { s with reply := .error }) ∧
    (s.bootstat.getLsbD 4 = false → ∃ t, exec (.hostCxlAccess x) s = .next t ∧
      Bus s t x.op ((List.range (busLen x.op)).map fun i => (x.addr + i) % 2 ^ 64) 0) ∧
    (match s.vaRange x.ctx x.addr (busLen x.op) (busNeed x.op) with
      | .ok u as => as.Nodup → ∃ t, exec (.peerInboundAccess x) s = .next t ∧ Bus u t x.op as 1
      | .absent _ => exec (.peerInboundAccess x) s = .next { s.errorRecord 6 x.node x.addr 0xB with reply := .error }
      | .fault u _ c => exec (.peerInboundAccess x) s = .next { u.errorRecord 6 x.node x.addr c.code with reply := .error })

/-- A scrub that finds a line whose check fails records it with point 5 (R332); a link that fails leaves the routing tables once,
with a CODE 8 record, and comes back when it has retrained (R333). -/
def Sys2Proof.Claims.scrubsAndLinks : Prop :=
  ∀ (s : State) (a link : Nat),
    (Config.devBytes ≤ a → exec (.memoryScrub a) s = .next s) ∧
    (a < Config.devBytes → ∃ b, exec (.memoryScrub a) s = .next ({ s with bad := b }.errorRecord 7 0 ((s.hdmBase + a) / 64 * 64 - s.hdmBase) 5) ∧
      (swf 0 s.bad = true → ∀ c, sget 0 b (c / 64) ≠ 0 ↔ c / 64 = (s.hdmBase + a) / 64 ∨ s.lineBad c = true)) ∧
    (16 ≤ link ∨ sget false s.linksDown link = true → exec (.linkDown link) s = .next s) ∧
    (link < 16 → sget false s.linksDown link = false →
      exec (.linkDown link) s = .next ({ s with linksDown := sset false link true s.linksDown }.errorRecord 8 link 0 0)) ∧
    exec (.linkRetrained link) s = .next { s with linksDown := sset false link false s.linksDown }

/-- The check of a line (R332): bytes that change by a fault and not by an access leave a line whose CRC-16 no longer agrees with
the one it carries; a line wholly written carries a new one, and every other line keeps its own. -/
def Sys2Proof.Claims.lineChecks : Prop :=
  ∀ (s : State) (a : Nat), swf 0 s.bad = true →
    (∀ flip : Byte, Memory.wf s.mem = true → isParam a = false → flip ≠ 0 → s.lineBad a = false →
      (s.corrupt a flip).lineBad a = true ∧ readByte (s.corrupt a flip).mem a = readByte s.mem a ^^^ flip ∧
      (∀ b, b ≠ a → readByte (s.corrupt a flip).mem b = readByte s.mem b) ∧
      ∀ b, b / 64 ≠ a / 64 → (s.corrupt a flip).lineBad b = s.lineBad b) ∧
    ∀ as : List Nat, (s.heal as).lineBad a = true ↔ s.lineBad a = true ∧ ∃ i < 64, a / 64 * 64 + i ∉ as

/-- An error record lies at PROD of the error ring that the plan header of the last good pass placed (the model's reading, log
48), with CODE, the bytes of its code and TIME, and PROD moves on; a full ring drops it and counts it, and before a good pass
there is none. A CONS that is not between the one taken last and PROD counts as PROD (R267, Table 12.18). -/
def Sys2Proof.Claims.errorRecords : Prop :=
  ∀ (s : State) (code b4 b8 b24 : Nat), Memory.wf s.mem = true →
    let base := s.scribe.hdr.errors.1
    let n := s.scribe.hdr.errors.2
    let prod := s.rd base 8
    let last := sget 0 s.scribe.cons base
    let cons := if (s.rd (base + 8) 8 + 2 ^ 64 - last) % 2 ^ 64 ≤ (prod + 2 ^ 64 - last) % 2 ^ 64 then s.rd (base + 8) 8 else prod
    let t := s.errorRecord code b4 b8 b24
    let same := fun p : Nat → Prop => ∀ a, ¬p a → readByte t.mem a = readByte s.mem a
    (n = 0 → t = s) ∧
    (n ≠ 0 → (∀ k < 64 + 64 * n, isParam (base + k) = false) → swf 0 s.scribe.cons = true →
      t = { s with mem := t.mem, scribe := { s.scribe with cons := t.scribe.cons } } ∧
      ((prod + 2 ^ 64 - cons) % 2 ^ 64 = n →
        t.rd (base + 16) 8 = (s.rd (base + 16) 8 + 1) % 2 ^ 64 ∧ same fun a => base + 16 ≤ a ∧ a < base + 24) ∧
      ((prod + 2 ^ 64 - cons) % 2 ^ 64 ≠ n →
        let at_ := base + 64 + 64 * (prod % n)
        sget 0 t.scribe.cons base = cons ∧
        t.rd at_ 2 = code % 2 ^ 16 ∧ t.rd (at_ + 2) 2 = 0 ∧ t.rd (at_ + 4) 4 = b4 % 2 ^ 32 ∧ t.rd (at_ + 8) 8 = b8 % 2 ^ 64 ∧
        t.rd (at_ + 16) 8 = s.now * 5 / 9 % 2 ^ 64 ∧ t.rd (at_ + 24) 8 = b24 % 2 ^ 64 ∧ t.rd (at_ + 32) 32 = 0 ∧
        t.rd base 8 = (prod + 1) % 2 ^ 64 ∧ same fun a => base ≤ a ∧ a < base + 8 ∨ at_ ≤ a ∧ a < at_ + 64))

/-- Accesses from outside the device, and what it records of failures. -/
def Obligations.OutsideAccesses : Prop := outsideAccesses ∧ scrubsAndLinks ∧ lineChecks ∧ errorRecords

/-! ### Frames carried in and out, and bays -/

namespace Sys2Proof.Claims

/-- A frame may be placed as Felzen chose (R233): free slots of partitions that are empty or run its width, registers, two TLB
sets of each core, no frame of another context on a core, the scratchpad, the numbers of the rings it carries, and a save
slice where its context offers any. A warp that has exited has given back its slot, and its registers once no operation writes
them any more (R224). -/
def PlaceFits (s : State) (f : Frame) (l : Launch) (p : Placement) : Prop :=
  let us := (f.warps.zip p.slots).filterMap fun x => if x.1.gone then none else some x.2
  p.bay < 64 ∧ p.slots.length = f.warps.length ∧ us.Nodup ∧
  (∀ core part slot, (core, part, slot) ∈ us →
    let rs := s.residents core part
    let fs := s.frames.filter fun g => g.phase != .out && g.tlbSets.any fun x => x.1 == core
    core / 4 = p.bay ∧ part < 8 ∧ slot < 16 ∧ (∀ r ∈ rs, (r.2.gone = false → r.2.slot ≠ slot) ∧ r.1.width = l.width) ∧
    (rs.map fun r => r.1.vregs).sum + (us.countP fun x => x.1 = core ∧ x.2.1 = part) * l.vregs ≤ 32768 / l.width ∧
    (fs.map fun g => ((g.tlbSets.find? fun x => x.1 == core).map Prod.snd).getD 0).sum + 2 ≤ 16 ∧
    ∀ g ∈ fs, (s.launchOf g).ctx = l.ctx) ∧
  ((s.frames.filter fun g => g.phase != .out && g.bay == p.bay).map fun g => (s.launchOf g).scratch).sum + l.scratch ≤ 4 * 2 ^ 20 ∧
  (∀ c ∈ f.carried, ∀ x ∈ (s.bay p.bay).rings, x.1 ≠ c.1) ∧
  (f.slice = none → ∀ n, s.slices l.ctx = some n → ∃ i < n, ∀ g ∈ s.frames, (s.launchOf g).ctx = l.ctx → g.slice ≠ some i)

/-- No context operation keeps the frames of a context out. -/
def NotHeld (s : State) (ctx : Nat) : Prop :=
  (∀ c, s.ctxObj ctx = some c → c.run ≠ 1) ∧ ctx ∉ s.scribe.torn ∧ ∀ i x, (i, some x) ∈ s.scribe.snaps → ctx ∉ x.held

/-- A PROGRAM still has frames placed (R257, R331): it is BUILDING or BUILT, or FAULTED while its launch runs on, unless a frame
of it may not be placed again (SHADOW_REPEAT). -/
def MayPlace (s : State) (l : Launch) : Prop :=
  let e := s.entry 4 l.prog
  l.live = true ∧ l.routine = false ∧ NotHeld s l.ctx ∧
    (e.st = .building ∨ e.st = .built ∨ e.st = .faulted ∧ e.live = true ∧ e.fault ≠ 0x109)

/-- Capability registers at a start (R33): k0 the parameter block, k1 the context scratch area, and a header's list, whose
data area is `t`'s. -/
def startCap (s : State) (l t : Launch) (r : Nat) : Cap :=
  match t.caps.find? fun x => x.1 == r with
  | some (_, some i) => s.tableCap l.ctx i
  | some (_, none) => { kind := 7, len := t.dataSize, perm := 3, cls := .release, src := .launch t.lid, tgt := .data t.lid, ctx := t.ctx }
  | none =>
    if r = 0 then { kind := 7, len := Config.paramLength l.lid, perm := 1, cls := .release, src := .launch l.lid, tgt := .param l.lid, ctx := l.ctx }
    else if r = 1 then s.scratchArea l.ctx
    else Cap.null

/-- A warp at its start (R234): the lanes of its threads live at a PC, every register 0, the capabilities of the launch,
nothing outstanding. -/
def AtStart (s : State) (l t : Launch) (pc : Nat) (w : Warp) : Prop :=
  w.wc.lanes = (List.range l.width).map (fun j => if l.width * w.idx + j < (if l.prot then 2 * l.threads else l.threads) then
    { pc := pc, st := .live : Lane } else {}) ∧
  (∀ r j, w.rdV r j = 0 ∧ (r ≠ 0 → w.rdP r j = 0)) ∧ w.wc.s = [] ∧ w.wc.satcnt = 0 ∧ w.wc.pend = [] ∧ w.wc.xlane = false ∧
  (∀ r, sget Cap.null w.k r = startCap s l t r) ∧ w.ops = [] ∧ w.errs = [] ∧ w.tagCnt = [] ∧ w.dep = none ∧ w.uivec = 0 ∧
  w.uim = false ∧ w.hold = none ∧ w.run = none ∧ w.gone = false ∧ w.stopped = false

/-- Device memory lies in host physical space, and a launch's ids are in range: its entries lie in the as-built table. -/
def IdsOk (s : State) (l : Launch) : Prop := s.hdmBase + Config.devBytes ≤ 2 ^ 64 ∧ l.prog < 4096 ∧ l.ctx < 1024

/-- A frame `g` as it is once placed from `f`: on its bay with a slice, its warps in their slots, no barrier arrived at, its
scratchpad 0, and the rings it carried in the bay's table. -/
def IsPlaced (s t : State) (f : Frame) (l : Launch) (p : Placement) (g : Frame) : Prop :=
  g.fid = f.fid ∧ g.lid = f.lid ∧ g.idx = f.idx ∧ g.restart = f.restart ∧ g.bay = p.bay ∧ g.phase = .resident ∧ g.frozen = none ∧ g.fsb = [] ∧
  g.carried = [] ∧ g.again = false ∧ g.stopped = false ∧ g.barriers = List.replicate l.groups.length {} ∧
  g.warps.map Warp.idx = f.warps.map Warp.idx ∧
  (∀ (i : Nat) (w v : Warp) (at_ : Nat × Nat × Nat), f.warps[i]? = some v → v.gone = false → g.warps[i]? = some w → p.slots[i]? = some at_ → (w.core, w.part, w.slot) = at_) ∧
  (f.slice ≠ none → g.slice = f.slice) ∧
  (f.slice = none → match s.slices l.ctx with
    | none => g.slice = none
    | some _ => ∃ i, g.slice = some i ∧ (∀ x ∈ s.frames, (s.launchOf x).ctx = l.ctx → x.slice ≠ some i) ∧
        ∀ j < i, ∃ x ∈ s.frames, (s.launchOf x).ctx = l.ctx ∧ x.slice = some j) ∧
  (swf {} s.bays = true → (t.bay p.bay).rings = (s.bay p.bay).rings ++ f.carried ∧
    (t.bay p.bay).power = if (s.bay p.bay).power = .gated then .waking else (s.bay p.bay).power) ∧
  (IdsOk s l → ∀ a < 2 ^ 64, readByte t.mem ((Region.scratch f.fid).at a) = 0)

/-- A header's list names no register twice and neither of k0 and k1. -/
def CapsOk (l : Launch) : Prop := (l.caps.map Prod.fst).Nodup ∧ ∀ x ∈ l.caps, 2 ≤ x.1

end Sys2Proof.Claims

/-- The test before a placement is that of R233. -/
def Sys2Proof.Claims.placementTest : Prop :=
  ∀ (s : State) (f : Frame) (l : Launch) (p : Placement), s.canPlace f l p = true ↔ PlaceFits s f l p

/-- `FRAME_PLACEMENT` of a frame never placed, whose restart record is written where it has one (R328): with routines that do not fit, the first frame of a PROGRAM is not placed and the
entry is FAULTED (BAD_ROUTINE) (R235); a placement that fits starts the frame at its entry point (R233, R234), and any other does
nothing. -/
def Sys2Proof.Claims.placesNew : Prop :=
  (∀ (s : State) (p : Placement), (∀ o lid, s.progObj p.prog = some o → o.lid = some lid → s.launch? lid = none) →
    exec (.framePlacement p) s = .next s) ∧
  ∀ (s : State) (p : Placement) (o : ProgObj) (lid : Nat) (l : Launch), s.progObj p.prog = some o → o.lid = some lid → s.launch? lid = some l →
    l.lid = lid → l.prog = p.prog → (∀ f ∈ s.frames, ¬(f.lid = l.lid ∧ f.idx = p.frame)) →
    let may := MayPlace s l ∧ p.frame ∉ o.placed ∧ p.frame < l.frames ∧ (l.rstmap ≠ none → p.frame < o.recs)
    let fits := o.placed ≠ [] ∨ ∀ c, s.ctxObj l.ctx = some c → ∀ r ∈ [c.save, c.restore, c.trap], ∀ x, s.routineOf r = some x → Fits x l
    let f := l.newFrame s.fresh p.frame
    (¬may → exec (.framePlacement p) s = .next s) ∧
    (may → ¬fits → swf {} s.scribe.entries = true → ∃ t, exec (.framePlacement p) s = .next t ∧ t.frames = s.frames ∧
      t.entry 4 l.prog = { s.entry 4 l.prog with st := .faulted, fault := 0x107 }) ∧
    (may → fits → ¬PlaceFits s f l p → exec (.framePlacement p) s = .next s) ∧
    (may → fits → PlaceFits s f l p → (∀ g ∈ s.frames, g.fid ≠ s.fresh) → CapsOk l → ∃ t g, exec (.framePlacement p) s = .next t ∧
      t.frames = s.frames ++ [g] ∧ IsPlaced s t f l p g ∧ (∀ w ∈ g.warps, AtStart s l l l.entry w ∧ w.mode = .user) ∧
      (∀ q, t.progObj p.prog = some q → q.placed = o.placed ++ [p.frame]) ∧ t.fresh = s.fresh + 1)

/-- `FRAME_PLACEMENT` of a frame that was saved: its warps start the restore routine with the registers of a start, the bank of
R235 and its rings; a warp all of whose lanes had exited stays so (R242). A frame that is on its bay, or out for a relaunch, is
not placed by it. -/
def Sys2Proof.Claims.placesBack : Prop :=
  ∀ (s : State) (p : Placement) (o : ProgObj) (lid : Nat) (l : Launch) (f : Frame), s.progObj p.prog = some o → o.lid = some lid →
    s.launch? lid = some l → (s.frames.find? fun f => f.lid == l.lid && f.idx == p.frame) = some f → s.frame? f.fid = some f →
    let ev := Instr.framePlacement p
    (f.phase ≠ .out ∨ f.again = true → exec ev s = .next s) ∧
    (f.phase = .out → f.again = false → ∀ c, s.ctxObj l.ctx = some c →
      (s.routineOf c.restore = none → exec ev s = .next s) ∧
      ∀ r, s.routineOf c.restore = some r →
        let may := Fits r l ∧ PlaceFits s f l p ∧ l.live = true ∧ NotHeld s l.ctx
        (¬may → exec ev s = .next s) ∧
        (may → CapsOk r → ∃ t g, exec ev s = .next t ∧ t.frame? f.fid = some g ∧ IsPlaced s t f l p g ∧
          ∀ (i : Nat) (w v : Warp), f.warps[i]? = some v → g.warps[i]? = some w →
            (v.gone = true → w = v) ∧
            (v.gone = false → AtStart s l r r.entry w ∧ w.mode = .restore ∧ w.rdS 92 = 0 ∧ w.rdS 93 = BitVec.ofNat 64 w.idx ∧
              w.rdS 94 = BitVec.ofNat 64 f.idx ∧ w.rdS 95 = BitVec.ofNat 64 f.warps.length ∧ w.rdK 31 = sliceCap s g l)))

namespace Sys2Proof.Claims

/-- A warp in its save routine (R235, R237): its lanes' PCs and waiting flags held aside, the lanes at the routine's entry, the
bank and cause of a save; its operations go on. -/
def Saving (s : State) (f : Frame) (l r : Launch) (v w : Warp) : Prop :=
  let core := (v.run.map Run.ckpt).getD v.wc
  w.mode = .save ∧ w.trapCause = 0x10 ∧ w.hold = none ∧ w.run = none ∧ w.saveReq = false ∧ w.wc.pend = [] ∧
  w.wc.lanes = core.lanes.map (fun y => if y.st = .live then
    { y with pc := r.entry, waitJoin := none, waitBar := none, miss := 0, deferred := false, lastPage := none
             heldPc := y.pc, heldJoin := y.waitJoin, heldBar := y.waitBar, heldMiss := y.miss } else y) ∧
  w.rdS 92 = 0 ∧ w.rdS 93 = BitVec.ofNat 64 v.idx ∧ w.rdS 94 = BitVec.ofNat 64 f.idx ∧
  w.rdS 95 = BitVec.ofNat 64 f.warps.length ∧ w.rdK 31 = sliceCap s f l ∧ w.ops = v.ops ∧ w.acc = v.acc ∧ w.tagCnt = v.tagCnt

/-- A warp that SAVE_REQ stopped and that waits to enter its save routine: its issue is undone, its hold is abandoned. -/
def Stopped (v w : Warp) : Prop :=
  w = { v with wc := (v.run.map Run.ckpt).getD v.wc, run := none, hold := none, burst := none, saveReq := true }

end Sys2Proof.Claims

/-- `SAVE_REQ` (R236, R237): the barriers freeze, the buffer is committed, and every warp leaves its instruction and enters the
save routine, but for one in a routine, which takes it at the routine's end, and one whose lanes have all exited. A warp with a
late fault takes that first (log 22), and while copies issued before the commit have bytes to enter the buffer the warps
wait (R327); they go on at the event once those are performed. A frame of a context without both routines is never pre-empted;
one whose save routine does not fit is BAD_ROUTINE. -/
def Sys2Proof.Claims.saveRequests : Prop :=
  ∀ (s : State) (f : Frame) (l : Launch), s.frame? f.fid = some f → s.launch? f.lid = some l → (f.warps.map Warp.idx).Nodup →
    let save := (s.ctxObj l.ctx).bind fun c => s.routineOf c.save
    let restore := (s.ctxObj l.ctx).bind fun c => s.routineOf c.restore
    let ev := Instr.saveReq f.fid
    let busy := ∃ c, s.cur = some c ∧ c.fid = f.fid
    (busy ∨ f.phase ≠ .resident ∧ f.phase ≠ .saving ∨ f.phase = .resident ∧ (save = none ∨ restore = none) → exec ev s = .next s) ∧
    (¬busy → f.phase = .resident → restore ≠ none → ∀ r, save = some r →
      let e := s.entry 4 l.prog
      (¬Fits r l → swf {} s.scribe.entries = true →
        (e.st ≠ .built → e.st ≠ .building → exec ev s = .next s) ∧
        (e.st = .built ∨ e.st = .building → ∃ t, exec ev s = .next t ∧ t.frames = s.frames ∧
          t.entry 4 l.prog = { e with st := .faulted, fault := 0x107, live := true })) ∧
      (Fits r l →
        let u := (s.closeBuffer f.fid l true).1
        ∃ t g, exec ev s = .next t ∧ t.frame? f.fid = some g ∧ g.phase = .saving ∧ g.frozen = some f.barriers ∧ g.fsb = [] ∧
          t.mem = u.mem ∧ t.copies = u.copies ∧ (f.fsb = [] → t.mem = s.mem) ∧ g.warps.map Warp.idx = f.warps.map Warp.idx ∧
          ∀ (i : Nat) (w v : Warp), f.warps[i]? = some v → g.warps[i]? = some w →
            (v.gone = true → w = v) ∧ (v.gone = false → v.mode ≠ .user → w = { v with saveReq := true }) ∧
            (v.gone = false → v.mode = .user →
              (v.late ≠ none ∨ u.committing f.fid = true → Stopped v w) ∧
              (v.late = none → u.committing f.fid = false → Saving s f l r v w)))) ∧
    (¬busy → f.phase = .saving →
      (s.committing f.fid = true → exec ev s = .next s) ∧
      (s.committing f.fid = false → ∀ r, save = some r → ∃ t g, exec ev s = .next t ∧ t.frame? f.fid = some g ∧ t.mem = s.mem ∧
        g.warps.map Warp.idx = f.warps.map Warp.idx ∧ ∀ (i : Nat) (w v : Warp), f.warps[i]? = some v → g.warps[i]? = some w →
          (v.saveReq = true → v.mode = .user → v.late = none → Saving s f l r v w) ∧
          (¬(v.saveReq = true ∧ v.mode = .user ∧ v.late = none) → w = v)))

/-- `FRAME_OUT` (R242, R255, R288): once its operations are done, a saved frame is out with the rings it had bound, its slots, sets
and scratchpad free and its L1 translations invalid; a frame that is being removed is gone, its rings unbound, once the copies
of others that reach into it are done as well (R178). Until then the event does nothing. -/
def Sys2Proof.Claims.framesOut : Prop :=
  ∀ (s : State) (f : Frame), s.frame? f.fid = some f → (∀ c ∈ s.copies, c.fid ≠ f.fid) →
    let saved := f.phase = .saving ∧ (∀ w ∈ f.warps, w.gone = true) ∧ s.idle f = true
    let removed := f.phase = .removing ∧ s.clearOf f = true
    let cold := fun t : State => ∀ x, x ∈ t.tlb ↔ x ∈ s.tlb ∧ ¬(x.fid = f.fid ∧ ∃ c, x.at_ = .l1 c)
    let rings := fun t : State => (t.bay f.bay).rings = (s.bay f.bay).rings.filter fun x => x.2.fid != f.fid
    let zero := fun t : State => IdsOk s (s.launchOf f) → ∀ a < 2 ^ 64, readByte t.mem ((Region.scratch f.fid).at a) = 0
    let slots := fun t : State => ∀ n x, (n, x) ∈ (t.bay f.bay).slots → x.owner = f.fid → ∃ o ∈ (t.bay f.bay).ops, o.slot = n
    (¬saved → ¬removed → exec (.frameOut f.fid) s = .next s) ∧
    (saved → swf {} s.bays = true → ∃ t g, exec (.frameOut f.fid) s = .next t ∧ t.frame? f.fid = some g ∧ g.phase = .out ∧ g.again = f.again ∧ g.slice = f.slice ∧
      g.carried = ((s.bay f.bay).rings.filter fun x => x.2.fid == f.fid) ∧ g.tlbSets = [] ∧ g.fsb = [] ∧ g.frozen = none ∧
      g.warps = f.warps.map (fun w => { w with gone := w.mode != .save }) ∧ rings t ∧ zero t ∧ slots t ∧ cold t) ∧
    (removed → swf {} s.bays = true → ∃ t, exec (.frameOut f.fid) s = .next t ∧ t.frames = s.frames.filter (fun g => g.fid != f.fid) ∧ rings t ∧ zero t ∧
      slots t ∧ cold t ∧ t.circles = s.circles.map fun c => { c with slots := c.slots.map fun x => if x.member = some f.fid then { x with member := none } else x })

namespace Sys2Proof.Claims

/-- The restart record of a frame can be reached, or there is none to write (R328): no RSTMAP, a page that was refused, or a fault
on the way, which leaves it out. -/
def RecordAt (s : State) (f : Frame) (l : Launch) (u : State) (as : List Nat) : Prop :=
  match l.rstmap with
  | none => u = s ∧ as = []
  | some m => f.wait = none ∧
    if f.deny then u = s ∧ as = []
    else match s.mapAccess m (64 * f.idx) 64 .w with
      | .ok v bs => u = v ∧ as = bs
      | .fault v _ _ => u = v ∧ as = []
      | .absent _ => False

end Sys2Proof.Claims

/-- `FRAME_RELAUNCH` (R328, R329, R331): once its operations are done the frame leaves, and COUNT, CAUSE, SHREP, TIME and BAY of
its record say so, in the record too; a record whose page is absent is asked for and waited for (R319). A second mismatch
without progress leaves it out for good, and the PROGRAM is FAULTED (SHADOW_REPEAT) while its other frames are removed. It is
placed again at its restart entry, on its old bay only when no other has room. -/
def Sys2Proof.Claims.relaunches : Prop :=
  ∀ (s : State) (f : Frame) (l : Launch) (p : Placement), s.frame? f.fid = some f → s.launch? f.lid = some l → l.lid = f.lid →
    (∀ c ∈ s.copies, c.fid ≠ f.fid) →
    let ev := Instr.frameRelaunch f.fid p
    (f.again = false → ¬(f.phase = .relaunching ∧ s.clearOf f = true) → exec ev s = .next s) ∧
    (f.phase = .out → f.again = true →
      let may := PlaceFits s f l p ∧ (p.bay = f.bay → ∀ b < 64, b ≠ f.bay → s.bayRoom f l b = false) ∧ l.live = true ∧ NotHeld s l.ctx
      (¬may → exec ev s = .next s) ∧
      (may → CapsOk l → (∀ w ∈ f.warps, w.gone = false) → ∃ t g, exec ev s = .next t ∧ t.frame? f.fid = some g ∧ IsPlaced s t f l p g ∧
        ∀ w ∈ g.warps, AtStart s l l (if l.restart = 0 then l.entry else l.restart) w ∧ w.mode = .user)) ∧
    (f.phase = .relaunching → f.again = false → s.clearOf f = true →
      (∀ m, l.rstmap = some m →
        (f.wait ≠ none → exec ev s = .next s) ∧
        (f.wait = none → f.deny = false → ∀ a, s.mapAccess m (64 * f.idx) 64 .w = .absent a →
          ∃ t g, exec ev s = .next t ∧ t.pages = s.pages ++ [g] ∧ g.num = s.fresh ∧ g.party = .relaunch f.fid ∧ g.ctx = l.ctx ∧
            g.recs = [(a.page, a.write, a.stage2, true, 0, 0xFFFFFFFF)] ∧ t.frame? f.fid = some { f with wait := some s.fresh } ∧ t.mem = s.mem)) ∧
      ∀ u as, RecordAt s f l u as → 64 ≤ p.bay → swf {} s.bays = true → swf {} s.scribe.entries = true → (s.frames.map Frame.fid).Nodup →
        let progress := if as.any u.lineBad then 0 else u.rdAt ((as.drop 32).take 8)
        let r := f.restart
        let mismatch := f.relaunchCause = 0xF
        let shrep := if ¬mismatch then 0 else if r.lastProgress = some progress then r.shrep + 1 else 1
        let new : Restart :=
          { count := min (r.count + 1) 0xFFFFFFFF, cause := f.relaunchCause, shrep := shrep, time := s.now * 5 / 9, bay := f.bay
            lastProgress := if mismatch then some progress else r.lastProgress }
        ∃ t : State, exec ev s = .next t ∧
          (shrep < 2 → (t.bay f.bay).rings = ((s.bay f.bay).rings.filter fun x => x.2.fid != f.fid) ∧ (∃ g, t.frame? f.fid = some g ∧ g.phase = .out ∧ g.again = true ∧ g.slice = f.slice ∧ g.fsb = [] ∧ g.carried = [] ∧
              g.restart = new) ∧
            (IdsOk s l → as.length = 64 → as.Nodup → (∀ a ∈ as, isOutside a = true ∧ isParam a = false ∧
                ¬(s.hdmBase + Config.abBase ≤ a ∧ a < s.hdmBase + Config.abBase + 8 * 2 ^ 20)) → Memory.wf s.mem = true →
              let field := fun o n => t.rdAt ((as.drop o).take n)
              field 0 4 = 0x54525352 ∧ field 4 4 = new.count ∧ field 8 2 = new.cause % 2 ^ 16 ∧ field 10 1 = shrep ∧
              field 16 8 = new.time % 2 ^ 64 ∧ field 24 1 = new.bay % 64)) ∧
          (2 ≤ shrep → t.frame? f.fid = none ∧ (∀ g ∈ t.frames, g.lid = f.lid → g.phase = .removing) ∧
            ((s.entry 4 l.prog).st = .built ∨ (s.entry 4 l.prog).st = .building →
              (t.entry 4 l.prog).st = .faulted ∧ (t.entry 4 l.prog).fault = 0x109)))

/-- `BAY_POWER_GATE` (R302): a bay that is on, without frame, bound ring or slot loses its tables and its L2 TLB, and any other
stays. `BAY_WAKE` (R266): a bay that wakes is on again. -/
def Sys2Proof.Claims.bayPower : Prop :=
  ∀ (s : State) (n : Nat),
    let b := s.bay n
    let free := n < 64 ∧ b.power = .on ∧ b.rings = [] ∧ b.slots = [] ∧ ∀ f ∈ s.frames, f.bay = n → f.phase = .out
    (¬free → exec (.bayPowerGate n) s = .next s) ∧
    (free → exec (.bayPowerGate n) s = .next { s with
      bays := sset {} n { power := .gated, passes := b.passes } s.bays, tlb := s.tlb.filter fun t => t.at_ != .l2 n }) ∧
    (b.power ≠ .waking → exec (.bayWake n) s = .next s) ∧
    (b.power = .waking → (∀ i q, (i, some q) ∈ s.scribe.queues → q.latch = []) →
      exec (.bayWake n) s = .next { s with bays := sset {} n { b with power := .on } s.bays })

/-- Frames placed, saved, removed and relaunched, and bays gated. -/
def Obligations.Frames : Prop := placementTest ∧ placesNew ∧ placesBack ∧ saveRequests ∧ framesOut ∧ relaunches ∧ bayPower

/-! ### Queues -/

namespace Sys2Proof.Claims

/-- The queue that holds a number of an interface. -/
def holder (s : State) (port qif qnum : Nat) : Option (Nat × QueueObj) :=
  (s.scribe.queues.filterMap fun x => x.2.map fun q => (x.1, q)).find? fun x => x.2.port == port && x.2.qif == qif && x.2.qnum == qnum

/-- Bytes 8 to 15 of a queue's error records (Table 12.18). -/
def whereOf (port qif qnum : Nat) : Nat := qif + 2 ^ 8 * port + 2 ^ 16 * qnum

/-- REFUSED of an interface grows by 1, in the status block too (Table 12.13). -/
def Counted (s u : State) (port qif : Nat) : Prop :=
  let k := 8 * port + qif
  let n := sget 0 s.scribe.refused k + 1
  let a := s.hdmBase + Config.abBase + 0x428800 + 64 + 8 * k
  u = { s with mem := u.mem, scribe := { s.scribe with refused := sset 0 k n s.scribe.refused } } ∧
  (SafeState s → s.hdmBase + Config.devBytes ≤ 2 ^ 64 → k < 16 → u.rd a 8 = n % 2 ^ 64) ∧ (SafeState s → ∀ b, b < a ∨ a + 8 ≤ b → readByte u.mem b = readByte s.mem b)

/-- A tail write refused: one count, and one error record of a code. -/
def RefusedTail (s t : State) (port qif qnum code id : Nat) : Prop :=
  ∃ u, Counted s u port qif ∧ t = u.errorRecord code id (whereOf port qif qnum) 0

/-- The bytes at some addresses. -/
def Wrote (t : State) (as : List Nat) (bs : List Byte) : Prop :=
  ∀ (k a : Nat) (b : Byte), as[k]? = some a → bs[k]? = some b → isParam a = false → readByte t.mem a = b

/-- A queue's memory. -/
def memoryOf (s : State) (q : QueueObj) : Nat := (s.mapObj q.ringmap).elim 0 MapObj.base

/-- Queue `i` is the first on which an event acts: those before it are of no concern to it. -/
def FirstQueue (s : State) (i : Nat) (q : QueueObj) (idle : Nat → QueueObj → Prop) : Prop :=
  swf none s.scribe.queues = true ∧ ∃ pre post, s.scribe.queues = pre ++ (i, some q) :: post ∧ ∀ j x, (j, some x) ∈ pre → idle j x

/-- Nothing to bring in, or a resize is moving the messages (R263). -/
def NothingIn (_ : Nat) (q : QueueObj) : Prop :=
  q.anns = [] ∨ q.inWait ≠ none ∨ q.made = false ∨ q.newCount ≠ none ∧ q.epoch % 2 = 1

/-- A pending COUNT that the entry still moves to: it is not FAULTED or UNSETTLED (Table 12.14). -/
def NewCount (s : State) (i : Nat) (q : QueueObj) : Option Nat :=
  if (s.entry 3 i).st = .building ∨ (s.entry 3 i).st = .waiting then q.newCount else none

/-- No resize to make, begin or bring to its end. -/
def NoResize (s : State) (i : Nat) (q : QueueObj) : Prop :=
  q.newCount = none ∨ q.outWait ≠ none ∨ q.reason ≠ 0 ∨ q.epoch % 2 = 0 ∧ NewCount s i q = none

/-- No close under way. -/
def NoClose (_ : Nat) (q : QueueObj) : Prop := q.reason = 0 ∨ q.outWait ≠ none

end Sys2Proof.Claims

/-- `TAIL_WRITE` (R265, R266, R294, R295, R298): other offsets are ignored, and so is all traffic after a failed boot; without a
valid PASID, or outside IDE on an interface that runs trusted, it is refused as PASID_REVOKED; a number no queue holds, a
context or a queue that is going away refuse it by their codes; a queue that wakes its consumer's bay latches it and the bay
begins to wake; any other accepts it, and asks for a suspended context to be woken where its queue says so. -/
def Sys2Proof.Claims.tailWrites : Prop :=
  ∀ (s : State) (port qif off v : Nat) (ide : Bool),
    let ev := Instr.tailWrite port qif off v ide
    let ignored := 8 ≤ qif ∨ off % 8 ≠ 0 ∨ 4096 ≤ off ∨ s.bootstat.getLsbD 4 = true
    let qnum := off / 8
    let hit := (holder s port qif qnum).filter fun x => x.2.made
    let revoked := (qifOf s port qif).cfg.getLsbD 20 = false ∨ (s.tdi (8 * port + qif)).st = .run ∧ ide = false
    let refused := fun code id => ∃ t, exec ev s = .next t ∧ RefusedTail s t port qif qnum code id
    (ignored → exec ev s = .next s) ∧
    (¬ignored → (revoked → refused 4 (hit.elim 0xFFFFFFFF Prod.fst)) ∧ (¬revoked → hit = none → refused 3 0xFFFFFFFF) ∧
      (¬revoked → ∀ i q, hit = some (i, q) →
        let c := s.entry 1 q.ctx
        let gone := c.st = .draining ∨ c.st = .absent
        let closing := (s.entry 3 i).st = .draining
        let mine := s.frames.filter fun f => f.phase != .out && (s.launchOf f).prog == q.consumer
        let latched := q.flags % 2 = 1 ∧ (q.latch ≠ [] ∨ ∃ f ∈ mine, (s.bay f.bay).power ≠ .on)
        let a : Announce := { port := port, qif := qif, qnum := qnum, va := v % 2 ^ 64 / 64 * 64, left := v % 64 + 1, ide := ide }
        (gone → refused 2 i) ∧ (¬gone → closing → refused 1 i) ∧
        (¬gone → ¬closing → latched → swf {} s.bays = true → ∃ t, exec ev s = .next t ∧ t.queueObj i = some { q with latch := q.latch ++ [a] } ∧
          t = { s with bays := t.bays, scribe := { s.scribe with queues := t.scribe.queues } } ∧
          ∀ n, t.bay n = if (s.bay n).power = .gated ∧ ∃ f ∈ mine, f.bay = n then { s.bay n with power := .waking } else s.bay n) ∧
        (¬gone → ¬closing → ¬latched → ∃ t, exec ev s = .next t ∧ t.queueObj i = some { q with anns := q.anns ++ [a] } ∧ t.frames = s.frames ∧
          t.bays = s.bays ∧ (c.suspended = true ∧ q.flags % 2 = 1 ∧ c.wake = false → t.entry 1 q.ctx = { c with wake := true }) ∧
          (¬(c.suspended = true ∧ q.flags % 2 = 1 ∧ c.wake = false) → t.scribe.entries = s.scribe.entries ∧ t.mem = s.mem))))

/-- `QUEUE_MESSAGE_PLACE` (R262, R263, R267, R294, R298, R344): an announcement that did not come over IDE is refused once its
interface runs trusted; else the next packet of the oldest announcement is fetched through the queue's
context and written at TAIL, and then TAIL moves; only while the queue has room, below the count of a pending shrink. A HEAD out
of reach is recorded once; a packet that cannot be fetched ends its announcement, with a count and FETCH_FAULT; a page of the
queue's own memory that is absent is asked for. -/
def Sys2Proof.Claims.messagesPlaced : Prop :=
  ∀ (s : State),
    ((∀ i q, (i, some q) ∈ s.scribe.queues → NothingIn i q) → exec .queueMessagePlace s = .next s) ∧
    ∀ i q a rest, FirstQueue s i q NothingIn → ¬NothingIn i q → q.inDeny = none → q.anns = a :: rest →
      let ev := Instr.queueMessagePlace
      let base := memoryOf s q
      let room := min ((NewCount s i q).getD q.count) q.count
      let ends := fun (u t : State) => ∃ w, Counted (u.setQueue i { q with anns := rest }) w q.port q.qif ∧
        t = w.errorRecord 10 i (whereOf q.port q.qif (q.qnum % 512)) a.va
      let plain := (s.tdi (8 * a.port + a.qif)).st = .run ∧ a.ide = false
      (plain → ∃ u, Counted (s.setQueue i { q with anns := rest }) u a.port a.qif ∧
        exec ev s = .next (u.errorRecord 4 i (whereOf a.port a.qif (a.qnum % 512)) 0)) ∧
      (¬plain →
      (∀ p, s.vaRange q.ctx (base + 8) 8 .r = .absent p →
        let asks : PageGroup :=
          { num := s.fresh, party := .queue i false, ctx := q.ctx, recs := [(p.page, p.write, p.stage2, true, 0, 0xFFFFFFFF)], val := p.off }
        exec ev s = .next
        ({ s with fresh := s.fresh + 1, pages := s.pages ++ [asks] }.setQueue i { q with inWait := some s.fresh })) ∧
      ∀ u as, s.vaRange q.ctx (base + 8) 8 .r = .ok u as →
        let used := (q.tail + 2 ^ 64 - u.rdAt as) % 2 ^ 64
        (q.count < used → q.headBad = false → exec ev s = .next
          ((u.setQueue i { q with headBad := true }).errorRecord 5 i (whereOf q.port q.qif (q.qnum % 512)) 0)) ∧
        (used ≤ q.count → used < room →
          (∀ p, u.vaRange q.ctx a.va 64 .r = .absent p → ∃ t, exec ev s = .next t ∧ ends u t) ∧
          (∀ w va k, u.vaRange q.ctx a.va 64 .r = .fault w va k → ∃ t, exec ev s = .next t ∧ ends w t) ∧
          ∀ u2 u3 u4 src dst cb, u.vaRange q.ctx a.va 64 .r = .ok u2 src →
            u2.vaRange q.ctx (base + 64 + 64 * (q.tail % q.count)) 64 .w = .ok u3 dst → u3.vaRange q.ctx base 8 .w = .ok u4 cb →
            SafeState u4 → (dst ++ cb).Nodup → ∃ t, exec ev s = .next t ∧
              t.queueObj i = some { q with
                tail := (q.tail + 1) % 2 ^ 64, anns := if a.left ≤ 1 then rest else { a with va := a.va + 64, left := a.left - 1 } :: rest } ∧
              Wrote t dst (src.map fun x => readByte u4.mem x) ∧ Wrote t cb (leBytes 8 ((q.tail + 1) % 2 ^ 64)) ∧
              (∀ x, x ∉ dst ++ cb → readByte t.mem x = readByte u4.mem x) ∧ t.frames = u4.frames))

/-- `QUEUE_RESIZE` (R263, R260): once the messages fit, EPOCH becomes odd; then they move to their places for the new count, in
order, and COUNT, EPOCH (even again) and the entry, BUILT, say so. A resize whose entry is FAULTED or UNSETTLED meanwhile
does not begin, and one that has begun ends with the COUNT that stands (the model's choice, log 27). -/
def Sys2Proof.Claims.resizes : Prop :=
  ∀ (s : State),
    ((∀ i q, (i, some q) ∈ s.scribe.queues → NoResize s i q) → exec .queueResize s = .next s) ∧
    ∀ i q m u as, FirstQueue s i q (NoResize s) → ¬NoResize s i q → q.outDeny = none → q.newCount = some m → swf {} s.scribe.entries = true →
      s.vaRange q.ctx (memoryOf s q) (64 + 64 * max m q.count) .w = .ok u as → SafeState u → as.Nodup → (∀ a ∈ as, isParam a = false) →
      let n := (NewCount s i q).getD q.count
      let e := s.entry 3 i
      let byte := fun k => as.getD k 0
      let head := u.rdAt ((as.drop 8).take 8)
      let used := (q.tail + 2 ^ 64 - head) % 2 ^ 64
      (q.count < used → q.headBad = false → exec .queueResize s = .next
        ((u.setQueue i { q with headBad := true }).errorRecord 5 i (whereOf q.port q.qif (q.qnum % 512)) 0)) ∧
      (used ≤ q.count → used ≤ n →
        (q.epoch % 2 = 0 → ∃ t, exec .queueResize s = .next t ∧ t.queueObj i = some { q with epoch := q.epoch + 1 } ∧
          Wrote t ((as.drop 16).take 8) (leBytes 4 q.count ++ leBytes 4 (q.epoch + 1)) ∧
          ∀ x, x ∉ (as.drop 16).take 8 → readByte t.mem x = readByte u.mem x) ∧
        (q.epoch % 2 = 1 → (∀ a ∈ as, ∀ k < 32, a ≠ s.hdmBase + Config.abBase + 0x208000 + 32 * i + k) → ∃ t, exec .queueResize s = .next t ∧
          t.queueObj i = some { q with count := n, newCount := none, epoch := (q.epoch + 1) % 2 ^ 32 } ∧
          t.entry 3 i = (if e.st = .building ∨ e.st = .waiting then { e with st := .built, version := e.target, detail := 0 } else e) ∧
          (∀ k < used, ∀ j < 64, readByte t.mem (byte (64 + 64 * ((head + k) % n) + j)) = readByte u.mem (byte (64 + 64 * ((head + k) % q.count) + j))) ∧
          t.rdAt ((as.drop 16).take 4) = n % 2 ^ 32 ∧ t.rdAt ((as.drop 20).take 4) = (q.epoch + 1) % 2 ^ 32 ∧
          (∀ k < 16, readByte t.mem (byte k) = readByte u.mem (byte k))))

/-- `QUEUE_CLOSE_DRAIN` (R204, R264, R267): EPOCH becomes odd, and then CLOSED 1, which lies in another 8 bytes; a HEAD out of
reach is recorded once and set to the newest COUNT messages; messages are claimed one by one by moving HEAD, and each goes to the return ring with its queue, reason, sequence and time, or,
without a ring, is counted; at last, with nothing queued or still being brought in, the entry is ABSENT with the count, or
BUILDING for a replace. -/
def Sys2Proof.Claims.closes : Prop :=
  ∀ (s : State),
    let ev := Instr.queueCloseDrain
    ((∀ i q, (i, some q) ∈ s.scribe.queues → NoClose i q) → exec ev s = .next s) ∧
    ∀ i q, FirstQueue s i q NoClose → ¬NoClose i q → q.outDeny = none → swf {} s.scribe.entries = true →
      (∀ u as, q.claimed = none → s.vaRange q.ctx (memoryOf s q) (64 + 64 * q.count) .w = .ok u as → SafeState u → as.Nodup →
        let head := u.rdAt ((as.drop 8).take 8)
        let used := (q.tail + 2 ^ 64 - head) % 2 ^ 64
        let even := q.reason ≠ 3 ∧ q.epoch % 2 = 0
        let opens := even ∨ q.reason ≠ 3 ∧ q.closed = false
        let e := s.entry 3 i
        (even → ∃ t, exec ev s = .next t ∧ t.queueObj i = some { q with epoch := q.epoch + 1 } ∧
          Wrote t ((as.drop 16).take 8) (leBytes 4 q.count ++ leBytes 4 (q.epoch + 1)) ∧
          ∀ x, x ∉ (as.drop 16).take 8 → readByte t.mem x = readByte u.mem x) ∧
        (¬even → opens → ∃ t, exec ev s = .next t ∧ t.queueObj i = some { q with closed := true } ∧
          Wrote t ((as.drop 24).take 1) [1] ∧ ∀ x, x ∉ (as.drop 24).take 1 → readByte t.mem x = readByte u.mem x) ∧
        (¬opens → q.count < used →
          let v := if q.headBad then u else (u.setQueue i { q with headBad := true }).errorRecord 5 i (whereOf q.port q.qif (q.qnum % 512)) 0
          exec ev s = .next (v.wrAt ((as.drop 8).take 8) (leBytes 8 ((q.tail + 2 ^ 64 - q.count) % 2 ^ 64)))) ∧
        (¬opens → 0 < used → used ≤ q.count → ∃ t, exec ev s = .next t ∧
          Wrote t ((as.drop 8).take 8) (leBytes 8 ((head + 1) % 2 ^ 64)) ∧
          t.queueObj i = some { q with
            claimed := some (head, ((as.drop (64 + 64 * (head % q.count))).take 64).map fun a => readByte u.mem a) }) ∧
        (¬opens → used = 0 → q.anns = [] → ∃ t, exec ev s = .next t ∧
          (q.reason = 3 → t.queueObj i = some { q with reason := 0, discarded := 0 }) ∧
          (q.reason ≠ 3 → t.queueObj i = none ∧
            t.entry 3 i = if e.replace then { e with st := .building, live := false, detail := 0 }
              else { e with st := .absent, version := e.target, live := false, detail := q.discarded, ofCtx := none, names := [] }))) ∧
      ∀ seq msg, q.claimed = some (seq, msg) →
        let ring := s.ringAt q.ctx ((s.ctxObj q.ctx).bind CtxObj.retmap) 128
        let rec_ := leBytes 4 i ++ leBytes 1 q.reason ++ List.replicate 3 0 ++ leBytes 8 seq ++ leBytes 8 (s.now * 5 / 9) ++ List.replicate 40 0 ++ msg
        (ring = .none → exec ev s = .next (s.setQueue i { q with claimed := none, discarded := q.discarded + 1 })) ∧
        (∀ base n u, ring = .at_ base n → appendVa s q.ctx base 128 n rec_ = .wrote u →
          exec ev s = .next (u.setQueue i { q with claimed := none })) ∧
        ∀ base n u va c, ring = .at_ base n → appendVa s q.ctx base 128 n rec_ = .fault u va c →
          exec ev s = .next ((u.errorRecord 11 q.ctx va (2 ^ 8 * c.code)).setQueue i { q with claimed := none, discarded := q.discarded + 1 })

/-- Appending to a report ring of a context (R267): the record at PROD, then PROD moves on; a full ring takes nothing. A CONS that
is not between the one taken last and PROD counts as PROD. -/
def Sys2Proof.Claims.reportRings : Prop :=
  ∀ (s u v : State) (ctx base size n : Nat) (rec_ : List Byte) (as bs : List Nat), s.vaRange ctx base 16 .w = .ok u as →
    let prod := u.rdAt (as.take 8)
    let ring := as.headD 0
    let last := sget 0 u.scribe.cons ring
    let wrote := u.rdAt (as.drop 8)
    let cons := if (wrote + 2 ^ 64 - last) % 2 ^ 64 ≤ (prod + 2 ^ 64 - last) % 2 ^ 64 then wrote else prod
    let used := (prod + 2 ^ 64 - cons) % 2 ^ 64
    let w := { u with scribe := { u.scribe with cons := sset 0 ring cons u.scribe.cons } }
    (used = n → appendVa s ctx base size n rec_ = .full) ∧
    (used ≠ n → w.vaRange ctx (base + 64 + size * (prod % n)) size .w = .ok v bs → SafeState v → (as ++ bs).Nodup → ∃ t,
      appendVa s ctx base size n rec_ = .wrote t ∧ Wrote t bs rec_ ∧ Wrote t (as.take 8) (leBytes 8 ((prod + 1) % 2 ^ 64)) ∧
      ∀ x, x ∉ bs ++ as.take 8 → readByte t.mem x = readByte v.mem x)

/-- Queues: tail writes, messages brought in, resizes and closes. -/
def Obligations.Queues : Prop := tailWrites ∧ messagesPlaced ∧ resizes ∧ closes ∧ reportRings

/-! ### Page requests -/

namespace Sys2Proof.Claims

/-- A group with STATUS 0 or 2 lets its party go on; one with STATUS 1 gives it PAGE_ABSENT (R318, R319, R344); a party that
waits no more hears nothing. -/
def Answered (s t : State) (g : PageGroup) (ok : Bool) : Prop :=
  let u := { s with pages := s.pages.filter fun p => p.num != g.num }
  (s.partyWaits g = false → t = u) ∧
  (s.partyWaits g = true →
    match g.party with
    | .warp i => ∀ f w l h, s.frame? i.fid = some f → f.warp? i.idx = some w → s.launch? f.lid = some l → w.hold = some h →
        let v := u.setWarp i.fid { w with hold := none }
        (ok = true → t = v) ∧ (ok = false → ∃ len, t = takeTrap v i.fid i.idx h.lanes h.pc len .pageAbsent g.val (some g.lane))
    | .copy id lane => ∀ c, s.copies.find? (fun c => c.id == id) = some c →
        let resumed := fun c : CopyOp => { c with lanes := modifyFirst (fun x => x.lane == lane) (fun x => { x with paused := none }) c.lanes }
        (ok = true → t = { u with copies := modifyFirst (fun c => c.id == id) resumed s.copies }) ∧
        (ok = false → c.coll = none → t = laneDone u id lane (some (0xB, g.val)))
    | .truss id => swf {} s.bays = true → ∀ n b, s.bays.find? (fun x => x.2.ops.any fun o => o.id == id) = some (n, b) →
        ∀ o ∈ (t.bay n).ops, o.id = id → o.paused = none
    | .ft id => ∀ o, s.ftops.find? (fun o => o.id == id) = some o →
        (ok = true → t = { u with ftops := modifyFirst (fun p => p.id == id) (fun p => { p with paused := none }) s.ftops }) ∧
        (ok = false → t = u.ftDone o (some (0xB, g.val)))
    | .dep id => ∀ d, s.deps.find? (fun d => d.id == id) = some d →
        (ok = true → t = { u with deps := modifyFirst (fun x => x.id == id) (fun x => { x with paused := none }) s.deps }) ∧
        (ok = false → t = depDone u d (some (0xB, g.val)))
    | .job op => ∀ n d j, s.dies.find? (fun x => x.2.jobs.any fun j => j.opId == op) = some (n, d) →
        d.jobs.find? (fun j => j.opId == op) = some j → t = advanceJob u n { j with deny := if ok then none else some g.val }
    | .relaunch fid => ∀ f, s.frame? fid = some f → t = u.setFrame { f with wait := none, deny := !ok }
    | .build p => ∀ o, s.progObj p = some o → t.progObj p = some { o with wait := none, deny := !ok } ∧ t.frames = s.frames
    | .queue q out => ∀ o, s.queueObj q = some o →
        let deny := if ok then none else some g.val
        t.queueObj q = some (if out then { o with outWait := none, outDeny := deny } else { o with inWait := none, inDeny := deny }) ∧ t.mem = s.mem)

/-- The page-request ring of a port is enabled, with room for 64 records. -/
def AsksOn (s : State) (port : Nat) : Prop := (s.port port).prbase.getLsbD 0 = true ∧ 64 ≤ (s.port port).prn.toNat % 2 ^ 17

/-- The port a group goes to: 0 where its ring is enabled, else 1 (R316). -/
def GoesTo (s : State) (port : Nat) : Prop := port = 0 ∧ AsksOn s 0 ∨ port = 1 ∧ ¬AsksOn s 0 ∧ AsksOn s 1

end Sys2Proof.Claims

/-- `PAGE_REQUEST_SEND` (R316, R317): the oldest group is written whole, its records at PROD and then PROD moved past them, with
the port's count as its id; it waits while the ring lacks room, and without an enabled ring it is answered as with STATUS 1. A
group whose party waits no more is dropped. -/
def Sys2Proof.Claims.requestsSent : Prop :=
  ∀ (s : State),
    let ev := Instr.pageRequestSend
    let next := s.pages.find? fun g => g.phase == .toSend
    (next = none → exec ev s = .next s) ∧
    ∀ g, next = some g →
      (s.partyWaits g = false → exec ev s = .next { s with pages := s.pages.filter fun p => p.num != g.num }) ∧
      (s.partyWaits g = true → ¬AsksOn s 0 → ¬AsksOn s 1 → ∃ t, exec ev s = .next t ∧ Answered s t g false) ∧
      (s.partyWaits g = true → ∀ port, GoesTo s port →
        let p := s.port port
        let base := p.prbase.toNat / 64 * 64
        let n := p.prn.toNat % 2 ^ 17
        let prod := s.rd base 8
        let size := g.recs.length
        let full := n < (prod + 2 ^ 64 - s.rd (base + 8) 8) % 2 ^ 64 + size
        (full → exec ev s = .next s) ∧
        (¬full → SafeState s → (∀ k < 64 + 32 * n, isParam (base + k) = false) → ∃ t, exec ev s = .next t ∧
          t = { s with mem := t.mem, ports := t.ports, pages := t.pages } ∧ t.port port = { p with groups := p.groups + 1 } ∧
          t.rd base 8 = (prod + size) % 2 ^ 64 ∧
          (∀ a, (a < base ∨ base + 64 + 32 * n ≤ a) → readByte t.mem a = readByte s.mem a) ∧ t.rd (base + 8) 8 = s.rd (base + 8) 8 ∧
          t.pages.find? (fun q => q.num == g.num) = (s.pages.find? (fun q => q.num == g.num)).map (fun q =>
            { q with phase := .sent, port := port, group := (p.groups + 1) % 2 ^ 32 }) ∧
          ∀ (k page lane pc : Nat) (write st2 job : Bool), g.recs[k]? = some (page, write, st2, job, lane, pc) →
            let a := base + 64 + 32 * ((prod + k) % n)
            let c := (s.ctxObj g.ctx).getD {}
            t.rd a 8 = page % 2 ^ 64 ∧ t.rd (a + 8) 4 = (p.groups + 1) % 2 ^ 32 ∧ t.rd (a + 12) 2 = g.ctx % 2 ^ 16 ∧ t.rd (a + 14) 1 = k % 256 ∧
            t.rd (a + 15) 1 = (if write then 1 else 0) + (if st2 then 2 else 0) + (if k + 1 = size then 4 else 0) + (if job then 8 else 0) ∧
            t.rd (a + 16) 2 = c.asid % 2 ^ 16 ∧ t.rd (a + 18) 2 = (if c.two then c.vmid else 0) % 2 ^ 16 ∧ t.rd (a + 20) 1 = lane % 256 ∧
            t.rd (a + 21) 3 = 0 ∧ t.rd (a + 24) 4 = pc % 2 ^ 32 ∧ t.rd (a + 28) 4 = 0))

/-- `PAGE_RESPONSE_DOORBELL` (R316, R318): a write of 0, or with no response ring or after a failed boot (R299), does nothing; else every response from CONS to
PROD is taken and CONS becomes PROD. One response answers the group of the port it names, on STATUS 2 after 1800 clk; one that
names none, or with a reserved byte set, is ignored. -/
def Sys2Proof.Claims.responses : Prop :=
  ∀ (s : State) (port v : Nat),
    let ev := Instr.pageResponseDoorbell port v
    let p := s.port port
    let base := p.prsbase.toNat / 64 * 64
    let n := p.prsn.toNat % 2 ^ 17
    let prod := s.rd base 8
    let cons := s.rd (base + 8) 8
    let off := v % 2 ^ 32 = 0 ∨ p.prsbase.getLsbD 0 = false ∨ n = 0 ∨ s.bootFailed = true
    (off → exec ev s = .next s) ∧
    (¬off → prod = cons → exec ev s = .next (s.wr (base + 8) 8 prod).settleDone) ∧
    (¬off → (prod + 2 ^ 64 - cons) % 2 ^ 64 = 1 →
      let a := base + 64 + 16 * (cons % n)
      let named := s.pages.find? fun g => g.phase == .sent && g.port == port && g.group == s.rd a 4 && g.ctx == s.rd (a + 4) 2
      let done := fun t : State => exec ev s = .next (t.wr (base + 8) 8 prod).settleDone
      (named = none ∨ s.rd (a + 7) 9 ≠ 0 → done s) ∧
      ∀ g, named = some g → s.rd (a + 7) 9 = 0 →
        (s.rd (a + 6) 1 = 2 → (s.pages.map PageGroup.num).Nodup → done { s with
          pages := s.pages.map fun q => if q.num = g.num then { q with phase := .retry (s.now + 1800) } else q }) ∧
        (s.rd (a + 6) 1 ≠ 2 → ∃ t, done t ∧ Answered s t g (s.rd (a + 6) 1 == 0)))

/-- `PAGE_RETRY_DELAY_EXPIRY` (R318): a group answered with STATUS 2 whose delay is over lets its party go on. -/
def Sys2Proof.Claims.retries : Prop :=
  ∀ (s : State),
    let due := s.pages.find? fun g => match g.phase with | .retry t => decide (t ≤ s.now) | _ => false
    (due = none → exec .pageRetryDelayExpiry s = .next s) ∧
    ∀ g, due = some g → ∃ t, exec .pageRetryDelayExpiry s = .next t ∧ Answered s t g true

/-- Page-request groups and their answers. -/
def Obligations.PageRequests : Prop := requestsSent ∧ responses ∧ retries

/-! ### The Scribe -/

namespace Sys2Proof.Claims

/-- Records an array holds at most (R246). -/
def mostOf (kind : Nat) : Nat := [0, 1024, 65536, 65536, 4096, 64].getD kind 0

/-- A plan header passes R246; what overlaps is told by physical addresses, for both SPACEs reach device memory (R245). -/
def HeaderGood (s : State) (at_ : Nat) : Prop :=
  let w := fun o n => s.rd (at_ + o) n
  let base := fun k => w (64 + 16 * k) 8
  let count := fun k => w (72 + 16 * k) 4
  let apart := fun a n b m => a + n ≤ b ∨ b + m ≤ a
  let phys := s.planAddr
  w 0 4 = 0x4E414C50 ∧ w 4 2 = 1 ∧ w 6 2 = 0 ∧ w 36 4 = 0 ∧ w 52 12 = 0 ∧ w 144 112 = 0 ∧ w 16 8 % 8 = 0 ∧ w 24 8 % 64 = 0 ∧ w 40 8 % 64 = 0 ∧
  (∃ j ≤ 16, w 32 4 = 2 ^ j) ∧ (∃ j ≤ 16, w 48 4 = 2 ^ j) ∧
  (∀ k < 5, w (76 + 16 * k) 4 = 0 ∧ base k % 256 = 0 ∧ count k ≤ mostOf (k + 1)) ∧
  ∀ x ∈ [(w 16 8, 8), (w 24 8, 64 + 64 * w 32 4), (w 40 8, 64 + 64 * w 48 4)],
    apart (phys x.1) x.2 at_ 256 ∧ ∀ k < 5, count k ≠ 0 → apart (phys x.1) x.2 (phys (base k)) (256 * count k)

/-- The frames placed of a PROGRAM, which DETAIL of its entry counts (Table 12.10); 0 of another kind. -/
def placedOf (s : State) (kind i : Nat) : Nat :=
  if kind = 4 then ((s.progObj i).bind ProgObj.lid).elim 0 fun lid => s.frames.countP fun f => f.lid == lid && f.phase != .out else 0

/-- A field of an id is one of its kind, or none. -/
def IdIn (v most : Nat) : Prop := v = 0xFFFF ∨ v < most

/-- A payload keeps to Table 12.6. -/
def PayloadGood (kind : Nat) (p : List Byte) : Prop :=
  let f := at_ p
  let zero := fun o n => f o n = 0
  match kind with
  | 1 => zero 40 44 ∧ f 34 1 < 4 ∧ f 35 1 < 2 ∧ (∀ o ∈ [16, 18, 20], IdIn (f o 2) 4096) ∧ ∀ o ∈ [24, 28], f o 4 = 0xFFFFFFFF ∨ f o 4 < 65536
  | 2 => zero 29 1 ∧ zero 38 46 ∧ f 20 1 < 32 ∧ f 21 1 ≤ 2 ∧ f 22 1 < 31 ∧ f 23 1 < 31 ∧ f 28 1 ≤ 5 ∧ IdIn (f 0 2) 1024 ∧ IdIn (f 32 2) 4096
  | 3 => zero 15 69 ∧ (∃ j ≤ 16, f 4 4 = 2 ^ j) ∧ f 10 1 < 2 ∧ f 11 1 < 8 ∧ f 12 2 < 512 ∧ f 14 1 < 2 ∧ IdIn (f 0 2) 1024 ∧ IdIn (f 8 2) 4096
  | 4 => zero 81 1 ∧ f 78 1 ∈ [16, 32, 64] ∧ 1 ≤ f 72 4 ∧ f 72 4 ≤ 65536 ∧ 1 ≤ f 76 2 ∧ f 76 2 ≤ min 12288 (512 * f 78 1) ∧ f 79 1 < 4 ∧
      f 80 1 < 32 ∧ IdIn (f 64 2) 1024
  | _ => zero 27 1 ∧ zero 32 52 ∧ f 26 1 < 2 ∧ ∀ k < 8, IdIn (f (2 * k) 2) 1024

/-- The address of an as-built entry (R256). -/
def entryAt (s : State) (kind i : Nat) : Nat :=
  s.hdmBase + Config.abBase + [0, 0, 0x8000, 0x208000, 0x408000, 0x428000].getD kind 0 + 32 * i

/-- Table 12.11. -/
def stateCode (st : AbState) : Nat :=
  match st with
  | .absent => 0 | .building => 1 | .built => 2 | .draining => 3 | .waiting => 4 | .unsettled => 5 | .faulted => 6 | .done => 7

/-- The control side's tables have their canonical form. -/
def ScribeOk (s : State) : Prop :=
  swf {} s.scribe.entries = true ∧ swf none s.scribe.ctxs = true ∧ swf none s.scribe.maps = true ∧ swf none s.scribe.queues = true ∧
  swf none s.scribe.progs = true ∧ swf none s.scribe.snaps = true ∧ swf (0, none) s.scribe.tab = true

end Sys2Proof.Claims

/-- The header of a plan is good exactly when it passes R246, and gives the plumb word, the two report rings and the arrays; a
record beyond its array's count reads as version 0. -/
def Sys2Proof.Claims.headerTest : Prop :=
  ∀ (s : State) (a : Nat), s.planHeader = some a →
    (¬HeaderGood s a → readHeader s = none) ∧
    (HeaderGood s a → ∃ h, readHeader s = some h ∧ h.plumb = s.planAddr (s.rd (a + 16) 8) ∧ h.conflicts = (s.planAddr (s.rd (a + 24) 8), s.rd (a + 32) 4) ∧
      h.errors = (s.planAddr (s.rd (a + 40) 8), s.rd (a + 48) 4) ∧
      ∀ k < 5, h.count (k + 1) = s.rd (a + 72 + 16 * k) 4 ∧ ∀ i, h.record (k + 1) i = s.planAddr (s.rd (a + 64 + 16 * k) 8) + 256 * i ∧
        (s.rd (a + 72 + 16 * k) 4 ≤ i → s.recordAt h (k + 1) i = .absent))

/-- A record is read by R250: absent at version 0, UNSETTLED where the slot's CRC-32C is wrong, a CONFLICT where the body's base
or writer is not the header's, INVALID where a field breaks Tables 12.4 to 12.6, and else a body, with its DELETE flag. -/
def Sys2Proof.Claims.recordReads : Prop :=
  ∀ (s : State) (kind a : Nat), 1 ≤ kind → kind ≤ 5 →
    let h := s.rd a 8
    let slot := a + (if h.testBit 40 then 160 else 64)
    let body0 := s.rd slot 8
    let payload := readBytes s.mem (slot + 12) 84
    let version := h % 2 ^ 40
    let committer := h / 2 ^ 48 % 2 ^ 8
    let torn := crc32c (readBytes s.mem slot 8 ++ payload) ≠ s.rd (slot + 8) 4
    let other := body0 % 2 ^ 40 + 1 ≠ version ∨ body0 / 2 ^ 40 % 2 ^ 8 ≠ committer
    let invalid := h / 2 ^ 56 ≠ kind ∨ committer = 0 ∨ h / 2 ^ 41 % 2 ^ 7 ≠ 0 ∨ s.rd (a + 8) 56 ≠ 0 ∨ body0 / 2 ^ 49 ≠ 0 ∨
      body0.testBit 48 = false ∧ ¬PayloadGood kind payload
    (version = 0 → readRecord s kind a = .absent) ∧
    (version ≠ 0 → torn → readRecord s kind a = .unsettled) ∧
    (version ≠ 0 → ¬torn → other → readRecord s kind a = .conflict h body0) ∧
    (version ≠ 0 → ¬torn → ¬other → invalid → readRecord s kind a = .invalid version) ∧
    (version ≠ 0 → ¬torn → ¬other → ¬invalid → readRecord s kind a = .body version (body0.testBit 48) payload)

/-- An as-built entry as the host reads it (R256, Tables 12.10 and 12.11). -/
def Sys2Proof.Claims.asBuiltEntries : Prop :=
  ∀ (s : State) (kind i : Nat) (e : AbEntry), 1 ≤ kind → kind ≤ 5 → i < mostOf kind → s.hdmBase + Config.devBytes ≤ 2 ^ 64 → Memory.wf s.mem = true →
    swf {} s.scribe.entries = true →
    let t := s.setEntry kind i e
    let a := entryAt s kind i
    let flag := fun (b : Bool) n => if b then 2 ^ n else 0
    t.entry kind i = e ∧ (∀ k j, j < 2 ^ 20 → (k, j) ≠ (kind, i) → t.entry k j = s.entry k j) ∧
    t.rd a 8 = e.version % 2 ^ 40 + 2 ^ 40 * stateCode e.st + 2 ^ 48 * (flag e.live 0 + flag e.suspended 1 + flag e.swapped 2 + flag e.wake 3) +
      2 ^ 56 * kind ∧
    t.rd (a + 8) 4 = (if e.st = .faulted then e.fault % 2 ^ 32 else 0) ∧ t.rd (a + 12) 4 = e.detail % 2 ^ 32 ∧
    t.rd (a + 16) 8 = s.now * 5 / 9 % 2 ^ 64 ∧ t.rd (a + 24) 8 = s.scribe.lastG % 2 ^ 64 ∧
    ∀ b, b < a ∨ a + 32 ≤ b → readByte t.mem b = readByte s.mem b

/-- `SCRIBE_PASS` (R245, R246, R252, R299): before a plan is attached and the boot chain verified, nothing. A pass clears the
touch latch; a bad header sets HDRBAD and nothing else; a good one gives G, and the changed records are deleted in the order
PROGRAM, QUEUE, MAPPING, CONTEXT, SNAPSHOT and then created or updated in the order of their kinds, each in ascending id. The
status block is rewritten, its reserved bytes with 0 (Table 12.13, R6). -/
def Sys2Proof.Claims.passes : Prop :=
  ∀ (s : State), s.hdmBase + Config.devBytes ≤ 2 ^ 64 →
    let runs := s.planbase.getLsbD 0 = true ∧ s.bootstat.getLsbD 4 = false ∧ 3 ≤ s.bootstat.toNat % 16
    let a := s.hdmBase + Config.abBase + 0x428800
    let status := fun (v t : State) =>
      t = { v with mem := t.mem, scribe := { v.scribe with passes := v.scribe.passes + 1 } } ∧
      let n := fun st => (v.scribe.entries.countP fun x => x.2.st == st) % 2 ^ 32
      (SafeState v → (∀ b, b < a ∨ a + 64 ≤ b → readByte t.mem b = readByte v.mem b) ∧ t.rd (a + 37) 27 = 0 ∧ t.rd a 8 = t.scribe.passes % 2 ^ 64 ∧ t.rd (a + 8) 8 = v.scribe.lastG % 2 ^ 64 ∧ t.rd (a + 16) 8 = v.scribe.plumbed % 2 ^ 64 ∧
      t.rd (a + 24) 4 = n .unsettled ∧ t.rd (a + 28) 4 = n .waiting ∧ t.rd (a + 32) 4 = n .faulted ∧
      t.rd (a + 36) 1 = if v.scribe.hdrbad then 1 else 0)
    (¬runs → exec .scribePass s = .next s) ∧
    (runs → readHeader s = none → ∃ t, exec .scribePass s = .next t ∧
      status { s with touched := false, scribe := { s.scribe with hdrbad := true } } t) ∧
    ∀ h, runs → readHeader s = some h →
      let u := { s with touched := false, scribe := { s.scribe with hdrbad := false, hdr := h, lastG := s.rd ((s.planHeader.getD 0) + 8) 8 } }
      let ids := fun kind => (u.idsOf h kind).filter (u.changed h kind)
      let deleted := [4, 3, 2, 1, 5].foldl (fun v kind => (ids kind).foldl (deleteOne h kind) v) u
      let created := [1, 2, 3, 4, 5].foldl (fun v kind => (ids kind).foldl (createOne h kind) v) deleted
      ∃ t, exec .scribePass s = .next t ∧ status (created.plumb h) t

/-- Which records a pass takes (R252 step 2, R257): one in DRAINING, or whose revocation is under way, is left; else one whose
version is not the last examined, or that is WAITING or UNSETTLED, or whose own step goes on. The plumb mark (R259): G is
written when it is above the last and every record has converged: BUILT or DONE at its version, or ABSENT. -/
def Sys2Proof.Claims.changesAndMarks : Prop :=
  ∀ (s : State) (h : PlanHdr),
    (∀ kind i,
      let e := s.entry kind i
      (e.st = .draining ∨ e.revoke ≠ none → s.changed h kind i = false) ∧
      (e.st ≠ .draining → e.revoke = none → i < h.count kind →
        (s.rd (h.record kind i) 8 % 2 ^ 40 ≠ e.seen ∨ e.st = .waiting ∨ e.st = .unsettled → s.changed h kind i = true) ∧
        (s.rd (h.record kind i) 8 % 2 ^ 40 = e.seen → e.st = .built ∨ e.st = .faulted ∨ e.st = .done ∨ e.st = .absent → s.changed h kind i = false)) ∧
      (e.st ≠ .draining → e.revoke = none → h.count kind ≤ i → e.st ≠ .absent → s.changed h kind i = true)) ∧
    let conv := fun kind i =>
      let v := if i < h.count kind then s.rd (h.record kind i) 8 % 2 ^ 40 else 0
      let e := s.entry kind i
      v ≠ 0 ∧ e.version = v ∧ (e.st = .built ∨ e.st = .done ∨ e.st = .absent) ∨ v = 0 ∧ e.st = .absent
    let all := ∀ kind, 1 ≤ kind → kind ≤ 5 → ∀ i, i < h.count kind ∨ (∃ x ∈ s.scribe.entries, x.1 = kind * 2 ^ 20 + i ∧ i < 2 ^ 20) → conv kind i
    (all ∧ s.scribe.plumbed < s.scribe.lastG →
      s.plumb h = { s.wr h.plumb 8 s.scribe.lastG with scribe := { s.scribe with plumbed := s.scribe.lastG } }) ∧
    (¬(all ∧ s.scribe.plumbed < s.scribe.lastG) → s.plumb h = s)

/-- What a pass does with one record that is there (R250, R253, R254): an unstable one is UNSETTLED, a conflict FAULTED with its
record, an invalid body BAD_RECORD, and in each case the object stays; a record whose context is not BUILT waits for it; a CONTEXT
is built at once; a MAPPING is installed in its context's table under the generation there, or is a DUPLICATE; a PROGRAM begins
to be built; a record in DRAINING is left. -/
def Sys2Proof.Claims.recordSteps : Prop :=
  ∀ (s : State) (h : PlanHdr) (kind i : Nat), 1 ≤ kind → kind ≤ 5 → i < mostOf kind → ScribeOk s →
    let e := s.entry kind i
    let busy := e.st = .draining ∨ e.revoke ≠ none
    let t := createOne h kind s i
    let objects := t.scribe.ctxs = s.scribe.ctxs ∧ t.scribe.maps = s.scribe.maps ∧ t.scribe.queues = s.scribe.queues ∧
      t.scribe.progs = s.scribe.progs ∧ t.scribe.snaps = s.scribe.snaps ∧ t.frames = s.frames ∧ t.launches = s.launches
    let shows := fun st v => (t.entry kind i).st = st ∧ (t.entry kind i).version = v
    (busy → t = s) ∧
    (¬busy →
      (s.recordAt h kind i = .unsettled → objects ∧ t.entry kind i = { e with st := .unsettled, detail := placedOf s kind i }) ∧
      (∀ h0 b0, s.recordAt h kind i = .conflict h0 b0 → objects ∧
        t.entry kind i = { e with seen := h0 % 2 ^ 40, st := .faulted, fault := 0x104, detail := h0 % 2 ^ 40 % 2 ^ 32 }) ∧
      (∀ v, s.recordAt h kind i = .invalid v → objects ∧ t.entry kind i = { e with seen := v, st := .faulted, fault := 0x103, detail := placedOf s kind i }) ∧
      ∀ v p, s.recordAt h kind i = .body v false p →
        let f := at_ p
        (kind = 2 ∨ kind = 3 ∨ kind = 4 →
          let ctx := f (if kind = 4 then 64 else 0) 2
          (kind = 2 → s.mapObj i = none) → (kind = 3 → s.queueObj i = none) → (kind = 4 → s.progObj i = none) →
          (s.entry 1 ctx).st ≠ .built → objects ∧ shows .waiting e.version ∧ (t.entry kind i).detail = 2 ^ 16 + ctx) ∧
        (kind = 1 → s.ctxObj i = none → f 35 1 = 0 →
          let good := f 0 8 / 2 ^ 60 = 10 ∧ (f 8 8 = 0 ∨ f 8 8 / 2 ^ 60 = 10) ∧ f 36 4 % 64 = 0 ∧ (f 22 2 = 0xFFFF ∨ f 36 4 ≠ 0)
          (¬good → objects ∧ shows .faulted e.version ∧ (t.entry kind i).fault = 0x103) ∧
          (good → s.ctxHeld i = false → shows .built v ∧ (t.entry kind i).live = true ∧
            ∃ c, t.ctxObj i = some c ∧ c.root = BitVec.ofNat 64 (f 0 8) ∧ c.hgatp = BitVec.ofNat 64 (f 8 8) ∧ c.prioceil = f 34 1 ∧ c.saveslice = f 36 4 ∧
              (∀ x ∈ [(c.save, 16), (c.restore, 18), (c.trap, 20), (c.savemap, 22), (c.scrmap, 32)],
                x.1 = if f x.2 2 = 0xFFFF then none else some (f x.2 2)) ∧
              ∀ x ∈ [(c.retmap, 24), (c.quarmap, 28)], x.1 = if f x.2 4 = 0xFFFFFFFF then none else some (f x.2 4))) ∧
        (kind = 2 → s.mapObj i = none → (s.entry 1 (f 0 2)).st = .built → f 28 1 ≤ 1 →
          let key := f 0 2 * 2 ^ 16 + f 2 2
          let old := sget (0, none) s.scribe.tab key
          (∀ j, old.2 = some j → j ≠ i → objects ∧ shows .faulted e.version ∧ (t.entry kind i).fault = 0x105) ∧
          (old.2 = none ∨ old.2 = some i → shows .built v ∧ (t.entry kind i).live = true ∧ sget (0, none) t.scribe.tab key = (old.1, some i) ∧
            ∃ o, t.mapObj i = some o ∧ o.ctx = f 0 2 ∧ o.tabidx = f 2 2 ∧ o.base = f 4 8 ∧ o.len = f 12 8 ∧ o.perm.toNat = f 20 1 % 32 ∧ o.fmt = f 22 1 ∧
              o.view = f 23 1 ∧ o.geom = f 24 4 ∧ o.target = f 28 1 ∧ o.node = f 30 2 ∧ o.cls = [Cls.strict, .release].getD (f 21 1) .free)) ∧
        (kind = 4 → s.progObj i = none → s.progDeps (progOf p) = .ok → shows .building e.version ∧ (t.entry kind i).target = v ∧
          ∃ o, t.progObj i = some o ∧ o.pending = true ∧ o.lid = none ∧ o.ctx = f 64 2 ∧ o.imgmap = f 66 2 ∧ o.imgoff = f 68 4 ∧ o.frames = f 72 4 ∧
            o.threads = f 76 2 ∧ o.width = f 78 1 ∧ o.prio = f 79 1 ∧ o.attr = f 80 1 ∧ o.digest = BitVec.ofNat 512 (f 0 64)))

/-- What a pass does with a record to be deleted (R255, R257, R279): a CONTEXT that nothing names, and a MAPPING that nothing names
and under which no access is in flight or in a store buffer, are ABSENT at the deleting version in the same step; a CONTEXT that something names shows DRAINING. -/
def Sys2Proof.Claims.deletions : Prop :=
  ∀ (s : State) (h : PlanHdr) (kind i v : Nat), i < mostOf kind → ScribeOk s →
    (v = 0 ∧ s.recordAt h kind i = .absent ∨ ∃ p, s.recordAt h kind i = .body v true p) →
    let e := s.entry kind i
    let t := deleteOne h kind s i
    let gone := (t.entry kind i).st = .absent ∧ (t.entry kind i).version = v ∧ (t.entry kind i).live = false
    (e.st = .absent → e.version = v → t.entry kind i = { e with seen := v } ∧ t.frames = s.frames) ∧
    (¬(e.st = .absent ∧ e.version = v) →
      (kind = 1 → s.ctxObj i = none → gone) ∧
      (kind = 1 → (∃ c, s.ctxObj i = some c) → (∀ x ∈ s.scribe.entries, 2 ≤ x.1 / 2 ^ 20 → x.1 / 2 ^ 20 ≤ 4 → x.2.st = .absent) →
        gone ∧ t.ctxObj i = none) ∧
      (kind = 1 → (∃ c, s.ctxObj i = some c) → (∃ j o, s.mapObj j = some o ∧ o.ctx = i ∧ j < 2 ^ 16 ∧ (s.entry 2 j).st ≠ .absent) →
        (t.entry kind i).st = .draining ∧ (t.entry kind i).version = e.version ∧ t.scribe.ctxs = s.scribe.ctxs) ∧
      (kind = 2 → s.mapObj i = none → gone) ∧
      (kind = 2 → ∀ o, s.mapObj i = some o → e.revoke = none →
        let old := sget (0, none) s.scribe.tab (o.ctx * 2 ^ 16 + o.tabidx)
        old.2 = some i → s.copies = [] → s.ftops = [] → (∀ x ∈ s.bays, x.2.ops = []) →
          (∀ f ∈ s.frames, f.fsb = [] ∧ ∀ w ∈ f.warps, w.acc = []) → (∀ x ∈ s.scribe.entries, x.1 / 2 ^ 20 ≠ 2 → x.2.st = .absent) →
        gone ∧ t.mapObj i = none ∧ sget (0, none) t.scribe.tab (o.ctx * 2 ^ 16 + o.tabidx) = (old.1 + 1, none)) ∧
      (kind = 4 → s.progObj i = none → gone) ∧ (kind = 3 → s.queueObj i = none → gone))

namespace Sys2Proof.Claims

/-- A PROGRAM's image is still to be read and checked. -/
def ToBuild (s : State) (i : Nat) (o : ProgObj) : Prop := o.pending = true ∧ o.wait = none ∧ (s.entry 4 i).st = .building

/-- Restart records of a PROGRAM that is built are still to be written, to a mapping (R328). -/
def RecordsDue (s : State) (i : Nat) (o : ProgObj) (l : Launch) (m : Nat) : Prop :=
  o.pending = false ∧ o.wait = none ∧ (s.entry 4 i).st = .building ∧ (∃ lid, o.lid = some lid ∧ s.launch? lid = some l) ∧
    l.rstmap = some m ∧ o.recs < l.frames

/-- Nothing to do for a PROGRAM. -/
def NotBuilding (s : State) (i : Nat) (o : ProgObj) : Prop := ¬ToBuild s i o ∧ ∀ l m, ¬RecordsDue s i o l m

/-- PROGRAM `i` is the first with something to do. -/
def FirstProg (s : State) (i : Nat) (o : ProgObj) : Prop :=
  ∃ pre post, s.scribe.progs = pre ++ (i, some o) :: post ∧ ∀ j x, (j, some x) ∈ pre → NotBuilding s j x

/-- A header's encoding version is none of the three, or goes beyond its own (R40, R63). -/
def BadVersion (b : List Byte) : Prop :=
  let v := at_ b 4 1
  v < 3 ∨ 5 < v ∨ v = 3 ∧ (at_ b 5 1 = 64 ∨ at_ b 0xC 4 % 4 ≠ 0)

/-- A header passes the other checks of R40 against its record. -/
def HeaderFits (b : List Byte) (o : ProgObj) : Prop :=
  let f := at_ b
  let n := f 0x2C 1
  let width := f 5 1
  let gtoff := f 0x10 4
  let size := f 0x28 4
  let inImage := fun a => a % 4 = 0 ∧ a < size
  let cap := fun k => (f (0x30 + 4 * k) 1, f (0x31 + 4 * k) 1)
  f 0 4 = 0x4B4E4D44 ∧ f 0xC 4 < 4 ∧ f 0x2D 3 = 0 ∧ n ≤ 30 ∧ f (0x30 + 4 * n) (4 * (30 - n)) = 0 ∧ f 0xA8 0x58 = 0 ∧
  width ∈ [16, 32, 64] ∧ width = o.width ∧ 1 ≤ f 6 2 ∧ f 6 2 ≤ (if width = 64 then 512 else 1024) ∧ 1 ≤ f 8 2 ∧ f 8 2 ≤ 96 ∧
  1 ≤ f 0xA 2 ∧ f 0xA 2 ≤ 256 ∧ gtoff % 64 = 0 ∧ gtoff + 64 * f 0xA 2 ≤ size ∧
  inImage (f 0x14 4) ∧ (f 0x18 4 = 0 ∨ inImage (f 0x18 4)) ∧
  (f 0x24 4 = 0 ∨ f 0x20 4 % 64 = 0 ∧ f 0x20 4 + f 0x24 4 ≤ size) ∧
  (∀ k < n, 2 ≤ (cap k).1 ∧ (cap k).1 ≤ 31 ∧ (cap k).2 ≤ 1 ∧ ∀ j < k, (cap j).1 ≠ (cap k).1) ∧
  (f 0xC 4 % 4 ≠ 0 ↔ o.attr.testBit 1 = true ∨ o.attr.testBit 2 = true) ∧ ((f 0xC 4).testBit 1 = o.attr.testBit 2)

/-- Warp `w` is in group `g` of an image with the header `b`. -/
def inGroup (b img : List Byte) (g w : Nat) : Bool := g != 0 && (at_ img (at_ b 0x10 4 + 64 * g) 64).testBit w

/-- No warp beyond the frame's is in a group, and none in more than four besides group 0. -/
def GroupsFit (b img : List Byte) (o : ProgObj) : Prop :=
  let lanes := if o.attr.testBit 2 then 2 * o.threads else o.threads
  let warps := (lanes + o.width - 1) / o.width
  (∀ g < at_ b 0xA 2, ∀ w < 512, inGroup b img g w = true → w < warps) ∧
  ∀ w < warps, ((List.range (at_ b 0xA 2)).countP fun g => decide (w < 512) && inGroup b img g w) ≤ 4

/-- A build that fails: the entry is FAULTED with a cause, and no launch is made, nor one changed. -/
def BuildFails (s t : State) (i : Nat) (o : ProgObj) (cause : Nat) : Prop :=
  t.entry 4 i = { s.entry 4 i with st := .faulted, fault := cause, detail := placedOf s 4 i } ∧
  t.progObj i = some { o with pending := false, wait := none, deny := false } ∧ t.launches = s.launches ∧ t.frames = s.frames

/-- A build that asks for a page of its image. -/
def BuildAsks (s t : State) (i : Nat) (o : ProgObj) (p : Absent) : Prop :=
  t.progObj i = some { o with wait := some s.fresh, deny := false } ∧ t.scribe.entries = s.scribe.entries ∧
  t.pages = s.pages ++ [{ num := s.fresh, party := .build i, ctx := o.ctx, recs := [(p.page, p.write, p.stage2, true, 0, 0xFFFFFFFF)], val := p.off }]

end Sys2Proof.Claims

/-- `PROGRAM_BUILD` (R39, R40, Table 12.8): the header is read through IMGMAP and checked, then the image; the first check that
fails names the fault (BAD_ENCVER, BAD_HEADER, the image's range or a refused page BAD_HEADER, the groups BAD_HEADER, DIGEST, PRIO
BAD_RECORD); a page that is absent is asked for. An image that passes becomes a launch with the header's fields, its text and its
data area filled from the image. -/
def Sys2Proof.Claims.imagesBuilt : Prop :=
  ∀ (s : State),
    let ev := Instr.programBuild
    ((∀ i o, (i, some o) ∈ s.scribe.progs → NotBuilding s i o) → exec ev s = .next s) ∧
    ∀ i o, ScribeOk s → ToBuild s i o → FirstProg s i o →
      let off := 256 * o.imgoff
      let fails := fun (u : State) c => ∃ t, exec ev s = .next t ∧ BuildFails u t i o c
      let asks := fun (u : State) p => ∃ t, exec ev s = .next t ∧ BuildAsks u t i o p
      (o.deny = true → fails s 0x102) ∧
      (o.deny = false →
        (∀ p, s.mapAccess o.imgmap off 256 .r = .absent p → asks s p) ∧
        (∀ u va c, s.mapAccess o.imgmap off 256 .r = .fault u va c → fails u 0x102) ∧
        ∀ u as, s.mapAccess o.imgmap off 256 .r = .ok u as → (∀ a ∈ as, u.lineBad a = false) →
          let b := as.map fun a => readByte u.mem a
          (BadVersion b → fails u 0x101) ∧ (¬BadVersion b → ¬HeaderFits b o → fails u 0x102) ∧
          (¬BadVersion b → HeaderFits b o →
            (∀ p, u.mapAccess o.imgmap off (at_ b 0x28 4) .r = .absent p → asks u p) ∧
            (∀ v va c, u.mapAccess o.imgmap off (at_ b 0x28 4) .r = .fault v va c → fails v 0x102) ∧
            ∀ v as, u.mapAccess o.imgmap off (at_ b 0x28 4) .r = .ok v as → (∀ a ∈ as, v.lineBad a = false) →
              let img := as.map fun a => readByte v.mem a
              let ceil := (v.ctxObj o.ctx).elim 0 CtxObj.prioceil
              (¬GroupsFit b img o → fails v 0x102) ∧ (GroupsFit b img o → sha512 img ≠ o.digest → fails v 0x106) ∧
              (GroupsFit b img o → sha512 img = o.digest → ceil < o.prio → fails v 0x103) ∧
              (GroupsFit b img o → sha512 img = o.digest → o.prio ≤ ceil → ∃ t l, exec ev s = .next t ∧ t.launches = v.launches ++ [l] ∧ l.lid = v.fresh ∧
                (∃ q, t.progObj i = some q ∧ q.lid = some l.lid ∧ q.placed = [] ∧ q.pending = false) ∧
                l.prog = i ∧ l.version = o.target ∧ l.ctx = o.ctx ∧ l.encver = at_ b 4 1 ∧ l.width = at_ b 5 1 ∧ l.vregs = at_ b 6 2 ∧ l.sregs = at_ b 8 2 ∧
                l.textEnd = at_ b 0x10 4 ∧ l.entry = at_ b 0x14 4 ∧ l.restart = at_ b 0x18 4 ∧ l.scratch = at_ b 0x1C 4 ∧ l.dataSize = at_ b 0x24 4 ∧
                l.frames = o.frames ∧ l.threads = o.threads ∧ l.prio = o.prio ∧ l.resident = o.attr.testBit 0 ∧ l.prot = o.attr.testBit 2 ∧
                (l.guarded = true ↔ o.attr.testBit 1 = true ∨ o.attr.testBit 2 = true) ∧ l.routine = o.attr.testBit 3 ∧ l.live = true ∧
                l.rstmap = (if o.attr.testBit 4 then some o.rstmap else none) ∧
                l.caps = (List.range (at_ b 0x2C 1)).map (fun k => (at_ b (0x30 + 4 * k) 1, if at_ b (0x31 + 4 * k) 1 = 0 then some (at_ b (0x32 + 4 * k) 2) else none)) ∧
                l.groups = (List.range (at_ b 0xA 2)).map (fun g => (List.range 512).filter fun w => inGroup b img g w) ∧
                (l.rstmap = none → v.hdmBase + Config.devBytes ≤ 2 ^ 64 → i < 4096 → Memory.wf v.mem = true →
                  (∀ k, 0x100 ≤ k → k < l.textEnd → readByte t.mem ((Region.text l.lid).at k) = img.getD k 0) ∧
                  ∀ k < l.dataSize, readByte t.mem ((Region.data l.lid).at k) = img.getD (at_ b 0x20 4 + k) 0))))

/-- `PROGRAM_BUILD` of a program whose restart records are still to be written (R328): each lies at 64 × its frame's index in RSTMAP,
MAGIC and then zeros; an absent page is asked for, and one that is refused or cannot be reached makes the entry FAULTED
(BAD_RECORD) (the model's choice, log 26). -/
def Sys2Proof.Claims.recordsWritten : Prop :=
  ∀ (s : State) (i : Nat) (o : ProgObj) (l : Launch) (m : Nat), ScribeOk s → RecordsDue s i o l m → FirstProg s i o → (s.entry 4 i).detail = placedOf s 4 i →
    let ev := Instr.programBuild
    (o.deny = true → ∃ t, exec ev s = .next t ∧ BuildFails s t i o 0x103) ∧
    (o.deny = false →
      (∀ p, s.mapAccess m (64 * o.recs) 64 .w = .absent p → ∃ t, exec ev s = .next t ∧ BuildAsks s t i o p) ∧
      (∀ u va c, s.mapAccess m (64 * o.recs) 64 .w = .fault u va c → ∃ t, exec ev s = .next t ∧ BuildFails u t i o 0x103) ∧
      ∀ u as, s.mapAccess m (64 * o.recs) 64 .w = .ok u as → l.frames = o.recs + 1 → Memory.wf u.mem = true → as.Nodup → i < 4096 →
        (∀ a ∈ as, isParam a = false ∧ ¬(s.hdmBase + Config.abBase ≤ a ∧ a < s.hdmBase + Config.abBase + 8 * 2 ^ 20)) →
        s.hdmBase + Config.devBytes ≤ 2 ^ 64 →
        ∃ t, exec ev s = .next t ∧ t.progObj i = some { o with recs := o.recs + 1 } ∧
          ∀ k a, as[k]? = some a → readByte t.mem a = ([0x52, 0x53, 0x52, 0x54] : List Byte).getD k 0)

/-- `MAPPING_DRAIN_COMPLETE` (R255, R279): once no copy, table load or Truss operation that passed its checks under the old
generation is left, and no store that a guarded frame buffered before it (the model's reading, log 55), a revoked mapping shows BUILT at its new version or DRAINING; one that drains is ABSENT, or BUILDING for a
replace, once no record names it. -/
def Sys2Proof.Claims.mappingDrains : Prop :=
  ∀ (s : State),
    let ev := Instr.mappingDrainComplete
    let ready := s.scribe.entries.find? fun x => x.1 / 2 ^ 20 == 2 && match x.2.revoke with
      | some (key, gen) => !(s.inUse key gen || s.stillBuffering x.2.olds)
      | none => x.2.st == .draining && !s.named (x.1 % 2 ^ 20)
    (ready = none → exec ev s = .next s) ∧
    ∀ k e, ready = some (k, e) → ScribeOk s →
      let i := k % 2 ^ 20
      ∃ t, exec ev s = .next t ∧ t.frames = s.frames ∧ t.scribe.tab = s.scribe.tab ∧
        let gone := t.mapObj i = none ∧ (t.entry 2 i).revoke = none ∧ (t.entry 2 i).live = false ∧
          (e.replace = true → (t.entry 2 i).st = .building) ∧ (e.replace = false → (t.entry 2 i).st = .absent ∧ (t.entry 2 i).version = e.target)
        (e.revoke = none → gone) ∧
        (e.revoke ≠ none → e.deleting = false →
          t.entry 2 i = { e with revoke := none, olds := [], st := .built, version := e.target, live := true, detail := 0 } ∧ t.scribe.maps = s.scribe.maps) ∧
        (e.revoke ≠ none → e.deleting = true →
          (s.named i = true → t.entry 2 i = { e with revoke := none, olds := [], deleting := false, st := .draining, detail := 0 } ∧ t.scribe.maps = s.scribe.maps) ∧
          (s.named i = false → gone))

/-- `CONTEXT_DRAIN_COMPLETE` (R255, R292): a context that drains is ABSENT once no MAPPING, QUEUE or PROGRAM that is not ABSENT names
it, and its cached translations, rings, circles, handles and list bindings are gone. -/
def Sys2Proof.Claims.contextDrains : Prop :=
  ∀ (s : State),
    let ev := Instr.contextDrainComplete
    let ready := s.scribe.entries.find? fun x => x.1 / 2 ^ 20 == 1 && (x.2.st == .draining && !s.ctxNamed (x.1 % 2 ^ 20))
    (ready = none → exec ev s = .next s) ∧
    ∀ k e c, ready = some (k, e) → ScribeOk s → s.ctxObj (k % 2 ^ 20) = some c →
      let i := k % 2 ^ 20
      ∃ t, exec ev s = .next t ∧ t.ctxObj i = none ∧ (t.entry 1 i).live = false ∧
        (e.replace = true → (t.entry 1 i).st = .building) ∧ (e.replace = false → (t.entry 1 i).st = .absent ∧ (t.entry 1 i).version = e.target) ∧
        (∀ x ∈ t.tlb, ¬(x.asid = c.asid ∧ (c.two = true → x.two = true ∧ x.vmid = c.vmid))) ∧
        (∀ x ∈ t.bays, ∀ y ∈ x.2.rings, y.2.ctx ≠ i) ∧ (∀ x ∈ t.circles, x.ctx ≠ i) ∧
        (∀ x ∈ t.dies, (∀ y ∈ x.2.rings, y.2.ctx ≠ i) ∧ ∀ y ∈ x.2.lists, y.2.bound = true → y.2.ctx ≠ i) ∧
        ((∀ x ∈ s.dies, swf {} x.2.handles = true) → ∀ x ∈ t.dies, ∀ y ∈ x.2.handles, y.2.open_ = true → y.2.ctx ≠ i)

/-- The Scribe: the plan read, the records built and removed, and the as-built table. -/
def Obligations.Scribe : Prop :=
  headerTest ∧ recordReads ∧ asBuiltEntries ∧ passes ∧ changesAndMarks ∧ recordSteps ∧ deletions ∧ imagesBuilt ∧ recordsWritten ∧ mappingDrains ∧ contextDrains

/-! ### Snapshots -/

namespace Sys2Proof.Claims

/-- Snapshot `i`, whose contexts are ids of 16 bits, is the first on which an event acts. -/
def FirstSnap (s : State) (i : Nat) (x : SnapObj) (idle : SnapObj → Prop) : Prop :=
  ScribeOk s ∧ (∀ z ∈ x.held ++ x.ctxs, z < 2 ^ 16) ∧ ∃ pre post, s.scribe.snaps = pre ++ (i, some x) :: post ∧ ∀ j y, (j, some y) ∈ pre → idle y

/-- The phases in which an event has nothing to do with a snapshot. -/
def NotTaking (x : SnapObj) : Prop := x.phase ≠ .suspending ∧ x.phase ≠ .moving
def NotRestoring (x : SnapObj) : Prop := x.phase ≠ .checking ∧ x.phase ≠ .restoring
def NothingToCopy (x : SnapObj) : Prop := x.phase ≠ .moving ∨ ∀ c ∈ x.chunks, c.slot ≠ none ∨ c.chunk ≠ none

/-- A chunk index entry's bytes as they are read: its digest, STATE and CHUNK. -/
def digestOf (u : State) (as : List Nat) : Nat := u.rdAt (as.take 64)
def stateOf (u : State) (as : List Nat) : Nat := u.rdAt ((as.drop 64).take 8)

/-- The word that claims an entry: STATE 1, the device, and the time in ms (R335). -/
def claimOf (s : State) : Nat := 1 + 2 ^ 8 * (Config.deviceId % 256) + 2 ^ 16 * (s.now * 5 / 9 / 1000000 % 2 ^ 48)

/-- Slot `k` of the spare region, which lies at the top of device memory, below the as-built table (R336). -/
def slotOf (s : State) (k : Nat) : Nat := s.hdmBase + (Config.devBytes - 8 * 2 ^ 30 + k * 2 ^ 21)

/-- A transfer of `n` bytes between device memory at `data` and the drive at block `lba` is submitted (R334): an NVMe submission
entry is made, and the tail doorbell is written. The entries of the device's queue are the model's choice (log 29). -/
def Commands (s t : State) (i : Nat) (x : SnapObj) (d : SnapTarget) (read : Bool) (data lba n : Nat) : Prop :=
  ∃ e : List Byte, e.length = 64 ∧ at_ e 0 1 = (if read then 2 else 1) ∧ at_ e 1 1 = 0 ∧ at_ e 2 2 = x.cmds % 2 ^ 16 ∧ at_ e 4 4 = d.nsid % 2 ^ 32 ∧
    at_ e 8 16 = 0 ∧ at_ e 24 8 = data % 2 ^ 64 ∧ at_ e 32 8 = 0 ∧ at_ e 40 8 = lba % 2 ^ 64 ∧
    at_ e 48 2 = ((n + d.lba - 1) / d.lba - 1) % 2 ^ 16 ∧ at_ e 50 14 = 0 ∧
    t = (s.wr (Region.host.at d.sqdb) 4 ((x.cmds + 1) % 64)).setSnap i { x with sub := some e, cmds := x.cmds + 1 }

/-- The drive has made the transfer: the head doorbell is written, and then the device goes on. -/
def completed (s : State) (x : SnapObj) (d : SnapTarget) : State := s.wr (Region.host.at d.cqdb) 4 (x.cmds % 64)

/-- A snapshot that is over: its entry shows how. -/
def SnapEnds (s t : State) (i : Nat) (cause : Option Nat) : Prop :=
  let e := s.entry 5 i
  (cause = none → t.entry 5 i = { e with st := .built, version := e.target, live := true, detail := 0 } ∧ (t.snapObj i).map SnapObj.phase = some .done) ∧
  ∀ k, cause = some k → t.entry 5 i = { e with st := .faulted, fault := k, detail := 0 } ∧ (t.snapObj i).map SnapObj.phase = some .failed

end Sys2Proof.Claims

/-- The target descriptor of Table 18.4 is good or it is not, and gives the index, the doorbells, the namespace and the areas
(R335). -/
def Sys2Proof.Claims.targets : Prop :=
  ∀ (s u : State) (m : Nat) (o : MapObj) (as : List Nat), s.mapObj m = some o → s.targetAt m 0 64 .r = (u, some as) → u.scribe = s.scribe →
    let f := fun o n => u.rdAt ((as.drop o).take n)
    let good := f 0 4 = 0x50475453 ∧ (∃ j, f 4 4 = 2 ^ j) ∧ 9 ≤ f 28 1 ∧ f 28 1 ≤ 16 ∧ f 29 3 = 0 ∧ f 48 16 = 0 ∧ 4096 + 128 * f 4 4 ≤ o.len
    (¬good → readTarget s m = (u, none)) ∧
    (good → ∃ t, readTarget s m = (u, some t) ∧ t.indexN = f 4 4 ∧ t.sqdb = f 8 8 ∧ t.cqdb = f 16 8 ∧ t.nsid = f 24 4 ∧ t.lba = 2 ^ f 28 1 ∧
      t.dataLba = f 32 8 ∧ t.manLba = f 40 8 ∧
      (∀ c, c * 2 ^ 21 + f 32 8 * 2 ^ f 28 1 < 2 ^ 64 → t.chunkAt c = (Region.drive (f 24 4)).at (f 32 8 * 2 ^ f 28 1 + c * 2 ^ 21)) ∧
      ∀ k, k * 2 ^ 20 + f 40 8 * 2 ^ f 28 1 < 2 ^ 64 → t.manifestAt k = (Region.drive (f 24 4)).at (f 40 8 * 2 ^ f 28 1 + k * 2 ^ 20))

/-- A mapping's data is cut into chunks of 2 MiB, of which the last may be short (R336). -/
def Sys2Proof.Claims.chunkPlan : Prop :=
  ∀ (s u : State) (pos m : Nat) (as : List Nat) (cs : List SnapChunk), s.mapData m = (u, as) →
    ∃ new, mapChunks pos (s, cs) m = (u, cs ++ new) ∧ new.length = (as.length + 2 ^ 21 - 1) / 2 ^ 21 ∧ (new.map SnapChunk.len).sum = as.length ∧
      ∀ (k : Nat) (c : SnapChunk), new[k]? = some c → c.pos = pos ∧ c.map = m ∧ c.num = k ∧ c.len = min (2 ^ 21) (as.length - k * 2 ^ 21) ∧ c.slot = none ∧ c.chunk = none

/-- `SNAPSHOT_STEP` (R336) while the contexts are being suspended, and between chunks and shards: once no frame of them runs, their
chunks are planned; a bad descriptor is BAD_RECORD; with every chunk drained the next shard is made in the spare region and
written to its manifest slot by a command of the drive (its layout is the model's own, log 29), and with the last the entry
is BUILT. -/
def Sys2Proof.Claims.snapshotPhases : Prop :=
  ∀ (s : State),
    let ev := Instr.snapshotStep
    ((∀ i x, (i, some x) ∈ s.scribe.snaps → NotTaking x) → exec ev s = .next s) ∧
    ∀ i x, FirstSnap s i x NotTaking →
      (x.phase = .suspending → (∀ c ∈ x.ctxs, s.quiet c = true) → ∃ t y, exec ev s = .next t ∧ t.snapObj i = some y ∧ y.phase = .moving ∧
        y.ctxs = x.ctxs ∧ y.chunks = (planChunks (x.ctxs.foldl State.settleContext s) x.ctxs).2) ∧
      (x.phase = .moving → ∀ u, readTarget s x.tgtmap = (u, none) → u.scribe = s.scribe → ∃ t, exec ev s = .next t ∧ SnapEnds s t i (some 0x103)) ∧
      (x.phase = .moving → (∀ c ∈ x.chunks, c.chunk ≠ none) → ∀ u d, readTarget s x.tgtmap = (u, some d) → u.scribe = s.scribe →
        ∀ ctx k, x.ctxs[x.next_]? = some ctx → u.freeSpare = some k →
          let cs := x.chunks.filter fun c => c.pos == x.next_
          let body := cs.flatMap fun c => leBytes 64 (c.digest.getD 0).toNat ++ leBytes 8 (c.chunk.getD 0) ++ leBytes 8 c.len
          let head := leBytes 4 0x54534E4D ++ leBytes 4 i ++ leBytes 8 x.step_ ++ leBytes 4 x.next_ ++ leBytes 4 x.ctxs.length ++ leBytes 4 ctx ++
            leBytes 4 cs.length ++ List.replicate 32 0
          let shard := head ++ leBytes 64 (sha512 body).toNat ++ body
          let v := { u with mem := writeBytes u.mem (slotOf u k) shard }
          let w := completed v x d
          ∃ t, exec ev s = .next t ∧
            (x.sub = none → Commands v t i x d false (slotOf u k) (d.manLba + x.next_ * (2 ^ 20 / d.lba)) shard.length) ∧
            (x.sub ≠ none → x.next_ + 1 < x.ctxs.length →
              t = { w with mem := writeBytes w.mem (d.manifestAt x.next_) shard }.setSnap i { x with next_ := x.next_ + 1, sub := none }) ∧
            (x.sub ≠ none → x.next_ + 1 = x.ctxs.length → SnapEnds s t i none))

/-- `SNAPSHOT_STEP` for the next chunk staged in the spare region (R336 step 4): its digest is computed; the index is probed from
digest mod INDEXN; where it is present nothing is written; a claim of another is waited for; a free entry is claimed; and the chunk
of a claimed entry is written to the drive, by a command submitted and completed (R334), then its digest and number and STATE 2.
A claim that another has taken is given up. A line whose check fails is recorded and not returned to the drive (R332). -/
def Sys2Proof.Claims.chunksDrained : Prop :=
  ∀ (s u : State) (i j : Nat) (x : SnapObj) (c : SnapChunk) (d : SnapTarget) (k : Nat), FirstSnap s i x NotTaking → x.phase = .moving →
    readTarget s x.tgtmap = (u, some d) → u.scribe = s.scribe → (x.chunks.zipIdx.find? fun y => y.1.chunk.isNone) = some (c, j) → c.slot = some k →
    let ev := Instr.snapshotStep
    let at_ := slotOf u k
    let put := fun (g : SnapChunk → SnapChunk) => x.chunks.mapIdx fun n y => if n = j then g y else y
    (c.digest = none → (∀ n < c.len, u.lineBad (at_ + n) = false) → exec ev s = .next (u.setSnap i { x with
      chunks := put fun y => { y with digest := some (sha512 (readBytes u.mem at_ c.len)) } })) ∧
    (c.digest = none → ∀ n < c.len, u.lineBad (at_ + n) = true → (∀ k < n, u.lineBad (at_ + k) = false) →
      exec ev s = .next (u.errorRecord 7 0 ((at_ + n) / 64 * 64 - u.hdmBase) 0)) ∧
    ∀ dig, c.digest = some dig →
      let e := dig.toNat % 2 ^ 64 % d.indexN
      (x.mine = none → 0 < d.indexN → ∀ v as, u.targetAt x.tgtmap (4096 + 128 * e) 128 .r = (v, some as) →
        let st := stateOf v as
        (st % 256 = 1 → exec ev s = .next (v.setSnap i { x with waits := some e })) ∧
        (2 ≤ st % 256 → digestOf v as = dig.toNat → exec ev s = .next (v.setSnap i { x with
          chunks := put fun y => { y with chunk := some (v.rdAt ((as.drop 72).take 8)), slot := none }, mine := none, waits := none })) ∧
        (st = 0 → ∀ w bs, v.targetAt x.tgtmap (4096 + 128 * e + 64) 8 .a = (w, some bs) → w.rdAt bs = 0 →
          exec ev s = .next ((w.wrAt bs (leBytes 8 (claimOf v))).setSnap i { x with mine := some (e, claimOf v), waits := none }))) ∧
      ∀ e word, x.mine = some (e, word) → ∀ v as, u.targetAt x.tgtmap (4096 + 128 * e) 128 .w = (v, some as) →
        (stateOf v as ≠ word → exec ev s = .next (v.setSnap i { x with mine := none, sub := none })) ∧
        (stateOf v as = word → x.sub = none → ∃ t, exec ev s = .next t ∧ Commands v t i x d false at_ (d.dataLba + e * (2 ^ 21 / d.lba)) c.len) ∧
        (stateOf v as = word → x.sub ≠ none →
          let w := completed v x d
          SafeState w → w.bad = [] → as.Nodup → (∀ a ∈ as, isParam a = false ∧ (a < at_ ∨ at_ + c.len ≤ a) ∧ (a < d.chunkAt e ∨ d.chunkAt e + c.len ≤ a)) →
          (∀ n < c.len, isParam (at_ + n) = false ∧ isParam (d.chunkAt e + n) = false) → ∃ t, exec ev s = .next t ∧
          t.snapObj i = some { x with chunks := put fun y => { y with chunk := some e, slot := none }, mine := none, waits := none, sub := none } ∧
          (∀ n < c.len, readByte t.mem (d.chunkAt e + n) = readByte w.mem (at_ + n)) ∧
          digestOf t as = dig.toNat ∧ stateOf t as = 2 ∧ t.rdAt ((as.drop 72).take 8) = e % 2 ^ 64)

/-- `IN_CONTROLLER_COPY_DONE` (R336 steps 2 and 3): chunks are copied into free slots of the spare region, and the last one lets its
context go on. `CHUNK_CLAIM_TAKEOVER` (R336 step 4): a claim more than 10 s old becomes this device's. -/
def Sys2Proof.Claims.copiesAndTakeovers : Prop :=
  ∀ (s : State),
    ((∀ i x, (i, some x) ∈ s.scribe.snaps → NothingToCopy x) → exec .inControllerCopyDone s = .next s) ∧
    ((∀ i x, (i, some x) ∈ s.scribe.snaps → x.waits = none) → exec .chunkClaimTakeover s = .next s) ∧
    (∀ i x c, FirstSnap s i x NothingToCopy → x.phase = .moving → x.chunks = [c] → c.slot = none → c.chunk = none →
      ∀ k u as, s.freeSpare = some k → s.chunkAddrs c = (u, as) → as.length = c.len → u.bad = [] → u.scribe = s.scribe →
      ∃ t, exec .inControllerCopyDone s = .next t ∧ k < (8 * 2 ^ 30 - 8 * 2 ^ 20) / 2 ^ 21 ∧
        (∃ y, t.snapObj i = some y ∧ y.chunks = [{ c with slot := some k }] ∧ ∀ z ∈ y.held, z ∉ x.ctxs) ∧
        (SafeState u → c.len ≤ 2 ^ 21 → (∀ z ∈ x.ctxs, z < 1024) → ∀ n < c.len, isParam (slotOf u k + n) = false →
          readByte t.mem (slotOf u k + n) = readByte u.mem (as.getD n 0))) ∧
    ∀ i x e u as, FirstSnap s i x (fun y => y.waits = none) → x.waits = some e → s.targetAt x.tgtmap (4096 + 128 * e + 64) 8 .a = (u, some as) →
      let st := u.rdAt as
      (st % 256 ≠ 1 → exec .chunkClaimTakeover s = .next (u.setSnap i { x with waits := none })) ∧
      (st % 256 = 1 → st / 2 ^ 16 + 10000 < u.now * 5 / 9 / 1000000 → exec .chunkClaimTakeover s =
        .next ((u.wrAt as (leBytes 8 (claimOf u))).setSnap i { x with waits := none, mine := some (e, claimOf u) }))

/-- `SNAPSHOT_RESTORE` (R337): a set that is not one whole step, one shard of each named context in order, makes the entry FAULTED
(RESTORE_MIXED) and changes no byte outside it but the drive's doorbell; else chunk after chunk is read by a command of the
drive (R334), and written over its mapping where its digest is right; a wrong one is DIGEST, and the contexts stay suspended; with the last the entry is BUILT. -/
def Sys2Proof.Claims.restores : Prop :=
  ∀ (s : State),
    let ev := Instr.snapshotRestore
    ((∀ i x, (i, some x) ∈ s.scribe.snaps → NotRestoring x) → exec ev s = .next s) ∧
    ∀ i x, FirstSnap s i x NotRestoring →
      (x.phase = .checking → x.sub = none → ∀ u d, readTarget s x.tgtmap = (u, some d) → u.scribe = s.scribe →
        ∃ t, exec ev s = .next t ∧ Commands u t i x d true (slotOf u (u.freeSpare.getD 0)) d.manLba (8 * 2 ^ 20)) ∧
      (x.phase = .checking → x.sub ≠ none → ∀ r d, readTarget s x.tgtmap = (r, some d) → r.scribe = s.scribe →
        let u := completed r x d
        let found := (List.range 8).filterMap (readShard u d)
        let any := x.step_ = 2 ^ 64 - 1
        let step := if any then (found.head?).elim 0 Shard.step_ else x.step_
        let mine := found.filter fun h => h.step_ == step
        let whole := x.ctxs ≠ [] ∧ mine.length = x.ctxs.length ∧ (any → found.length = x.ctxs.length) ∧
          ∀ (k : Nat) (c : Nat), x.ctxs[k]? = some c → ∃ h ∈ mine, h.idx = k ∧ h.count = x.ctxs.length ∧ h.ctx = c
        (¬whole → ∃ t, exec ev s = .next t ∧ SnapEnds s t i (some 0x10B) ∧ t.scribe.maps = s.scribe.maps ∧
          (SafeState u → x.held = [] → ∀ a, a < entryAt u 5 i ∨ entryAt u 5 i + 32 ≤ a → readByte t.mem a = readByte u.mem a)) ∧
        (whole → ∃ t y, exec ev s = .next t ∧ t.snapObj i = some y ∧ y.phase = .restoring ∧ y.next_ = 0)) ∧
      (x.phase = .restoring → ∀ r d, readTarget s x.tgtmap = (r, some d) → r.scribe = s.scribe →
        let u := completed r x d
        (x.chunks[x.next_]? = none → ∃ t, exec ev s = .next t ∧ SnapEnds s t i none) ∧
        (∀ c k, x.chunks[x.next_]? = some c → r.freeSpare = some k → x.sub = none → ∃ t, exec ev s = .next t ∧
          Commands r t i x d true (slotOf r k) (d.dataLba + c.chunk.getD 0 * (2 ^ 21 / d.lba)) c.len) ∧
        ∀ c k, x.chunks[x.next_]? = some c → r.freeSpare = some k → x.sub ≠ none → SafeState u → u.bad = [] → (∀ n < c.len, isParam (slotOf u k + n) = false) →
          let src := d.chunkAt (c.chunk.getD 0)
          let w := { u with mem := writeBytes u.mem (slotOf u k) (readBytes u.mem src c.len) }
          let as := (w.chunkAddrs c).2
          let good := sha512 (readBytes u.mem src c.len) = c.digest.getD 0
          (¬good → ∃ t, exec ev s = .next t ∧ SnapEnds s t i (some 0x106) ∧ ∀ z ∈ x.ctxs, z ∈ t.scribe.torn) ∧
          (good → ∃ t, exec ev s = .next t ∧ t.snapObj i = some { x with next_ := x.next_ + 1, sub := none } ∧
            (as.Nodup → as.length ≤ c.len → (w.chunkAddrs c).1.bad = [] →
              (∀ n < c.len, readByte (w.chunkAddrs c).1.mem (slotOf u k + n) = readByte w.mem (slotOf u k + n)) →
              ∀ n < as.length, isParam (as.getD n 0) = false → readByte t.mem (as.getD n 0) = (readBytes u.mem src c.len).getD n 0)))

/-- Snapshots and restores. -/
def Obligations.Snapshots : Prop := targets ∧ chunkPlan ∧ snapshotPhases ∧ chunksDrained ∧ copiesAndTakeovers ∧ restores

/-! ### Invariants -/

namespace Sys2Proof.Claims

/-- A warp's registers have their canonical form, and its writes in flight stand in the order they land. -/
def CoreOk (c : WCore) : Prop :=
  swf 0 c.v = true ∧ swf 0 c.s = true ∧ swf 0 c.p = true ∧ c.pend.Pairwise fun p q => p.land ≤ q.land

/-- A warp's files and tables have their canonical form, in a checkpoint of runahead too. -/
def WarpOk (w : Warp) : Prop :=
  RegsOk w ∧ CoreOk w.wc ∧ swf none w.errs = true ∧ swf 0 w.tagCnt = true ∧ swf 0 w.cpygSeq = true ∧ ∀ r, w.run = some r → CoreOk r.ckpt

/-- Every table of the machine has its canonical form, so that equal contents are equal data, every ring keeps the order
of its counters (R190), and the contexts that queues and snapshots name are ids of 16 bits (Table 12.6). -/
structure FormsOk (s : State) : Prop where
  machine : swf {} s.tags = true ∧ swf {} s.parts = true ∧ swf {} s.bays = true ∧ swf {} s.dies = true ∧ swf {} s.ports = true ∧
    swf {} s.tdis = true ∧ swf 0 s.bad = true ∧ swf 0 s.meas = true ∧ swf false s.linksDown = true
  scribe : ScribeOk s ∧ swf 0 s.scribe.refused = true ∧ swf 0 s.scribe.cons = true
  frames : ∀ f ∈ s.frames, swf none f.fsb = true ∧ swf 0 f.collNext = true ∧ (∀ w ∈ f.warps, WarpOk w) ∧ ∀ x ∈ f.carried, RingOk x.2
  bays : ∀ x ∈ s.bays, swf {} x.2.tables = true ∧ ∀ y ∈ x.2.rings, RingOk y.2
  dies : ∀ x ∈ s.dies, swf {} x.2.handles = true ∧ swf {} x.2.pubs = true ∧ swf {} x.2.lists = true ∧ ∀ y ∈ x.2.rings, RingOk y.2
  ports : ∀ x ∈ s.ports, swf {} x.2.qif = true
  ids : (∀ i x, (i, some x) ∈ s.scribe.snaps → ∀ z ∈ x.held ++ x.ctxs, z < 2 ^ 16) ∧
    ∀ i x, (i, some x) ∈ s.scribe.queues → x.ctx < 2 ^ 16

/-- The numbers that the machine gives out stay its own: no two frames and no two page-request groups share one, no number is
given out again, and a frame's warps have their own indices. -/
structure NumbersOk (s : State) : Prop where
  frames : (s.frames.map Frame.fid).Nodup ∧ ∀ f ∈ s.frames, f.fid < s.fresh
  groups : (s.pages.map PageGroup.num).Nodup ∧ ∀ g ∈ s.pages, g.num < s.fresh
  warps : ∀ f ∈ s.frames, (f.warps.map Warp.idx).Nodup

end Sys2Proof.Claims

/-- The state after reset has every one of the invariants. -/
def Obligations.ResetKeepsInvariants : Prop := SafeState State.reset ∧ FormsOk State.reset ∧ NumbersOk State.reset

/-- A step keeps the form of every table, the order of every ring, and the ids in their range. -/
def Obligations.StepKeepsForms : Prop := ∀ (s t : State), FormsOk s → step s = .next t → FormsOk t

/-- A step keeps the numbers of frames, page-request groups and warps their own. -/
def Obligations.StepKeepsNumbers : Prop := ∀ (s t : State), NumbersOk s → step s = .next t → NumbersOk t

/-! ### Ordering -/

namespace Sys2Proof.Claims

/-- An execution whose events stand in one order in which each is performed whole: program order, lane order, every hand-off
and every wait go forward, each byte's writes stand in that order, a read takes each byte from the last write before it, and
no other thread writes between an LR and its SC. -/
structure Interleaved (x : Exec) : Prop where
  program : ∀ a < x.events.length, ∀ b < x.events.length, x.before a b = true → a < b
  warp : ∀ a < x.events.length, ∀ b < x.events.length, x.warpBefore a b = true →
    (x.ev a).waits ≠ [] ∨ (x.ev a).takes ≠ [] ∨ (x.ev b).gives ≠ [] → a < b
  hands : ∀ a < x.events.length, ∀ b < x.events.length, ∀ h ∈ (x.ev a).gives, h ∈ (x.ev b).takes → a ≠ b → a < b
  waits : ∀ a < x.events.length, ∀ k < x.events.length, x.covers k a = true → a < k
  coherence : ∀ b, (x.order b).Pairwise (· < ·)
  reads : ∀ r < x.events.length, (x.ev r).reads = true → ∀ b ∈ (x.ev r).bytes, x.source r b = ((x.order b).filter (· < r)).getLast?
  pairs : ∀ u < x.events.length, ∀ r, x.rmwRead u = some r → r ≠ u →
    r < u ∧ (x.ev r).reads = true ∧ (∀ b ∈ (x.ev u).bytes, b ∈ (x.ev r).bytes) ∧
    ∀ v, r ≤ v → v < u → (x.ev v).writes = true → x.sameLoc u v = true → x.external u v = false

/-- Consecutive addresses within one aligned unit. -/
def OneUnit (unit : Nat) (as : List Nat) : Prop :=
  as ≠ [] ∧ (∀ i, i + 1 < as.length → as.getD (i + 1) 0 = as.getD i 0 + 1) ∧ ∀ a ∈ as, a / unit = as.getD 0 0 / unit

end Sys2Proof.Claims

/-- The axioms of R204 to R210 allow every execution that one order of whole accesses gives. An access is divided into units
without loss: each of its runs lies within one aligned unit, and the runs are the access's bytes in their order (R204). -/
def Obligations.InterleavingsAllowed : Prop :=
  (∀ x : Exec, x.wf = true → Interleaved x → x.allowed = true) ∧
  ∀ (unit : Nat) (as : List Nat), (unitRuns unit as).flatten = as ∧ ∀ run ∈ unitRuns unit as, OneUnit unit run
end

