-- ==== Sys2Proof/Laws/Sparse.lean ====
section
/-! SUPPORT. The laws of the canonical maps: reading after writing, and that every operation keeps the form. -/

namespace Sys2Proof

section

variable {α : Type} [DecidableEq α] {d : α}

/-- A map whose keys all lie above a key reads as the default there. -/
theorem sget_below {m : SMap α} {lo q : Nat} (h : swfFrom d lo m = true) (hq : q < lo) : sget d m q = d := by
  induction m generalizing lo with
  | nil => rfl
  | cons e r ih =>
    obtain ⟨k, v⟩ := e
    simp only [swfFrom, Bool.and_eq_true, decide_eq_true_eq] at h
    simp only [sget]
    rw [if_neg (by omega), if_pos (by omega)]

/-- The form with a larger bound implies the form with a smaller one. -/
theorem swfFrom_mono {m : SMap α} {a b : Nat} (h : swfFrom d b m = true) (hab : a ≤ b) : swfFrom d a m = true := by
  cases m with
  | nil => rfl
  | cons e r =>
    obtain ⟨k, v⟩ := e
    simp only [swfFrom, Bool.and_eq_true, decide_eq_true_eq] at h ⊢
    exact ⟨⟨by omega, h.1.2⟩, h.2⟩

/-- A write keeps the form, for any bound at or below the key. -/
theorem swfFrom_sset {m : SMap α} {lo q : Nat} (x : α) (h : swfFrom d lo m = true) (hq : lo ≤ q) :
    swfFrom d lo (sset d q x m) = true := by
  induction m generalizing lo with
  | nil =>
    simp only [sset]
    split
    · rfl
    · simp [swfFrom, *]
  | cons e r ih =>
    obtain ⟨k, v⟩ := e
    simp only [swfFrom, Bool.and_eq_true, decide_eq_true_eq] at h
    simp only [sset]
    split_ifs with h1 h2 h3 h4
    · simp [swfFrom, h.1, h.2]
    · simp only [swfFrom, Bool.and_eq_true, decide_eq_true_eq]
      exact ⟨⟨hq, h2⟩, ⟨by omega, h.1.2⟩, h.2⟩
    · exact swfFrom_mono h.2 (by omega)
    · simp only [swfFrom, Bool.and_eq_true, decide_eq_true_eq]
      exact ⟨⟨hq, h4⟩, by rw [h3]; exact h.2⟩
    · simp only [swfFrom, Bool.and_eq_true, decide_eq_true_eq]
      exact ⟨h.1, ih h.2 (by omega)⟩

/-- A write keeps the canonical form. -/
theorem swf_sset {m : SMap α} (q : Nat) (x : α) (h : swf d m = true) : swf d (sset d q x m) = true :=
  swfFrom_sset x h (Nat.zero_le q)

theorem swf_nil : swf d ([] : SMap α) = true := rfl

/-- Writes in order keep the canonical form. -/
theorem swf_ssetMany {m : SMap α} (xs : List (Nat × α)) (h : swf d m = true) : swf d (ssetMany d m xs) = true := by
  induction xs generalizing m with
  | nil => exact h
  | cons e r ih => exact ih (swf_sset _ _ h)

/-- Leaving entries out keeps the form. -/
theorem swfFrom_filter {m : SMap α} {lo : Nat} (p : Nat × α → Bool) (h : swfFrom d lo m = true) :
    swfFrom d lo (m.filter p) = true := by
  induction m generalizing lo with
  | nil => rfl
  | cons e r ih =>
    obtain ⟨k, v⟩ := e
    simp only [swfFrom, Bool.and_eq_true, decide_eq_true_eq] at h
    rw [List.filter_cons]
    split
    · simp only [swfFrom, Bool.and_eq_true, decide_eq_true_eq]
      exact ⟨h.1, ih h.2⟩
    · exact swfFrom_mono (ih h.2) (by omega)

theorem swf_filter {m : SMap α} (p : Nat × α → Bool) (h : swf d m = true) : swf d (m.filter p) = true :=
  swfFrom_filter p h

/-- The key just written reads as written. -/
theorem sget_sset_same {m : SMap α} {lo : Nat} (q : Nat) (x : α) (h : swfFrom d lo m = true) :
    sget d (sset d q x m) q = x := by
  induction m generalizing lo with
  | nil =>
    simp only [sset]
    split
    · next hx => simp [sget, hx]
    · simp [sget]
  | cons e r ih =>
    obtain ⟨k, v⟩ := e
    simp only [swfFrom, Bool.and_eq_true, decide_eq_true_eq] at h
    simp only [sset]
    split_ifs with h1 h2 h3 h4
    · rw [h2, sget, if_neg (by omega), if_pos h1]
    · simp [sget]
    · rw [h4]; exact sget_below h.2 (by omega)
    · simp [sget]
    · rw [sget, if_neg h3, if_neg h1]; exact ih h.2

/-- Every other key reads as before. -/
theorem sget_sset_other {m : SMap α} {lo : Nat} {p q : Nat} (x : α) (h : swfFrom d lo m = true) (hpq : p ≠ q) :
    sget d (sset d q x m) p = sget d m p := by
  induction m generalizing lo with
  | nil =>
    simp only [sset]
    split
    · rfl
    · simp only [sget, if_neg hpq]; split <;> rfl
  | cons e r ih =>
    obtain ⟨k, v⟩ := e
    simp only [swfFrom, Bool.and_eq_true, decide_eq_true_eq] at h
    simp only [sset]
    split_ifs with h1 h2 h3 h4
    · rfl
    · rw [sget, if_neg hpq]
      split_ifs with h5
      · rw [sget, if_neg (by omega), if_pos (by omega)]
      · rfl
    · subst h3
      rw [sget, if_neg hpq]
      split_ifs with h5
      · exact sget_below h.2 (by omega)
      · rfl
    · subst h3
      rw [sget, if_neg hpq, sget, if_neg hpq]
    · simp only [sget]
      split_ifs
      · rfl
      · rfl
      · exact ih h.2

/-- A write of what a key already reads changes nothing. -/
theorem sset_sget_self {m : SMap α} {lo : Nat} (q : Nat) (h : swfFrom d lo m = true) : sset d q (sget d m q) m = m := by
  induction m generalizing lo with
  | nil => simp [sset, sget]
  | cons e r ih =>
    obtain ⟨k, v⟩ := e
    simp only [swfFrom, Bool.and_eq_true, decide_eq_true_eq] at h
    simp only [sget, sset]
    split_ifs with h1 h2 h3 h4 h5 h6
    all_goals first
      | omega
      | simp_all
    exact ih h.2

end

/-! ### Lists of the machine -/

section

variable {α : Type}

theorem length_modifyFirst (p : α → Bool) (f : α → α) (l : List α) : (modifyFirst p f l).length = l.length := by
  induction l with
  | nil => rfl
  | cons x r ih => simp only [modifyFirst]; split <;> simp [ih]

/-- The first element that satisfies the test is the one replaced. -/
theorem find_modifyFirst {p : α → Bool} {f : α → α} {l : List α} {x : α} (h : l.find? p = some x) (hf : p (f x) = true) :
    (modifyFirst p f l).find? p = some (f x) := by
  induction l with
  | nil => simp at h
  | cons y r ih =>
    simp only [modifyFirst]
    by_cases hy : p y = true
    · simp only [List.find?_cons, hy] at h
      simp only [Option.some.injEq] at h
      subst h
      simp [hy, hf]
    · simp only [List.find?_cons, hy] at h
      simp only [hy, Bool.false_eq_true, ↓reduceIte, List.find?_cons]
      exact ih h

/-- A search that the replacement cannot turn from hit to miss, or from miss to hit, finds what it found. -/
theorem find_modifyFirst_other {p q : α → Bool} {f : α → α} {l : List α} (h : ∀ x, p x = true → q x = false ∧ q (f x) = false) :
    (modifyFirst p f l).find? q = l.find? q := by
  induction l with
  | nil => rfl
  | cons y r ih =>
    simp only [modifyFirst]
    by_cases hy : p y = true
    · simp [hy, h y hy]
    · simp only [hy, Bool.false_eq_true, ↓reduceIte, List.find?_cons, ih]

end

end Sys2Proof
end

