-- ==== Sys2Proof/Laws/Memory.lean ====
section
/-! SUPPORT. The laws of memory: what a byte reads after a write, byte order, and that every operation keeps the
canonical form. -/

namespace Sys2Proof.Machine

/-! ### The canonical form -/

theorem wf_nil : Memory.wf [] = true := rfl

theorem wf_writeByte {m : List Host.Cell} (a : Nat) (b : Byte) (h : Memory.wf m = true) : Memory.wf (writeByte m a b) = true := by
  unfold writeByte
  split
  · exact h
  · exact swf_sset _ _ h

theorem wf_writeBytes {m : List Host.Cell} (a : Nat) (bs : List Byte) (h : Memory.wf m = true) :
    Memory.wf (writeBytes m a bs) = true := by
  induction bs generalizing m a with
  | nil => exact h
  | cons b r ih => exact ih _ (wf_writeByte _ _ h)

theorem wf_writeNat {m : List Host.Cell} (a n v : Nat) (h : Memory.wf m = true) : Memory.wf (writeNat m a n v) = true :=
  wf_writeBytes _ _ h

theorem wf_writeCells {m : List Host.Cell} (cs : List Host.Cell) (h : Memory.wf m = true) : Memory.wf (writeCells m cs) = true := by
  induction cs generalizing m with
  | nil => exact h
  | cons c r ih => exact ih (wf_writeByte _ _ h)

theorem wf_filter {m : List Host.Cell} (p : Host.Cell → Bool) (h : Memory.wf m = true) : Memory.wf (m.filter p) = true :=
  swf_filter p h

theorem wf_clearRange {m : List Host.Cell} (a n : Nat) (h : Memory.wf m = true) : Memory.wf (clearRange m a n) = true :=
  swf_filter _ h

theorem wf_clearRegion {m : List Host.Cell} (r : Region) (h : Memory.wf m = true) : Memory.wf (clearRegion m r) = true :=
  swf_filter _ h

/-! ### Reading after writing -/

/-- The byte just written reads as written, outside parameter blocks. -/
theorem readByte_writeByte_same {m : List Host.Cell} {a : Nat} (b : Byte) (h : Memory.wf m = true) (ha : isParam a = false) :
    readByte (writeByte m a b) a = b := by
  simp only [readByte, writeByte, ha, Bool.false_eq_true, ↓reduceIte]
  exact sget_sset_same a b h

/-- Every other byte reads as before. -/
theorem readByte_writeByte_other {m : List Host.Cell} {a q : Nat} (b : Byte) (h : Memory.wf m = true) (hq : q ≠ a) :
    readByte (writeByte m a b) q = readByte m q := by
  simp only [readByte, writeByte]
  split
  · rfl
  · split
    · rfl
    · exact sget_sset_other b h hq

/-- A byte of a parameter block reads as the launch gave it (R278). -/
theorem readByte_param {m : List Host.Cell} {a : Nat} (h : isParam a = true) : readByte m a = unlisted a := by
  simp [readByte, h]

/-- Bytes outside the written range read as before. -/
theorem readByte_writeBytes_other {m : List Host.Cell} {a q : Nat} (bs : List Byte) (h : Memory.wf m = true)
    (hq : q < a ∨ a + bs.length ≤ q) : readByte (writeBytes m a bs) q = readByte m q := by
  induction bs generalizing m a with
  | nil => rfl
  | cons b r ih =>
    simp only [writeBytes, List.length_cons] at hq ⊢
    rw [ih (wf_writeByte _ _ h) (by omega), readByte_writeByte_other b h (by omega)]

/-- A byte inside the written range reads as written, where the range holds no parameter block. -/
theorem readByte_writeBytes_same {m : List Host.Cell} {a i : Nat} {bs : List Byte} (h : Memory.wf m = true)
    (hp : ∀ j < bs.length, isParam (a + j) = false) (hi : i < bs.length) :
    readByte (writeBytes m a bs) (a + i) = bs[i] := by
  induction bs generalizing m a i with
  | nil => simp at hi
  | cons b r ih =>
    simp only [writeBytes]
    cases i with
    | zero =>
      rw [readByte_writeBytes_other r (wf_writeByte _ _ h) (by omega)]
      exact readByte_writeByte_same b h (hp 0 (by simp))
    | succ i =>
      have := ih (m := writeByte m a b) (a := a + 1) (i := i) (wf_writeByte _ _ h)
        (fun j hj => by have := hp (j + 1) (by simpa using hj); rwa [show a + (j + 1) = a + 1 + j by omega] at this)
        (by simpa using hi)
      rw [show a + (i + 1) = a + 1 + i by omega, this]
      rfl

theorem length_readBytes (m : List Host.Cell) (a n : Nat) : (readBytes m a n).length = n := by
  induction n generalizing a with
  | zero => rfl
  | succ n ih => simp [readBytes, ih]

theorem getElem_readBytes {m : List Host.Cell} {a n i : Nat} (h : i < (readBytes m a n).length) :
    (readBytes m a n)[i] = readByte m (a + i) := by
  induction n generalizing a i with
  | zero => simp [readBytes] at h
  | succ n ih =>
    cases i with
    | zero => rfl
    | succ i =>
      simp only [readBytes, List.getElem_cons_succ]
      rw [ih, show a + 1 + i = a + (i + 1) by omega]

/-- A range just written reads as written, outside parameter blocks. -/
theorem readBytes_writeBytes {m : List Host.Cell} {a : Nat} {bs : List Byte} (h : Memory.wf m = true)
    (hp : ∀ j < bs.length, isParam (a + j) = false) : readBytes (writeBytes m a bs) a bs.length = bs := by
  apply List.ext_getElem (length_readBytes _ _ _)
  intro i h1 h2
  rw [getElem_readBytes h1, readByte_writeBytes_same h hp h2]

/-! ### Byte order (R7) -/

theorem length_leBytes (n v : Nat) : (leBytes n v).length = n := by
  induction n generalizing v with
  | zero => rfl
  | succ n ih => simp [leBytes, ih]

/-- A number's little-endian bytes give it back, modulo their width. -/
theorem ofLe_leBytes (n v : Nat) : ofLe (leBytes n v) = v % 256 ^ n := by
  induction n generalizing v with
  | zero => simp [leBytes, ofLe, Nat.mod_one]
  | succ n ih =>
    simp only [leBytes, ofLe, ih, BitVec.toNat_ofNat]
    rw [show 256 ^ (n + 1) = 256 * 256 ^ n by ring, Nat.mod_mul]

/-- A number written and read back with the same width, outside parameter blocks (R7). -/
theorem readNat_writeNat {m : List Host.Cell} {a n v : Nat} (h : Memory.wf m = true)
    (hp : ∀ j < n, isParam (a + j) = false) : readNat (writeNat m a n v) a n = v % 256 ^ n := by
  have e := readBytes_writeBytes (m := m) (a := a) (bs := leBytes n v) h (by rw [length_leBytes]; exact hp)
  rw [length_leBytes] at e
  rw [readNat, writeNat, e, ofLe_leBytes]

/-! ### Regions -/

/-- The numbers of regions tell them apart, so addresses of different regions never meet. -/
theorem Region.num_injective {r q : Region} (h : r.num = q.num) : r = q := by
  cases r <;> cases q <;> simp only [Region.num] at h <;> first | rfl | omega | (congr 1; omega)

theorem Region.at_injective {r q : Region} {a b : Nat} (ha : a < 2 ^ 64) (hb : b < 2 ^ 64) (h : r.at a = q.at b) :
    r = q ∧ a = b := by
  simp only [Region.at] at h
  have h1 : r.num = q.num := by omega
  exact ⟨Region.num_injective h1, by rw [h1] at h; omega⟩

end Sys2Proof.Machine
end

