-- ==== Sys2Proof/Laws/State.lean ====
section
/-! SUPPORT. What each update of the state and of a warp leaves alone and what it writes: one lemma per field per update,
each true by definition. -/

namespace Sys2Proof.Machine

/-! ### `State.setMem` -/

@[simp] theorem State.setMem_now (s : State) (m : List Host.Cell) : (s.setMem m).now = s.now := rfl
@[simp] theorem State.setMem_cur (s : State) (m : List Host.Cell) : (s.setMem m).cur = s.cur := rfl
@[simp] theorem State.setMem_agenda (s : State) (m : List Host.Cell) : (s.setMem m).agenda = s.agenda := rfl
@[simp] theorem State.setMem_fresh (s : State) (m : List Host.Cell) : (s.setMem m).fresh = s.fresh := rfl
@[simp] theorem State.setMem_bad (s : State) (m : List Host.Cell) : (s.setMem m).bad = s.bad := rfl
@[simp] theorem State.setMem_hdmBase (s : State) (m : List Host.Cell) : (s.setMem m).hdmBase = s.hdmBase := rfl
@[simp] theorem State.setMem_frames (s : State) (m : List Host.Cell) : (s.setMem m).frames = s.frames := rfl
@[simp] theorem State.setMem_launches (s : State) (m : List Host.Cell) : (s.setMem m).launches = s.launches := rfl
@[simp] theorem State.setMem_parts (s : State) (m : List Host.Cell) : (s.setMem m).parts = s.parts := rfl
@[simp] theorem State.setMem_tags (s : State) (m : List Host.Cell) : (s.setMem m).tags = s.tags := rfl
@[simp] theorem State.setMem_bays (s : State) (m : List Host.Cell) : (s.setMem m).bays = s.bays := rfl
@[simp] theorem State.setMem_dies (s : State) (m : List Host.Cell) : (s.setMem m).dies = s.dies := rfl
@[simp] theorem State.setMem_copies (s : State) (m : List Host.Cell) : (s.setMem m).copies = s.copies := rfl
@[simp] theorem State.setMem_ftops (s : State) (m : List Host.Cell) : (s.setMem m).ftops = s.ftops := rfl
@[simp] theorem State.setMem_deps (s : State) (m : List Host.Cell) : (s.setMem m).deps = s.deps := rfl
@[simp] theorem State.setMem_pages (s : State) (m : List Host.Cell) : (s.setMem m).pages = s.pages := rfl
@[simp] theorem State.setMem_circles (s : State) (m : List Host.Cell) : (s.setMem m).circles = s.circles := rfl
@[simp] theorem State.setMem_tlb (s : State) (m : List Host.Cell) : (s.setMem m).tlb = s.tlb := rfl
@[simp] theorem State.setMem_planbase (s : State) (m : List Host.Cell) : (s.setMem m).planbase = s.planbase := rfl
@[simp] theorem State.setMem_touched (s : State) (m : List Host.Cell) : (s.setMem m).touched = s.touched := rfl
@[simp] theorem State.setMem_ports (s : State) (m : List Host.Cell) : (s.setMem m).ports = s.ports := rfl
@[simp] theorem State.setMem_scribe (s : State) (m : List Host.Cell) : (s.setMem m).scribe = s.scribe := rfl
@[simp] theorem State.setMem_bootstat (s : State) (m : List Host.Cell) : (s.setMem m).bootstat = s.bootstat := rfl
@[simp] theorem State.setMem_meas (s : State) (m : List Host.Cell) : (s.setMem m).meas = s.meas := rfl
@[simp] theorem State.setMem_boots (s : State) (m : List Host.Cell) : (s.setMem m).boots = s.boots := rfl
@[simp] theorem State.setMem_tdis (s : State) (m : List Host.Cell) : (s.setMem m).tdis = s.tdis := rfl
@[simp] theorem State.setMem_spdm (s : State) (m : List Host.Cell) : (s.setMem m).spdm = s.spdm := rfl
@[simp] theorem State.setMem_felzen (s : State) (m : List Host.Cell) : (s.setMem m).felzen = s.felzen := rfl
@[simp] theorem State.setMem_linksDown (s : State) (m : List Host.Cell) : (s.setMem m).linksDown = s.linksDown := rfl
@[simp] theorem State.setMem_strays (s : State) (m : List Host.Cell) : (s.setMem m).strays = s.strays := rfl
@[simp] theorem State.setMem_reply (s : State) (m : List Host.Cell) : (s.setMem m).reply = s.reply := rfl
@[simp] theorem State.setMem_seals (s : State) (m : List Host.Cell) : (s.setMem m).seals = s.seals := rfl

/-! ### `State.wr` -/

@[simp] theorem State.wr_now (s : State) (a n v : Nat) : (s.wr a n v).now = s.now := rfl
@[simp] theorem State.wr_cur (s : State) (a n v : Nat) : (s.wr a n v).cur = s.cur := rfl
@[simp] theorem State.wr_agenda (s : State) (a n v : Nat) : (s.wr a n v).agenda = s.agenda := rfl
@[simp] theorem State.wr_fresh (s : State) (a n v : Nat) : (s.wr a n v).fresh = s.fresh := rfl
@[simp] theorem State.wr_bad (s : State) (a n v : Nat) : (s.wr a n v).bad = s.bad := rfl
@[simp] theorem State.wr_hdmBase (s : State) (a n v : Nat) : (s.wr a n v).hdmBase = s.hdmBase := rfl
@[simp] theorem State.wr_frames (s : State) (a n v : Nat) : (s.wr a n v).frames = s.frames := rfl
@[simp] theorem State.wr_launches (s : State) (a n v : Nat) : (s.wr a n v).launches = s.launches := rfl
@[simp] theorem State.wr_parts (s : State) (a n v : Nat) : (s.wr a n v).parts = s.parts := rfl
@[simp] theorem State.wr_tags (s : State) (a n v : Nat) : (s.wr a n v).tags = s.tags := rfl
@[simp] theorem State.wr_bays (s : State) (a n v : Nat) : (s.wr a n v).bays = s.bays := rfl
@[simp] theorem State.wr_dies (s : State) (a n v : Nat) : (s.wr a n v).dies = s.dies := rfl
@[simp] theorem State.wr_copies (s : State) (a n v : Nat) : (s.wr a n v).copies = s.copies := rfl
@[simp] theorem State.wr_ftops (s : State) (a n v : Nat) : (s.wr a n v).ftops = s.ftops := rfl
@[simp] theorem State.wr_deps (s : State) (a n v : Nat) : (s.wr a n v).deps = s.deps := rfl
@[simp] theorem State.wr_pages (s : State) (a n v : Nat) : (s.wr a n v).pages = s.pages := rfl
@[simp] theorem State.wr_circles (s : State) (a n v : Nat) : (s.wr a n v).circles = s.circles := rfl
@[simp] theorem State.wr_tlb (s : State) (a n v : Nat) : (s.wr a n v).tlb = s.tlb := rfl
@[simp] theorem State.wr_planbase (s : State) (a n v : Nat) : (s.wr a n v).planbase = s.planbase := rfl
@[simp] theorem State.wr_touched (s : State) (a n v : Nat) : (s.wr a n v).touched = s.touched := rfl
@[simp] theorem State.wr_ports (s : State) (a n v : Nat) : (s.wr a n v).ports = s.ports := rfl
@[simp] theorem State.wr_scribe (s : State) (a n v : Nat) : (s.wr a n v).scribe = s.scribe := rfl
@[simp] theorem State.wr_bootstat (s : State) (a n v : Nat) : (s.wr a n v).bootstat = s.bootstat := rfl
@[simp] theorem State.wr_meas (s : State) (a n v : Nat) : (s.wr a n v).meas = s.meas := rfl
@[simp] theorem State.wr_boots (s : State) (a n v : Nat) : (s.wr a n v).boots = s.boots := rfl
@[simp] theorem State.wr_tdis (s : State) (a n v : Nat) : (s.wr a n v).tdis = s.tdis := rfl
@[simp] theorem State.wr_spdm (s : State) (a n v : Nat) : (s.wr a n v).spdm = s.spdm := rfl
@[simp] theorem State.wr_felzen (s : State) (a n v : Nat) : (s.wr a n v).felzen = s.felzen := rfl
@[simp] theorem State.wr_linksDown (s : State) (a n v : Nat) : (s.wr a n v).linksDown = s.linksDown := rfl
@[simp] theorem State.wr_strays (s : State) (a n v : Nat) : (s.wr a n v).strays = s.strays := rfl
@[simp] theorem State.wr_reply (s : State) (a n v : Nat) : (s.wr a n v).reply = s.reply := rfl
@[simp] theorem State.wr_seals (s : State) (a n v : Nat) : (s.wr a n v).seals = s.seals := rfl

/-! ### `State.setFrame` -/

@[simp] theorem State.setFrame_now (s : State) (f : Frame) : (s.setFrame f).now = s.now := rfl
@[simp] theorem State.setFrame_cur (s : State) (f : Frame) : (s.setFrame f).cur = s.cur := rfl
@[simp] theorem State.setFrame_agenda (s : State) (f : Frame) : (s.setFrame f).agenda = s.agenda := rfl
@[simp] theorem State.setFrame_fresh (s : State) (f : Frame) : (s.setFrame f).fresh = s.fresh := rfl
@[simp] theorem State.setFrame_mem (s : State) (f : Frame) : (s.setFrame f).mem = s.mem := rfl
@[simp] theorem State.setFrame_bad (s : State) (f : Frame) : (s.setFrame f).bad = s.bad := rfl
@[simp] theorem State.setFrame_hdmBase (s : State) (f : Frame) : (s.setFrame f).hdmBase = s.hdmBase := rfl
@[simp] theorem State.setFrame_launches (s : State) (f : Frame) : (s.setFrame f).launches = s.launches := rfl
@[simp] theorem State.setFrame_parts (s : State) (f : Frame) : (s.setFrame f).parts = s.parts := rfl
@[simp] theorem State.setFrame_tags (s : State) (f : Frame) : (s.setFrame f).tags = s.tags := rfl
@[simp] theorem State.setFrame_bays (s : State) (f : Frame) : (s.setFrame f).bays = s.bays := rfl
@[simp] theorem State.setFrame_dies (s : State) (f : Frame) : (s.setFrame f).dies = s.dies := rfl
@[simp] theorem State.setFrame_copies (s : State) (f : Frame) : (s.setFrame f).copies = s.copies := rfl
@[simp] theorem State.setFrame_ftops (s : State) (f : Frame) : (s.setFrame f).ftops = s.ftops := rfl
@[simp] theorem State.setFrame_deps (s : State) (f : Frame) : (s.setFrame f).deps = s.deps := rfl
@[simp] theorem State.setFrame_pages (s : State) (f : Frame) : (s.setFrame f).pages = s.pages := rfl
@[simp] theorem State.setFrame_circles (s : State) (f : Frame) : (s.setFrame f).circles = s.circles := rfl
@[simp] theorem State.setFrame_tlb (s : State) (f : Frame) : (s.setFrame f).tlb = s.tlb := rfl
@[simp] theorem State.setFrame_planbase (s : State) (f : Frame) : (s.setFrame f).planbase = s.planbase := rfl
@[simp] theorem State.setFrame_touched (s : State) (f : Frame) : (s.setFrame f).touched = s.touched := rfl
@[simp] theorem State.setFrame_ports (s : State) (f : Frame) : (s.setFrame f).ports = s.ports := rfl
@[simp] theorem State.setFrame_scribe (s : State) (f : Frame) : (s.setFrame f).scribe = s.scribe := rfl
@[simp] theorem State.setFrame_bootstat (s : State) (f : Frame) : (s.setFrame f).bootstat = s.bootstat := rfl
@[simp] theorem State.setFrame_meas (s : State) (f : Frame) : (s.setFrame f).meas = s.meas := rfl
@[simp] theorem State.setFrame_boots (s : State) (f : Frame) : (s.setFrame f).boots = s.boots := rfl
@[simp] theorem State.setFrame_tdis (s : State) (f : Frame) : (s.setFrame f).tdis = s.tdis := rfl
@[simp] theorem State.setFrame_spdm (s : State) (f : Frame) : (s.setFrame f).spdm = s.spdm := rfl
@[simp] theorem State.setFrame_felzen (s : State) (f : Frame) : (s.setFrame f).felzen = s.felzen := rfl
@[simp] theorem State.setFrame_linksDown (s : State) (f : Frame) : (s.setFrame f).linksDown = s.linksDown := rfl
@[simp] theorem State.setFrame_strays (s : State) (f : Frame) : (s.setFrame f).strays = s.strays := rfl
@[simp] theorem State.setFrame_reply (s : State) (f : Frame) : (s.setFrame f).reply = s.reply := rfl
@[simp] theorem State.setFrame_seals (s : State) (f : Frame) : (s.setFrame f).seals = s.seals := rfl

/-! ### `State.setWarp` -/

@[simp] theorem State.setWarp_now (s : State) (fid : Nat) (w : Warp) : (s.setWarp fid w).now = s.now := rfl
@[simp] theorem State.setWarp_cur (s : State) (fid : Nat) (w : Warp) : (s.setWarp fid w).cur = s.cur := rfl
@[simp] theorem State.setWarp_agenda (s : State) (fid : Nat) (w : Warp) : (s.setWarp fid w).agenda = s.agenda := rfl
@[simp] theorem State.setWarp_fresh (s : State) (fid : Nat) (w : Warp) : (s.setWarp fid w).fresh = s.fresh := rfl
@[simp] theorem State.setWarp_mem (s : State) (fid : Nat) (w : Warp) : (s.setWarp fid w).mem = s.mem := rfl
@[simp] theorem State.setWarp_bad (s : State) (fid : Nat) (w : Warp) : (s.setWarp fid w).bad = s.bad := rfl
@[simp] theorem State.setWarp_hdmBase (s : State) (fid : Nat) (w : Warp) : (s.setWarp fid w).hdmBase = s.hdmBase := rfl
@[simp] theorem State.setWarp_launches (s : State) (fid : Nat) (w : Warp) : (s.setWarp fid w).launches = s.launches := rfl
@[simp] theorem State.setWarp_parts (s : State) (fid : Nat) (w : Warp) : (s.setWarp fid w).parts = s.parts := rfl
@[simp] theorem State.setWarp_tags (s : State) (fid : Nat) (w : Warp) : (s.setWarp fid w).tags = s.tags := rfl
@[simp] theorem State.setWarp_bays (s : State) (fid : Nat) (w : Warp) : (s.setWarp fid w).bays = s.bays := rfl
@[simp] theorem State.setWarp_dies (s : State) (fid : Nat) (w : Warp) : (s.setWarp fid w).dies = s.dies := rfl
@[simp] theorem State.setWarp_copies (s : State) (fid : Nat) (w : Warp) : (s.setWarp fid w).copies = s.copies := rfl
@[simp] theorem State.setWarp_ftops (s : State) (fid : Nat) (w : Warp) : (s.setWarp fid w).ftops = s.ftops := rfl
@[simp] theorem State.setWarp_deps (s : State) (fid : Nat) (w : Warp) : (s.setWarp fid w).deps = s.deps := rfl
@[simp] theorem State.setWarp_pages (s : State) (fid : Nat) (w : Warp) : (s.setWarp fid w).pages = s.pages := rfl
@[simp] theorem State.setWarp_circles (s : State) (fid : Nat) (w : Warp) : (s.setWarp fid w).circles = s.circles := rfl
@[simp] theorem State.setWarp_tlb (s : State) (fid : Nat) (w : Warp) : (s.setWarp fid w).tlb = s.tlb := rfl
@[simp] theorem State.setWarp_planbase (s : State) (fid : Nat) (w : Warp) : (s.setWarp fid w).planbase = s.planbase := rfl
@[simp] theorem State.setWarp_touched (s : State) (fid : Nat) (w : Warp) : (s.setWarp fid w).touched = s.touched := rfl
@[simp] theorem State.setWarp_ports (s : State) (fid : Nat) (w : Warp) : (s.setWarp fid w).ports = s.ports := rfl
@[simp] theorem State.setWarp_scribe (s : State) (fid : Nat) (w : Warp) : (s.setWarp fid w).scribe = s.scribe := rfl
@[simp] theorem State.setWarp_bootstat (s : State) (fid : Nat) (w : Warp) : (s.setWarp fid w).bootstat = s.bootstat := rfl
@[simp] theorem State.setWarp_meas (s : State) (fid : Nat) (w : Warp) : (s.setWarp fid w).meas = s.meas := rfl
@[simp] theorem State.setWarp_boots (s : State) (fid : Nat) (w : Warp) : (s.setWarp fid w).boots = s.boots := rfl
@[simp] theorem State.setWarp_tdis (s : State) (fid : Nat) (w : Warp) : (s.setWarp fid w).tdis = s.tdis := rfl
@[simp] theorem State.setWarp_spdm (s : State) (fid : Nat) (w : Warp) : (s.setWarp fid w).spdm = s.spdm := rfl
@[simp] theorem State.setWarp_felzen (s : State) (fid : Nat) (w : Warp) : (s.setWarp fid w).felzen = s.felzen := rfl
@[simp] theorem State.setWarp_linksDown (s : State) (fid : Nat) (w : Warp) : (s.setWarp fid w).linksDown = s.linksDown := rfl
@[simp] theorem State.setWarp_strays (s : State) (fid : Nat) (w : Warp) : (s.setWarp fid w).strays = s.strays := rfl
@[simp] theorem State.setWarp_reply (s : State) (fid : Nat) (w : Warp) : (s.setWarp fid w).reply = s.reply := rfl
@[simp] theorem State.setWarp_seals (s : State) (fid : Nat) (w : Warp) : (s.setWarp fid w).seals = s.seals := rfl

/-! ### `State.modWarp` -/

@[simp] theorem State.modWarp_now (s : State) (i : WarpId) (g : Warp → Warp) : (s.modWarp i g).now = s.now := rfl
@[simp] theorem State.modWarp_cur (s : State) (i : WarpId) (g : Warp → Warp) : (s.modWarp i g).cur = s.cur := rfl
@[simp] theorem State.modWarp_agenda (s : State) (i : WarpId) (g : Warp → Warp) : (s.modWarp i g).agenda = s.agenda := rfl
@[simp] theorem State.modWarp_fresh (s : State) (i : WarpId) (g : Warp → Warp) : (s.modWarp i g).fresh = s.fresh := rfl
@[simp] theorem State.modWarp_mem (s : State) (i : WarpId) (g : Warp → Warp) : (s.modWarp i g).mem = s.mem := rfl
@[simp] theorem State.modWarp_bad (s : State) (i : WarpId) (g : Warp → Warp) : (s.modWarp i g).bad = s.bad := rfl
@[simp] theorem State.modWarp_hdmBase (s : State) (i : WarpId) (g : Warp → Warp) : (s.modWarp i g).hdmBase = s.hdmBase := rfl
@[simp] theorem State.modWarp_launches (s : State) (i : WarpId) (g : Warp → Warp) : (s.modWarp i g).launches = s.launches := rfl
@[simp] theorem State.modWarp_parts (s : State) (i : WarpId) (g : Warp → Warp) : (s.modWarp i g).parts = s.parts := rfl
@[simp] theorem State.modWarp_tags (s : State) (i : WarpId) (g : Warp → Warp) : (s.modWarp i g).tags = s.tags := rfl
@[simp] theorem State.modWarp_bays (s : State) (i : WarpId) (g : Warp → Warp) : (s.modWarp i g).bays = s.bays := rfl
@[simp] theorem State.modWarp_dies (s : State) (i : WarpId) (g : Warp → Warp) : (s.modWarp i g).dies = s.dies := rfl
@[simp] theorem State.modWarp_copies (s : State) (i : WarpId) (g : Warp → Warp) : (s.modWarp i g).copies = s.copies := rfl
@[simp] theorem State.modWarp_ftops (s : State) (i : WarpId) (g : Warp → Warp) : (s.modWarp i g).ftops = s.ftops := rfl
@[simp] theorem State.modWarp_deps (s : State) (i : WarpId) (g : Warp → Warp) : (s.modWarp i g).deps = s.deps := rfl
@[simp] theorem State.modWarp_pages (s : State) (i : WarpId) (g : Warp → Warp) : (s.modWarp i g).pages = s.pages := rfl
@[simp] theorem State.modWarp_circles (s : State) (i : WarpId) (g : Warp → Warp) : (s.modWarp i g).circles = s.circles := rfl
@[simp] theorem State.modWarp_tlb (s : State) (i : WarpId) (g : Warp → Warp) : (s.modWarp i g).tlb = s.tlb := rfl
@[simp] theorem State.modWarp_planbase (s : State) (i : WarpId) (g : Warp → Warp) : (s.modWarp i g).planbase = s.planbase := rfl
@[simp] theorem State.modWarp_touched (s : State) (i : WarpId) (g : Warp → Warp) : (s.modWarp i g).touched = s.touched := rfl
@[simp] theorem State.modWarp_ports (s : State) (i : WarpId) (g : Warp → Warp) : (s.modWarp i g).ports = s.ports := rfl
@[simp] theorem State.modWarp_scribe (s : State) (i : WarpId) (g : Warp → Warp) : (s.modWarp i g).scribe = s.scribe := rfl
@[simp] theorem State.modWarp_bootstat (s : State) (i : WarpId) (g : Warp → Warp) : (s.modWarp i g).bootstat = s.bootstat := rfl
@[simp] theorem State.modWarp_meas (s : State) (i : WarpId) (g : Warp → Warp) : (s.modWarp i g).meas = s.meas := rfl
@[simp] theorem State.modWarp_boots (s : State) (i : WarpId) (g : Warp → Warp) : (s.modWarp i g).boots = s.boots := rfl
@[simp] theorem State.modWarp_tdis (s : State) (i : WarpId) (g : Warp → Warp) : (s.modWarp i g).tdis = s.tdis := rfl
@[simp] theorem State.modWarp_spdm (s : State) (i : WarpId) (g : Warp → Warp) : (s.modWarp i g).spdm = s.spdm := rfl
@[simp] theorem State.modWarp_felzen (s : State) (i : WarpId) (g : Warp → Warp) : (s.modWarp i g).felzen = s.felzen := rfl
@[simp] theorem State.modWarp_linksDown (s : State) (i : WarpId) (g : Warp → Warp) : (s.modWarp i g).linksDown = s.linksDown := rfl
@[simp] theorem State.modWarp_strays (s : State) (i : WarpId) (g : Warp → Warp) : (s.modWarp i g).strays = s.strays := rfl
@[simp] theorem State.modWarp_reply (s : State) (i : WarpId) (g : Warp → Warp) : (s.modWarp i g).reply = s.reply := rfl
@[simp] theorem State.modWarp_seals (s : State) (i : WarpId) (g : Warp → Warp) : (s.modWarp i g).seals = s.seals := rfl

/-! ### `State.setBay` -/

@[simp] theorem State.setBay_now (s : State) (b : Nat) (x : Bay) : (s.setBay b x).now = s.now := rfl
@[simp] theorem State.setBay_cur (s : State) (b : Nat) (x : Bay) : (s.setBay b x).cur = s.cur := rfl
@[simp] theorem State.setBay_agenda (s : State) (b : Nat) (x : Bay) : (s.setBay b x).agenda = s.agenda := rfl
@[simp] theorem State.setBay_fresh (s : State) (b : Nat) (x : Bay) : (s.setBay b x).fresh = s.fresh := rfl
@[simp] theorem State.setBay_mem (s : State) (b : Nat) (x : Bay) : (s.setBay b x).mem = s.mem := rfl
@[simp] theorem State.setBay_bad (s : State) (b : Nat) (x : Bay) : (s.setBay b x).bad = s.bad := rfl
@[simp] theorem State.setBay_hdmBase (s : State) (b : Nat) (x : Bay) : (s.setBay b x).hdmBase = s.hdmBase := rfl
@[simp] theorem State.setBay_frames (s : State) (b : Nat) (x : Bay) : (s.setBay b x).frames = s.frames := rfl
@[simp] theorem State.setBay_launches (s : State) (b : Nat) (x : Bay) : (s.setBay b x).launches = s.launches := rfl
@[simp] theorem State.setBay_parts (s : State) (b : Nat) (x : Bay) : (s.setBay b x).parts = s.parts := rfl
@[simp] theorem State.setBay_tags (s : State) (b : Nat) (x : Bay) : (s.setBay b x).tags = s.tags := rfl
@[simp] theorem State.setBay_dies (s : State) (b : Nat) (x : Bay) : (s.setBay b x).dies = s.dies := rfl
@[simp] theorem State.setBay_copies (s : State) (b : Nat) (x : Bay) : (s.setBay b x).copies = s.copies := rfl
@[simp] theorem State.setBay_ftops (s : State) (b : Nat) (x : Bay) : (s.setBay b x).ftops = s.ftops := rfl
@[simp] theorem State.setBay_deps (s : State) (b : Nat) (x : Bay) : (s.setBay b x).deps = s.deps := rfl
@[simp] theorem State.setBay_pages (s : State) (b : Nat) (x : Bay) : (s.setBay b x).pages = s.pages := rfl
@[simp] theorem State.setBay_circles (s : State) (b : Nat) (x : Bay) : (s.setBay b x).circles = s.circles := rfl
@[simp] theorem State.setBay_tlb (s : State) (b : Nat) (x : Bay) : (s.setBay b x).tlb = s.tlb := rfl
@[simp] theorem State.setBay_planbase (s : State) (b : Nat) (x : Bay) : (s.setBay b x).planbase = s.planbase := rfl
@[simp] theorem State.setBay_touched (s : State) (b : Nat) (x : Bay) : (s.setBay b x).touched = s.touched := rfl
@[simp] theorem State.setBay_ports (s : State) (b : Nat) (x : Bay) : (s.setBay b x).ports = s.ports := rfl
@[simp] theorem State.setBay_scribe (s : State) (b : Nat) (x : Bay) : (s.setBay b x).scribe = s.scribe := rfl
@[simp] theorem State.setBay_bootstat (s : State) (b : Nat) (x : Bay) : (s.setBay b x).bootstat = s.bootstat := rfl
@[simp] theorem State.setBay_meas (s : State) (b : Nat) (x : Bay) : (s.setBay b x).meas = s.meas := rfl
@[simp] theorem State.setBay_boots (s : State) (b : Nat) (x : Bay) : (s.setBay b x).boots = s.boots := rfl
@[simp] theorem State.setBay_tdis (s : State) (b : Nat) (x : Bay) : (s.setBay b x).tdis = s.tdis := rfl
@[simp] theorem State.setBay_spdm (s : State) (b : Nat) (x : Bay) : (s.setBay b x).spdm = s.spdm := rfl
@[simp] theorem State.setBay_felzen (s : State) (b : Nat) (x : Bay) : (s.setBay b x).felzen = s.felzen := rfl
@[simp] theorem State.setBay_linksDown (s : State) (b : Nat) (x : Bay) : (s.setBay b x).linksDown = s.linksDown := rfl
@[simp] theorem State.setBay_strays (s : State) (b : Nat) (x : Bay) : (s.setBay b x).strays = s.strays := rfl
@[simp] theorem State.setBay_reply (s : State) (b : Nat) (x : Bay) : (s.setBay b x).reply = s.reply := rfl
@[simp] theorem State.setBay_seals (s : State) (b : Nat) (x : Bay) : (s.setBay b x).seals = s.seals := rfl

/-! ### `State.setDie` -/

@[simp] theorem State.setDie_now (s : State) (d : Nat) (x : Die) : (s.setDie d x).now = s.now := rfl
@[simp] theorem State.setDie_cur (s : State) (d : Nat) (x : Die) : (s.setDie d x).cur = s.cur := rfl
@[simp] theorem State.setDie_agenda (s : State) (d : Nat) (x : Die) : (s.setDie d x).agenda = s.agenda := rfl
@[simp] theorem State.setDie_fresh (s : State) (d : Nat) (x : Die) : (s.setDie d x).fresh = s.fresh := rfl
@[simp] theorem State.setDie_mem (s : State) (d : Nat) (x : Die) : (s.setDie d x).mem = s.mem := rfl
@[simp] theorem State.setDie_bad (s : State) (d : Nat) (x : Die) : (s.setDie d x).bad = s.bad := rfl
@[simp] theorem State.setDie_hdmBase (s : State) (d : Nat) (x : Die) : (s.setDie d x).hdmBase = s.hdmBase := rfl
@[simp] theorem State.setDie_frames (s : State) (d : Nat) (x : Die) : (s.setDie d x).frames = s.frames := rfl
@[simp] theorem State.setDie_launches (s : State) (d : Nat) (x : Die) : (s.setDie d x).launches = s.launches := rfl
@[simp] theorem State.setDie_parts (s : State) (d : Nat) (x : Die) : (s.setDie d x).parts = s.parts := rfl
@[simp] theorem State.setDie_tags (s : State) (d : Nat) (x : Die) : (s.setDie d x).tags = s.tags := rfl
@[simp] theorem State.setDie_bays (s : State) (d : Nat) (x : Die) : (s.setDie d x).bays = s.bays := rfl
@[simp] theorem State.setDie_copies (s : State) (d : Nat) (x : Die) : (s.setDie d x).copies = s.copies := rfl
@[simp] theorem State.setDie_ftops (s : State) (d : Nat) (x : Die) : (s.setDie d x).ftops = s.ftops := rfl
@[simp] theorem State.setDie_deps (s : State) (d : Nat) (x : Die) : (s.setDie d x).deps = s.deps := rfl
@[simp] theorem State.setDie_pages (s : State) (d : Nat) (x : Die) : (s.setDie d x).pages = s.pages := rfl
@[simp] theorem State.setDie_circles (s : State) (d : Nat) (x : Die) : (s.setDie d x).circles = s.circles := rfl
@[simp] theorem State.setDie_tlb (s : State) (d : Nat) (x : Die) : (s.setDie d x).tlb = s.tlb := rfl
@[simp] theorem State.setDie_planbase (s : State) (d : Nat) (x : Die) : (s.setDie d x).planbase = s.planbase := rfl
@[simp] theorem State.setDie_touched (s : State) (d : Nat) (x : Die) : (s.setDie d x).touched = s.touched := rfl
@[simp] theorem State.setDie_ports (s : State) (d : Nat) (x : Die) : (s.setDie d x).ports = s.ports := rfl
@[simp] theorem State.setDie_scribe (s : State) (d : Nat) (x : Die) : (s.setDie d x).scribe = s.scribe := rfl
@[simp] theorem State.setDie_bootstat (s : State) (d : Nat) (x : Die) : (s.setDie d x).bootstat = s.bootstat := rfl
@[simp] theorem State.setDie_meas (s : State) (d : Nat) (x : Die) : (s.setDie d x).meas = s.meas := rfl
@[simp] theorem State.setDie_boots (s : State) (d : Nat) (x : Die) : (s.setDie d x).boots = s.boots := rfl
@[simp] theorem State.setDie_tdis (s : State) (d : Nat) (x : Die) : (s.setDie d x).tdis = s.tdis := rfl
@[simp] theorem State.setDie_spdm (s : State) (d : Nat) (x : Die) : (s.setDie d x).spdm = s.spdm := rfl
@[simp] theorem State.setDie_felzen (s : State) (d : Nat) (x : Die) : (s.setDie d x).felzen = s.felzen := rfl
@[simp] theorem State.setDie_linksDown (s : State) (d : Nat) (x : Die) : (s.setDie d x).linksDown = s.linksDown := rfl
@[simp] theorem State.setDie_strays (s : State) (d : Nat) (x : Die) : (s.setDie d x).strays = s.strays := rfl
@[simp] theorem State.setDie_reply (s : State) (d : Nat) (x : Die) : (s.setDie d x).reply = s.reply := rfl
@[simp] theorem State.setDie_seals (s : State) (d : Nat) (x : Die) : (s.setDie d x).seals = s.seals := rfl

/-! ### `State.setTag` -/

@[simp] theorem State.setTag_now (s : State) (core t : Nat) (x : Tag) : (s.setTag core t x).now = s.now := rfl
@[simp] theorem State.setTag_cur (s : State) (core t : Nat) (x : Tag) : (s.setTag core t x).cur = s.cur := rfl
@[simp] theorem State.setTag_agenda (s : State) (core t : Nat) (x : Tag) : (s.setTag core t x).agenda = s.agenda := rfl
@[simp] theorem State.setTag_fresh (s : State) (core t : Nat) (x : Tag) : (s.setTag core t x).fresh = s.fresh := rfl
@[simp] theorem State.setTag_mem (s : State) (core t : Nat) (x : Tag) : (s.setTag core t x).mem = s.mem := rfl
@[simp] theorem State.setTag_bad (s : State) (core t : Nat) (x : Tag) : (s.setTag core t x).bad = s.bad := rfl
@[simp] theorem State.setTag_hdmBase (s : State) (core t : Nat) (x : Tag) : (s.setTag core t x).hdmBase = s.hdmBase := rfl
@[simp] theorem State.setTag_frames (s : State) (core t : Nat) (x : Tag) : (s.setTag core t x).frames = s.frames := rfl
@[simp] theorem State.setTag_launches (s : State) (core t : Nat) (x : Tag) : (s.setTag core t x).launches = s.launches := rfl
@[simp] theorem State.setTag_parts (s : State) (core t : Nat) (x : Tag) : (s.setTag core t x).parts = s.parts := rfl
@[simp] theorem State.setTag_bays (s : State) (core t : Nat) (x : Tag) : (s.setTag core t x).bays = s.bays := rfl
@[simp] theorem State.setTag_dies (s : State) (core t : Nat) (x : Tag) : (s.setTag core t x).dies = s.dies := rfl
@[simp] theorem State.setTag_copies (s : State) (core t : Nat) (x : Tag) : (s.setTag core t x).copies = s.copies := rfl
@[simp] theorem State.setTag_ftops (s : State) (core t : Nat) (x : Tag) : (s.setTag core t x).ftops = s.ftops := rfl
@[simp] theorem State.setTag_deps (s : State) (core t : Nat) (x : Tag) : (s.setTag core t x).deps = s.deps := rfl
@[simp] theorem State.setTag_pages (s : State) (core t : Nat) (x : Tag) : (s.setTag core t x).pages = s.pages := rfl
@[simp] theorem State.setTag_circles (s : State) (core t : Nat) (x : Tag) : (s.setTag core t x).circles = s.circles := rfl
@[simp] theorem State.setTag_tlb (s : State) (core t : Nat) (x : Tag) : (s.setTag core t x).tlb = s.tlb := rfl
@[simp] theorem State.setTag_planbase (s : State) (core t : Nat) (x : Tag) : (s.setTag core t x).planbase = s.planbase := rfl
@[simp] theorem State.setTag_touched (s : State) (core t : Nat) (x : Tag) : (s.setTag core t x).touched = s.touched := rfl
@[simp] theorem State.setTag_ports (s : State) (core t : Nat) (x : Tag) : (s.setTag core t x).ports = s.ports := rfl
@[simp] theorem State.setTag_scribe (s : State) (core t : Nat) (x : Tag) : (s.setTag core t x).scribe = s.scribe := rfl
@[simp] theorem State.setTag_bootstat (s : State) (core t : Nat) (x : Tag) : (s.setTag core t x).bootstat = s.bootstat := rfl
@[simp] theorem State.setTag_meas (s : State) (core t : Nat) (x : Tag) : (s.setTag core t x).meas = s.meas := rfl
@[simp] theorem State.setTag_boots (s : State) (core t : Nat) (x : Tag) : (s.setTag core t x).boots = s.boots := rfl
@[simp] theorem State.setTag_tdis (s : State) (core t : Nat) (x : Tag) : (s.setTag core t x).tdis = s.tdis := rfl
@[simp] theorem State.setTag_spdm (s : State) (core t : Nat) (x : Tag) : (s.setTag core t x).spdm = s.spdm := rfl
@[simp] theorem State.setTag_felzen (s : State) (core t : Nat) (x : Tag) : (s.setTag core t x).felzen = s.felzen := rfl
@[simp] theorem State.setTag_linksDown (s : State) (core t : Nat) (x : Tag) : (s.setTag core t x).linksDown = s.linksDown := rfl
@[simp] theorem State.setTag_strays (s : State) (core t : Nat) (x : Tag) : (s.setTag core t x).strays = s.strays := rfl
@[simp] theorem State.setTag_reply (s : State) (core t : Nat) (x : Tag) : (s.setTag core t x).reply = s.reply := rfl
@[simp] theorem State.setTag_seals (s : State) (core t : Nat) (x : Tag) : (s.setTag core t x).seals = s.seals := rfl

/-! ### `State.setPort` -/

@[simp] theorem State.setPort_now (s : State) (p : Nat) (x : Port) : (s.setPort p x).now = s.now := rfl
@[simp] theorem State.setPort_cur (s : State) (p : Nat) (x : Port) : (s.setPort p x).cur = s.cur := rfl
@[simp] theorem State.setPort_agenda (s : State) (p : Nat) (x : Port) : (s.setPort p x).agenda = s.agenda := rfl
@[simp] theorem State.setPort_fresh (s : State) (p : Nat) (x : Port) : (s.setPort p x).fresh = s.fresh := rfl
@[simp] theorem State.setPort_mem (s : State) (p : Nat) (x : Port) : (s.setPort p x).mem = s.mem := rfl
@[simp] theorem State.setPort_bad (s : State) (p : Nat) (x : Port) : (s.setPort p x).bad = s.bad := rfl
@[simp] theorem State.setPort_hdmBase (s : State) (p : Nat) (x : Port) : (s.setPort p x).hdmBase = s.hdmBase := rfl
@[simp] theorem State.setPort_frames (s : State) (p : Nat) (x : Port) : (s.setPort p x).frames = s.frames := rfl
@[simp] theorem State.setPort_launches (s : State) (p : Nat) (x : Port) : (s.setPort p x).launches = s.launches := rfl
@[simp] theorem State.setPort_parts (s : State) (p : Nat) (x : Port) : (s.setPort p x).parts = s.parts := rfl
@[simp] theorem State.setPort_tags (s : State) (p : Nat) (x : Port) : (s.setPort p x).tags = s.tags := rfl
@[simp] theorem State.setPort_bays (s : State) (p : Nat) (x : Port) : (s.setPort p x).bays = s.bays := rfl
@[simp] theorem State.setPort_dies (s : State) (p : Nat) (x : Port) : (s.setPort p x).dies = s.dies := rfl
@[simp] theorem State.setPort_copies (s : State) (p : Nat) (x : Port) : (s.setPort p x).copies = s.copies := rfl
@[simp] theorem State.setPort_ftops (s : State) (p : Nat) (x : Port) : (s.setPort p x).ftops = s.ftops := rfl
@[simp] theorem State.setPort_deps (s : State) (p : Nat) (x : Port) : (s.setPort p x).deps = s.deps := rfl
@[simp] theorem State.setPort_pages (s : State) (p : Nat) (x : Port) : (s.setPort p x).pages = s.pages := rfl
@[simp] theorem State.setPort_circles (s : State) (p : Nat) (x : Port) : (s.setPort p x).circles = s.circles := rfl
@[simp] theorem State.setPort_tlb (s : State) (p : Nat) (x : Port) : (s.setPort p x).tlb = s.tlb := rfl
@[simp] theorem State.setPort_planbase (s : State) (p : Nat) (x : Port) : (s.setPort p x).planbase = s.planbase := rfl
@[simp] theorem State.setPort_touched (s : State) (p : Nat) (x : Port) : (s.setPort p x).touched = s.touched := rfl
@[simp] theorem State.setPort_scribe (s : State) (p : Nat) (x : Port) : (s.setPort p x).scribe = s.scribe := rfl
@[simp] theorem State.setPort_bootstat (s : State) (p : Nat) (x : Port) : (s.setPort p x).bootstat = s.bootstat := rfl
@[simp] theorem State.setPort_meas (s : State) (p : Nat) (x : Port) : (s.setPort p x).meas = s.meas := rfl
@[simp] theorem State.setPort_boots (s : State) (p : Nat) (x : Port) : (s.setPort p x).boots = s.boots := rfl
@[simp] theorem State.setPort_tdis (s : State) (p : Nat) (x : Port) : (s.setPort p x).tdis = s.tdis := rfl
@[simp] theorem State.setPort_spdm (s : State) (p : Nat) (x : Port) : (s.setPort p x).spdm = s.spdm := rfl
@[simp] theorem State.setPort_felzen (s : State) (p : Nat) (x : Port) : (s.setPort p x).felzen = s.felzen := rfl
@[simp] theorem State.setPort_linksDown (s : State) (p : Nat) (x : Port) : (s.setPort p x).linksDown = s.linksDown := rfl
@[simp] theorem State.setPort_strays (s : State) (p : Nat) (x : Port) : (s.setPort p x).strays = s.strays := rfl
@[simp] theorem State.setPort_reply (s : State) (p : Nat) (x : Port) : (s.setPort p x).reply = s.reply := rfl
@[simp] theorem State.setPort_seals (s : State) (p : Nat) (x : Port) : (s.setPort p x).seals = s.seals := rfl

/-! ### `State.tick` -/

@[simp] theorem State.tick_now (s : State) : (s.tick).now = s.now := rfl
@[simp] theorem State.tick_cur (s : State) : (s.tick).cur = s.cur := rfl
@[simp] theorem State.tick_agenda (s : State) : (s.tick).agenda = s.agenda := rfl
@[simp] theorem State.tick_mem (s : State) : (s.tick).mem = s.mem := rfl
@[simp] theorem State.tick_bad (s : State) : (s.tick).bad = s.bad := rfl
@[simp] theorem State.tick_hdmBase (s : State) : (s.tick).hdmBase = s.hdmBase := rfl
@[simp] theorem State.tick_frames (s : State) : (s.tick).frames = s.frames := rfl
@[simp] theorem State.tick_launches (s : State) : (s.tick).launches = s.launches := rfl
@[simp] theorem State.tick_parts (s : State) : (s.tick).parts = s.parts := rfl
@[simp] theorem State.tick_tags (s : State) : (s.tick).tags = s.tags := rfl
@[simp] theorem State.tick_bays (s : State) : (s.tick).bays = s.bays := rfl
@[simp] theorem State.tick_dies (s : State) : (s.tick).dies = s.dies := rfl
@[simp] theorem State.tick_copies (s : State) : (s.tick).copies = s.copies := rfl
@[simp] theorem State.tick_ftops (s : State) : (s.tick).ftops = s.ftops := rfl
@[simp] theorem State.tick_deps (s : State) : (s.tick).deps = s.deps := rfl
@[simp] theorem State.tick_pages (s : State) : (s.tick).pages = s.pages := rfl
@[simp] theorem State.tick_circles (s : State) : (s.tick).circles = s.circles := rfl
@[simp] theorem State.tick_tlb (s : State) : (s.tick).tlb = s.tlb := rfl
@[simp] theorem State.tick_planbase (s : State) : (s.tick).planbase = s.planbase := rfl
@[simp] theorem State.tick_touched (s : State) : (s.tick).touched = s.touched := rfl
@[simp] theorem State.tick_ports (s : State) : (s.tick).ports = s.ports := rfl
@[simp] theorem State.tick_scribe (s : State) : (s.tick).scribe = s.scribe := rfl
@[simp] theorem State.tick_bootstat (s : State) : (s.tick).bootstat = s.bootstat := rfl
@[simp] theorem State.tick_meas (s : State) : (s.tick).meas = s.meas := rfl
@[simp] theorem State.tick_boots (s : State) : (s.tick).boots = s.boots := rfl
@[simp] theorem State.tick_tdis (s : State) : (s.tick).tdis = s.tdis := rfl
@[simp] theorem State.tick_spdm (s : State) : (s.tick).spdm = s.spdm := rfl
@[simp] theorem State.tick_felzen (s : State) : (s.tick).felzen = s.felzen := rfl
@[simp] theorem State.tick_linksDown (s : State) : (s.tick).linksDown = s.linksDown := rfl
@[simp] theorem State.tick_strays (s : State) : (s.tick).strays = s.strays := rfl
@[simp] theorem State.tick_reply (s : State) : (s.tick).reply = s.reply := rfl
@[simp] theorem State.tick_seals (s : State) : (s.tick).seals = s.seals := rfl

/-! ### `State.endIssue` -/

@[simp] theorem State.endIssue_now (s : State) (fid : Nat) (w : Warp) : (s.endIssue fid w).now = s.now := rfl
@[simp] theorem State.endIssue_agenda (s : State) (fid : Nat) (w : Warp) : (s.endIssue fid w).agenda = s.agenda := rfl
@[simp] theorem State.endIssue_fresh (s : State) (fid : Nat) (w : Warp) : (s.endIssue fid w).fresh = s.fresh := rfl
@[simp] theorem State.endIssue_mem (s : State) (fid : Nat) (w : Warp) : (s.endIssue fid w).mem = s.mem := rfl
@[simp] theorem State.endIssue_bad (s : State) (fid : Nat) (w : Warp) : (s.endIssue fid w).bad = s.bad := rfl
@[simp] theorem State.endIssue_hdmBase (s : State) (fid : Nat) (w : Warp) : (s.endIssue fid w).hdmBase = s.hdmBase := rfl
@[simp] theorem State.endIssue_launches (s : State) (fid : Nat) (w : Warp) : (s.endIssue fid w).launches = s.launches := rfl
@[simp] theorem State.endIssue_parts (s : State) (fid : Nat) (w : Warp) : (s.endIssue fid w).parts = s.parts := rfl
@[simp] theorem State.endIssue_tags (s : State) (fid : Nat) (w : Warp) : (s.endIssue fid w).tags = s.tags := rfl
@[simp] theorem State.endIssue_bays (s : State) (fid : Nat) (w : Warp) : (s.endIssue fid w).bays = s.bays := rfl
@[simp] theorem State.endIssue_dies (s : State) (fid : Nat) (w : Warp) : (s.endIssue fid w).dies = s.dies := rfl
@[simp] theorem State.endIssue_copies (s : State) (fid : Nat) (w : Warp) : (s.endIssue fid w).copies = s.copies := rfl
@[simp] theorem State.endIssue_ftops (s : State) (fid : Nat) (w : Warp) : (s.endIssue fid w).ftops = s.ftops := rfl
@[simp] theorem State.endIssue_deps (s : State) (fid : Nat) (w : Warp) : (s.endIssue fid w).deps = s.deps := rfl
@[simp] theorem State.endIssue_pages (s : State) (fid : Nat) (w : Warp) : (s.endIssue fid w).pages = s.pages := rfl
@[simp] theorem State.endIssue_circles (s : State) (fid : Nat) (w : Warp) : (s.endIssue fid w).circles = s.circles := rfl
@[simp] theorem State.endIssue_tlb (s : State) (fid : Nat) (w : Warp) : (s.endIssue fid w).tlb = s.tlb := rfl
@[simp] theorem State.endIssue_planbase (s : State) (fid : Nat) (w : Warp) : (s.endIssue fid w).planbase = s.planbase := rfl
@[simp] theorem State.endIssue_touched (s : State) (fid : Nat) (w : Warp) : (s.endIssue fid w).touched = s.touched := rfl
@[simp] theorem State.endIssue_ports (s : State) (fid : Nat) (w : Warp) : (s.endIssue fid w).ports = s.ports := rfl
@[simp] theorem State.endIssue_scribe (s : State) (fid : Nat) (w : Warp) : (s.endIssue fid w).scribe = s.scribe := rfl
@[simp] theorem State.endIssue_bootstat (s : State) (fid : Nat) (w : Warp) : (s.endIssue fid w).bootstat = s.bootstat := rfl
@[simp] theorem State.endIssue_meas (s : State) (fid : Nat) (w : Warp) : (s.endIssue fid w).meas = s.meas := rfl
@[simp] theorem State.endIssue_boots (s : State) (fid : Nat) (w : Warp) : (s.endIssue fid w).boots = s.boots := rfl
@[simp] theorem State.endIssue_tdis (s : State) (fid : Nat) (w : Warp) : (s.endIssue fid w).tdis = s.tdis := rfl
@[simp] theorem State.endIssue_spdm (s : State) (fid : Nat) (w : Warp) : (s.endIssue fid w).spdm = s.spdm := rfl
@[simp] theorem State.endIssue_felzen (s : State) (fid : Nat) (w : Warp) : (s.endIssue fid w).felzen = s.felzen := rfl
@[simp] theorem State.endIssue_linksDown (s : State) (fid : Nat) (w : Warp) : (s.endIssue fid w).linksDown = s.linksDown := rfl
@[simp] theorem State.endIssue_strays (s : State) (fid : Nat) (w : Warp) : (s.endIssue fid w).strays = s.strays := rfl
@[simp] theorem State.endIssue_reply (s : State) (fid : Nat) (w : Warp) : (s.endIssue fid w).reply = s.reply := rfl
@[simp] theorem State.endIssue_seals (s : State) (fid : Nat) (w : Warp) : (s.endIssue fid w).seals = s.seals := rfl

/-! ### `State.setTdi` -/

@[simp] theorem State.setTdi_now (s : State) (i : Nat) (x : Tdi) : (s.setTdi i x).now = s.now := rfl
@[simp] theorem State.setTdi_cur (s : State) (i : Nat) (x : Tdi) : (s.setTdi i x).cur = s.cur := rfl
@[simp] theorem State.setTdi_agenda (s : State) (i : Nat) (x : Tdi) : (s.setTdi i x).agenda = s.agenda := rfl
@[simp] theorem State.setTdi_fresh (s : State) (i : Nat) (x : Tdi) : (s.setTdi i x).fresh = s.fresh := rfl
@[simp] theorem State.setTdi_mem (s : State) (i : Nat) (x : Tdi) : (s.setTdi i x).mem = s.mem := rfl
@[simp] theorem State.setTdi_bad (s : State) (i : Nat) (x : Tdi) : (s.setTdi i x).bad = s.bad := rfl
@[simp] theorem State.setTdi_hdmBase (s : State) (i : Nat) (x : Tdi) : (s.setTdi i x).hdmBase = s.hdmBase := rfl
@[simp] theorem State.setTdi_frames (s : State) (i : Nat) (x : Tdi) : (s.setTdi i x).frames = s.frames := rfl
@[simp] theorem State.setTdi_launches (s : State) (i : Nat) (x : Tdi) : (s.setTdi i x).launches = s.launches := rfl
@[simp] theorem State.setTdi_parts (s : State) (i : Nat) (x : Tdi) : (s.setTdi i x).parts = s.parts := rfl
@[simp] theorem State.setTdi_tags (s : State) (i : Nat) (x : Tdi) : (s.setTdi i x).tags = s.tags := rfl
@[simp] theorem State.setTdi_bays (s : State) (i : Nat) (x : Tdi) : (s.setTdi i x).bays = s.bays := rfl
@[simp] theorem State.setTdi_dies (s : State) (i : Nat) (x : Tdi) : (s.setTdi i x).dies = s.dies := rfl
@[simp] theorem State.setTdi_copies (s : State) (i : Nat) (x : Tdi) : (s.setTdi i x).copies = s.copies := rfl
@[simp] theorem State.setTdi_ftops (s : State) (i : Nat) (x : Tdi) : (s.setTdi i x).ftops = s.ftops := rfl
@[simp] theorem State.setTdi_deps (s : State) (i : Nat) (x : Tdi) : (s.setTdi i x).deps = s.deps := rfl
@[simp] theorem State.setTdi_pages (s : State) (i : Nat) (x : Tdi) : (s.setTdi i x).pages = s.pages := rfl
@[simp] theorem State.setTdi_circles (s : State) (i : Nat) (x : Tdi) : (s.setTdi i x).circles = s.circles := rfl
@[simp] theorem State.setTdi_tlb (s : State) (i : Nat) (x : Tdi) : (s.setTdi i x).tlb = s.tlb := rfl
@[simp] theorem State.setTdi_planbase (s : State) (i : Nat) (x : Tdi) : (s.setTdi i x).planbase = s.planbase := rfl
@[simp] theorem State.setTdi_touched (s : State) (i : Nat) (x : Tdi) : (s.setTdi i x).touched = s.touched := rfl
@[simp] theorem State.setTdi_ports (s : State) (i : Nat) (x : Tdi) : (s.setTdi i x).ports = s.ports := rfl
@[simp] theorem State.setTdi_scribe (s : State) (i : Nat) (x : Tdi) : (s.setTdi i x).scribe = s.scribe := rfl
@[simp] theorem State.setTdi_bootstat (s : State) (i : Nat) (x : Tdi) : (s.setTdi i x).bootstat = s.bootstat := rfl
@[simp] theorem State.setTdi_meas (s : State) (i : Nat) (x : Tdi) : (s.setTdi i x).meas = s.meas := rfl
@[simp] theorem State.setTdi_boots (s : State) (i : Nat) (x : Tdi) : (s.setTdi i x).boots = s.boots := rfl
@[simp] theorem State.setTdi_spdm (s : State) (i : Nat) (x : Tdi) : (s.setTdi i x).spdm = s.spdm := rfl
@[simp] theorem State.setTdi_felzen (s : State) (i : Nat) (x : Tdi) : (s.setTdi i x).felzen = s.felzen := rfl
@[simp] theorem State.setTdi_linksDown (s : State) (i : Nat) (x : Tdi) : (s.setTdi i x).linksDown = s.linksDown := rfl
@[simp] theorem State.setTdi_strays (s : State) (i : Nat) (x : Tdi) : (s.setTdi i x).strays = s.strays := rfl
@[simp] theorem State.setTdi_reply (s : State) (i : Nat) (x : Tdi) : (s.setTdi i x).reply = s.reply := rfl
@[simp] theorem State.setTdi_seals (s : State) (i : Nat) (x : Tdi) : (s.setTdi i x).seals = s.seals := rfl

/-! ### `State.setProg` -/

@[simp] theorem State.setProg_now (s : State) (i : Nat) (x : ProgObj) : (s.setProg i x).now = s.now := rfl
@[simp] theorem State.setProg_cur (s : State) (i : Nat) (x : ProgObj) : (s.setProg i x).cur = s.cur := rfl
@[simp] theorem State.setProg_agenda (s : State) (i : Nat) (x : ProgObj) : (s.setProg i x).agenda = s.agenda := rfl
@[simp] theorem State.setProg_fresh (s : State) (i : Nat) (x : ProgObj) : (s.setProg i x).fresh = s.fresh := rfl
@[simp] theorem State.setProg_mem (s : State) (i : Nat) (x : ProgObj) : (s.setProg i x).mem = s.mem := rfl
@[simp] theorem State.setProg_bad (s : State) (i : Nat) (x : ProgObj) : (s.setProg i x).bad = s.bad := rfl
@[simp] theorem State.setProg_hdmBase (s : State) (i : Nat) (x : ProgObj) : (s.setProg i x).hdmBase = s.hdmBase := rfl
@[simp] theorem State.setProg_frames (s : State) (i : Nat) (x : ProgObj) : (s.setProg i x).frames = s.frames := rfl
@[simp] theorem State.setProg_launches (s : State) (i : Nat) (x : ProgObj) : (s.setProg i x).launches = s.launches := rfl
@[simp] theorem State.setProg_parts (s : State) (i : Nat) (x : ProgObj) : (s.setProg i x).parts = s.parts := rfl
@[simp] theorem State.setProg_tags (s : State) (i : Nat) (x : ProgObj) : (s.setProg i x).tags = s.tags := rfl
@[simp] theorem State.setProg_bays (s : State) (i : Nat) (x : ProgObj) : (s.setProg i x).bays = s.bays := rfl
@[simp] theorem State.setProg_dies (s : State) (i : Nat) (x : ProgObj) : (s.setProg i x).dies = s.dies := rfl
@[simp] theorem State.setProg_copies (s : State) (i : Nat) (x : ProgObj) : (s.setProg i x).copies = s.copies := rfl
@[simp] theorem State.setProg_ftops (s : State) (i : Nat) (x : ProgObj) : (s.setProg i x).ftops = s.ftops := rfl
@[simp] theorem State.setProg_deps (s : State) (i : Nat) (x : ProgObj) : (s.setProg i x).deps = s.deps := rfl
@[simp] theorem State.setProg_pages (s : State) (i : Nat) (x : ProgObj) : (s.setProg i x).pages = s.pages := rfl
@[simp] theorem State.setProg_circles (s : State) (i : Nat) (x : ProgObj) : (s.setProg i x).circles = s.circles := rfl
@[simp] theorem State.setProg_tlb (s : State) (i : Nat) (x : ProgObj) : (s.setProg i x).tlb = s.tlb := rfl
@[simp] theorem State.setProg_planbase (s : State) (i : Nat) (x : ProgObj) : (s.setProg i x).planbase = s.planbase := rfl
@[simp] theorem State.setProg_touched (s : State) (i : Nat) (x : ProgObj) : (s.setProg i x).touched = s.touched := rfl
@[simp] theorem State.setProg_ports (s : State) (i : Nat) (x : ProgObj) : (s.setProg i x).ports = s.ports := rfl
@[simp] theorem State.setProg_bootstat (s : State) (i : Nat) (x : ProgObj) : (s.setProg i x).bootstat = s.bootstat := rfl
@[simp] theorem State.setProg_meas (s : State) (i : Nat) (x : ProgObj) : (s.setProg i x).meas = s.meas := rfl
@[simp] theorem State.setProg_boots (s : State) (i : Nat) (x : ProgObj) : (s.setProg i x).boots = s.boots := rfl
@[simp] theorem State.setProg_tdis (s : State) (i : Nat) (x : ProgObj) : (s.setProg i x).tdis = s.tdis := rfl
@[simp] theorem State.setProg_spdm (s : State) (i : Nat) (x : ProgObj) : (s.setProg i x).spdm = s.spdm := rfl
@[simp] theorem State.setProg_felzen (s : State) (i : Nat) (x : ProgObj) : (s.setProg i x).felzen = s.felzen := rfl
@[simp] theorem State.setProg_linksDown (s : State) (i : Nat) (x : ProgObj) : (s.setProg i x).linksDown = s.linksDown := rfl
@[simp] theorem State.setProg_strays (s : State) (i : Nat) (x : ProgObj) : (s.setProg i x).strays = s.strays := rfl
@[simp] theorem State.setProg_reply (s : State) (i : Nat) (x : ProgObj) : (s.setProg i x).reply = s.reply := rfl
@[simp] theorem State.setProg_seals (s : State) (i : Nat) (x : ProgObj) : (s.setProg i x).seals = s.seals := rfl

/-! ### `State.setQueue` -/

@[simp] theorem State.setQueue_now (s : State) (i : Nat) (x : QueueObj) : (s.setQueue i x).now = s.now := rfl
@[simp] theorem State.setQueue_cur (s : State) (i : Nat) (x : QueueObj) : (s.setQueue i x).cur = s.cur := rfl
@[simp] theorem State.setQueue_agenda (s : State) (i : Nat) (x : QueueObj) : (s.setQueue i x).agenda = s.agenda := rfl
@[simp] theorem State.setQueue_fresh (s : State) (i : Nat) (x : QueueObj) : (s.setQueue i x).fresh = s.fresh := rfl
@[simp] theorem State.setQueue_mem (s : State) (i : Nat) (x : QueueObj) : (s.setQueue i x).mem = s.mem := rfl
@[simp] theorem State.setQueue_bad (s : State) (i : Nat) (x : QueueObj) : (s.setQueue i x).bad = s.bad := rfl
@[simp] theorem State.setQueue_hdmBase (s : State) (i : Nat) (x : QueueObj) : (s.setQueue i x).hdmBase = s.hdmBase := rfl
@[simp] theorem State.setQueue_frames (s : State) (i : Nat) (x : QueueObj) : (s.setQueue i x).frames = s.frames := rfl
@[simp] theorem State.setQueue_launches (s : State) (i : Nat) (x : QueueObj) : (s.setQueue i x).launches = s.launches := rfl
@[simp] theorem State.setQueue_parts (s : State) (i : Nat) (x : QueueObj) : (s.setQueue i x).parts = s.parts := rfl
@[simp] theorem State.setQueue_tags (s : State) (i : Nat) (x : QueueObj) : (s.setQueue i x).tags = s.tags := rfl
@[simp] theorem State.setQueue_bays (s : State) (i : Nat) (x : QueueObj) : (s.setQueue i x).bays = s.bays := rfl
@[simp] theorem State.setQueue_dies (s : State) (i : Nat) (x : QueueObj) : (s.setQueue i x).dies = s.dies := rfl
@[simp] theorem State.setQueue_copies (s : State) (i : Nat) (x : QueueObj) : (s.setQueue i x).copies = s.copies := rfl
@[simp] theorem State.setQueue_ftops (s : State) (i : Nat) (x : QueueObj) : (s.setQueue i x).ftops = s.ftops := rfl
@[simp] theorem State.setQueue_deps (s : State) (i : Nat) (x : QueueObj) : (s.setQueue i x).deps = s.deps := rfl
@[simp] theorem State.setQueue_pages (s : State) (i : Nat) (x : QueueObj) : (s.setQueue i x).pages = s.pages := rfl
@[simp] theorem State.setQueue_circles (s : State) (i : Nat) (x : QueueObj) : (s.setQueue i x).circles = s.circles := rfl
@[simp] theorem State.setQueue_tlb (s : State) (i : Nat) (x : QueueObj) : (s.setQueue i x).tlb = s.tlb := rfl
@[simp] theorem State.setQueue_planbase (s : State) (i : Nat) (x : QueueObj) : (s.setQueue i x).planbase = s.planbase := rfl
@[simp] theorem State.setQueue_touched (s : State) (i : Nat) (x : QueueObj) : (s.setQueue i x).touched = s.touched := rfl
@[simp] theorem State.setQueue_ports (s : State) (i : Nat) (x : QueueObj) : (s.setQueue i x).ports = s.ports := rfl
@[simp] theorem State.setQueue_bootstat (s : State) (i : Nat) (x : QueueObj) : (s.setQueue i x).bootstat = s.bootstat := rfl
@[simp] theorem State.setQueue_meas (s : State) (i : Nat) (x : QueueObj) : (s.setQueue i x).meas = s.meas := rfl
@[simp] theorem State.setQueue_boots (s : State) (i : Nat) (x : QueueObj) : (s.setQueue i x).boots = s.boots := rfl
@[simp] theorem State.setQueue_tdis (s : State) (i : Nat) (x : QueueObj) : (s.setQueue i x).tdis = s.tdis := rfl
@[simp] theorem State.setQueue_spdm (s : State) (i : Nat) (x : QueueObj) : (s.setQueue i x).spdm = s.spdm := rfl
@[simp] theorem State.setQueue_felzen (s : State) (i : Nat) (x : QueueObj) : (s.setQueue i x).felzen = s.felzen := rfl
@[simp] theorem State.setQueue_linksDown (s : State) (i : Nat) (x : QueueObj) : (s.setQueue i x).linksDown = s.linksDown := rfl
@[simp] theorem State.setQueue_strays (s : State) (i : Nat) (x : QueueObj) : (s.setQueue i x).strays = s.strays := rfl
@[simp] theorem State.setQueue_reply (s : State) (i : Nat) (x : QueueObj) : (s.setQueue i x).reply = s.reply := rfl
@[simp] theorem State.setQueue_seals (s : State) (i : Nat) (x : QueueObj) : (s.setQueue i x).seals = s.seals := rfl

/-! ### `State.setEntry` -/

@[simp] theorem State.setEntry_now (s : State) (kind id : Nat) (x : AbEntry) : (s.setEntry kind id x).now = s.now := by simp only [State.setEntry, State.wr, State.setMem]
@[simp] theorem State.setEntry_cur (s : State) (kind id : Nat) (x : AbEntry) : (s.setEntry kind id x).cur = s.cur := by simp only [State.setEntry, State.wr, State.setMem]
@[simp] theorem State.setEntry_agenda (s : State) (kind id : Nat) (x : AbEntry) : (s.setEntry kind id x).agenda = s.agenda := by simp only [State.setEntry, State.wr, State.setMem]
@[simp] theorem State.setEntry_fresh (s : State) (kind id : Nat) (x : AbEntry) : (s.setEntry kind id x).fresh = s.fresh := by simp only [State.setEntry, State.wr, State.setMem]
@[simp] theorem State.setEntry_bad (s : State) (kind id : Nat) (x : AbEntry) : (s.setEntry kind id x).bad = s.bad := by simp only [State.setEntry, State.wr, State.setMem]
@[simp] theorem State.setEntry_hdmBase (s : State) (kind id : Nat) (x : AbEntry) : (s.setEntry kind id x).hdmBase = s.hdmBase := by simp only [State.setEntry, State.wr, State.setMem]
@[simp] theorem State.setEntry_frames (s : State) (kind id : Nat) (x : AbEntry) : (s.setEntry kind id x).frames = s.frames := by simp only [State.setEntry, State.wr, State.setMem]
@[simp] theorem State.setEntry_launches (s : State) (kind id : Nat) (x : AbEntry) : (s.setEntry kind id x).launches = s.launches := by simp only [State.setEntry, State.wr, State.setMem]
@[simp] theorem State.setEntry_parts (s : State) (kind id : Nat) (x : AbEntry) : (s.setEntry kind id x).parts = s.parts := by simp only [State.setEntry, State.wr, State.setMem]
@[simp] theorem State.setEntry_tags (s : State) (kind id : Nat) (x : AbEntry) : (s.setEntry kind id x).tags = s.tags := by simp only [State.setEntry, State.wr, State.setMem]
@[simp] theorem State.setEntry_bays (s : State) (kind id : Nat) (x : AbEntry) : (s.setEntry kind id x).bays = s.bays := by simp only [State.setEntry, State.wr, State.setMem]
@[simp] theorem State.setEntry_dies (s : State) (kind id : Nat) (x : AbEntry) : (s.setEntry kind id x).dies = s.dies := by simp only [State.setEntry, State.wr, State.setMem]
@[simp] theorem State.setEntry_copies (s : State) (kind id : Nat) (x : AbEntry) : (s.setEntry kind id x).copies = s.copies := by simp only [State.setEntry, State.wr, State.setMem]
@[simp] theorem State.setEntry_ftops (s : State) (kind id : Nat) (x : AbEntry) : (s.setEntry kind id x).ftops = s.ftops := by simp only [State.setEntry, State.wr, State.setMem]
@[simp] theorem State.setEntry_deps (s : State) (kind id : Nat) (x : AbEntry) : (s.setEntry kind id x).deps = s.deps := by simp only [State.setEntry, State.wr, State.setMem]
@[simp] theorem State.setEntry_pages (s : State) (kind id : Nat) (x : AbEntry) : (s.setEntry kind id x).pages = s.pages := by simp only [State.setEntry, State.wr, State.setMem]
@[simp] theorem State.setEntry_circles (s : State) (kind id : Nat) (x : AbEntry) : (s.setEntry kind id x).circles = s.circles := by simp only [State.setEntry, State.wr, State.setMem]
@[simp] theorem State.setEntry_tlb (s : State) (kind id : Nat) (x : AbEntry) : (s.setEntry kind id x).tlb = s.tlb := by simp only [State.setEntry, State.wr, State.setMem]
@[simp] theorem State.setEntry_planbase (s : State) (kind id : Nat) (x : AbEntry) : (s.setEntry kind id x).planbase = s.planbase := by simp only [State.setEntry, State.wr, State.setMem]
@[simp] theorem State.setEntry_touched (s : State) (kind id : Nat) (x : AbEntry) : (s.setEntry kind id x).touched = s.touched := by simp only [State.setEntry, State.wr, State.setMem]
@[simp] theorem State.setEntry_ports (s : State) (kind id : Nat) (x : AbEntry) : (s.setEntry kind id x).ports = s.ports := by simp only [State.setEntry, State.wr, State.setMem]
@[simp] theorem State.setEntry_bootstat (s : State) (kind id : Nat) (x : AbEntry) : (s.setEntry kind id x).bootstat = s.bootstat := by simp only [State.setEntry, State.wr, State.setMem]
@[simp] theorem State.setEntry_meas (s : State) (kind id : Nat) (x : AbEntry) : (s.setEntry kind id x).meas = s.meas := by simp only [State.setEntry, State.wr, State.setMem]
@[simp] theorem State.setEntry_boots (s : State) (kind id : Nat) (x : AbEntry) : (s.setEntry kind id x).boots = s.boots := by simp only [State.setEntry, State.wr, State.setMem]
@[simp] theorem State.setEntry_tdis (s : State) (kind id : Nat) (x : AbEntry) : (s.setEntry kind id x).tdis = s.tdis := by simp only [State.setEntry, State.wr, State.setMem]
@[simp] theorem State.setEntry_spdm (s : State) (kind id : Nat) (x : AbEntry) : (s.setEntry kind id x).spdm = s.spdm := by simp only [State.setEntry, State.wr, State.setMem]
@[simp] theorem State.setEntry_felzen (s : State) (kind id : Nat) (x : AbEntry) : (s.setEntry kind id x).felzen = s.felzen := by simp only [State.setEntry, State.wr, State.setMem]
@[simp] theorem State.setEntry_linksDown (s : State) (kind id : Nat) (x : AbEntry) : (s.setEntry kind id x).linksDown = s.linksDown := by simp only [State.setEntry, State.wr, State.setMem]
@[simp] theorem State.setEntry_strays (s : State) (kind id : Nat) (x : AbEntry) : (s.setEntry kind id x).strays = s.strays := by simp only [State.setEntry, State.wr, State.setMem]
@[simp] theorem State.setEntry_reply (s : State) (kind id : Nat) (x : AbEntry) : (s.setEntry kind id x).reply = s.reply := by simp only [State.setEntry, State.wr, State.setMem]
@[simp] theorem State.setEntry_seals (s : State) (kind id : Nat) (x : AbEntry) : (s.setEntry kind id x).seals = s.seals := by simp only [State.setEntry, State.wr, State.setMem]

/-! ### `State.clk` -/

@[simp] theorem State.clk_cur (s : State) : (s.clk).cur = s.cur := rfl
@[simp] theorem State.clk_agenda (s : State) : (s.clk).agenda = s.agenda := rfl
@[simp] theorem State.clk_fresh (s : State) : (s.clk).fresh = s.fresh := rfl
@[simp] theorem State.clk_mem (s : State) : (s.clk).mem = s.mem := rfl
@[simp] theorem State.clk_bad (s : State) : (s.clk).bad = s.bad := rfl
@[simp] theorem State.clk_hdmBase (s : State) : (s.clk).hdmBase = s.hdmBase := rfl
@[simp] theorem State.clk_frames (s : State) : (s.clk).frames = s.frames := rfl
@[simp] theorem State.clk_launches (s : State) : (s.clk).launches = s.launches := rfl
@[simp] theorem State.clk_parts (s : State) : (s.clk).parts = s.parts := rfl
@[simp] theorem State.clk_tags (s : State) : (s.clk).tags = s.tags := rfl
@[simp] theorem State.clk_bays (s : State) : (s.clk).bays = s.bays := rfl
@[simp] theorem State.clk_dies (s : State) : (s.clk).dies = s.dies := rfl
@[simp] theorem State.clk_copies (s : State) : (s.clk).copies = s.copies := rfl
@[simp] theorem State.clk_ftops (s : State) : (s.clk).ftops = s.ftops := rfl
@[simp] theorem State.clk_deps (s : State) : (s.clk).deps = s.deps := rfl
@[simp] theorem State.clk_pages (s : State) : (s.clk).pages = s.pages := rfl
@[simp] theorem State.clk_circles (s : State) : (s.clk).circles = s.circles := rfl
@[simp] theorem State.clk_tlb (s : State) : (s.clk).tlb = s.tlb := rfl
@[simp] theorem State.clk_planbase (s : State) : (s.clk).planbase = s.planbase := rfl
@[simp] theorem State.clk_touched (s : State) : (s.clk).touched = s.touched := rfl
@[simp] theorem State.clk_ports (s : State) : (s.clk).ports = s.ports := rfl
@[simp] theorem State.clk_scribe (s : State) : (s.clk).scribe = s.scribe := rfl
@[simp] theorem State.clk_bootstat (s : State) : (s.clk).bootstat = s.bootstat := rfl
@[simp] theorem State.clk_meas (s : State) : (s.clk).meas = s.meas := rfl
@[simp] theorem State.clk_boots (s : State) : (s.clk).boots = s.boots := rfl
@[simp] theorem State.clk_tdis (s : State) : (s.clk).tdis = s.tdis := rfl
@[simp] theorem State.clk_spdm (s : State) : (s.clk).spdm = s.spdm := rfl
@[simp] theorem State.clk_felzen (s : State) : (s.clk).felzen = s.felzen := rfl
@[simp] theorem State.clk_linksDown (s : State) : (s.clk).linksDown = s.linksDown := rfl
@[simp] theorem State.clk_strays (s : State) : (s.clk).strays = s.strays := rfl
@[simp] theorem State.clk_reply (s : State) : (s.clk).reply = s.reply := rfl
@[simp] theorem State.clk_seals (s : State) : (s.clk).seals = s.seals := rfl

/-! ### What they write -/

@[simp] theorem State.setMem_mem (s : State) (m : List Host.Cell) : (s.setMem m).mem = m := rfl
@[simp] theorem State.wr_mem (s : State) (a n v : Nat) : (s.wr a n v).mem = writeNat s.mem a n v := rfl
@[simp] theorem State.setBay_bays (s : State) (b : Nat) (x : Bay) : (s.setBay b x).bays = sset {} b x s.bays := rfl
@[simp] theorem State.setDie_dies (s : State) (d : Nat) (x : Die) : (s.setDie d x).dies = sset {} d x s.dies := rfl
@[simp] theorem State.setTag_tags (s : State) (core t : Nat) (x : Tag) : (s.setTag core t x).tags = sset {} (64 * core + t) x s.tags := rfl
@[simp] theorem State.setPort_ports (s : State) (p : Nat) (x : Port) : (s.setPort p x).ports = sset {} p x s.ports := rfl
@[simp] theorem State.tick_fresh (s : State) : s.tick.fresh = s.fresh + 1 := rfl
@[simp] theorem State.clk_now (s : State) : s.clk.now = s.now + 1 := rfl
@[simp] theorem State.endIssue_cur (s : State) (fid : Nat) (w : Warp) : (s.endIssue fid w).cur = none := rfl
@[simp] theorem State.endIssue_frames (s : State) (fid : Nat) (w : Warp) : (s.endIssue fid w).frames = (s.setWarp fid w).frames := rfl

/-! ### `Warp.setLanes` -/

@[simp] theorem Warp.setLanes_idx (w : Warp) (ls : List Lane) : (w.setLanes ls).idx = w.idx := rfl
@[simp] theorem Warp.setLanes_core (w : Warp) (ls : List Lane) : (w.setLanes ls).core = w.core := rfl
@[simp] theorem Warp.setLanes_part (w : Warp) (ls : List Lane) : (w.setLanes ls).part = w.part := rfl
@[simp] theorem Warp.setLanes_slot (w : Warp) (ls : List Lane) : (w.setLanes ls).slot = w.slot := rfl
@[simp] theorem Warp.setLanes_k (w : Warp) (ls : List Lane) : (w.setLanes ls).k = w.k := rfl
@[simp] theorem Warp.setLanes_bankS (w : Warp) (ls : List Lane) : (w.setLanes ls).bankS = w.bankS := rfl
@[simp] theorem Warp.setLanes_bankK (w : Warp) (ls : List Lane) : (w.setLanes ls).bankK = w.bankK := rfl
@[simp] theorem Warp.setLanes_ops (w : Warp) (ls : List Lane) : (w.setLanes ls).ops = w.ops := rfl
@[simp] theorem Warp.setLanes_acc (w : Warp) (ls : List Lane) : (w.setLanes ls).acc = w.acc := rfl
@[simp] theorem Warp.setLanes_errs (w : Warp) (ls : List Lane) : (w.setLanes ls).errs = w.errs := rfl
@[simp] theorem Warp.setLanes_uivec (w : Warp) (ls : List Lane) : (w.setLanes ls).uivec = w.uivec := rfl
@[simp] theorem Warp.setLanes_uitags (w : Warp) (ls : List Lane) : (w.setLanes ls).uitags = w.uitags := rfl
@[simp] theorem Warp.setLanes_uiring (w : Warp) (ls : List Lane) : (w.setLanes ls).uiring = w.uiring := rfl
@[simp] theorem Warp.setLanes_inUi (w : Warp) (ls : List Lane) : (w.setLanes ls).inUi = w.inUi := rfl
@[simp] theorem Warp.setLanes_uim (w : Warp) (ls : List Lane) : (w.setLanes ls).uim = w.uim := rfl
@[simp] theorem Warp.setLanes_dep (w : Warp) (ls : List Lane) : (w.setLanes ls).dep = w.dep := rfl
@[simp] theorem Warp.setLanes_mode (w : Warp) (ls : List Lane) : (w.setLanes ls).mode = w.mode := rfl
@[simp] theorem Warp.setLanes_trapCause (w : Warp) (ls : List Lane) : (w.setLanes ls).trapCause = w.trapCause := rfl
@[simp] theorem Warp.setLanes_trapPc (w : Warp) (ls : List Lane) : (w.setLanes ls).trapPc = w.trapPc := rfl
@[simp] theorem Warp.setLanes_trapVal (w : Warp) (ls : List Lane) : (w.setLanes ls).trapVal = w.trapVal := rfl
@[simp] theorem Warp.setLanes_trap (w : Warp) (ls : List Lane) : (w.setLanes ls).trap = w.trap := rfl
@[simp] theorem Warp.setLanes_nextIssue (w : Warp) (ls : List Lane) : (w.setLanes ls).nextIssue = w.nextIssue := rfl
@[simp] theorem Warp.setLanes_yHint (w : Warp) (ls : List Lane) : (w.setLanes ls).yHint = w.yHint := rfl
@[simp] theorem Warp.setLanes_hold (w : Warp) (ls : List Lane) : (w.setLanes ls).hold = w.hold := rfl
@[simp] theorem Warp.setLanes_burst (w : Warp) (ls : List Lane) : (w.setLanes ls).burst = w.burst := rfl
@[simp] theorem Warp.setLanes_tagCnt (w : Warp) (ls : List Lane) : (w.setLanes ls).tagCnt = w.tagCnt := rfl
@[simp] theorem Warp.setLanes_cpygSeq (w : Warp) (ls : List Lane) : (w.setLanes ls).cpygSeq = w.cpygSeq := rfl
@[simp] theorem Warp.setLanes_run (w : Warp) (ls : List Lane) : (w.setLanes ls).run = w.run := rfl
@[simp] theorem Warp.setLanes_late (w : Warp) (ls : List Lane) : (w.setLanes ls).late = w.late := rfl
@[simp] theorem Warp.setLanes_saveReq (w : Warp) (ls : List Lane) : (w.setLanes ls).saveReq = w.saveReq := rfl
@[simp] theorem Warp.setLanes_stopped (w : Warp) (ls : List Lane) : (w.setLanes ls).stopped = w.stopped := rfl
@[simp] theorem Warp.setLanes_trussFault (w : Warp) (ls : List Lane) : (w.setLanes ls).trussFault = w.trussFault := rfl
@[simp] theorem Warp.setLanes_gone (w : Warp) (ls : List Lane) : (w.setLanes ls).gone = w.gone := rfl
@[simp] theorem Warp.setLanes_wc_v (w : Warp) (ls : List Lane) : (w.setLanes ls).wc.v = w.wc.v := rfl
@[simp] theorem Warp.setLanes_wc_s (w : Warp) (ls : List Lane) : (w.setLanes ls).wc.s = w.wc.s := rfl
@[simp] theorem Warp.setLanes_wc_p (w : Warp) (ls : List Lane) : (w.setLanes ls).wc.p = w.wc.p := rfl
@[simp] theorem Warp.setLanes_wc_satcnt (w : Warp) (ls : List Lane) : (w.setLanes ls).wc.satcnt = w.wc.satcnt := rfl
@[simp] theorem Warp.setLanes_wc_xlane (w : Warp) (ls : List Lane) : (w.setLanes ls).wc.xlane = w.wc.xlane := rfl
@[simp] theorem Warp.setLanes_wc_pend (w : Warp) (ls : List Lane) : (w.setLanes ls).wc.pend = w.wc.pend := rfl

/-! ### `Warp.mapLanes` -/

@[simp] theorem Warp.mapLanes_idx (w : Warp) (set : List Nat) (g : Nat → Lane → Lane) : (w.mapLanes set g).idx = w.idx := rfl
@[simp] theorem Warp.mapLanes_core (w : Warp) (set : List Nat) (g : Nat → Lane → Lane) : (w.mapLanes set g).core = w.core := rfl
@[simp] theorem Warp.mapLanes_part (w : Warp) (set : List Nat) (g : Nat → Lane → Lane) : (w.mapLanes set g).part = w.part := rfl
@[simp] theorem Warp.mapLanes_slot (w : Warp) (set : List Nat) (g : Nat → Lane → Lane) : (w.mapLanes set g).slot = w.slot := rfl
@[simp] theorem Warp.mapLanes_k (w : Warp) (set : List Nat) (g : Nat → Lane → Lane) : (w.mapLanes set g).k = w.k := rfl
@[simp] theorem Warp.mapLanes_bankS (w : Warp) (set : List Nat) (g : Nat → Lane → Lane) : (w.mapLanes set g).bankS = w.bankS := rfl
@[simp] theorem Warp.mapLanes_bankK (w : Warp) (set : List Nat) (g : Nat → Lane → Lane) : (w.mapLanes set g).bankK = w.bankK := rfl
@[simp] theorem Warp.mapLanes_ops (w : Warp) (set : List Nat) (g : Nat → Lane → Lane) : (w.mapLanes set g).ops = w.ops := rfl
@[simp] theorem Warp.mapLanes_acc (w : Warp) (set : List Nat) (g : Nat → Lane → Lane) : (w.mapLanes set g).acc = w.acc := rfl
@[simp] theorem Warp.mapLanes_errs (w : Warp) (set : List Nat) (g : Nat → Lane → Lane) : (w.mapLanes set g).errs = w.errs := rfl
@[simp] theorem Warp.mapLanes_uivec (w : Warp) (set : List Nat) (g : Nat → Lane → Lane) : (w.mapLanes set g).uivec = w.uivec := rfl
@[simp] theorem Warp.mapLanes_uitags (w : Warp) (set : List Nat) (g : Nat → Lane → Lane) : (w.mapLanes set g).uitags = w.uitags := rfl
@[simp] theorem Warp.mapLanes_uiring (w : Warp) (set : List Nat) (g : Nat → Lane → Lane) : (w.mapLanes set g).uiring = w.uiring := rfl
@[simp] theorem Warp.mapLanes_inUi (w : Warp) (set : List Nat) (g : Nat → Lane → Lane) : (w.mapLanes set g).inUi = w.inUi := rfl
@[simp] theorem Warp.mapLanes_uim (w : Warp) (set : List Nat) (g : Nat → Lane → Lane) : (w.mapLanes set g).uim = w.uim := rfl
@[simp] theorem Warp.mapLanes_dep (w : Warp) (set : List Nat) (g : Nat → Lane → Lane) : (w.mapLanes set g).dep = w.dep := rfl
@[simp] theorem Warp.mapLanes_mode (w : Warp) (set : List Nat) (g : Nat → Lane → Lane) : (w.mapLanes set g).mode = w.mode := rfl
@[simp] theorem Warp.mapLanes_trapCause (w : Warp) (set : List Nat) (g : Nat → Lane → Lane) : (w.mapLanes set g).trapCause = w.trapCause := rfl
@[simp] theorem Warp.mapLanes_trapPc (w : Warp) (set : List Nat) (g : Nat → Lane → Lane) : (w.mapLanes set g).trapPc = w.trapPc := rfl
@[simp] theorem Warp.mapLanes_trapVal (w : Warp) (set : List Nat) (g : Nat → Lane → Lane) : (w.mapLanes set g).trapVal = w.trapVal := rfl
@[simp] theorem Warp.mapLanes_trap (w : Warp) (set : List Nat) (g : Nat → Lane → Lane) : (w.mapLanes set g).trap = w.trap := rfl
@[simp] theorem Warp.mapLanes_nextIssue (w : Warp) (set : List Nat) (g : Nat → Lane → Lane) : (w.mapLanes set g).nextIssue = w.nextIssue := rfl
@[simp] theorem Warp.mapLanes_yHint (w : Warp) (set : List Nat) (g : Nat → Lane → Lane) : (w.mapLanes set g).yHint = w.yHint := rfl
@[simp] theorem Warp.mapLanes_hold (w : Warp) (set : List Nat) (g : Nat → Lane → Lane) : (w.mapLanes set g).hold = w.hold := rfl
@[simp] theorem Warp.mapLanes_burst (w : Warp) (set : List Nat) (g : Nat → Lane → Lane) : (w.mapLanes set g).burst = w.burst := rfl
@[simp] theorem Warp.mapLanes_tagCnt (w : Warp) (set : List Nat) (g : Nat → Lane → Lane) : (w.mapLanes set g).tagCnt = w.tagCnt := rfl
@[simp] theorem Warp.mapLanes_cpygSeq (w : Warp) (set : List Nat) (g : Nat → Lane → Lane) : (w.mapLanes set g).cpygSeq = w.cpygSeq := rfl
@[simp] theorem Warp.mapLanes_run (w : Warp) (set : List Nat) (g : Nat → Lane → Lane) : (w.mapLanes set g).run = w.run := rfl
@[simp] theorem Warp.mapLanes_late (w : Warp) (set : List Nat) (g : Nat → Lane → Lane) : (w.mapLanes set g).late = w.late := rfl
@[simp] theorem Warp.mapLanes_saveReq (w : Warp) (set : List Nat) (g : Nat → Lane → Lane) : (w.mapLanes set g).saveReq = w.saveReq := rfl
@[simp] theorem Warp.mapLanes_stopped (w : Warp) (set : List Nat) (g : Nat → Lane → Lane) : (w.mapLanes set g).stopped = w.stopped := rfl
@[simp] theorem Warp.mapLanes_trussFault (w : Warp) (set : List Nat) (g : Nat → Lane → Lane) : (w.mapLanes set g).trussFault = w.trussFault := rfl
@[simp] theorem Warp.mapLanes_gone (w : Warp) (set : List Nat) (g : Nat → Lane → Lane) : (w.mapLanes set g).gone = w.gone := rfl
@[simp] theorem Warp.mapLanes_wc_v (w : Warp) (set : List Nat) (g : Nat → Lane → Lane) : (w.mapLanes set g).wc.v = w.wc.v := rfl
@[simp] theorem Warp.mapLanes_wc_s (w : Warp) (set : List Nat) (g : Nat → Lane → Lane) : (w.mapLanes set g).wc.s = w.wc.s := rfl
@[simp] theorem Warp.mapLanes_wc_p (w : Warp) (set : List Nat) (g : Nat → Lane → Lane) : (w.mapLanes set g).wc.p = w.wc.p := rfl
@[simp] theorem Warp.mapLanes_wc_satcnt (w : Warp) (set : List Nat) (g : Nat → Lane → Lane) : (w.mapLanes set g).wc.satcnt = w.wc.satcnt := rfl
@[simp] theorem Warp.mapLanes_wc_xlane (w : Warp) (set : List Nat) (g : Nat → Lane → Lane) : (w.mapLanes set g).wc.xlane = w.wc.xlane := rfl
@[simp] theorem Warp.mapLanes_wc_pend (w : Warp) (set : List Nat) (g : Nat → Lane → Lane) : (w.mapLanes set g).wc.pend = w.wc.pend := rfl

/-! ### `Warp.mapLive` -/

@[simp] theorem Warp.mapLive_idx (w : Warp) (g : Lane → Lane) : (w.mapLive g).idx = w.idx := rfl
@[simp] theorem Warp.mapLive_core (w : Warp) (g : Lane → Lane) : (w.mapLive g).core = w.core := rfl
@[simp] theorem Warp.mapLive_part (w : Warp) (g : Lane → Lane) : (w.mapLive g).part = w.part := rfl
@[simp] theorem Warp.mapLive_slot (w : Warp) (g : Lane → Lane) : (w.mapLive g).slot = w.slot := rfl
@[simp] theorem Warp.mapLive_k (w : Warp) (g : Lane → Lane) : (w.mapLive g).k = w.k := rfl
@[simp] theorem Warp.mapLive_bankS (w : Warp) (g : Lane → Lane) : (w.mapLive g).bankS = w.bankS := rfl
@[simp] theorem Warp.mapLive_bankK (w : Warp) (g : Lane → Lane) : (w.mapLive g).bankK = w.bankK := rfl
@[simp] theorem Warp.mapLive_ops (w : Warp) (g : Lane → Lane) : (w.mapLive g).ops = w.ops := rfl
@[simp] theorem Warp.mapLive_acc (w : Warp) (g : Lane → Lane) : (w.mapLive g).acc = w.acc := rfl
@[simp] theorem Warp.mapLive_errs (w : Warp) (g : Lane → Lane) : (w.mapLive g).errs = w.errs := rfl
@[simp] theorem Warp.mapLive_uivec (w : Warp) (g : Lane → Lane) : (w.mapLive g).uivec = w.uivec := rfl
@[simp] theorem Warp.mapLive_uitags (w : Warp) (g : Lane → Lane) : (w.mapLive g).uitags = w.uitags := rfl
@[simp] theorem Warp.mapLive_uiring (w : Warp) (g : Lane → Lane) : (w.mapLive g).uiring = w.uiring := rfl
@[simp] theorem Warp.mapLive_inUi (w : Warp) (g : Lane → Lane) : (w.mapLive g).inUi = w.inUi := rfl
@[simp] theorem Warp.mapLive_uim (w : Warp) (g : Lane → Lane) : (w.mapLive g).uim = w.uim := rfl
@[simp] theorem Warp.mapLive_dep (w : Warp) (g : Lane → Lane) : (w.mapLive g).dep = w.dep := rfl
@[simp] theorem Warp.mapLive_mode (w : Warp) (g : Lane → Lane) : (w.mapLive g).mode = w.mode := rfl
@[simp] theorem Warp.mapLive_trapCause (w : Warp) (g : Lane → Lane) : (w.mapLive g).trapCause = w.trapCause := rfl
@[simp] theorem Warp.mapLive_trapPc (w : Warp) (g : Lane → Lane) : (w.mapLive g).trapPc = w.trapPc := rfl
@[simp] theorem Warp.mapLive_trapVal (w : Warp) (g : Lane → Lane) : (w.mapLive g).trapVal = w.trapVal := rfl
@[simp] theorem Warp.mapLive_trap (w : Warp) (g : Lane → Lane) : (w.mapLive g).trap = w.trap := rfl
@[simp] theorem Warp.mapLive_nextIssue (w : Warp) (g : Lane → Lane) : (w.mapLive g).nextIssue = w.nextIssue := rfl
@[simp] theorem Warp.mapLive_yHint (w : Warp) (g : Lane → Lane) : (w.mapLive g).yHint = w.yHint := rfl
@[simp] theorem Warp.mapLive_hold (w : Warp) (g : Lane → Lane) : (w.mapLive g).hold = w.hold := rfl
@[simp] theorem Warp.mapLive_burst (w : Warp) (g : Lane → Lane) : (w.mapLive g).burst = w.burst := rfl
@[simp] theorem Warp.mapLive_tagCnt (w : Warp) (g : Lane → Lane) : (w.mapLive g).tagCnt = w.tagCnt := rfl
@[simp] theorem Warp.mapLive_cpygSeq (w : Warp) (g : Lane → Lane) : (w.mapLive g).cpygSeq = w.cpygSeq := rfl
@[simp] theorem Warp.mapLive_run (w : Warp) (g : Lane → Lane) : (w.mapLive g).run = w.run := rfl
@[simp] theorem Warp.mapLive_late (w : Warp) (g : Lane → Lane) : (w.mapLive g).late = w.late := rfl
@[simp] theorem Warp.mapLive_saveReq (w : Warp) (g : Lane → Lane) : (w.mapLive g).saveReq = w.saveReq := rfl
@[simp] theorem Warp.mapLive_stopped (w : Warp) (g : Lane → Lane) : (w.mapLive g).stopped = w.stopped := rfl
@[simp] theorem Warp.mapLive_trussFault (w : Warp) (g : Lane → Lane) : (w.mapLive g).trussFault = w.trussFault := rfl
@[simp] theorem Warp.mapLive_gone (w : Warp) (g : Lane → Lane) : (w.mapLive g).gone = w.gone := rfl
@[simp] theorem Warp.mapLive_wc_v (w : Warp) (g : Lane → Lane) : (w.mapLive g).wc.v = w.wc.v := rfl
@[simp] theorem Warp.mapLive_wc_s (w : Warp) (g : Lane → Lane) : (w.mapLive g).wc.s = w.wc.s := rfl
@[simp] theorem Warp.mapLive_wc_p (w : Warp) (g : Lane → Lane) : (w.mapLive g).wc.p = w.wc.p := rfl
@[simp] theorem Warp.mapLive_wc_satcnt (w : Warp) (g : Lane → Lane) : (w.mapLive g).wc.satcnt = w.wc.satcnt := rfl
@[simp] theorem Warp.mapLive_wc_xlane (w : Warp) (g : Lane → Lane) : (w.mapLive g).wc.xlane = w.wc.xlane := rfl
@[simp] theorem Warp.mapLive_wc_pend (w : Warp) (g : Lane → Lane) : (w.mapLive g).wc.pend = w.wc.pend := rfl

/-! ### `Warp.count` -/

@[simp] theorem Warp.count_idx (w : Warp) (n : Nat) : (w.count n).idx = w.idx := rfl
@[simp] theorem Warp.count_core (w : Warp) (n : Nat) : (w.count n).core = w.core := rfl
@[simp] theorem Warp.count_part (w : Warp) (n : Nat) : (w.count n).part = w.part := rfl
@[simp] theorem Warp.count_slot (w : Warp) (n : Nat) : (w.count n).slot = w.slot := rfl
@[simp] theorem Warp.count_k (w : Warp) (n : Nat) : (w.count n).k = w.k := rfl
@[simp] theorem Warp.count_bankS (w : Warp) (n : Nat) : (w.count n).bankS = w.bankS := rfl
@[simp] theorem Warp.count_bankK (w : Warp) (n : Nat) : (w.count n).bankK = w.bankK := rfl
@[simp] theorem Warp.count_ops (w : Warp) (n : Nat) : (w.count n).ops = w.ops := rfl
@[simp] theorem Warp.count_acc (w : Warp) (n : Nat) : (w.count n).acc = w.acc := rfl
@[simp] theorem Warp.count_errs (w : Warp) (n : Nat) : (w.count n).errs = w.errs := rfl
@[simp] theorem Warp.count_uivec (w : Warp) (n : Nat) : (w.count n).uivec = w.uivec := rfl
@[simp] theorem Warp.count_uitags (w : Warp) (n : Nat) : (w.count n).uitags = w.uitags := rfl
@[simp] theorem Warp.count_uiring (w : Warp) (n : Nat) : (w.count n).uiring = w.uiring := rfl
@[simp] theorem Warp.count_inUi (w : Warp) (n : Nat) : (w.count n).inUi = w.inUi := rfl
@[simp] theorem Warp.count_uim (w : Warp) (n : Nat) : (w.count n).uim = w.uim := rfl
@[simp] theorem Warp.count_dep (w : Warp) (n : Nat) : (w.count n).dep = w.dep := rfl
@[simp] theorem Warp.count_mode (w : Warp) (n : Nat) : (w.count n).mode = w.mode := rfl
@[simp] theorem Warp.count_trapCause (w : Warp) (n : Nat) : (w.count n).trapCause = w.trapCause := rfl
@[simp] theorem Warp.count_trapPc (w : Warp) (n : Nat) : (w.count n).trapPc = w.trapPc := rfl
@[simp] theorem Warp.count_trapVal (w : Warp) (n : Nat) : (w.count n).trapVal = w.trapVal := rfl
@[simp] theorem Warp.count_trap (w : Warp) (n : Nat) : (w.count n).trap = w.trap := rfl
@[simp] theorem Warp.count_nextIssue (w : Warp) (n : Nat) : (w.count n).nextIssue = w.nextIssue := rfl
@[simp] theorem Warp.count_yHint (w : Warp) (n : Nat) : (w.count n).yHint = w.yHint := rfl
@[simp] theorem Warp.count_hold (w : Warp) (n : Nat) : (w.count n).hold = w.hold := rfl
@[simp] theorem Warp.count_burst (w : Warp) (n : Nat) : (w.count n).burst = w.burst := rfl
@[simp] theorem Warp.count_tagCnt (w : Warp) (n : Nat) : (w.count n).tagCnt = w.tagCnt := rfl
@[simp] theorem Warp.count_cpygSeq (w : Warp) (n : Nat) : (w.count n).cpygSeq = w.cpygSeq := rfl
@[simp] theorem Warp.count_run (w : Warp) (n : Nat) : (w.count n).run = w.run := rfl
@[simp] theorem Warp.count_late (w : Warp) (n : Nat) : (w.count n).late = w.late := rfl
@[simp] theorem Warp.count_saveReq (w : Warp) (n : Nat) : (w.count n).saveReq = w.saveReq := rfl
@[simp] theorem Warp.count_stopped (w : Warp) (n : Nat) : (w.count n).stopped = w.stopped := rfl
@[simp] theorem Warp.count_trussFault (w : Warp) (n : Nat) : (w.count n).trussFault = w.trussFault := rfl
@[simp] theorem Warp.count_gone (w : Warp) (n : Nat) : (w.count n).gone = w.gone := rfl
@[simp] theorem Warp.count_wc_lanes (w : Warp) (n : Nat) : (w.count n).wc.lanes = w.wc.lanes := rfl
@[simp] theorem Warp.count_wc_v (w : Warp) (n : Nat) : (w.count n).wc.v = w.wc.v := rfl
@[simp] theorem Warp.count_wc_s (w : Warp) (n : Nat) : (w.count n).wc.s = w.wc.s := rfl
@[simp] theorem Warp.count_wc_p (w : Warp) (n : Nat) : (w.count n).wc.p = w.wc.p := rfl
@[simp] theorem Warp.count_wc_xlane (w : Warp) (n : Nat) : (w.count n).wc.xlane = w.wc.xlane := rfl
@[simp] theorem Warp.count_wc_pend (w : Warp) (n : Nat) : (w.count n).wc.pend = w.wc.pend := rfl

/-! ### `Warp.flagXlane` -/

@[simp] theorem Warp.flagXlane_idx (w : Warp) (b : Bool) : (w.flagXlane b).idx = w.idx := rfl
@[simp] theorem Warp.flagXlane_core (w : Warp) (b : Bool) : (w.flagXlane b).core = w.core := rfl
@[simp] theorem Warp.flagXlane_part (w : Warp) (b : Bool) : (w.flagXlane b).part = w.part := rfl
@[simp] theorem Warp.flagXlane_slot (w : Warp) (b : Bool) : (w.flagXlane b).slot = w.slot := rfl
@[simp] theorem Warp.flagXlane_k (w : Warp) (b : Bool) : (w.flagXlane b).k = w.k := rfl
@[simp] theorem Warp.flagXlane_bankS (w : Warp) (b : Bool) : (w.flagXlane b).bankS = w.bankS := rfl
@[simp] theorem Warp.flagXlane_bankK (w : Warp) (b : Bool) : (w.flagXlane b).bankK = w.bankK := rfl
@[simp] theorem Warp.flagXlane_ops (w : Warp) (b : Bool) : (w.flagXlane b).ops = w.ops := rfl
@[simp] theorem Warp.flagXlane_acc (w : Warp) (b : Bool) : (w.flagXlane b).acc = w.acc := rfl
@[simp] theorem Warp.flagXlane_errs (w : Warp) (b : Bool) : (w.flagXlane b).errs = w.errs := rfl
@[simp] theorem Warp.flagXlane_uivec (w : Warp) (b : Bool) : (w.flagXlane b).uivec = w.uivec := rfl
@[simp] theorem Warp.flagXlane_uitags (w : Warp) (b : Bool) : (w.flagXlane b).uitags = w.uitags := rfl
@[simp] theorem Warp.flagXlane_uiring (w : Warp) (b : Bool) : (w.flagXlane b).uiring = w.uiring := rfl
@[simp] theorem Warp.flagXlane_inUi (w : Warp) (b : Bool) : (w.flagXlane b).inUi = w.inUi := rfl
@[simp] theorem Warp.flagXlane_uim (w : Warp) (b : Bool) : (w.flagXlane b).uim = w.uim := rfl
@[simp] theorem Warp.flagXlane_dep (w : Warp) (b : Bool) : (w.flagXlane b).dep = w.dep := rfl
@[simp] theorem Warp.flagXlane_mode (w : Warp) (b : Bool) : (w.flagXlane b).mode = w.mode := rfl
@[simp] theorem Warp.flagXlane_trapCause (w : Warp) (b : Bool) : (w.flagXlane b).trapCause = w.trapCause := rfl
@[simp] theorem Warp.flagXlane_trapPc (w : Warp) (b : Bool) : (w.flagXlane b).trapPc = w.trapPc := rfl
@[simp] theorem Warp.flagXlane_trapVal (w : Warp) (b : Bool) : (w.flagXlane b).trapVal = w.trapVal := rfl
@[simp] theorem Warp.flagXlane_trap (w : Warp) (b : Bool) : (w.flagXlane b).trap = w.trap := rfl
@[simp] theorem Warp.flagXlane_nextIssue (w : Warp) (b : Bool) : (w.flagXlane b).nextIssue = w.nextIssue := rfl
@[simp] theorem Warp.flagXlane_yHint (w : Warp) (b : Bool) : (w.flagXlane b).yHint = w.yHint := rfl
@[simp] theorem Warp.flagXlane_hold (w : Warp) (b : Bool) : (w.flagXlane b).hold = w.hold := rfl
@[simp] theorem Warp.flagXlane_burst (w : Warp) (b : Bool) : (w.flagXlane b).burst = w.burst := rfl
@[simp] theorem Warp.flagXlane_tagCnt (w : Warp) (b : Bool) : (w.flagXlane b).tagCnt = w.tagCnt := rfl
@[simp] theorem Warp.flagXlane_cpygSeq (w : Warp) (b : Bool) : (w.flagXlane b).cpygSeq = w.cpygSeq := rfl
@[simp] theorem Warp.flagXlane_run (w : Warp) (b : Bool) : (w.flagXlane b).run = w.run := rfl
@[simp] theorem Warp.flagXlane_late (w : Warp) (b : Bool) : (w.flagXlane b).late = w.late := rfl
@[simp] theorem Warp.flagXlane_saveReq (w : Warp) (b : Bool) : (w.flagXlane b).saveReq = w.saveReq := rfl
@[simp] theorem Warp.flagXlane_stopped (w : Warp) (b : Bool) : (w.flagXlane b).stopped = w.stopped := rfl
@[simp] theorem Warp.flagXlane_trussFault (w : Warp) (b : Bool) : (w.flagXlane b).trussFault = w.trussFault := rfl
@[simp] theorem Warp.flagXlane_gone (w : Warp) (b : Bool) : (w.flagXlane b).gone = w.gone := rfl
@[simp] theorem Warp.flagXlane_wc_lanes (w : Warp) (b : Bool) : (w.flagXlane b).wc.lanes = w.wc.lanes := rfl
@[simp] theorem Warp.flagXlane_wc_v (w : Warp) (b : Bool) : (w.flagXlane b).wc.v = w.wc.v := rfl
@[simp] theorem Warp.flagXlane_wc_s (w : Warp) (b : Bool) : (w.flagXlane b).wc.s = w.wc.s := rfl
@[simp] theorem Warp.flagXlane_wc_p (w : Warp) (b : Bool) : (w.flagXlane b).wc.p = w.wc.p := rfl
@[simp] theorem Warp.flagXlane_wc_satcnt (w : Warp) (b : Bool) : (w.flagXlane b).wc.satcnt = w.wc.satcnt := rfl
@[simp] theorem Warp.flagXlane_wc_pend (w : Warp) (b : Bool) : (w.flagXlane b).wc.pend = w.wc.pend := rfl

/-! ### `Warp.enrol` -/

@[simp] theorem Warp.enrol_idx (w : Warp) (x : CtrOp) : (w.enrol x).idx = w.idx := rfl
@[simp] theorem Warp.enrol_core (w : Warp) (x : CtrOp) : (w.enrol x).core = w.core := rfl
@[simp] theorem Warp.enrol_part (w : Warp) (x : CtrOp) : (w.enrol x).part = w.part := rfl
@[simp] theorem Warp.enrol_slot (w : Warp) (x : CtrOp) : (w.enrol x).slot = w.slot := rfl
@[simp] theorem Warp.enrol_wc (w : Warp) (x : CtrOp) : (w.enrol x).wc = w.wc := rfl
@[simp] theorem Warp.enrol_k (w : Warp) (x : CtrOp) : (w.enrol x).k = w.k := rfl
@[simp] theorem Warp.enrol_bankS (w : Warp) (x : CtrOp) : (w.enrol x).bankS = w.bankS := rfl
@[simp] theorem Warp.enrol_bankK (w : Warp) (x : CtrOp) : (w.enrol x).bankK = w.bankK := rfl
@[simp] theorem Warp.enrol_acc (w : Warp) (x : CtrOp) : (w.enrol x).acc = w.acc := rfl
@[simp] theorem Warp.enrol_errs (w : Warp) (x : CtrOp) : (w.enrol x).errs = w.errs := rfl
@[simp] theorem Warp.enrol_uivec (w : Warp) (x : CtrOp) : (w.enrol x).uivec = w.uivec := rfl
@[simp] theorem Warp.enrol_uitags (w : Warp) (x : CtrOp) : (w.enrol x).uitags = w.uitags := rfl
@[simp] theorem Warp.enrol_uiring (w : Warp) (x : CtrOp) : (w.enrol x).uiring = w.uiring := rfl
@[simp] theorem Warp.enrol_inUi (w : Warp) (x : CtrOp) : (w.enrol x).inUi = w.inUi := rfl
@[simp] theorem Warp.enrol_uim (w : Warp) (x : CtrOp) : (w.enrol x).uim = w.uim := rfl
@[simp] theorem Warp.enrol_dep (w : Warp) (x : CtrOp) : (w.enrol x).dep = w.dep := rfl
@[simp] theorem Warp.enrol_mode (w : Warp) (x : CtrOp) : (w.enrol x).mode = w.mode := rfl
@[simp] theorem Warp.enrol_trapCause (w : Warp) (x : CtrOp) : (w.enrol x).trapCause = w.trapCause := rfl
@[simp] theorem Warp.enrol_trapPc (w : Warp) (x : CtrOp) : (w.enrol x).trapPc = w.trapPc := rfl
@[simp] theorem Warp.enrol_trapVal (w : Warp) (x : CtrOp) : (w.enrol x).trapVal = w.trapVal := rfl
@[simp] theorem Warp.enrol_trap (w : Warp) (x : CtrOp) : (w.enrol x).trap = w.trap := rfl
@[simp] theorem Warp.enrol_nextIssue (w : Warp) (x : CtrOp) : (w.enrol x).nextIssue = w.nextIssue := rfl
@[simp] theorem Warp.enrol_yHint (w : Warp) (x : CtrOp) : (w.enrol x).yHint = w.yHint := rfl
@[simp] theorem Warp.enrol_hold (w : Warp) (x : CtrOp) : (w.enrol x).hold = w.hold := rfl
@[simp] theorem Warp.enrol_burst (w : Warp) (x : CtrOp) : (w.enrol x).burst = w.burst := rfl
@[simp] theorem Warp.enrol_tagCnt (w : Warp) (x : CtrOp) : (w.enrol x).tagCnt = w.tagCnt := rfl
@[simp] theorem Warp.enrol_cpygSeq (w : Warp) (x : CtrOp) : (w.enrol x).cpygSeq = w.cpygSeq := rfl
@[simp] theorem Warp.enrol_run (w : Warp) (x : CtrOp) : (w.enrol x).run = w.run := rfl
@[simp] theorem Warp.enrol_late (w : Warp) (x : CtrOp) : (w.enrol x).late = w.late := rfl
@[simp] theorem Warp.enrol_saveReq (w : Warp) (x : CtrOp) : (w.enrol x).saveReq = w.saveReq := rfl
@[simp] theorem Warp.enrol_stopped (w : Warp) (x : CtrOp) : (w.enrol x).stopped = w.stopped := rfl
@[simp] theorem Warp.enrol_trussFault (w : Warp) (x : CtrOp) : (w.enrol x).trussFault = w.trussFault := rfl
@[simp] theorem Warp.enrol_gone (w : Warp) (x : CtrOp) : (w.enrol x).gone = w.gone := rfl

/-! ### `Warp.clearErr` -/

@[simp] theorem Warp.clearErr_idx (w : Warp) (c : Nat) : (w.clearErr c).idx = w.idx := rfl
@[simp] theorem Warp.clearErr_core (w : Warp) (c : Nat) : (w.clearErr c).core = w.core := rfl
@[simp] theorem Warp.clearErr_part (w : Warp) (c : Nat) : (w.clearErr c).part = w.part := rfl
@[simp] theorem Warp.clearErr_slot (w : Warp) (c : Nat) : (w.clearErr c).slot = w.slot := rfl
@[simp] theorem Warp.clearErr_wc (w : Warp) (c : Nat) : (w.clearErr c).wc = w.wc := rfl
@[simp] theorem Warp.clearErr_k (w : Warp) (c : Nat) : (w.clearErr c).k = w.k := rfl
@[simp] theorem Warp.clearErr_bankS (w : Warp) (c : Nat) : (w.clearErr c).bankS = w.bankS := rfl
@[simp] theorem Warp.clearErr_bankK (w : Warp) (c : Nat) : (w.clearErr c).bankK = w.bankK := rfl
@[simp] theorem Warp.clearErr_ops (w : Warp) (c : Nat) : (w.clearErr c).ops = w.ops := rfl
@[simp] theorem Warp.clearErr_acc (w : Warp) (c : Nat) : (w.clearErr c).acc = w.acc := rfl
@[simp] theorem Warp.clearErr_uivec (w : Warp) (c : Nat) : (w.clearErr c).uivec = w.uivec := rfl
@[simp] theorem Warp.clearErr_uitags (w : Warp) (c : Nat) : (w.clearErr c).uitags = w.uitags := rfl
@[simp] theorem Warp.clearErr_uiring (w : Warp) (c : Nat) : (w.clearErr c).uiring = w.uiring := rfl
@[simp] theorem Warp.clearErr_inUi (w : Warp) (c : Nat) : (w.clearErr c).inUi = w.inUi := rfl
@[simp] theorem Warp.clearErr_uim (w : Warp) (c : Nat) : (w.clearErr c).uim = w.uim := rfl
@[simp] theorem Warp.clearErr_dep (w : Warp) (c : Nat) : (w.clearErr c).dep = w.dep := rfl
@[simp] theorem Warp.clearErr_mode (w : Warp) (c : Nat) : (w.clearErr c).mode = w.mode := rfl
@[simp] theorem Warp.clearErr_trapCause (w : Warp) (c : Nat) : (w.clearErr c).trapCause = w.trapCause := rfl
@[simp] theorem Warp.clearErr_trapPc (w : Warp) (c : Nat) : (w.clearErr c).trapPc = w.trapPc := rfl
@[simp] theorem Warp.clearErr_trapVal (w : Warp) (c : Nat) : (w.clearErr c).trapVal = w.trapVal := rfl
@[simp] theorem Warp.clearErr_trap (w : Warp) (c : Nat) : (w.clearErr c).trap = w.trap := rfl
@[simp] theorem Warp.clearErr_nextIssue (w : Warp) (c : Nat) : (w.clearErr c).nextIssue = w.nextIssue := rfl
@[simp] theorem Warp.clearErr_yHint (w : Warp) (c : Nat) : (w.clearErr c).yHint = w.yHint := rfl
@[simp] theorem Warp.clearErr_hold (w : Warp) (c : Nat) : (w.clearErr c).hold = w.hold := rfl
@[simp] theorem Warp.clearErr_burst (w : Warp) (c : Nat) : (w.clearErr c).burst = w.burst := rfl
@[simp] theorem Warp.clearErr_tagCnt (w : Warp) (c : Nat) : (w.clearErr c).tagCnt = w.tagCnt := rfl
@[simp] theorem Warp.clearErr_cpygSeq (w : Warp) (c : Nat) : (w.clearErr c).cpygSeq = w.cpygSeq := rfl
@[simp] theorem Warp.clearErr_run (w : Warp) (c : Nat) : (w.clearErr c).run = w.run := rfl
@[simp] theorem Warp.clearErr_late (w : Warp) (c : Nat) : (w.clearErr c).late = w.late := rfl
@[simp] theorem Warp.clearErr_saveReq (w : Warp) (c : Nat) : (w.clearErr c).saveReq = w.saveReq := rfl
@[simp] theorem Warp.clearErr_stopped (w : Warp) (c : Nat) : (w.clearErr c).stopped = w.stopped := rfl
@[simp] theorem Warp.clearErr_trussFault (w : Warp) (c : Nat) : (w.clearErr c).trussFault = w.trussFault := rfl
@[simp] theorem Warp.clearErr_gone (w : Warp) (c : Nat) : (w.clearErr c).gone = w.gone := rfl

/-! ### `Warp.stalled` -/

@[simp] theorem Warp.stalled_idx (w : Warp) (now width : Nat) (h : Hdr) : (w.stalled now width h).idx = w.idx := rfl
@[simp] theorem Warp.stalled_core (w : Warp) (now width : Nat) (h : Hdr) : (w.stalled now width h).core = w.core := rfl
@[simp] theorem Warp.stalled_part (w : Warp) (now width : Nat) (h : Hdr) : (w.stalled now width h).part = w.part := rfl
@[simp] theorem Warp.stalled_slot (w : Warp) (now width : Nat) (h : Hdr) : (w.stalled now width h).slot = w.slot := rfl
@[simp] theorem Warp.stalled_wc (w : Warp) (now width : Nat) (h : Hdr) : (w.stalled now width h).wc = w.wc := rfl
@[simp] theorem Warp.stalled_k (w : Warp) (now width : Nat) (h : Hdr) : (w.stalled now width h).k = w.k := rfl
@[simp] theorem Warp.stalled_bankS (w : Warp) (now width : Nat) (h : Hdr) : (w.stalled now width h).bankS = w.bankS := rfl
@[simp] theorem Warp.stalled_bankK (w : Warp) (now width : Nat) (h : Hdr) : (w.stalled now width h).bankK = w.bankK := rfl
@[simp] theorem Warp.stalled_ops (w : Warp) (now width : Nat) (h : Hdr) : (w.stalled now width h).ops = w.ops := rfl
@[simp] theorem Warp.stalled_acc (w : Warp) (now width : Nat) (h : Hdr) : (w.stalled now width h).acc = w.acc := rfl
@[simp] theorem Warp.stalled_errs (w : Warp) (now width : Nat) (h : Hdr) : (w.stalled now width h).errs = w.errs := rfl
@[simp] theorem Warp.stalled_uivec (w : Warp) (now width : Nat) (h : Hdr) : (w.stalled now width h).uivec = w.uivec := rfl
@[simp] theorem Warp.stalled_uitags (w : Warp) (now width : Nat) (h : Hdr) : (w.stalled now width h).uitags = w.uitags := rfl
@[simp] theorem Warp.stalled_uiring (w : Warp) (now width : Nat) (h : Hdr) : (w.stalled now width h).uiring = w.uiring := rfl
@[simp] theorem Warp.stalled_inUi (w : Warp) (now width : Nat) (h : Hdr) : (w.stalled now width h).inUi = w.inUi := rfl
@[simp] theorem Warp.stalled_uim (w : Warp) (now width : Nat) (h : Hdr) : (w.stalled now width h).uim = w.uim := rfl
@[simp] theorem Warp.stalled_dep (w : Warp) (now width : Nat) (h : Hdr) : (w.stalled now width h).dep = w.dep := rfl
@[simp] theorem Warp.stalled_mode (w : Warp) (now width : Nat) (h : Hdr) : (w.stalled now width h).mode = w.mode := rfl
@[simp] theorem Warp.stalled_trapCause (w : Warp) (now width : Nat) (h : Hdr) : (w.stalled now width h).trapCause = w.trapCause := rfl
@[simp] theorem Warp.stalled_trapPc (w : Warp) (now width : Nat) (h : Hdr) : (w.stalled now width h).trapPc = w.trapPc := rfl
@[simp] theorem Warp.stalled_trapVal (w : Warp) (now width : Nat) (h : Hdr) : (w.stalled now width h).trapVal = w.trapVal := rfl
@[simp] theorem Warp.stalled_trap (w : Warp) (now width : Nat) (h : Hdr) : (w.stalled now width h).trap = w.trap := rfl
@[simp] theorem Warp.stalled_hold (w : Warp) (now width : Nat) (h : Hdr) : (w.stalled now width h).hold = w.hold := rfl
@[simp] theorem Warp.stalled_burst (w : Warp) (now width : Nat) (h : Hdr) : (w.stalled now width h).burst = w.burst := rfl
@[simp] theorem Warp.stalled_tagCnt (w : Warp) (now width : Nat) (h : Hdr) : (w.stalled now width h).tagCnt = w.tagCnt := rfl
@[simp] theorem Warp.stalled_cpygSeq (w : Warp) (now width : Nat) (h : Hdr) : (w.stalled now width h).cpygSeq = w.cpygSeq := rfl
@[simp] theorem Warp.stalled_run (w : Warp) (now width : Nat) (h : Hdr) : (w.stalled now width h).run = w.run := rfl
@[simp] theorem Warp.stalled_late (w : Warp) (now width : Nat) (h : Hdr) : (w.stalled now width h).late = w.late := rfl
@[simp] theorem Warp.stalled_saveReq (w : Warp) (now width : Nat) (h : Hdr) : (w.stalled now width h).saveReq = w.saveReq := rfl
@[simp] theorem Warp.stalled_stopped (w : Warp) (now width : Nat) (h : Hdr) : (w.stalled now width h).stopped = w.stopped := rfl
@[simp] theorem Warp.stalled_trussFault (w : Warp) (now width : Nat) (h : Hdr) : (w.stalled now width h).trussFault = w.trussFault := rfl
@[simp] theorem Warp.stalled_gone (w : Warp) (now width : Nat) (h : Hdr) : (w.stalled now width h).gone = w.gone := rfl

/-! ### `Warp.advance` -/

@[simp] theorem Warp.advance_idx (w : Warp) (c : Issue) : (w.advance c).idx = w.idx := rfl
@[simp] theorem Warp.advance_core (w : Warp) (c : Issue) : (w.advance c).core = w.core := rfl
@[simp] theorem Warp.advance_part (w : Warp) (c : Issue) : (w.advance c).part = w.part := rfl
@[simp] theorem Warp.advance_slot (w : Warp) (c : Issue) : (w.advance c).slot = w.slot := rfl
@[simp] theorem Warp.advance_k (w : Warp) (c : Issue) : (w.advance c).k = w.k := rfl
@[simp] theorem Warp.advance_bankS (w : Warp) (c : Issue) : (w.advance c).bankS = w.bankS := rfl
@[simp] theorem Warp.advance_bankK (w : Warp) (c : Issue) : (w.advance c).bankK = w.bankK := rfl
@[simp] theorem Warp.advance_ops (w : Warp) (c : Issue) : (w.advance c).ops = w.ops := rfl
@[simp] theorem Warp.advance_acc (w : Warp) (c : Issue) : (w.advance c).acc = w.acc := rfl
@[simp] theorem Warp.advance_errs (w : Warp) (c : Issue) : (w.advance c).errs = w.errs := rfl
@[simp] theorem Warp.advance_uivec (w : Warp) (c : Issue) : (w.advance c).uivec = w.uivec := rfl
@[simp] theorem Warp.advance_uitags (w : Warp) (c : Issue) : (w.advance c).uitags = w.uitags := rfl
@[simp] theorem Warp.advance_uiring (w : Warp) (c : Issue) : (w.advance c).uiring = w.uiring := rfl
@[simp] theorem Warp.advance_inUi (w : Warp) (c : Issue) : (w.advance c).inUi = w.inUi := rfl
@[simp] theorem Warp.advance_uim (w : Warp) (c : Issue) : (w.advance c).uim = w.uim := rfl
@[simp] theorem Warp.advance_dep (w : Warp) (c : Issue) : (w.advance c).dep = w.dep := rfl
@[simp] theorem Warp.advance_mode (w : Warp) (c : Issue) : (w.advance c).mode = w.mode := rfl
@[simp] theorem Warp.advance_trapCause (w : Warp) (c : Issue) : (w.advance c).trapCause = w.trapCause := rfl
@[simp] theorem Warp.advance_trapPc (w : Warp) (c : Issue) : (w.advance c).trapPc = w.trapPc := rfl
@[simp] theorem Warp.advance_trapVal (w : Warp) (c : Issue) : (w.advance c).trapVal = w.trapVal := rfl
@[simp] theorem Warp.advance_trap (w : Warp) (c : Issue) : (w.advance c).trap = w.trap := rfl
@[simp] theorem Warp.advance_nextIssue (w : Warp) (c : Issue) : (w.advance c).nextIssue = w.nextIssue := rfl
@[simp] theorem Warp.advance_yHint (w : Warp) (c : Issue) : (w.advance c).yHint = w.yHint := rfl
@[simp] theorem Warp.advance_hold (w : Warp) (c : Issue) : (w.advance c).hold = w.hold := rfl
@[simp] theorem Warp.advance_burst (w : Warp) (c : Issue) : (w.advance c).burst = w.burst := rfl
@[simp] theorem Warp.advance_tagCnt (w : Warp) (c : Issue) : (w.advance c).tagCnt = w.tagCnt := rfl
@[simp] theorem Warp.advance_cpygSeq (w : Warp) (c : Issue) : (w.advance c).cpygSeq = w.cpygSeq := rfl
@[simp] theorem Warp.advance_run (w : Warp) (c : Issue) : (w.advance c).run = w.run := rfl
@[simp] theorem Warp.advance_late (w : Warp) (c : Issue) : (w.advance c).late = w.late := rfl
@[simp] theorem Warp.advance_saveReq (w : Warp) (c : Issue) : (w.advance c).saveReq = w.saveReq := rfl
@[simp] theorem Warp.advance_stopped (w : Warp) (c : Issue) : (w.advance c).stopped = w.stopped := rfl
@[simp] theorem Warp.advance_trussFault (w : Warp) (c : Issue) : (w.advance c).trussFault = w.trussFault := rfl
@[simp] theorem Warp.advance_gone (w : Warp) (c : Issue) : (w.advance c).gone = w.gone := rfl
@[simp] theorem Warp.advance_wc_v (w : Warp) (c : Issue) : (w.advance c).wc.v = w.wc.v := rfl
@[simp] theorem Warp.advance_wc_s (w : Warp) (c : Issue) : (w.advance c).wc.s = w.wc.s := rfl
@[simp] theorem Warp.advance_wc_p (w : Warp) (c : Issue) : (w.advance c).wc.p = w.wc.p := rfl
@[simp] theorem Warp.advance_wc_satcnt (w : Warp) (c : Issue) : (w.advance c).wc.satcnt = w.wc.satcnt := rfl
@[simp] theorem Warp.advance_wc_xlane (w : Warp) (c : Issue) : (w.advance c).wc.xlane = w.wc.xlane := rfl
@[simp] theorem Warp.advance_wc_pend (w : Warp) (c : Issue) : (w.advance c).wc.pend = w.wc.pend := rfl

/-! ### `Warp.post` -/

@[simp] theorem Warp.post_idx (w : Warp) (now lat width : Nat) (ws : List RegWrite) : (w.post now lat width ws).idx = w.idx := rfl
@[simp] theorem Warp.post_core (w : Warp) (now lat width : Nat) (ws : List RegWrite) : (w.post now lat width ws).core = w.core := rfl
@[simp] theorem Warp.post_part (w : Warp) (now lat width : Nat) (ws : List RegWrite) : (w.post now lat width ws).part = w.part := rfl
@[simp] theorem Warp.post_slot (w : Warp) (now lat width : Nat) (ws : List RegWrite) : (w.post now lat width ws).slot = w.slot := rfl
@[simp] theorem Warp.post_k (w : Warp) (now lat width : Nat) (ws : List RegWrite) : (w.post now lat width ws).k = w.k := rfl
@[simp] theorem Warp.post_bankS (w : Warp) (now lat width : Nat) (ws : List RegWrite) : (w.post now lat width ws).bankS = w.bankS := rfl
@[simp] theorem Warp.post_bankK (w : Warp) (now lat width : Nat) (ws : List RegWrite) : (w.post now lat width ws).bankK = w.bankK := rfl
@[simp] theorem Warp.post_ops (w : Warp) (now lat width : Nat) (ws : List RegWrite) : (w.post now lat width ws).ops = w.ops := rfl
@[simp] theorem Warp.post_acc (w : Warp) (now lat width : Nat) (ws : List RegWrite) : (w.post now lat width ws).acc = w.acc := rfl
@[simp] theorem Warp.post_errs (w : Warp) (now lat width : Nat) (ws : List RegWrite) : (w.post now lat width ws).errs = w.errs := rfl
@[simp] theorem Warp.post_uivec (w : Warp) (now lat width : Nat) (ws : List RegWrite) : (w.post now lat width ws).uivec = w.uivec := rfl
@[simp] theorem Warp.post_uitags (w : Warp) (now lat width : Nat) (ws : List RegWrite) : (w.post now lat width ws).uitags = w.uitags := rfl
@[simp] theorem Warp.post_uiring (w : Warp) (now lat width : Nat) (ws : List RegWrite) : (w.post now lat width ws).uiring = w.uiring := rfl
@[simp] theorem Warp.post_inUi (w : Warp) (now lat width : Nat) (ws : List RegWrite) : (w.post now lat width ws).inUi = w.inUi := rfl
@[simp] theorem Warp.post_uim (w : Warp) (now lat width : Nat) (ws : List RegWrite) : (w.post now lat width ws).uim = w.uim := rfl
@[simp] theorem Warp.post_dep (w : Warp) (now lat width : Nat) (ws : List RegWrite) : (w.post now lat width ws).dep = w.dep := rfl
@[simp] theorem Warp.post_mode (w : Warp) (now lat width : Nat) (ws : List RegWrite) : (w.post now lat width ws).mode = w.mode := rfl
@[simp] theorem Warp.post_trapCause (w : Warp) (now lat width : Nat) (ws : List RegWrite) : (w.post now lat width ws).trapCause = w.trapCause := rfl
@[simp] theorem Warp.post_trapPc (w : Warp) (now lat width : Nat) (ws : List RegWrite) : (w.post now lat width ws).trapPc = w.trapPc := rfl
@[simp] theorem Warp.post_trapVal (w : Warp) (now lat width : Nat) (ws : List RegWrite) : (w.post now lat width ws).trapVal = w.trapVal := rfl
@[simp] theorem Warp.post_trap (w : Warp) (now lat width : Nat) (ws : List RegWrite) : (w.post now lat width ws).trap = w.trap := rfl
@[simp] theorem Warp.post_nextIssue (w : Warp) (now lat width : Nat) (ws : List RegWrite) : (w.post now lat width ws).nextIssue = w.nextIssue := rfl
@[simp] theorem Warp.post_yHint (w : Warp) (now lat width : Nat) (ws : List RegWrite) : (w.post now lat width ws).yHint = w.yHint := rfl
@[simp] theorem Warp.post_hold (w : Warp) (now lat width : Nat) (ws : List RegWrite) : (w.post now lat width ws).hold = w.hold := rfl
@[simp] theorem Warp.post_burst (w : Warp) (now lat width : Nat) (ws : List RegWrite) : (w.post now lat width ws).burst = w.burst := rfl
@[simp] theorem Warp.post_tagCnt (w : Warp) (now lat width : Nat) (ws : List RegWrite) : (w.post now lat width ws).tagCnt = w.tagCnt := rfl
@[simp] theorem Warp.post_cpygSeq (w : Warp) (now lat width : Nat) (ws : List RegWrite) : (w.post now lat width ws).cpygSeq = w.cpygSeq := rfl
@[simp] theorem Warp.post_run (w : Warp) (now lat width : Nat) (ws : List RegWrite) : (w.post now lat width ws).run = w.run := rfl
@[simp] theorem Warp.post_late (w : Warp) (now lat width : Nat) (ws : List RegWrite) : (w.post now lat width ws).late = w.late := rfl
@[simp] theorem Warp.post_saveReq (w : Warp) (now lat width : Nat) (ws : List RegWrite) : (w.post now lat width ws).saveReq = w.saveReq := rfl
@[simp] theorem Warp.post_stopped (w : Warp) (now lat width : Nat) (ws : List RegWrite) : (w.post now lat width ws).stopped = w.stopped := rfl
@[simp] theorem Warp.post_trussFault (w : Warp) (now lat width : Nat) (ws : List RegWrite) : (w.post now lat width ws).trussFault = w.trussFault := rfl
@[simp] theorem Warp.post_gone (w : Warp) (now lat width : Nat) (ws : List RegWrite) : (w.post now lat width ws).gone = w.gone := rfl
@[simp] theorem Warp.post_wc_lanes (w : Warp) (now lat width : Nat) (ws : List RegWrite) : (w.post now lat width ws).wc.lanes = w.wc.lanes := rfl
@[simp] theorem Warp.post_wc_v (w : Warp) (now lat width : Nat) (ws : List RegWrite) : (w.post now lat width ws).wc.v = w.wc.v := rfl
@[simp] theorem Warp.post_wc_s (w : Warp) (now lat width : Nat) (ws : List RegWrite) : (w.post now lat width ws).wc.s = w.wc.s := rfl
@[simp] theorem Warp.post_wc_p (w : Warp) (now lat width : Nat) (ws : List RegWrite) : (w.post now lat width ws).wc.p = w.wc.p := rfl
@[simp] theorem Warp.post_wc_satcnt (w : Warp) (now lat width : Nat) (ws : List RegWrite) : (w.post now lat width ws).wc.satcnt = w.wc.satcnt := rfl
@[simp] theorem Warp.post_wc_xlane (w : Warp) (now lat width : Nat) (ws : List RegWrite) : (w.post now lat width ws).wc.xlane = w.wc.xlane := rfl

@[simp] theorem Warp.enrol_ops (w : Warp) (x : CtrOp) : (w.enrol x).ops = w.ops ++ [x] := rfl
@[simp] theorem Warp.stalled_nextIssue (w : Warp) (now width : Nat) (h : Hdr) :
    (w.stalled now width h).nextIssue = now + occupancy width + h.stall := rfl
@[simp] theorem Warp.setLanes_wc_lanes (w : Warp) (ls : List Lane) : (w.setLanes ls).wc.lanes = ls := rfl
@[simp] theorem Warp.count_wc_satcnt (w : Warp) (n : Nat) : (w.count n).wc.satcnt = addSat w.wc.satcnt n := rfl

end Sys2Proof.Machine
end

