-- ==== Sys2Proof/Laws/Ops.lean ====
section
/-! SUPPORT. What the shared operations of an issue can do: the environment of an issue, finding a warp after it was
replaced, and how `finish`, `finishAt` and `holdAt` end an issue. -/

namespace Sys2Proof.Machine

/-- What an environment says of its state. -/
theorem env_spec {s : State} {e : Env} (h : s.env = some e) :
    s.cur = some e.c ∧ s.frame? e.c.fid = some e.f ∧ e.f.warp? e.c.widx = some e.w ∧ s.launch? e.f.lid = some e.l ∧
      e.t = s.textLaunch e.l e.w := by
  unfold State.env at h
  split at h
  · simp at h
  · next c hc =>
    split at h
    · simp at h
    · next f hf =>
      split at h
      · next w l hw hl =>
        simp only [Option.some.injEq] at h
        subst h
        exact ⟨hc, hf, hw, hl, rfl⟩
      · simp at h

/-- The warp found under an index has that index. -/
theorem warp_idx {f : Frame} {i : Nat} {w : Warp} (h : f.warp? i = some w) : w.idx = i := by
  have := List.find?_some h
  simpa using this

/-- The frame found under an id has that id. -/
theorem frame_fid {s : State} {i : Nat} {f : Frame} (h : s.frame? i = some f) : f.fid = i := by
  have := List.find?_some h
  simpa using this

theorem env_widx {s : State} {e : Env} (h : s.env = some e) : e.w.idx = e.c.widx := warp_idx (env_spec h).2.2.1

/-- Inside an issue a meaning is what it says of the environment. -/
theorem withEnv_env {s : State} {e : Env} (h : s.env = some e) (k : Env → Res) : withEnv s k = k e := by
  simp [withEnv, (env_spec h).1, h]

/-- The frame whose warp was replaced. -/
theorem frame_setWarp {s : State} {fid : Nat} {f : Frame} (w : Warp) (h : s.frame? fid = some f) :
    (s.setWarp fid w).frame? fid = some (f.setWarp w) := by
  refine find_modifyFirst (p := fun g : Frame => g.fid == fid) h ?_
  simpa [Frame.setWarp] using frame_fid h

/-- Every other frame. -/
theorem frame_setWarp_other {s : State} {fid i : Nat} (w : Warp) (h : i ≠ fid) : (s.setWarp fid w).frame? i = s.frame? i := by
  refine find_modifyFirst_other (p := fun g : Frame => g.fid == fid) (q := fun g => g.fid == i) ?_
  intro g hg
  simp only [beq_iff_eq] at hg
  simp [Frame.setWarp, hg, Ne.symm h]

theorem warp_frame_setWarp {f : Frame} {i : Nat} {v : Warp} (w : Warp) (h : f.warp? i = some v) (hw : w.idx = i) :
    (f.setWarp w).warp? i = some w := by
  subst hw
  exact find_modifyFirst (p := fun v : Warp => v.idx == w.idx) (f := fun _ => w) h (by simp)

theorem warp_frame_setWarp_other {f : Frame} {i : Nat} (w : Warp) (hw : w.idx ≠ i) : (f.setWarp w).warp? i = f.warp? i := by
  refine find_modifyFirst_other (p := fun v : Warp => v.idx == w.idx) (q := fun v => v.idx == i) ?_
  intro v hv
  simp only [beq_iff_eq] at hv
  simp [hv, hw]

/-- Replacing a warp changes nothing else of any frame. -/
theorem bare_setWarp (s : State) (fid : Nat) (w : Warp) :
    (s.setWarp fid w).frames.map Sys2Proof.Frame.bare = s.frames.map Sys2Proof.Frame.bare := by
  show (modifyFirst _ _ s.frames).map _ = _
  induction s.frames with
  | nil => rfl
  | cons f r ih =>
    simp only [modifyFirst]
    split
    · rfl
    · simp only [List.map_cons, ih]

/-- The end of an issue with a given warp. -/
theorem ends_endIssue {s : State} {e : Env} {f : Frame} {v : Warp} (w : Warp) (hf : s.frame? e.c.fid = some f)
    (hv : f.warp? e.c.widx = some v) (hw : w.idx = e.c.widx) : Ends s (s.endIssue e.c.fid w) e w where
  rest := rfl
  warp := by
    show ((s.setWarp e.c.fid w).frame? e.c.fid).bind _ = _
    rw [frame_setWarp w hf]
    exact warp_frame_setWarp w hv hw
  others := by
    intro j hj
    show ((s.setWarp e.c.fid w).frame? j.fid).bind _ = (s.frame? j.fid).bind _
    by_cases h : j.fid = e.c.fid
    · rw [h, frame_setWarp w hf, hf]
      refine warp_frame_setWarp_other w ?_
      intro h'
      apply hj
      cases j
      simp_all [Env.id]
    · rw [frame_setWarp_other w h]
  frames := bare_setWarp s e.c.fid w

/-- The same where the frames are those of the issue's state. -/
theorem ends_of_env {s s' : State} {e : Env} (w : Warp) (he : s.env = some e) (hs : s'.frames = s.frames) (hw : w.idx = e.w.idx) :
    Ends s' (s'.endIssue e.c.fid w) e w := by
  obtain ⟨-, hf, hv, -⟩ := env_spec he
  have hf' : s'.frame? e.c.fid = some e.f := by rw [← hf]; simp only [State.frame?, hs]
  exact ends_endIssue w hf' hv (by rw [hw, env_widx he])

/-- An instruction whose meaning is `finish` completes. -/
theorem completes_of_finish {i : Instr} {s s' : State} {e : Env} {h : Hdr} {w : Warp} (he : s.env = some e)
    (hx : exec i s = finish s' e h w) (hs : s'.frames = s.frames) (hw : w.idx = e.w.idx) : Completes i s s' e h w :=
  ⟨_, hx, ends_of_env _ he hs (by simpa using hw)⟩

/-- An instruction whose meaning is `holdAt` is held. -/
theorem held_of_holdAt {i : Instr} {s : State} {e : Env} {why : HoldWhy} (he : s.env = some e) (hx : exec i s = holdAt s e why) :
    IsHeld i s e why :=
  ⟨_, hx, ends_of_env _ he rfl rfl⟩

/-- Outside runahead an instruction's trap is taken at once. -/
theorem trap_eq {s : State} {e : Env} (h : e.w.run = none) (cause : Cause) (val : Nat) (lane : Option Nat) :
    trap s e cause val lane = .next (takeTrap s e.c.fid e.c.widx e.c.lanes e.c.pc e.c.len cause val lane) := by
  simp [trap, h]

/-- Outside runahead no operand is ghost. -/
@[simp] theorem ghost_eq {e : Env} (h : e.w.run = none) (o : Opd) (l : Nat) : e.ghost o l = false := by
  simp [Env.ghost, h]

@[simp] theorem anyGhost_eq {e : Env} (h : e.w.run = none) (os : List Opd) (l : Nat) : e.anyGhost os l = false := by
  simp [Env.anyGhost, Env.ghost, h]

/-- Outside runahead writes with ghost bits are plain writes. -/
theorem postG_eq {w : Warp} (h : w.run = none) (now lat width : Nat) (ws : List (RegWrite × Bool)) :
    w.postG now lat width ws = w.post now lat width (ws.map Prod.fst) := by
  simp [Warp.postG, h]

end Sys2Proof.Machine
end

