-- ==== Sys2Proof/Tests/Slice0.lean ====
section
/-! SUPPORT. The model's own tests: ill-formed terms that WellFormed refuses, words written out from the encoding
tables with the instructions they stand for, single steps whose results the spec states, and for each statement
that has hypotheses a state and operands that meet them together. -/

set_option Elab.async false

namespace Sys2Proof.Tests

open Sys2Proof Sys2Proof.Machine Sys2Proof.Claims

/-! ### A small state -/

/-- An issue of 16 lanes at the start of the text. -/
def issue : Issue := { fid := 0, widx := 0, pc := 0x100, len := 8, lanes := List.range 16 }

/-- A warp of 16 live lanes. -/
def warp : Warp := { idx := 0, core := 0, part := 0, slot := 0, wc := { lanes := List.replicate 16 { pc := 0x100, st := .live } } }

/-- The frame of one warp. -/
def frame (w : Warp) : Frame := { fid := 0, lid := 0, barriers := [{}], warps := [w] }

/-- A state in which that warp issues. -/
def running (w : Warp) : State :=
  { launches := [loadedLaunch], frames := [frame w], cur := some issue, scribe := { entries := [(4 * 2 ^ 20, { st := .built })] } }

/-- Its environment. -/
def env (w : Warp) : Env := { c := issue, f := frame w, w := w, l := loadedLaunch, t := loadedLaunch }

/-- The warp with registers: vector (register, lane), scalar, predicate (register, lane). -/
def regs (v : List (Nat × Nat × W32)) (s : List (Nat × W64)) (p : List (Nat × Nat × BitVec 4) := []) : Warp :=
  (v.map (fun x => RegWrite.v x.1 x.2.1 x.2.2) ++ s.map (fun x => RegWrite.s x.1 x.2) ++ p.map fun x => RegWrite.p x.1 x.2.1 x.2.2).foldl
    Warp.put warp

/-- The state after an outcome. -/
def next (r : Res) : State := match r with | .next t => t | _ => {}

/-- The state after an outcome, once what the warp accessed has been performed. -/
def later (r : Res) : State := (next r).performWarp ⟨0, 0⟩

/-- The warp after an outcome, its writes in flight landed. -/
def after (r : Res) : Warp := match r with | .next t => ((t.warp? ⟨0, 0⟩).getD warp).landAll | _ => warp

/-! ### Well-formedness -/

def isWf (i : Instr) : Bool := i.wf

theorem test_wf_good : isWf (.sadd {} { d := .s 1, a := .s 2, b := .s 3 }) = true := by decide
theorem test_wf_stall : isWf (.nop { stall := 8 } {}) = false := by decide
theorem test_wf_wait : isWf (.nop { wait := 4096 } {}) = false := by decide
theorem test_wf_guard : isWf (.nop { pg := 16 } {}) = false := by decide
theorem test_wf_operand : isWf (.sadd {} { d := .s 1024 }) = false := by decide
theorem test_wf_operand_a : isWf (.sadd {} { a := .s 1024 }) = false := by decide
theorem test_wf_operand_b : isWf (.sadd {} { b := .s 1024 }) = false := by decide
theorem test_wf_operand_c : isWf (.ffma {} { form := .b, c := .v 1024 }) = false := by decide
theorem test_wf_sub : isWf (.bkpt {} { form := .b, sub := 256 }) = false := by decide
theorem test_wf_form_a_type : isWf (.sadd {} { ty := .i32 }) = false := by decide
theorem test_wf_form_a_c : isWf (.sadd {} { c := .s 1 }) = false := by decide
theorem test_wf_form_a_imm : isWf (.sadd {} { imm := 1 }) = false := by decide
theorem test_wf_form_b_imm : isWf (.sadd {} { form := .b, imm := 1 }) = false := by decide
theorem test_wf_form_c_b : isWf (.sadd {} { form := .c, b := .s 1 }) = false := by decide
theorem test_wf_form_c_sat : isWf (.sadd {} { form := .c, sat := true }) = false := by decide
theorem test_wf_slot_counter : isWf (.waitc {} { s0 := some ⟨12, 0⟩ }) = false := by decide
theorem test_wf_slot_threshold : isWf (.waitc {} { s3 := some ⟨0, 64⟩ }) = false := by decide
theorem test_wf_smovi_register : isWf (.smovi {} { d := 96 }) = false := by decide
theorem test_wf_smovi_imm : isWf (.smovi {} { d := 1, imm := 0x80000000 }) = false := by decide
theorem test_wf_mop : isWf (.atom {} { mop := 32 }) = false := by decide
theorem test_wf_mem_k : isWf (.ld {} { k := 32 }) = false := by decide
theorem test_wf_mem_cc : isWf (.ld {} { cc := 16 }) = false := by decide
theorem test_wf_mem_size : isWf (.ld {} { sz := 6 }) = false := by decide
theorem test_wf_disp_high : isWf (.ld {} { disp := 8192 }) = false := by decide
theorem test_wf_disp_low : isWf (.ld {} { disp := -8193 }) = false := by decide
theorem test_wf_ext_sub : isWf (.cpy {} { sub := 256 }) = false := by decide
theorem test_wf_done_counter : isWf (.cpy {} { fin := .ctr 16 }) = false := by decide
theorem test_wf_done_tag : isWf (.cpy {} { fin := .tag 64 }) = false := by decide
theorem test_wf_copy : isWf (.cpy {} { x := .copy 0 0 false false 64 false 0 false }) = false := by decide
theorem test_wf_ring : isWf (.rgpub {} { x := .ring 128 }) = false := by decide
theorem test_wf_cap : isWf (.rlpush {} { x := .cap 32 }) = false := by decide
theorem test_wf_loop : isWf (.mloop {} { x := .loop 0 4096 0 }) = false := by decide
theorem test_wf_group : isWf (.tzero {} { x := .grp 256 }) = false := by decide
theorem test_wf_tld : isWf (.tld {} { x := .tld 0 32 }) = false := by decide
theorem test_wf_tst : isWf (.tst {} { x := .tst 0 0 .rn false false false false false 4 0 false }) = false := by decide
theorem test_wf_bits : isWf (.mxopen {} { x := .mxbits 32 }) = false := by decide
theorem test_wf_mxlook : isWf (.mxlook {} { x := .mxlook 256 0 }) = false := by decide
theorem test_wf_mxcap : isWf (.mxsave {} { x := .mxcap 32 }) = false := by decide
theorem test_wf_row : isWf (.qscaleApply {} { form := .b, sub := 0 }) = false := by decide
theorem test_wf_row_ring : isWf (.rgqryBind {} { sub := 2, x := .ring 0 }) = false := by decide

/-! ### Decoding -/

/-- Words of every instruction of the scalar family, written from its encoding tables. -/
theorem test_decode_scalar : ([
    (96, 0xFFFFFFFB8000080300000001, .sadd {} { form := .c, d := .s 3, a := .s 2, imm := 0xFFFFFFFB }),
    (64, 0x60140400000004, .ssub {} { form := .a, d := .s 4, a := .s 5, b := .s 6 }),
    (96, 0x380400000060140400000009, .smul {} { form := .b, d := .s 4, a := .s 5, b := .s 6, ty := .i32, sat := true }),
    (96, 0x60000000006014040000000D, .smulhi {} { form := .b, d := .s 4, a := .s 5, b := .s 6, ty := .n64 }),
    (64, 0x60145F00000010, .sdiv {} { form := .a, d := .s 95, a := .s 5, b := .s 6 }),
    (96, 0x78000140400000015, .smod {} { form := .c, d := .s 4, a := .s 5, imm := 0x7 }),
    (64, 0x30080100000018, .sand {} { form := .a, d := .s 1, a := .s 2, b := .s 3 }),
    (64, 0x3008010000001C, .sor {} { form := .a, d := .s 1, a := .s 2, b := .s 3 }),
    (96, 0x800000008000080100000021, .sxor {} { form := .c, d := .s 1, a := .s 2, imm := 0x80000000 }),
    (64, 0x30080100000024, .sshl {} { form := .a, d := .s 1, a := .s 2, b := .s 3 }),
    (96, 0x180000000030080100000029, .sshr {} { form := .b, d := .s 1, a := .s 2, b := .s 3, ty := .b32 }),
    (64, 0x3008010000002C, .ssar {} { form := .a, d := .s 1, a := .s 2, b := .s 3 }),
    (96, 0x580000000030080100000031, .smin {} { form := .b, d := .s 1, a := .s 2, b := .s 3, ty := .n32 }),
    (64, 0x30080100000034, .smax {} { form := .a, d := .s 1, a := .s 2, b := .s 3 }),
    (96, 0x4048000080100000039, .sbfx {} { form := .c, d := .s 1, a := .s 2, imm := 0x404 }),
    (64, 0x3008010000003C, .sbfi {} { form := .a, d := .s 1, a := .s 2, b := .s 3 }),
    (64, 0x80100000040, .spopc {} { form := .a, d := .s 1, a := .s 2 }),
    (64, 0x80100000044, .sclz {} { form := .a, d := .s 1, a := .s 2 }),
    (96, 0x180000000000080100000049, .sctz {} { form := .b, d := .s 1, a := .s 2, ty := .b32 }),
    (96, 0x800003008010000004D, .scmp {} { form := .b, d := .s 1, a := .s 2, b := .s 3, sub := 2 }),
    (96, 0x40030080100000051, .ssel {} { form := .b, d := .s 1, a := .s 2, b := .s 3, c := .s 4 }),
    (64, 0x80100000054, .smov {} { form := .a, d := .s 1, a := .s 2 }),
    (96, 0x48000000400000059, .smovi {} { d := 4, imm := 4 }),
    (128, 0x100000000000000050000005A, .smovi {} { d := 5, wide := true, imm := 0x100000000 }),
    (96, 0x1C00003008010000005D, .slea {} { form := .b, d := .s 1, a := .s 2, b := .s 3, sub := 7 })
    ] : List (Nat × Nat × Instr)).all (fun x => decodeTableWord x.1 x.2.1 = some x.2.2) = true := by decide

/-- Words of every instruction of the vector family, written from its encoding tables. -/
theorem test_decode_vector : ([
    (96, 0xA00400004090100602000081, .vadd { pg := 1 } { form := .b, d := .v 6, a := .v 4, b := .s 9, m0 := true, ty := .i16x2, sat := true }),
    (64, 0x30080100000084, .vsub {} { form := .a, d := .v 1, a := .v 2, b := .v 3 }),
    (96, 0xFFFFFFFF8000080100000089, .vmul {} { form := .c, d := .v 1, a := .v 2, imm := 0xFFFFFFFF }),
    (96, 0xD0000000003008010000008D, .vmulhi {} { form := .b, d := .v 1, a := .v 2, b := .v 3, ty := .n8x4 }),
    (96, 0x44030080100000091, .vmad {} { form := .b, d := .v 1, a := .v 2, b := .s 3, c := .v 4, m0 := true }),
    (64, 0x30080100000094, .vand {} { form := .a, d := .v 1, a := .v 2, b := .v 3 }),
    (64, 0x30080100000098, .vor {} { form := .a, d := .v 1, a := .v 2, b := .v 3 }),
    (64, 0x3008010000009C, .vxor {} { form := .a, d := .v 1, a := .v 2, b := .v 3 }),
    (64, 0x300801000000A0, .vshl {} { form := .a, d := .v 1, a := .v 2, b := .v 3 }),
    (64, 0x300801000000A4, .vshr {} { form := .a, d := .v 1, a := .v 2, b := .v 3 }),
    (64, 0x300801000000A8, .vsar {} { form := .a, d := .v 1, a := .v 2, b := .v 3 }),
    (64, 0x300801000000AC, .vmin {} { form := .a, d := .v 1, a := .v 2, b := .v 3 }),
    (64, 0x300801000000B0, .vmax {} { form := .a, d := .v 1, a := .v 2, b := .v 3 }),
    (96, 0x4000000000801000000B5, .vabs {} { form := .b, d := .v 1, a := .v 2, sat := true }),
    (64, 0x40300801000000B8, .vbfx {} { form := .a, d := .v 1, a := .v 2, b := .s 3, m0 := true }),
    (96, 0x400300801000000BD, .vbfi {} { form := .b, d := .v 1, a := .v 2, b := .v 3, c := .v 4 }),
    (64, 0x801000000C0, .vpopc {} { form := .a, d := .v 1, a := .v 2 }),
    (96, 0xB000000000000801000000C5, .vclz {} { form := .b, d := .v 1, a := .v 2, ty := .b16x2 }),
    (96, 0xC800140000300801000000C9, .vcmp {} { form := .b, d := .p 1, a := .v 2, b := .v 3, ty := .i8x4, sub := 5 }),
    (96, 0x400300801000000CD, .vsel {} { form := .b, d := .v 1, a := .v 2, b := .v 3, c := .p 4 }),
    (64, 0x801000000D0, .vmov {} { form := .a, d := .v 1, a := .v 2 }),
    (96, 0xDEADBEEF80000001000000D5, .vmovi {} { form := .c, d := .v 1, imm := 0xDEADBEEF }),
    (96, 0x40000C0000601002000000D9, .vlea {} { form := .b, d := .vp 2, a := .vp 4, b := .v 6, ty := .i64, sub := 3 })
    ] : List (Nat × Nat × Instr)).all (fun x => decodeTableWord x.1 x.2.1 = some x.2.2) = true := by decide

/-- Words of every instruction of the float family, written from its encoding tables. -/
theorem test_decode_float : ([
    (64, 0x20040400000100, .fadd {} { form := .a, d := .v 4, a := .v 1, b := .v 2 }),
    (96, 0xB82000000030080100000105, .fsub {} { form := .b, d := .v 1, a := .v 2, b := .v 3, ty := .f16x2, rnd := .rs }),
    (96, 0x3F8000008000080100000109, .fmul {} { form := .c, d := .v 1, a := .v 2, imm := 0x3F800000 }),
    (96, 0x800040030080A0000010D, .ffma {} { form := .b, d := .v 10, a := .v 2, b := .v 3, c := .v 4, rnd := .rz }),
    (64, 0x30080100000110, .fmin {} { form := .a, d := .v 1, a := .v 2, b := .v 3 }),
    (64, 0x30080100000114, .fmax {} { form := .a, d := .v 1, a := .v 2, b := .v 3 }),
    (96, 0x18000030080100000119, .fcmp {} { form := .b, d := .p 1, a := .v 2, b := .v 3, sub := 6 }),
    (96, 0xC0000000000008010000011D, .fclass {} { form := .b, d := .v 1, a := .v 2, ty := .bf16x2 }),
    (96, 0x1800000000080100000121, .frnd {} { form := .b, d := .v 1, a := .v 2, rnd := .rm }),
    (96, 0xB80000040030080100000125, .fdot2 {} { form := .b, d := .v 1, a := .v 2, b := .v 3, c := .v 4, ty := .f16x2 }),
    (64, 0x80100000128, .frcp {} { form := .a, d := .v 1, a := .v 2 }),
    (64, 0x8010000012C, .fsqrt {} { form := .a, d := .v 1, a := .v 2 }),
    (64, 0x80100000130, .frsq {} { form := .a, d := .v 1, a := .v 2 }),
    (64, 0x80100000134, .fexp2 {} { form := .a, d := .v 1, a := .v 2 }),
    (64, 0x80100000138, .flog2 {} { form := .a, d := .v 1, a := .v 2 }),
    (64, 0x8010000013C, .fsin {} { form := .a, d := .v 1, a := .v 2 }),
    (64, 0x80100000140, .fcos {} { form := .a, d := .v 1, a := .v 2 }),
    (96, 0x8000000080100000145, .fact {} { form := .b, d := .v 1, a := .v 2, sub := 2 }),
    (96, 0x40140400C0000000149, .ftload {} { form := .b, a := .k 3, b := .s 4, c := .c 1, m0 := true, sub := 1 })
    ] : List (Nat × Nat × Instr)).all (fun x => decodeTableWord x.1 x.2.1 = some x.2.2) = true := by decide

/-- Words of every instruction of the conversion family, written from its encoding tables. -/
theorem test_decode_conversion : ([
    (96, 0x2BC800000000080100000181, .cvt {} { form := .b, d := .v 1, a := .v 2, ty := .i8, ty2 := .f32, rnd := .rz }),
    (96, 0xB80000000030080100000185, .cvtpk2 {} { form := .b, d := .v 1, a := .v 2, b := .v 3, ty := .f16x2 }),
    (96, 0xF00004000000100100000189, .cvtpk4 {} { form := .b, d := .v 1, a := .v 4, ty := .e2m1x4, sub := 1 }),
    (96, 0xBF400400000008010000018D, .cvtup {} { form := .b, d := .v 1, a := .v 2, ty := .f16x2, ty2 := .e5m2x4, sub := 1 }),
    (96, 0x800000000000080100000191, .qscaleCode {} { form := .b, d := .v 1, a := .v 2, b := .v 0, ty := .e4m3 }),
    (96, 0x4004030080100000191, .qscaleApply {} { form := .b, d := .v 1, a := .v 2, b := .s 3, m0 := true, sub := 1 }),
    (96, 0x1C000060240700000195, .qlq4Nib {} { form := .b, d := .v 7, a := .v 9, b := .v 6, sub := 7 }),
    (96, 0x20004020040500000195, .qlq4Qcode {} { form := .b, d := .v 5, a := .v 1, b := .s 2, m0 := true, sub := 8 }),
    (96, 0x24004020140600000195, .qlq4Bscale {} { form := .b, d := .v 6, a := .v 5, b := .s 2, m0 := true, sub := 9 }),
    (96, 0x4004030100100000199, .qmx {} { form := .b, d := .v 1, a := .v 4, b := .s 3, m0 := true, sub := 1 })
    ] : List (Nat × Nat × Instr)).all (fun x => decodeTableWord x.1 x.2.1 = some x.2.2) = true := by decide

/-- Words of every instruction of the predicate family, written from its encoding tables. -/
theorem test_decode_predicate : ([
    (64, 0x300801000001A0, .pand {} { form := .a, d := .p 1, a := .p 2, b := .p 3 }),
    (64, 0x300801000001A4, .por {} { form := .a, d := .p 1, a := .p 2, b := .p 3 }),
    (64, 0x300801000001A8, .pxor {} { form := .a, d := .p 1, a := .p 2, b := .p 3 }),
    (64, 0x80F000001AC, .pnot {} { form := .a, d := .p 15, a := .p 2 }),
    (96, 0xD800000000000801000001B1, .pfromv {} { form := .b, d := .p 1, a := .v 2, ty := .b8x4 }),
    (96, 0x40000000801000001B5, .ptov {} { form := .b, d := .v 1, a := .p 2, sub := 1 }),
    (96, 0x80000000801000001B9, .pvote {} { form := .b, d := .s 1, a := .p 2, sub := 2 }),
    (64, 0x801000001BC, .pcnt {} { form := .a, d := .s 1, a := .p 2 }),
    (96, 0x40400300805000001C1, .xperm {} { form := .b, d := .v 5, a := .v 2, b := .v 3, c := .v 4, sub := 1 }),
    (96, 0x40300805000001C5, .xbcast {} { form := .b, d := .v 5, a := .v 2, b := .s 3, m0 := true }),
    (64, 0x40300805000001C8, .xrot {} { form := .a, d := .v 5, a := .v 2, b := .s 3, m0 := true }),
    (96, 0x440000000805000001CD, .xscan {} { form := .b, d := .v 5, a := .v 2, sub := 17 }),
    (96, 0xC0000000805000001D1, .xred {} { form := .b, d := .s 5, a := .v 2, sub := 3 }),
    (64, 0x1000001D4, .elect {} { form := .a, d := .p 1 }),
    (96, 0x2000000000000801000001D9, .v2s {} { form := .b, d := .s 1, a := .vp 2, ty := .b64 }),
    (96, 0x2000000000000402000001DD, .s2v {} { form := .b, d := .vp 2, a := .s 1, ty := .b64 }),
    (96, 0x40000004001000001E1, .mfs {} { form := .b, d := .v 1, a := .x 16, sub := 1 }),
    (64, 0x409000001E4, .mts {} { form := .a, d := .x 9, a := .s 1 }),
    (96, 0x100000000001000001E9, .gmask {} { form := .b, d := .s 1, sub := 4 })
    ] : List (Nat × Nat × Instr)).all (fun x => decodeTableWord x.1 x.2.1 = some x.2.2) = true := by decide

/-- Words of every instruction of the memory family, written from its encoding tables. -/
theorem test_decode_memory : ([
    (96, 0x1004220081800400000201, .ld {} { d := .v 4, base := .v 8, k := 2, cc := 1, sz := 2, ty := .b32, disp := 4 }),
    (96, 0x80000AA30080000800000205, .st {} { d := .v 8, base := .v 8, k := 3, cc := 5, sz := 5, disp := -8192 }),
    (96, 0x7FFC0600C082000400000209, .ldu {} { d := .s 4, base := .s 8, m0 := true, scr := true, sz := 3, ty := .b64, disp := 8191 }),
    (96, 0x42A682400200220000020D, .stu {} { d := .s 34, base := .s 0, m0 := true, k := 2, cc := 4, sz := 3, ty := .b64, ord := .rel, scope := .sy, disp := 16 }),
    (96, 0x624084800400000211, .ldx {} { d := .v 4, base := .s 8, m0 := true, k := 2, cc := 3, ty := .n8 }),
    (96, 0x33624081000400000215, .stx {} { d := .v 4, base := .s 8, m0 := true, k := 2, cc := 11, sz := 1, ty := .b16, ord := .free }),
    (96, 0x100424808021800100000219, .atom {} { d := .v 1, base := .v 2, scr := true, cc := 4, sz := 2, ty := .b32, ord := .rel, disp := 1025 }),
    (96, 0x40683400200040000021D, .acas {} { d := .v 4, base := .s 0, m0 := true, k := 3, cc := 4, sz := 3, ty := .b64, disp := 1 }),
    (96, 0x4808031800400000221, .xatom {} { d := .v 4, base := .v 3, scr := true, cc := 4, sz := 2, ty := .b32 }),
    (96, 0x230000000000000000225, .fence {} { ord := .free, scope := .dv }),
    (96, 0x4020081840000000229, .pfetch {} { base := .v 8, k := 2, sz := 2, ty := .b32, mop := 1 }),
    (96, 0x1F402000010000022D, .shjoin {} { d := .s 1, base := .s 2, m0 := true, k := 31 }),
    (96, 0x4020000000000231, .shleave {} { base := .s 2, m0 := true })
    ] : List (Nat × Nat × Instr)).all (fun x => decodeTableWord x.1 x.2.1 = some x.2.2) = true := by decide

/-- Words of every instruction of the copies family, written from its encoding tables. -/
theorem test_decode_copies : ([
    (128, 0x3220004050000080100000242, .cpy {} { d := .v 1, a := .v 2, fin := .tag 5, x := .copy 0 2 true false 6 false 0 false }),
    (128, 0x4060052001C04030080100000246, .cpyg {} { d := .v 1, a := .v 2, b := .s 3, m0 := true, fin := .ctr 7, x := .copy 4 5 false false 0 true 1 true }),
    (128, 0x204020043F003008010000024A, .cpyw {} { d := .v 1, a := .v 2, b := .v 3, fin := .tag 63, x := .copy 4 0 false true 0 true 0 false }),
    (128, 0x8000000024E, .tagclr {} { a := .s 2 }),
    (128, 0x80000000252, .tagwall {} { a := .s 2 }),
    (128, 0x80100000256, .tagwany {} { d := .s 1, a := .s 2 }),
    (128, 0x8010000025A, .tagff {} { d := .s 1, a := .s 2 }),
    (128, 0xF80800000000010000025E, .rgrsv {} { d := .s 1, sub := 1, x := .ring 31 }),
    (128, 0x20000000000080000000262, .rgpub {} { a := .s 2, x := .ring 64 }),
    (128, 0x3F800000000000100000266, .rgawt {} { d := .s 1, x := .ring 127 }),
    (128, 0x8000000026A, .rgrel {} { a := .s 2, x := .ring 0 }),
    (128, 0x280000000000020000026E, .rgqryState {} { d := .sp 2, x := .ring 5 }),
    (128, 0x280800000008000000026E, .rgqryBind {} { a := .s 2, sub := 1, x := .ring 5 }),
    (128, 0x281000000008000000026E, .rgqryUnbind {} { a := .s 2, sub := 2, x := .ring 5 }),
    (128, 0x281800000000010000026E, .rgqryWaiters {} { d := .s 1, sub := 3, x := .ring 5 }),
    (128, 0x1801004020040000000272, .depdec {} { a := .s 1, b := .s 2, m0 := true, fin := .ctr 4, x := .cap 3 }),
    (128, 0x1809404020000000000272, .depdecSet {} { b := .s 2, m0 := true, sub := 1, fin := .ctr 5, x := .cap 3 }),
    (128, 0xF800000000040000000276, .rlpush {} { a := .s 1, x := .cap 31 }),
    (128, 0xF80000000000020000027A, .rlpop {} { d := .sp 2, x := .cap 31 })
    ] : List (Nat × Nat × Instr)).all (fun x => decodeTableWord x.1 x.2.1 = some x.2.2) = true := by decide

/-- Words of every instruction of the control family, written from its encoding tables. -/
theorem test_decode_control : ([
    (96, 0xF16FF080F0000000000281, .waitc {} { s0 := some ⟨0, 63⟩, s1 := some ⟨11, 5⟩ }),
    (96, 0x1048000000000000285, .uisetVec {} { form := .c, imm := 0x104 }),
    (96, 0x80100C0000000285, .uisetTags {} { form := .c, a := .s 3, sub := 1 }),
    (96, 0xC58020000000000285, .uisetRing {} { form := .c, sub := 2, imm := 0xC5 }),
    (96, 0x4000000000000000289, .uimask {} { form := .b, sub := 1 }),
    (64, 0x28C, .uiret {} { form := .a }),
    (96, 0xFFFFFFE08000000000000291, .bra {} { form := .c, imm := 0xFFFFFFE0 }),
    (64, 0x4020000000000294, .brx {} { form := .a, b := .s 2, m0 := true }),
    (96, 0x408000000100000299, .call {} { form := .c, d := .v 1, imm := 0x40 }),
    (64, 0x2000000000029C, .ret {} { form := .a, b := .v 2 }),
    (64, 0xC00000002A0, .join {} { form := .a, a := .p 3 }),
    (64, 0x2A4, .exit {} { form := .a }),
    (64, 0x66022AA8, .nop { stall := 2, wait := 0x11, pg := 3, pn := true, y := true } { form := .a }),
    (64, 0x2AC, .yield {} { form := .a }),
    (96, 0x780000000000002B1, .utrap {} { form := .c, imm := 0x7 }),
    (96, 0x3FC0000000000000002B5, .bkpt {} { form := .b, sub := 255 }),
    (96, 0xFA080000000000002B9, .sleep {} { form := .c, imm := 0xFA0 }),
    (64, 0x400000002C0, .bar {} { form := .a, a := .g 1 }),
    (64, 0x3FC00000002C4, .bara {} { form := .a, a := .g 255 }),
    (64, 0x2C8, .barw {} { form := .a, a := .g 0 }),
    (64, 0x801000002CC, .grpqCount {} { form := .a, d := .s 1, a := .g 2 }),
    (96, 0x40000000801000002CD, .grpqArrived {} { form := .b, d := .s 1, a := .g 2, sub := 1 }),
    (96, 0x80000000801000002CD, .grpqGen {} { form := .b, d := .s 1, a := .g 2, sub := 2 }),
    (96, 0xC0040300801000002CD, .grpqMem {} { form := .b, d := .s 1, a := .g 2, b := .s 3, m0 := true, sub := 3 }),
    (64, 0x2D0, .fcommit {} { form := .a }),
    (64, 0x2D4, .fabort {} { form := .a }),
    (64, 0x40300800000002D8, .barsv {} { form := .a, a := .k 2, b := .s 3, m0 := true }),
    (64, 0x40300800000002DC, .barrs {} { form := .a, a := .k 2, b := .s 3, m0 := true })
    ] : List (Nat × Nat × Instr)).all (fun x => decodeTableWord x.1 x.2.1 = some x.2.2) = true := by decide

/-- Words of every instruction of the matrix family, written from its encoding tables. -/
theorem test_decode_matrix : ([
    (128, 0x1FFFFF80A000040080100000302, .mloop {} { d := .s 1, a := .sp 2, b := .sp 4, sub := 1, fin := .ctr 8, x := .loop 255 4095 3 }),
    (128, 0x100000802000040080100000306, .mstep {} { d := .s 1, a := .sp 2, b := .sp 4, fin := .ctr 8, x := .loop 1 0 2 }),
    (128, 0xF8180240000008010000030A, .tld {} { d := .s 1, a := .sp 2, fin := .ctr 9, x := .tld 3 31 }),
    (128, 0x86ACE8180A40004008010000030E, .tst {} { d := .s 1, a := .sp 2, b := .s 4, sub := 1, fin := .ctr 9, x := .tst 3 29 .rs true false true false true 2 33 false }),
    (128, 0x17D5114000240004008010000030E, .tst {} { d := .s 1, a := .sp 2, b := .s 4, fin := .ctr 9, x := .tst 128 2 .rz false true false true false 1 31 true }),
    (128, 0x1802000000000100000312, .tzero {} { d := .s 1, fin := .ctr 8, x := .grp 3 }),
    (128, 0x100000316, .trel {} { d := .s 1 }),
    (128, 0x180200000008010000031A, .tmask {} { d := .s 1, a := .s 2, fin := .ctr 8, x := .grp 3 }),
    (128, 0x180A00000000010000031A, .tmaskClr {} { d := .s 1, sub := 1, fin := .ctr 8, x := .grp 3 }),
    (128, 0x10000031E, .tqryFree {} { d := .s 1 }),
    (128, 0x800000000020000031E, .tqrySlots {} { d := .sp 2, sub := 1 }),
    (128, 0x1000000000010000031E, .tqryFault {} { d := .s 1, sub := 2 }),
    (128, 0x18000003FC010000031E, .tqryPend {} { d := .s 1, a := .g 255, sub := 3 })
    ] : List (Nat × Nat × Instr)).all (fun x => decodeTableWord x.1 x.2.1 = some x.2.2) = true := by decide

/-- Words of every instruction of the text family, written from its encoding tables. -/
theorem test_decode_text : ([
    (128, 0x28040600C0400000342, .infl {} { d := .s 4, a := .k 3, b := .s 6, m0 := true, fin := .ctr 10 }),
    (128, 0x4074030080100000346, .xcod {} { d := .s 1, a := .k 2, b := .s 3, m0 := true, fin := .tag 7 }),
    (128, 0x280403008010000034A, .tokz {} { d := .s 1, a := .k 2, b := .s 3, m0 := true, fin := .ctr 10 }),
    (128, 0x280403008010000034E, .dtok {} { d := .s 1, a := .k 2, b := .s 3, m0 := true, fin := .ctr 10 }),
    (128, 0x28041F0501700000356, .mxapp {} { d := .s 23, a := .s 20, b := .s 31, m0 := true, fin := .ctr 10 }),
    (128, 0x8010000035E, .mxstatMatch {} { d := .s 1, a := .s 2 }),
    (128, 0x800000008010000035E, .mxstatLen {} { d := .s 1, a := .s 2, sub := 1 }),
    (128, 0x1000000008010000035E, .mxstatFill {} { d := .s 1, a := .s 2, sub := 2 }),
    (128, 0x280000008010000036A, .mxdrop {} { d := .s 1, a := .s 2, fin := .ctr 10 }),
    (128, 0x280403008010000036E, .sfcomp {} { d := .s 1, a := .k 2, b := .s 3, m0 := true, fin := .ctr 10 }),
    (128, 0x43F4030080100000372, .sfscan {} { d := .s 1, a := .k 2, b := .s 3, m0 := true, fin := .tag 63 }),
    (128, 0x2804030080100000376, .sfmask {} { d := .s 1, a := .k 2, b := .s 3, m0 := true, fin := .ctr 10 }),
    (128, 0x280403008010000037A, .sfstop {} { d := .s 1, a := .k 2, b := .s 3, m0 := true, fin := .ctr 10 }),
    (128, 0x8002800000080100000352, .mxopen {} { d := .s 1, a := .k 2, fin := .ctr 10, x := .mxbits 16 }),
    (128, 0x200280028054140000035A, .mxlook {} { d := .s 20, a := .s 21, b := .v 40, fin := .ctr 10, x := .mxlook 4 0 }),
    (128, 0xF7F80280428054140000035A, .mxlook {} { d := .s 20, a := .s 21, b := .s 40, m0 := true, fin := .ctr 10, x := .mxlook 255 30 }),
    (128, 0xF00002804030080100000362, .mxsave {} { d := .s 1, a := .s 2, b := .s 3, m0 := true, fin := .ctr 10, x := .mxcap 30 }),
    (128, 0xE80002804030080100000366, .mxload {} { d := .s 1, a := .k 2, b := .s 3, m0 := true, fin := .ctr 10, x := .mxcap 29 })
    ] : List (Nat × Nat × Instr)).all (fun x => decodeTableWord x.1 x.2.1 = some x.2.2) = true := by decide

/-- Words of every instruction of the system family, written from its encoding tables. -/
theorem test_decode_system : ([
    (96, 0xC8000000400000381, .capld {} { form := .c, d := .k 4, imm := 0xC }),
    (64, 0x40800C0500000384, .capnar {} { form := .a, d := .k 5, a := .k 3, b := .sp 8, m0 := true }),
    (64, 0x40800C0500000388, .capvw {} { form := .a, d := .k 5, a := .k 3, b := .s 8, m0 := true }),
    (64, 0x40800C050000038C, .capdrp {} { form := .a, d := .k 5, a := .k 3, b := .s 8, m0 := true }),
    (96, 0x100700000391, .capqryLen {} { form := .b, d := .s 7, a := .k 4 }),
    (96, 0x4000000100700000391, .capqryBase {} { form := .b, d := .s 7, a := .k 4, sub := 1 }),
    (96, 0x8000000100700000391, .capqryAttr {} { form := .b, d := .s 7, a := .k 4, sub := 2 }),
    (96, 0xC000000100700000391, .capqryValid {} { form := .b, d := .s 7, a := .k 4, sub := 3 }),
    (64, 0x1F00000394, .capclr {} { form := .a, d := .k 31 }),
    (64, 0x45C07C1E00000398, .capsv {} { form := .a, d := .k 30, a := .k 31, b := .s 92, m0 := true }),
    (64, 0x45C07C1E0000039C, .caprs {} { form := .a, d := .k 30, a := .k 31, b := .s 92, m0 := true }),
    (64, 0x3A0, .tret {} { form := .a }),
    (96, 0x80000000000000003A1, .tretSkip {} { form := .b, sub := 2 }),
    (96, 0x40045C07C00000003A1, .tretImg {} { form := .b, a := .k 31, b := .s 92, m0 := true, sub := 1 }),
    (64, 0x45C07C00000003A4, .ccsv {} { form := .a, a := .k 31, b := .s 92, m0 := true }),
    (96, 0x40000000000000003A5, .ccsvDrain {} { form := .b, sub := 1 }),
    (64, 0x5000003A8, .fltqLanes {} { form := .a, d := .s 5 }),
    (96, 0x40000000005000003A9, .fltqLane {} { form := .b, d := .s 5, sub := 1 }),
    (96, 0x80000000005000003A9, .fltqIlen {} { form := .b, d := .s 5, sub := 2 }),
    (96, 0xC0040300006000003A9, .fltqErr {} { form := .b, d := .sp 6, b := .s 3, m0 := true, sub := 3 }),
    (96, 0x100040300006000003A9, .fltqRpc {} { form := .b, d := .s 6, b := .s 3, m0 := true, sub := 4 })
    ] : List (Nat × Nat × Instr)).all (fun x => decodeTableWord x.1 x.2.1 = some x.2.2) = true := by decide

/-- Reserved encodings: an unassigned opcode, a reserved bit of word 0, form C of an opcode without it, type 31, an odd pair,
a predicate beyond 15, a counter of another class, and a displaced reserved bit of X. -/
theorem test_decode_reserved :
    ([(64, 0x60), (64, 0x800002A8), (96, 0x80000000_00000041), (96, 0x2A5 + 0xF8000000 * 2 ^ 64), (64, 0x0010000100000384),
      (64, 0x0000_4000_0000_02A0), (96, 0x00100442_0081800400000201 + 0x80 * 2 ^ 64), (128, 0x252 + 2 ^ 127)] : List (Nat × Nat)).all
      (fun x => decodeTableWord x.1 x.2 = none) = true := by decide

/-- Why bytes are no instruction. -/
def whyNot (bs : List Byte) : Option DecErr := match decodeBytes {} bs with | .error e => some e | .ok _ => none

/-- Each is refused under its own name: outside a routine `TRET` has no opcode (R61). -/
theorem test_decode_names :
    [leBytes 8 0x60, leBytes 8 0x800002A8, leBytes 8 3, leBytes 8 0x2A5, [], leBytes 8 0x3A0].map whyNot =
      [some .illegalOp, some .illegalField, some .pad, some .truncated, some .truncated, some .illegalOp] := by decide

/-- The encoder writes the spec's words (R59). -/
theorem test_encode :
    encode (.ld {} { d := .v 4, base := .v 8, k := 2, cc := 1, sz := 2, ty := .b32, disp := 4 }) =
      some { len := 1, w0 := 0x0081800400000201, w1 := 0x00100422 } ∧
    encode (.infl {} { d := .s 4, a := .k 3, b := .s 6, m0 := true, fin := .ctr 10 }) =
      some { len := 2, w0 := 0x40600C0400000342, w1 := 0x280, w2 := 0 } := by decide

/-! ### Single steps -/

/-- `SADD` with a negative immediate wraps to 64 bits (R53, R90). -/
theorem test_sadd : (after (exec (.sadd {} { form := .c, d := .s 3, a := .s 2, imm := 0xFFFFFFFB }) (running (regs [] [(2, 3)])))).rdS 3 =
    0xFFFFFFFFFFFFFFFE := by decide

/-- `SMUL.sat.i32` clamps and counts (R80, R81, R90). -/
theorem test_smul_sat :
    let w := after (exec (.smul {} { form := .b, d := .s 4, a := .s 5, b := .s 6, ty := .i32, sat := true }) (running (regs [] [(5, 0x80000000), (6, 2)])))
    w.rdS 4 = 0xFFFFFFFF80000000 ∧ w.wc.satcnt = 1 := by decide

/-- Division by zero gives all ones, and the remainder the dividend (R91). -/
theorem test_division :
    (after (exec (.sdiv {} { d := .s 4, a := .s 5, b := .s 6 }) (running (regs [] [(5, 7)])))).rdS 4 = 0xFFFFFFFFFFFFFFFF ∧
    (after (exec (.smod {} { d := .s 4, a := .s 5, b := .s 6 }) (running (regs [] [(5, 7)])))).rdS 4 = 7 ∧
    (after (exec (.sdiv {} { d := .s 4, a := .s 5, b := .s 6 }) (running (regs [] [(5, 0xFFFFFFFFFFFFFFF9), (6, 2)])))).rdS 4 =
      0xFFFFFFFFFFFFFFFD := by decide

/-- `SBFX` of 0xF30: four bits from 4 up are 3, and from 8 up −1 (R91's own example). -/
theorem test_sbfx :
    (after (exec (.sbfx {} { form := .c, d := .s 4, a := .s 5, imm := 0x404 }) (running (regs [] [(5, 0xF30)])))).rdS 4 = 3 ∧
    (after (exec (.sbfx {} { form := .c, d := .s 4, a := .s 5, imm := 0x408 }) (running (regs [] [(5, 0xF30)])))).rdS 4 = allOnes64 := by decide

/-- `VADD.sat.i16x2` (the example of R92), guarded by a predicate that is false in lane 1. -/
theorem test_vadd_sat :
    let w := after (exec (.vadd { pg := 1 } { form := .b, d := .v 6, a := .v 4, b := .s 9, m0 := true, ty := .i16x2, sat := true })
      (running (regs [(4, 0, 0x7FFFFFFB), (4, 1, 0x7FFFFFFB)] [(9, 0x7FF00005)] [(1, 0, 1)])))
    w.rdV 6 0 = 0x7FFF0000 ∧ w.rdV 6 1 = 0 ∧ w.wc.satcnt = 1 := by decide

/-- `VCMP` of bytes writes one predicate bit per byte (R93). -/
theorem test_vcmp : (after (exec (.vcmp {} { form := .b, d := .p 1, a := .v 2, b := .v 3, ty := .i8x4, sub := 2 })
    (running (regs [(2, 0, 0x00FF7F80), (3, 0, 0x01000000)] [])))).rdP 1 0 = 0b1101 := by decide

/-- `FFMA.rz` truncates what `.rn` would round up: 1 + 2⁻²⁴ × 1.5 (R77, R95). -/
theorem test_ffma :
    let w := regs [(2, 0, 0x33C00000), (3, 0, 0x3F800000), (4, 0, 0x3F800000)] []
    (after (exec (.ffma {} { form := .b, d := .v 10, a := .v 2, b := .v 3, c := .v 4, rnd := .rz }) (running w))).rdV 10 0 = 0x3F800000 ∧
    (after (exec (.ffma {} { form := .b, d := .v 10, a := .v 2, b := .v 3, c := .v 4 }) (running w))).rdV 10 0 = 0x3F800001 := by decide

/-- `FADD` of +0 and −0 is −0 only under `.rm` (R82). -/
theorem test_fadd_zero :
    let w := regs [(1, 0, 0), (2, 0, 0x80000000)] []
    (after (exec (.fadd {} { d := .v 4, a := .v 1, b := .v 2 }) (running w))).rdV 4 0 = 0 ∧
    (after (exec (.fadd {} { form := .b, d := .v 4, a := .v 1, b := .v 2, rnd := .rm }) (running w))).rdV 4 0 = 0x80000000 := by decide

/-- `FMIN` prefers −0 and gives NaN for a NaN (R96). -/
theorem test_fmin :
    (after (exec (.fmin {} { d := .v 4, a := .v 1, b := .v 2 }) (running (regs [(2, 0, 0x80000000)] [])))).rdV 4 0 = 0x80000000 ∧
    (after (exec (.fmin {} { d := .v 4, a := .v 1, b := .v 2 }) (running (regs [(2, 0, 0xFF800001)] [])))).rdV 4 0 = 0x7FC00000 := by decide

/-- `CVT.i8.f32`: ties to even, a clamp counts 1, and NaN gives 0 and counts 1 (R80's examples). -/
theorem test_cvt :
    let w := after (exec (.cvt {} { form := .b, d := .v 1, a := .v 2, ty := .i8, ty2 := .f32 })
      (running (regs [(2, 0, 0x40200000), (2, 1, 0x40600000), (2, 2, 0xC348B333), (2, 3, 0x7FC00000)] [])))
    w.rdV 1 0 = 2 ∧ w.rdV 1 1 = 4 ∧ w.rdV 1 2 = 0xFFFFFF80 ∧ w.rdV 1 3 = 0 ∧ w.wc.satcnt = 2 := by decide

/-- `QLQ4`: Table 5.12's own example, 0.3 to code 11, −0.6 to code 2 and 1.0 to code 15 with a block scale of 1. -/
theorem test_qlq4 :
    let one : W32 := 0x3F800000
    let run := fun sub (a old : W32) => (after (exec (.qlq4Nib {} { form := .b, d := .v 7, a := .v 9, b := .v 6, sub := sub })
      (running (regs [(9, 0, a), (6, 0, one), (7, 0, old)] [])))).rdV 7 0
    run 0 0x3E99999A 0 = 0xB ∧ run 1 0xBF19999A 0xB = 0x2B ∧ run 2 one 0x2B = 0xF2B := by decide +kernel

/-- A vote counts only executing lanes (R107). -/
theorem test_pvote :
    let w := regs [] [] [(2, 0, 1), (2, 3, 1), (1, 0, 1), (1, 1, 1)]
    (after (exec (.pvote { pg := 1 } { form := .b, d := .s 1, a := .p 2, sub := 2 }) (running w))).rdS 1 = 1 ∧
    (after (exec (.pcnt {} { d := .s 1, a := .p 2 }) (running w))).rdS 1 = 2 := by decide

/-- `XROT` reads the lane b above, around the width (R108). -/
theorem test_xrot :
    let w := after (exec (.xrot {} { d := .v 5, a := .v 2, b := .s 3, m0 := true }) (running (regs [(2, 0, 7), (2, 1, 9)] [(3, 1)])))
    w.rdV 5 0 = 9 ∧ w.rdV 5 15 = 7 ∧ w.wc.xlane = false := by decide

/-- An exclusive scan starts with the identity (R109). -/
theorem test_xscan :
    let w := after (exec (.xscan {} { form := .b, d := .v 5, a := .v 2, sub := 16 }) (running (regs [(2, 0, 3), (2, 1, 4)] [])))
    w.rdV 5 0 = 0 ∧ w.rdV 5 1 = 3 ∧ w.rdV 5 2 = 7 ∧ w.rdV 5 15 = 7 := by decide

/-- `GMASK` of the executing lanes (R108). -/
theorem test_gmask : (after (exec (.gmask { pg := 1 } { form := .b, d := .s 1, sub := 1 }) (running (regs [] [] [(1, 2, 1), (1, 4, 1)])))).rdS 1 =
    0b10100 := by decide

/-- A store to scratchpad and the load of the bytes it wrote, one step each: `STU` of 8 bytes, `LDU` of the upper 4 (R169, R170). -/
theorem test_store_load :
    let t := later (exec (.stu {} { d := .s 4, base := .s 0, m0 := true, scr := true, cc := 4, sz := 3, disp := 1 }) (running (regs [] [(4, 0x8877665544332211)])))
    let u := exec (.ldu {} { d := .s 5, base := .s 0, m0 := true, scr := true, cc := 0, sz := 2, ty := .i32, disp := 3 }) { t with cur := some issue }
    readBytes t.mem ((Region.scratch 0).at 8) 9 = [0x11, 0x22, 0x33, 0x44, 0x55, 0x66, 0x77, 0x88, 0] ∧
    (after (.next (later u))).ops.map CtrOp.writes = [[], [.s 5 0xFFFFFFFF88776655]] := by decide

/-- A misaligned access is a trap, and without a trap routine it ends the frame (R167, R308). -/
theorem test_misaligned :
    let t := next (exec (.ld {} { d := .v 4, base := .s 0, m0 := true, scr := true, cc := 0, sz := 2 }) (running (regs [] [(0, 2)])))
    t.frames.map Frame.phase = [.removing] ∧ (t.entry 4 0).fault = 5 := by decide

/-- Two lanes add to one word, the lower lane first, and each gets the old value it saw (R173). -/
theorem test_atom :
    let r := exec (.atom { pg := 1 } { d := .v 1, base := .v 2, scr := true, cc := 4, sz := 2 })
      (running (regs [(1, 0, 5), (1, 1, 7)] [] [(1, 0, 1), (1, 1, 1)]))
    readNat (later r).mem ((Region.scratch 0).at 0) 4 = 12 ∧ (after (.next (later r))).ops.map CtrOp.writes = [[.v 1 0 0, .v 1 1 5]] := by decide

/-- `BRA −32` goes back from its own PC (R223). -/
theorem test_bra : ((after (exec (.bra {} { form := .c, imm := 0xFFFFFFE0 }) (running warp))).lane 15).pc = 0xE0 := by decide

/-- `EXIT` of every lane frees the warp's slot; of some lanes it does not (R224). -/
theorem test_exit :
    (after (exec (.exit {} {}) (running warp))).gone = true ∧ (after (exec (.exit { pg := 1 } {}) (running (regs [] [] [(1, 3, 1)])))).gone = false ∧
    (after (exec (.exit { pg := 1 } {}) (running (regs [] [] [(1, 3, 1)])))).liveLanes.length = 15 := by decide

/-- `MFS` reads WARP, W and CLOCK (Table 5.2). -/
theorem test_mfs :
    [1, 4, 7].map (fun r => (after (exec (.mfs {} { d := .s 1, a := .x r }) { running warp with now := 9 })).rdS 1) = [0, 16, 9] := by decide

/-- `CAPDRP` drops permissions; `CAPNAR` beyond the end traps with CAP_BOUNDS (R282, R284). -/
theorem test_capabilities :
    let c : Cap := { kind := 0, base := 0x1000, len := 64, perm := 0x1F }
    let w := (regs [] [(8, 32), (9, 33)]).put (.k 3 c)
    (after (exec (.capdrp {} { d := .k 5, a := .k 3, b := .s 7, m0 := true }) (running (w.put (.s 7 2))))).rdK 5 = { c with perm := 0x1D } ∧
    ((next (exec (.capnar {} { d := .k 5, a := .k 3, b := .sp 8, m0 := true }) (running w))).entry 4 0).fault = 7 := by decide

/-- `TAGFF` gives the lowest ready tag (R188). -/
theorem test_tagff : (after (exec (.tagff {} { d := .s 1, a := .s 2 })
    { running (regs [] [(2, 0xF0)]) with tags := [(4, { count := 1, issued := true }), (5, { issued := true }), (6, { issued := true })] })).rdS 1 = 5 := by decide

/-- `GRPQ.count` of group 0 counts the frame's warps (R227). -/
theorem test_grpq : (after (exec (.grpqCount {} { d := .s 1, a := .g 0 }) (running warp))).rdS 1 = 1 := by decide

/-- CRC-32C of the nine digits (R250's check value). -/
theorem test_crc : crc32c [0x31, 0x32, 0x33, 0x34, 0x35, 0x36, 0x37, 0x38, 0x39] = 0xE3069283 := by decide +kernel

/-- The first bytes of SHA-512("abc") (FIPS 180-4, which R39 names). -/
theorem test_sha512 : (sha512Bytes [0x61, 0x62, 0x63]).take 8 = [0xDD, 0xAF, 0x35, 0xA1, 0x93, 0x61, 0x7A, 0xBA] := by decide +kernel

/-! ### Hypotheses can be met -/

theorem witness_DecodeEncode : ∃ (c : DecCtx) (i : Instr) (w : Words), i.wf = true ∧ i.admitted c = true ∧ encode i = some w :=
  ⟨{}, .ld {} { d := .v 4, base := .v 8, k := 2, cc := 1, sz := 2, ty := .b32, disp := 4 }, _, by decide, by decide, rfl⟩

theorem witness_EncodeDecode : ∃ (c : DecCtx) (i : Instr) (n : Nat) (bs : List Byte), decodeBytes c bs = .ok (i, n) :=
  ⟨{}, .exit {} {}, 8, leBytes 8 0x2A4, rfl⟩

/-- Each range of unassigned opcodes, at its ends, and an opcode of each other clause. -/
theorem witness_UnassignedOpcodes :
    [0x18, 0x1F, 0x37, 0x3F, 0x53, 0x5F, 0x67, 0x7B, 0x7F, 0x8D, 0x8F, 0x9F, 0xAF, 0xB8, 0xBF, 0xC8, 0xCF, 0xDF, 0xEB, 0xFF].all (fun op =>
      bits (4 * op) 9 2 == op && (opClass op).isNone) = true ∧
    [0xB6, 0xB7, 0xE6, 0xEA].all (fun op => bits (4 * op) 9 2 == op && privilegedOp op) = true ∧
    [0x66, 0xD4, 0xDE].all (fun op => bits (4 * op) 9 2 == op && !assignedIn 4 op && assignedIn 5 op) = true ∧
    [0x91, 0xB4, 0xB5].all (fun op => bits (4 * op) 9 2 == op && !assignedIn 3 op && assignedIn 4 op) = true := by decide +kernel

/-- A warp that runs ahead, with `n` instructions issued. -/
def ahead (n : Nat) : Warp := { warp with run := some { ckpt := warp.wc, issued := n } }

/-- `s` with a word in the text of launch 0. -/
def withText (s : State) (pc w : Nat) : State := { s with mem := writeNat s.mem ((Region.text 0).at pc) 8 w }

/-- The hypotheses of a step's statements that do not speak of a meaning, of an issue `c` and its environment `e`. -/
def Ready (s : State) (c : Issue) (e : Env) (pc n : Nat) (i : Instr) : Prop :=
  s.cur = some c ∧ (landed s c).env = some e ∧ StartsAt (landed s c) e pc ∧ pc % 32 + n ≤ 32 ∧
    (∀ k ∈ waitsFor (landed s c) e pc, e.w.outstanding k = 0 ∧ sget none e.w.errs k = none) ∧
    ((match decodeBytes e.decCtx (textBytes (landed s c) e pc) with | .ok x => decide (x = (i, n)) | .error _ => false) = true) ∧
    regRange e.l.vregs e.l.sregs e.w.priv i = none

theorem witness_StepRunsInstruction : Ready (withText (running warp) 0x100 0x2A8) issue (env warp) 0x100 8 (.nop {} {}) ∧ (env warp).w.run = none := by
  unfold Ready StartsAt; decide +kernel

/-- Both clauses, at the bounds of the count. -/
theorem witness_StepRunsAhead :
    ∀ n ∈ [0, 1, 511, 512], Ready (withText (running (ahead n)) 0x100 0x2A8) issue (env (ahead n)) 0x100 8 (.nop {} {}) ∧
      ∃ r, (env (ahead n)).w.run = some r ∧ r.issued = n := by
  intro n hn
  refine ⟨?_, _, rfl, rfl⟩
  revert n
  unfold Ready StartsAt; decide +kernel

/-- An issue at another PC, with 64 bytes of text and a word there. -/
def fetchAt (pc w : Nat) : State :=
  { withText (running warp) pc w with launches := [{ loadedLaunch with textEnd := 0x140 }], cur := some { issue with pc := pc } }

/-- The PCs of the clauses: misaligned, below the text, at its end, a pad inside a block, a pad at the end of the text, two
pads, an instruction that crosses its block, one at the last word of a block's room, and a word that decodes to nothing. -/
theorem witness_FetchTraps :
    [(0x102, 0), (0xFC, 0), (0x140, 0), (0x100, 3), (0x13C, 3), (0x11C, 3 + 3 * 2 ^ 32), (0x11C, 1), (0x118, 0), (0x110, 2)].all (fun x =>
      let c := { issue with pc := x.1 }
      let s := fetchAt x.1 x.2
      match (landed s c).env with
      | some e => s.cur == some c && e.w.run.isNone && (x.1 == 0x102 || textWord (landed s c) e x.1 == x.2 % 2 ^ 32)
      | none => false) = true := by decide +kernel

/-- An instruction starts at its PC or past one pad. -/
theorem witness_StartsAt : StartsAt (fetchAt 0x110 2) { env warp with c := { issue with pc := 0x110 } } 0x110 ∧
    StartsAt (fetchAt 0x11C 3) { env warp with c := { issue with pc := 0x11C }, t := { loadedLaunch with textEnd := 0x140 } } 0x120 := by
  unfold StartsAt; decide +kernel

theorem witness_StepBetweenIssues : ({ agenda := [.touch] } : State).cur = none ∧ Instr.touch.parts = none ∧
    (Instr.nop {} {}).parts ≠ none ∧ State.reset.cur = none ∧ State.reset.agenda = [] := by decide

theorem witness_StepKeepsMemoryForm : SafeState { agenda := [.touch] } ∧ ∃ t, step { agenda := [.touch] } = .next t := ⟨rfl, _, rfl⟩

theorem witness_ReadAfterWrite : Memory.wf [] = true ∧ (∀ i < 8, isParam (0 + i) = false) ∧ isParam ((Region.param 0).at 0) = true := by decide

theorem witness_registers : RegsOk warp ∧ InOrder warp ∧ InOrder { warp with wc := { warp.wc with pend := [⟨1, 0, .s 1 0⟩, ⟨1, 0, .s 1 1⟩, ⟨3, 1, .s 2 0⟩] } } :=
  ⟨⟨rfl, rfl, rfl, rfl, rfl⟩, List.Pairwise.nil, by simp [InOrder]⟩

/-- An issue outside runahead. -/
theorem issuing : Issuing (running warp) (env warp) := ⟨by decide +kernel, rfl⟩

/-- Its 16 lanes execute. -/
theorem acts : Acts (running warp) (env warp) {} := ⟨issuing, by decide +kernel⟩

/-- A counter that is full, and one that is not. -/
def full (c : Nat) : Warp := { warp with ops := List.replicate 63 { id := 0, ctr := c } }

theorem witness_FalseGuard : Issuing (running warp) (env warp) ∧ (env warp).exec { pg := 1 } = [] ∧
    (Instr.sadd { pg := 1 } {}).parts = some (0, { pg := 1 }, .alu {}) ∧ actsUnguarded 0 = false ∧
    (Instr.ld { pg := 1 } {}).parts = some (0x80, { pg := 1 }, .mem {}) ∧ (env warp).w.outstanding 0 = 0 ∧
    Issuing (running (full 0)) (env (full 0)) ∧ (env (full 0)).exec { pg := 1 } = [] ∧ (env (full 0)).w.outstanding 0 = 63 :=
  ⟨issuing, by decide +kernel, rfl, by decide, rfl, rfl, ⟨by decide +kernel, rfl⟩, by decide +kernel, by decide +kernel⟩

theorem witness_ScalarResults : ∃ row, scalarRow (.sadd {} { d := .s 3, a := .s 1, b := .s 2 }) = some row ∧ row.o.d = .s 3 ∧
    row.o.ty ∈ scalarTypes ∧ Acts (running warp) (env warp) row.h := ⟨_, rfl, rfl, by decide, acts⟩

theorem witness_VectorResults : ∃ row, vectorRow (.vadd {} { d := .v 3, a := .v 1, b := .v 2 }) = some row ∧ row.o.d = .v 3 ∧
    row.o.ty ∈ vectorTypes ∧ Issuing (running warp) (env warp) := ⟨_, rfl, rfl, by decide, issuing⟩

/-- The operands of each clause; a pair for the 64-bit forms of `VLEA`. -/
theorem witness_VectorMoveResults : Issuing (running warp) (env warp) ∧ ({ d := .v 1 } : AluArgs).ty ∈ [Ty.dflt, .i32, .n32, .b32] ∧
    ({ d := .p 1, ty := .i8x4 } : AluArgs).ty ∈ vectorTypes ∧ ({ form := .b, d := .v 1, c := .p 2 } : AluArgs).c = .p 2 ∧
    ({ form := .b, d := .vp 2, ty := .n64 } : AluArgs).d = .vp 2 := ⟨issuing, by decide, by decide, rfl, rfl⟩

theorem witness_FloatResults : ∃ row, floatRow (.ffma {} { form := .b, d := .v 3, a := .v 1, b := .v 2, c := .v 4, rnd := .rs }) = some row ∧
    row.o.d = .v 3 ∧ row.o.ty ∈ floatTypes ∧ Issuing (running warp) (env warp) := ⟨_, rfl, rfl, by decide, issuing⟩

/-- NaN and numbers, for the clauses of the order. -/
theorem witness_FloatOthersAndOrder : Issuing (running warp) (env warp) ∧ ({ d := .p 1, ty := .f16x2 } : AluArgs).ty ∈ floatTypes ∧
    ({ form := .b, d := .v 1 } : AluArgs).ty ∈ [Ty.dflt, .bf16x2, .f16x2] ∧ XVal.nan.isNan = true ∧ (XVal.inf true).isNan = false ∧
    (XVal.fin true 0 1).isNan = false ∧ fcmp 2 (.fin true 1 1) (.fin false 1 2) = true := ⟨issuing, by decide, by decide, rfl, rfl, rfl, by decide +kernel⟩

/-- Each kind of code of a format: a number, an infinity, a NaN, at the ends of the codes. -/
theorem witness_Rounding : (0 : Nat) < 1 ∧ 0 < 2 ^ Fmt.f32.width ∧ Fmt.f32.value 0x7F7FFFFF ≠ .nan ∧ Fmt.f32.value 0x7F800000 = .inf false ∧
    Fmt.f32.value 0xFFFFFFFF = .nan ∧ 0xFFFFFFFF < 2 ^ Fmt.f32.width := by decide +kernel

theorem witness_SpecialFunctions : ({ d := .v 1 } : AluArgs).d = .v 1 ∧ Issuing (running warp) (env warp) ∧ Fmt.f32.value 0x7FC00000 = .nan :=
  ⟨rfl, issuing, by decide +kernel⟩

/-- A bay whose table 1 is loaded by launch 0, and one whose is not. -/
def withTable (s : State) (owner : Nat) : State :=
  { s with bays := [(0, { tables := [(1, { b0 := { loaded := true, valid := true, owner := owner } })] })] }

/-- Capabilities for the clauses of `FTLOAD`: too short by a byte, without the permission, of a launch that is gone, and good. -/
def image (len : Nat) (perm : BitVec 5) (lid : Nat) : Warp :=
  (regs [] []).put (.k 3 { kind := 7, len := len, perm := perm, src := .launch lid, tgt := .data lid })

theorem witness_ActivationTables :
    (∀ o ∈ [0, 1], ({ env warp with } : Env).f.lid = 0 ∧ Acts (withTable (running warp) o) (env warp) {} ∧
      (sget {} ((withTable (running warp) o).bay 0).tables 1).b0.owner = o) ∧
    (∀ x ∈ [image 3087 1 0, image 3088 2 0, image 3088 1 9, image 3088 1 0], Acts (running x) (env x) {} ∧ x.outstanding 0 < 63) ∧
    (running (image 3088 1 9)).current ((image 3088 1 9).rdK 3) = false ∧ (running (image 3088 1 0)).current ((image 3088 1 0).rdK 3) = true ∧
    Acts (running (full 1)) (env (full 1)) {} ∧ (full 1).outstanding 1 = 63 := by
  unfold Acts Issuing; decide +kernel

theorem witness_ConvertResults : ({ form := .b, d := .v 1, a := .v 4 } : AluArgs).d = .v 1 ∧ Issuing (running warp) (env warp) ∧
    Ty.e2m1x4 ∈ [Ty.dflt, .e4m3x4, .e5m2x4, .e2m1x4] ∧ Ty.n8 ∈ cvtTypes := ⟨rfl, issuing, by decide, by decide⟩

theorem witness_QuantiseResults : ({ form := .b, d := .v 1, sub := 7 } : AluArgs).sub < 8 ∧ Issuing (running warp) (env warp) := ⟨by decide, issuing⟩

/-- A NaN, a quotient just above 1, one just below −1, and 1 and −1 themselves. -/
theorem witness_NearestLevel :
    let t := fun a : Nat => (Fmt.f32.value a).div (Fmt.f32.value 0x3F800000)
    t 0x7FC00000 = .nan ∧ XVal.cmp (.ofInt 1) (t 0x3F800001) = .lt ∧ XVal.cmp (t 0xBF800001) (.ofInt (-1)) = .lt ∧
    XVal.cmp (.ofInt 1) (t 0x3F800000) ≠ .lt ∧ XVal.cmp (t 0xBF800000) (.ofInt (-1)) ≠ .lt ∧ t 0x3F800000 ≠ .nan := by decide +kernel

theorem witness_PredicateResults : Acts (running warp) (env warp) {} ∧ ({ d := .p 1, a := .p 2, b := .p 3 } : AluArgs).b = .p 3 ∧
    ({ d := .p 1, a := .v 2, ty := .b8x4 } : AluArgs).ty ∈ [Ty.dflt, .b32, .b16x2, .b8x4] ∧ ({ d := .s 1, a := .p 2, sub := 2 } : AluArgs).sub = 2 :=
  ⟨acts, rfl, by decide, rfl⟩

theorem witness_CrossLaneResults : Issuing (running warp) (env warp) ∧ ({ form := .b, d := .v 1, sub := 26 } : AluArgs).sub % 16 ≤ 10 ∧
    ({ form := .b, d := .s 1, sub := 10 } : AluArgs).sub ≤ 10 ∧ (env warp).visible ((env warp).exec {}) ≠ [] := ⟨issuing, by decide, by decide, by decide +kernel⟩

theorem witness_SpecialRegistersAndMoves : Issuing (running warp) (env warp) ∧ (∃ r, (env warp).visible ((env warp).exec {}) = 0 :: r) ∧
    Acts (running warp) (env warp) {} ∧ ({ d := .v 1, a := .x 16, sub := 1 } : AluArgs).a = .x 16 ∧ ({ form := .b, d := .s 1, sub := 4 } : AluArgs).sub ≤ 4 :=
  ⟨issuing, ⟨List.range' 1 15, by decide +kernel⟩, acts, rfl, by decide⟩

/-! Memory -/

/-- A check of accesses that all pass. -/
def passes (p : Xst × MemChk) : Bool := match p.2 with | .ok _ [] => true | _ => false

theorem of_passes {p : Xst × MemChk} (h : passes p = true) : ∃ x ls, p = (x, .ok ls []) := by
  obtain ⟨x, m⟩ := p
  unfold passes at h
  split at h
  · next h' => exact ⟨x, _, by rw [← h']⟩
  · simp at h

/-- A word of scratchpad at the address in s0. -/
def word : MemArgs := { d := .v 4, base := .s 0, m0 := true, scr := true, sz := 2, cc := 4 }

/-- The offsets and references of the clauses: misaligned, negative, the last word of the scratchpad and the first beyond it, and
for a capability of 16 bytes the same, without a permission, and of a launch that is gone. -/
theorem witness_AccessChecks :
    let c : Cap := { kind := 7, len := 16, perm := 1, src := .launch 0, tgt := .data 0 }
    (0 : Nat) < 4 ∧ ((2 : Int) % 2 ^ 64).toNat % 4 ≠ 0 ∧ ((-4 : Int) % 2 ^ 64).toNat % 4 = 0 ∧ ¬65536 < 65532 + 4 ∧ 65536 < 65536 + 4 ∧
    c.len < 16 + 4 ∧ 12 + 4 ≤ c.len ∧ c.view = 0 ∧ c.perm.getLsbD 0 = true ∧ c.perm.getLsbD 1 = false ∧
    (running warp).current c = true ∧ (running warp).current { c with src := .launch 9 } = false := by decide +kernel

theorem witness_Loads : ∃ r x ls, loadRow (.ld {} { word with cc := 0 }) = some r ∧ Issuing (running warp) (env warp) ∧ (env warp).w.outstanding r.o.cc < 63 ∧
    memCheck (running warp) (env warp) r.o r.indexed (loadLanes (env warp) r) .r = (x, .ok ls []) ∧ r.o.d = .v 4 := by
  obtain ⟨x, ls, h⟩ := of_passes (p := memCheck (running warp) (env warp) { word with cc := 0 } false (loadLanes (env warp) ⟨{}, { word with cc := 0 }, false, false⟩) .r)
    (by decide +kernel)
  exact ⟨_, x, ls, rfl, issuing, by decide +kernel, h, rfl⟩

theorem witness_StoreResults : ∃ r x ls, storeRow (.st {} word) = some r ∧ r.o.mop = 0 ∧ Issuing (running warp) (env warp) ∧ SafeState (running warp) ∧
    (env warp).l.prot = false ∧ (env warp).w.outstanding r.o.cc < 63 ∧
    memCheck (running warp) (env warp) r.o r.indexed (storeLanesOf (env warp) r) .w = (x, .ok ls []) := by
  obtain ⟨x, ls, h⟩ := of_passes (p := memCheck (running warp) (env warp) word false (storeLanesOf (env warp) ⟨{}, word, false, false⟩) .w) (by decide +kernel)
  exact ⟨_, x, ls, rfl, rfl, issuing, rfl, rfl, by decide +kernel, h⟩

theorem witness_AtomicResults : ∃ r x ls, atomRow (.atom {} word) = some r ∧ r.o.d = .v 4 ∧ (r.o.sz = 2 ∨ r.o.sz = 3) ∧ r.o.mop ≤ 10 ∧
    Issuing (running warp) (env warp) ∧ SafeState (running warp) ∧ (env warp).l.prot = false ∧ (env warp).w.outstanding r.o.cc < 63 ∧
    memCheck (running warp) (env warp) r.o false ((env warp).exec r.h) .a = (x, .ok ls []) := by
  obtain ⟨x, ls, h⟩ := of_passes (p := memCheck (running warp) (env warp) word false ((env warp).exec {}) .a) (by decide +kernel)
  exact ⟨_, x, ls, rfl, rfl, .inl rfl, by decide, issuing, rfl, rfl, by decide +kernel, h⟩

/-- A full counter; a trap of a check; a page that is absent; with and without a request ring, and with another warp ahead. -/
theorem witness_AccessStops :
    (full 4).outstanding 4 = 63 ∧ Issuing (running (full 4)) (env (full 4)) ∧
    (match memCheck (running (regs [] [(0, 2)])) (env (regs [] [(0, 2)])) word false [0] .w with | (_, .trap .misalign 2 0) => true | _ => false) = true ∧
    (let w := (regs [] []).put (.k 3 { kind := 0, len := 64, perm := 7, src := .launch 0 })
     let s := { running w with scribe := { ctxs := [(0, some { root := 0xA000000000000001 })] } }
     (match memCheck s (env w) { word with scr := false, k := 3 } false [0] .w with | (_, .ok _ [_]) => true | _ => false) = true ∧ s.requestPort = none ∧
     ({ s with ports := [(0, { prbase := 1, prn := 64 })] } : State).requestPort ≠ none ∧ (env w).w.mode = .user ∧ s.runBusy (env w) = false ∧
     ({ s with frames := s.frames ++ [{ frame (ahead 0) with fid := 1 }] } : State).runBusy (env w) = true) := by
  unfold Issuing; decide +kernel

/-- A protected frame, in which the two lanes of the first pair differ. -/
def paired (w : Warp) : State := { running w with launches := [{ loadedLaunch with prot := true, guarded := true }] }
def pairedEnv (w : Warp) : Env := { env w with l := { loadedLaunch with prot := true, guarded := true }, t := { loadedLaunch with prot := true, guarded := true } }

theorem witness_shadowCompare : let w := regs [(4, 1, 5)] []
    ∃ x ls, storeRow (.st {} word) = some ⟨{}, word, false, false⟩ ∧ Issuing (paired w) (pairedEnv w) ∧ (pairedEnv w).l.prot = true ∧ (pairedEnv w).w.outstanding 4 < 63 ∧
      memCheck (paired w) (pairedEnv w) word false (storeLanesOf (pairedEnv w) ⟨{}, word, false, false⟩) .w = (x, .ok ls []) ∧
      storedBytesOf (pairedEnv w) word 0 ≠ storedBytesOf (pairedEnv w) word 1 ∧ (pairedEnv w).exec {} = List.range 16 := by
  intro w
  obtain ⟨x, ls, h⟩ := of_passes (p := memCheck (paired w) (pairedEnv w) word false (storeLanesOf (pairedEnv w) ⟨{}, word, false, false⟩) .w) (by decide +kernel)
  exact ⟨x, ls, rfl, ⟨by decide +kernel, rfl⟩, rfl, by decide +kernel, h, by decide +kernel, by decide +kernel⟩

/-- Circles: with the frame as a member, with a free slot, and with eight others; and numbers at the end of the range. -/
theorem witness_QuietInstructions : Acts (running warp) (env warp) {} ∧ ({ d := .s 1, base := .s 2 } : MemArgs).d = .s 1 ∧
    ((running warp).circle 0 255).slots.length = 8 ∧ (((running warp).circle 0 255).slots.getD 7 {}).member = none ∧
    (let s := { running warp with circles := [{ ctx := 0, num := 0, slots := List.replicate 8 { joins := 1, member := some 7 } }] }
     ∀ j < 8, ((s.circle 0 0).slots.getD j {}).member ≠ some 0 ∧ ((s.circle 0 0).slots.getD j {}).member ≠ none) ∧
    (let s := { running warp with circles := [{ ctx := 0, num := 0, slots := [{ joins := 1, member := some 0 }] }] }
     ((s.circle 0 0).slots.getD 0 {}).member = some 0) :=
  ⟨acts, rfl, by decide +kernel, by decide +kernel, by decide +kernel, by decide +kernel⟩

/-! Tags, rings, records, copies -/

/-- Tags of core 0: 4 in use, 5 ready, 6 ready with an error. -/
def tags : SMap Tag := [(4, { count := 1, issued := true }), (5, { issued := true }), (6, { issued := true, err := some (0xB, 7) })]

theorem witness_TagResults : Acts (running warp) (env warp) {} ∧ swf {} tags = true ∧ ({ running warp with tags := tags } : State).env = some (env warp) ∧
    (let s := { running warp with tags := tags }
     ¬((s.tag 0 4).count = 0) ∧ ((s.tag 0 5).count = 0 ∧ (s.tag 0 5).issued = true ∧ (s.tag 0 5).err = none) ∧ (s.tag 0 6).err = some (0xB, 7) ∧
     (0x70#64).getLsbD 4 = true ∧ (0x8000000000000000#64).getLsbD 63 = true ∧ ¬((s.tag 0 63).issued = true)) :=
  ⟨acts, by decide +kernel, by decide +kernel, by decide +kernel⟩

/-- A ring of two slots: empty, full, and with a published item to take. -/
def ring (rsv wr tk rd : Nat) : Ring := { logn := 1, size8 := 1, rsv := rsv, wr := wr, tk := tk, rd := rd }

/-- A state with ring 5 of bay 0. -/
def ringed (w : Warp) (r : Ring) : State := { running w with bays := [(0, { rings := [(5, r)] })] }

theorem witness_Rings : Acts (running warp) (env warp) {} ∧ ({ d := .s 1, a := .s 2, x := .ring 5 } : ExtArgs).x = .ring 5 ∧
    (∀ r ∈ [ring 0 0 0 0, ring 2 0 0 0, ring 2 1 0 0, ring 2 2 1 0, ring 0 0 0 (2 ^ 32 - 2)], RingOk r ∧ BoundRing (ringed warp r) (env warp) 5 r) ∧
    (running warp).ring? 0 5 = none ∧ swf {} (ringed warp (ring 0 0 0 0)).bays = true ∧ swf {} (ringed warp (ring 0 0 0 0)).dies = true ∧
    (RingPlain (ring 3 3 3 3) ∧ readBytes (writeBytes [] ((Region.scratch 0).at 32) (ringBytes (ring 3 3 3 3))) ((Region.scratch 0).at 32) 32 = ringBytes (ring 3 3 3 3)) ∧
    ¬65536 < 65504 + 32 ∧ 65536 < 65536 + 32 := by
  refine ⟨acts, rfl, ?_, by decide +kernel, by decide +kernel, by decide +kernel, ⟨⟨⟨?_, ?_, ?_, ?_, ?_⟩, rfl, rfl⟩, by decide +kernel⟩, by decide, by decide⟩
  · intro r hr
    simp only [List.mem_cons, List.mem_nil_iff, or_false] at hr
    obtain rfl | rfl | rfl | rfl | rfl := hr <;>
      exact ⟨⟨by decide +kernel, by decide +kernel, by decide +kernel, by decide +kernel, by decide +kernel⟩, by unfold BoundRing; decide +kernel⟩
  all_goals decide +kernel

/-- A record at an address of host memory whose counter reaches 0, whose list is bound or not, and one with a bit of its reserved bytes set. -/
theorem witness_recordDecrement : SafeState (running warp) ∧ (∀ i < 32, isParam (0x1000 + i) = false) ∧
    readNat (writeNat [] 0x1000 8 3) 0x1000 8 = 3 ∧ (3#64 - 3 = 0 ∧ 3#64 - 4 ≠ 0) ∧ ((running warp).list 0 0).bound = false ∧
    ({ dies := [(0, { lists := [(15, { bound := true })] })] } : State).list 0 15 = { bound := true } ∧
    readBytes (writeNat [] 0x101F 1 1) 0x1012 14 ≠ List.replicate 14 0 := ⟨rfl, by decide +kernel, by decide +kernel, by decide, by decide +kernel, by decide +kernel, by decide +kernel⟩

theorem witness_dependencies : Acts (running warp) (env warp) {} ∧ (env warp).w.outstanding 4 < 63 ∧ (full 4).outstanding 4 = 63 ∧
    (let w := (regs [] []).put (.k 3 { kind := 7, len := 32, perm := 7, src := .launch 0, tgt := .data 0 })
     (match recordCheck (running w) (env w) {} { b := .s 1 } 3 with
      | (y, .ok [⟨_, o, some m⟩] []) => (y.s.physOf { cap := (env w).w.rdK 3, off := o } 1 m).length == 1
      | _ => false) = true) := ⟨acts, by decide +kernel, by decide +kernel, by decide +kernel⟩

/-- Lists that the instruction may use or not: null, of another kind, without a permission, and stale; full and not. -/
theorem witness_readyLists : Acts (running warp) (env warp) {} ∧ Cap.null.len = 0 ∧
    (let c : Cap := { kind := 5, len := 1, perm := 3, src := .launch 0, tgt := .list 0 1 }
     c.len ≠ 0 ∧ c.tgt = .list 0 1 ∧ c.perm.getLsbD 1 = true ∧ (running warp).current c = true ∧ (running warp).current { c with src := .launch 9 } = false) ∧
    1024 + ((running warp).list 0 1).spill > ((running warp).list 0 1).items.length ∧
    (let s : State := { running warp with dies := [(0, { lists := [(1, { items := List.replicate 1024 0 })] })] }
     1024 + (s.list 0 1).spill ≤ (s.list 0 1).items.length ∧ swf {} s.dies = true) :=
  ⟨acts, rfl, by decide +kernel, by decide +kernel, by decide +kernel⟩

/-- Copies within the launch's data area; counts at the end of the range, a tag count at its end, a group without the warp. -/
def copier : Warp := (regs [] []).put (.k 3 { kind := 7, len := 4096, perm := 7, src := .launch 0, tgt := .data 0 })
def copyArgs (fin : Done) (n : Nat) : ExtArgs := { d := .v 1, a := .v 2, fin := fin, x := .copy 3 3 false false n false 0 false }

theorem witness_copyIssues : ∃ r y ls, copyRow (.cpy {} (copyArgs (.tag 3) 32)) = some r ∧ Acts (running copier) (env copier) r.h ∧
    (∀ l ∈ (env copier).visible ((env copier).exec r.h), laneCount (env copier) r.x (copyFields r.x) l ≤ 32) ∧
    copyChecks (env copier) r.x (copyFields r.x) r.wide ((env copier).visible ((env copier).exec r.h)) ⟨running copier, (env copier).w⟩ [] [] = (y, .ok ls []) ∧
    (env copier).l.prot = false ∧ ¬4095 < ((running copier).tag 0 3).count + 16 ∧
    (let s : State := { running copier with tags := [(3, { count := 4080, issued := true })] }
     4095 < (s.tag 0 3).count + 16) ∧ (full 6).outstanding 6 = 63 ∧ (env warp).w.idx ∉ (env warp).members 1 ∧ (env warp).w.idx ∈ (env warp).members 0 ∧
    32 < laneCount (env copier) (copyArgs (.ctr 6) 33) (copyFields (copyArgs (.ctr 6) 33)) 0 := by
  obtain ⟨x, ls, h⟩ := of_passes (p := copyChecks (env copier) (copyArgs (.tag 3) 32) (copyFields (copyArgs (.tag 3) 32)) false
    ((env copier).visible ((env copier).exec {})) ⟨running copier, (env copier).w⟩ [] []) (by decide +kernel)
  exact ⟨_, x, ls, rfl, ⟨⟨by decide +kernel, rfl⟩, by decide +kernel⟩, by decide +kernel, h, rfl, by decide +kernel, by decide +kernel, by decide +kernel,
    by decide +kernel, by decide +kernel, by decide +kernel⟩

/-- A copy in flight from scratchpad to scratchpad, of one lane. -/
def inFlight : CopyOp :=
  { id := 9, fid := 0, widx := 0, core := 0, fin := .tag 3, lanes := [{ lane := 0, src := { scr := true }, n := 4, dst := { scr := true, off := 64 } }] }

/-- Moves that pass. -/
def moves (p : Xst × Chk) : Bool := match p.2 with | .ok _ => true | _ => false

theorem witness_laneMoves : let s : State := { running warp with cur := none, copies := [inFlight] }
    let x : CopyLane := { lane := 0, src := { scr := true }, n := 4, dst := { scr := true, off := 64 } }
    CanMove s inFlight x (frame warp) loadedLaunch ∧ inFlight.window = false ∧ inFlight.coll = none ∧ inFlight.dep = none ∧ loadedLaunch.guarded = false ∧
      x.src.scr = true ∧ moves ((⟨s, { idx := 0, core := 0, part := 0, slot := 0 }⟩ : Xst).move (frame warp) loadedLaunch x.src x.n .r) = true ∧
      moves ((⟨s, { idx := 0, core := 0, part := 0, slot := 0 }⟩ : Xst).move (frame warp) loadedLaunch x.dst 32 .w) = true := by
  unfold CanMove cutOff; decide +kernel

theorem witness_collectiveStarts : let s : State := { running { warp with cpygSeq := [(0, 1)] } with
      copies := [{ inFlight with coll := some (0, 0), started := false }] }
    s.frame? 0 = some (frame { warp with cpygSeq := [(0, 1)] }) ∧ s.launch? 0 = some loadedLaunch ∧
      (∀ j ∈ groupOf (frame { warp with cpygSeq := [(0, 1)] }) loadedLaunch 0, j = 0) ∧ (∃ c ∈ s.copies, c.coll = some (0, 0) ∧ c.started = false ∧ ∃ y ∈ c.lanes, y.fin = false) := by
  decide +kernel

/-! Counters, issue, control flow -/

theorem witness_Counters :
    Acts (running (full 0)) (env (full 0)) {} ∧ (full 0).outstanding 0 = 63 ∧
    (let w := { warp with errs := [(3, some (0xB, 5))] }
     Acts (running w) (env w) {} ∧ sget none w.errs 3 = some (0xB, 5) ∧ w.mode ≠ .trap ∧ w.outstanding 3 ≤ 0) ∧
    (let o : CtrOp := { id := 1, ctr := 2, peer := some 8, reg := true }
     let w := { warp with ops := [{ id := 0, ctr := 1 }, o, { id := 2, ctr := 2 }] }
     (running w).warp? ⟨0, 0⟩ = some w ∧ Oldest w 2 [{ id := 0, ctr := 1 }] o [{ id := 2, ctr := 2 }] ∧ o.done = true) := by
  unfold Acts Issuing Oldest; decide +kernel

/-- A held warp, one waiting at a join, a sleeper at its time and before it. -/
theorem witness_holdsEnd : let s := running { warp with hold := some ⟨.ctrRoom 0, 0x100, [0], 0⟩ }
    s.frame? 0 = some (frame { warp with hold := some ⟨.ctrRoom 0, 0x100, [0], 0⟩ }) ∧ s.launch? 0 = some loadedLaunch ∧
    HoldEnds s (frame warp) warp (.ctrRoom 0) ∧ ¬HoldEnds s (frame (full 0)) (full 0) (.ctrRoom 0) ∧
    (let w := warp.mapLanes (List.range 16) fun _ y => { y with waitJoin := some 3 }
     ∀ y ∈ w.wc.lanes, y.st = .live ∧ y.waitJoin = some 3) ∧
    ({ s with now := 5 } : State).now = 5 := by
  unfold HoldEnds; decide +kernel

/-- A warp with nothing to run, one whose lanes stand at two PCs, and one with a starved lane. -/
theorem witness_issueGroups : warp.burst = none ∧ (warp.mapLanes (List.range 16) fun _ y => { y with st := .exited }).chooseIssue = none ∧
    (warp.mapLanes [3, 4] fun _ y => { y with pc := 0x80 }).chooseIssue.map (fun x => (x.1, x.2.1)) = some (0x80, [3, 4]) ∧
    (warp.mapLanes [7] fun _ y => { y with pc := 0x900, miss := 32 }).chooseIssue.map (fun x => (x.1, x.2.1)) = some (0x900, [7]) := by decide +kernel

theorem witness_partitionIssues : let s : State := { running warp with cur := none }
    s.cur = none ∧ (∃ x, x ∈ s.partWarps 0 ∧ s.eligible x.1 x.2 = true ∧ x.2.late = none) ∧ (s.part 0).last = none ∧ swf {} s.parts = true :=
  ⟨rfl, ⟨(frame warp, warp), by decide +kernel, by decide +kernel, rfl⟩, by decide +kernel, by decide +kernel⟩

theorem witness_ControlFlow : Issuing (running warp) (env warp) ∧ Acts (running warp) (env warp) {} ∧ ({ a := .p 3 } : AluArgs).a = .p 3 ∧
    (let w := { warp with mode := .restore }
     (running w).env = some (env w)) ∧ (env { warp with inUi := true }).w.inUi = true ∧
    (let w := { warp with uivec := 0x104, uitags := 0x20 }
     let s := { running w with tags := tags }
     s.frame? 0 = some (frame w) ∧ (frame w).warp? 0 = some w ∧ w.run = none ∧ w.uitags.getLsbD 5 = true ∧ (s.tag 0 5).count = 0 ∧ (s.tag 0 5).issued = true ∧
       w.uivec ≠ 0 ∧ w.uim = false ∧ w.mode = .user ∧ w.liveLanes ≠ [] ∧ (s.bay 0).power = .on) := by
  refine ⟨issuing, acts, rfl, by decide +kernel, rfl, by decide +kernel⟩

/-! Traps, groups -/

/-- A context whose trap, save and restore routines are PROGRAM 1, launch 1. -/
def routine : Launch := { loadedLaunch with lid := 1, prog := 1, routine := true, sregs := 96 }
def withRoutines (s : State) : State :=
  { s with
    launches := [{ loadedLaunch with lid := 0 }, routine]
    scribe := { ctxs := [(0, some { save := some 1, restore := some 1, trap := some 1 })], progs := [(1, some { lid := some 1 })] } }

/-- A user warp with and without a routine, one that does not fit, and one inside a routine, guarded and not. -/
theorem witness_TrapEntryAndReturn :
    ((running warp).frame? 0 = some (frame warp) ∧ (frame warp).warp? 0 = some warp ∧ (running warp).launch? 0 = some loadedLaunch) ∧
    trapRoutine (running warp) loadedLaunch = none ∧ trapRoutine (withRoutines (running warp)) loadedLaunch = some routine ∧ Fits routine loadedLaunch ∧
    ¬Fits { routine with vregs := 1025 } loadedLaunch ∧
    (let w := { warp with mode := .trap, trap := { lanes := [0], ilen := 8 } }
     Acts (withRoutines (running w)) { env w with t := routine } {} ∧ w.saveReq = false ∧ w.trap.ilen ≠ 0) := by
  unfold trapRoutine Fits Acts Issuing; decide +kernel

theorem witness_Groups : Acts (running warp) (env warp) {} ∧ 0 < (env warp).f.barriers.length ∧ 0 ∈ (env warp).members 0 ∧ 0 ∉ (env warp).members 1 ∧
    ({ d := .s 1, a := .g 0 } : AluArgs).a = .g 0 ∧ ¬7 < ((env (regs [] [(2, 7)])).rdScalar (.s 2)).toNat ∧ 7 < ((env (regs [] [(2, 8)])).rdScalar (.s 2)).toNat ∧
    swf none (frame warp).fsb = true ∧ SafeState (running warp) ∧
    (let l := { loadedLaunch with guarded := true }
     ({ running warp with launches := [l] } : State).env = some { env warp with l := l, t := l }) :=
  ⟨acts, by decide, by decide +kernel, by decide +kernel, rfl, by decide +kernel, by decide +kernel, rfl, rfl, by decide +kernel⟩

/-! Capabilities, images -/

/-- A formatted view of two rows's LQ4, and rows of the raw format. -/
theorem witness_Capabilities : Acts (running warp) (env warp) {} ∧ ({ form := .c, d := .k 5, imm := 65535 } : AluArgs).imm.toNat ≤ 65535 ∧
    65535 < (0x10000#64).toNat ∧
    (let c : Cap := { len := 64, perm := 0x1F }
     c.perm.getLsbD 4 = true ∧ c.len < 1 + 64 ∧ 0 + 64 ≤ c.len ∧ c.view = 0 ∧ ({ c with perm := 0xF } : Cap).perm.getLsbD 4 = false) ∧
    (∃ f v g, viewOk f v = true ∧ 0 < storedRow f g ∧ 0 < viewRow g) ∧
    (let s : State := { running warp with scribe := { tab := [(7, (1, some 3))], maps := [(3, some { ctx := 0, tabidx := 7, len := 64 })] } }
     sget (0, none) s.scribe.tab (0 * 2 ^ 16 + 7) = (1, some 3) ∧ (s.mapObj 3).map MapObj.target = some 0) ∧
    (sget (0, none) (running warp).scribe.tab 7).2 = none :=
  ⟨acts, by decide, by decide, by decide +kernel, ⟨19, 14, 64, by decide +kernel, by decide +kernel, by decide +kernel⟩, by decide +kernel, by decide +kernel⟩

/-- A warp in a routine with a capability that reaches an image, in a mode. -/
def saver (mode : Mode) : Warp :=
  { (regs [] []).put (.k 30 { kind := 7, len := 4096, perm := 7, src := .launch 0, tgt := .data 0 }) with mode := mode }

/-- The argument that names it. -/
def imageArgs : AluArgs := { d := .k 1, a := .k 30, b := .s 6, m0 := true }

/-- One access of one lane that passes. -/
def one (p : Xst × MemChk) : Bool := match p with | (_, .ok [⟨_, _, some _⟩] []) => true | _ => false

theorem witness_saving :
    let s := withRoutines (running (saver .save))
    let e := { env (saver .save) with t := routine }
    Acts s e {} ∧ one (imageCheck s e {} imageArgs (64 + 72 * e.f.barriers.length) .w) = true ∧ one (imageCheck s e {} imageArgs 64 .r) = true ∧
      e.w.ops = [] ∧ e.w.tagCnt = [] ∧ e.f.barrsDone = false ∧
      (match imageCheck s { e with w := e.w.put (.s 6 1) } {} imageArgs 64 .w with | (_, .trap .misalign 1 0) => true | _ => false) = true := by
  unfold Acts Issuing; decide +kernel

set_option maxRecDepth 20000 in
theorem witness_warpImage :
    one (imageCheck (withRoutines (running (saver .save))) { env (saver .save) with t := routine } {} imageArgs 1152 .w) = true := by decide +kernel

theorem witness_restoring :
    Acts (withRoutines (running (saver .restore))) { env (saver .restore) with t := routine } {} ∧
    Acts (withRoutines (running (saver .trap))) { env (saver .trap) with t := routine } {} := by
  unfold Acts Issuing; decide +kernel

/-- The fields of a small warp fit its image, and its barriers theirs. -/
theorem witness_images : WarpFits warp loadedLaunch ∧ BarriersOk [{}, { gen := 0xFFFFFFFF, arrived := [0, 511] }] 512 := by
  refine ⟨⟨by decide, by decide, by decide, ?_, ?_, ?_, ?_⟩, ?_⟩
  · intro c h; simp [warp] at h
  · intro c h; simp [warp] at h
  · intro c x h; simp [warp, sget] at h
  · intro k
    by_cases h : k < 16
    · revert h k; decide +kernel
    · simp [Warp.lane, warp, List.getD_eq_getElem?_getD, h]
  · unfold BarriersOk; decide +kernel

/-! Truss -/

theorem witness_trussIssues : ∃ r, trussRow (running warp) (env warp) (.tzero {} { d := .s 1, fin := .ctr 8, x := .grp 0 }) = some r ∧ r.x.fin = .ctr 8 ∧
    r.x.d = .s 1 ∧ Acts (running warp) (env warp) r.h ∧ (env warp).f.bay < 64 ∧ 0 < (env warp).l.width ∧ (env warp).w.outstanding 8 < 63 ∧
    ((running warp).bay 0).room 0 0 = true ∧ 0 ∈ (env warp).members 0 ∧ r.fine ∧ (env (regs [] [(1, 0xFFFF)])).w.rdS 1 = 0xFFFF ∧ LowestFree ((running warp).bay 0) 0 ∧
    Names { slots := [(127, { owner := 0 })] } 0 0 (2 ^ 15 + 127) 127 ∧ (full 8).outstanding 8 = 63 :=
  ⟨_, rfl, rfl, rfl, acts, by decide, by decide, by decide +kernel, by decide +kernel, by decide +kernel, trivial, by decide +kernel,
    ⟨by decide, by decide +kernel, by decide⟩, ⟨rfl, by decide, _, rfl, rfl, rfl⟩, by decide +kernel⟩

theorem witness_slotsAndQueries : ({ d := .s 1, a := .g 0 } : ExtArgs).d = .s 1 ∧ Acts (running warp) (env warp) {} ∧ (env warp).f.bay < 64 ∧
    (([(127, ({} : Slot))] : List (Nat × Slot)).map Prod.fst).Nodup := ⟨rfl, acts, by decide, by decide⟩

/-- A queued operation on slot 0, at its beginning and finished. -/
def queued (w : TrussWork) (fin : Bool) : TrussEntry :=
  { fid := 0, group := 0, created := 0, ops := [{ id := 5, fid := 0, widx := 0, ctr := 8, slot := 0, work := w, fin := fin }] }
def trussed (w : TrussWork) (fin : Bool) : State := { running warp with cur := none, bays := [(0, { slots := [(0, {})], entries := [queued w fin] })] }

theorem witness_trussGrants : ∀ w ∈ [TrussWork.tzero, .loop { fmt := 5 } { fmt := 5 } 17 0 false 0, .tmask none, .tmask (some 0), .tld {} none,
      .tst {} none false .rn false false false false none 0 0 0 false],
    let s := trussed w false
    (s.bay 0).nextEntry s = some (queued w false) ∧ s.frame? 0 = some (frame warp) ∧ s.launch? 0 = some loadedLaunch ∧ (frame warp).warp? 0 = some warp ∧
      (s.bay 0).slot? 0 = some {} ∧ (s.bay 0).entry? 0 0 = some (queued w false) ∧ warp.run = none ∧ swf {} s.bays = true := by
  decide +kernel

theorem witness_trussCompletes : let s := trussed .tzero true
    swf {} s.bays = true ∧ (s.bay 0).entries = [] ++ queued .tzero true :: [] ∧ (queued .tzero true).ops.map TrussOp.fin = [true] ∧ s.warp? ⟨0, 0⟩ = some warp := by
  decide +kernel

/-! Engines -/

/-- A warp with a descriptor in reach, and one without. -/
theorem witness_jobSubmits : Acts (running copier) (env copier) {} ∧ (env copier).l.prot = false ∧ Done.ctr 10 ≠ .none ∧
    mortiseRow (running copier) (env copier) (.mxdrop {} { d := .s 1, a := .s 2, fin := .ctr 10 }) = some ({}, { d := .s 1, a := .s 2, fin := .ctr 10 }, .mxdrop 0, []) ∧
    descRow (.infl {} { d := .s 1, a := .k 3, b := .s 2, fin := .ctr 10 }) = some ({}, { d := .s 1, a := .k 3, b := .s 2, fin := .ctr 10 }, .inflate, 0xD0) ∧
    Room (running copier) (env copier) (.ctr 10) ∧ (full 10).outstanding 10 = 63 ∧
    (match Xst.lanes (env copier) 32 32 (fun o => { cap := (env copier).rdCap (.k 3), off := o }) { acc := .r } [(0, some 0), (0, some 32)] ⟨running copier, copier⟩ [] [] with
      | (_, .ok [⟨0, 0, some _⟩, ⟨0, 32, some _⟩] []) => true | _ => false) = true ∧
    RangeOk (running copier) ((copier.rdK 3), 0, 4096, .r) ∧ ¬RangeOk (running copier) ((copier.rdK 3), 1, 4096, .r) := by
  refine ⟨⟨⟨by decide +kernel, rfl⟩, by decide +kernel⟩, rfl, by decide, rfl, rfl, ⟨by decide +kernel, ?_, ?_⟩, by decide +kernel, by decide +kernel, ?_, ?_⟩
  · intro c h; cases h; decide +kernel
  · intro c h; cases h
  · unfold RangeOk; decide +kernel
  · unfold RangeOk; decide +kernel

theorem witness_mxstatResults : Acts (running warp) (env warp) {} ∧ dieOf (env warp).f.bay < 8 ∧
    (let s : State := { running warp with dies := [(0, { pubs := [(4095, { open_ := true, gen := 0xFFFF })] })] }
     let p : MxPub := sget {} (s.die 0).pubs 4095
     0xFFFF0FFF = 0xFFFF0FFF % 2 ^ 12 + 2 ^ 12 * 0 + 2 ^ 16 * p.gen ∧ p.gen < 2 ^ 16 ∧ p.open_ = true ∧ p.ctx = 0) :=
  ⟨acts, by decide +kernel, by decide +kernel⟩

/-- A job at the head of its engine's queue. -/
def job (w : JobWork) (ph : JobPhase) : Job := { jid := 0, ctx := 0, fid := 0, widx := 0, eng := .mortise, fin := .ctr 10, opId := 3, dreg := 1, work := w, phase := ph }
def withJob (j : Job) : State :=
  { running { warp with ops := [{ id := 3, ctr := 10, done := false }] } with cur := none, dies := [(0, { jobs := [j], handles := [(0, { open_ := true })] })] }

theorem witness_jobsRun :
    (∀ w ∈ [JobWork.mxopen {} 4, .mxopen {} 16, .mxdrop 0, .mxdrop 1, .mxapp 0 65537, .desc 0xDB (List.replicate 64 0) {} {} {}],
      Moves (withJob (job w .queued)) 0 Eng.mortise.num (job w .queued) (.engineJobStart 0 Eng.mortise.num) ∧
      Moves (withJob (job w .running)) 0 Eng.mortise.num (job w .running) (.engineRingResume 0 Eng.mortise.num)) ∧
    HandleOf ((withJob (job (.mxdrop 0) .queued)).die 0) 0 0 0 0 ∧ ((withJob (job (.mxdrop 0) .queued)).die 0).handle 1 = {} := by
  refine ⟨?_, ?_, by decide +kernel⟩
  · intro w hw
    simp only [List.mem_cons, List.mem_nil_iff, or_false] at hw
    obtain rfl | rfl | rfl | rfl | rfl | rfl := hw <;> (unfold Moves; exact ⟨⟨by decide +kernel, by decide +kernel, rfl, by decide +kernel, by decide +kernel, .inl ⟨rfl, rfl⟩⟩,
      ⟨by decide +kernel, by decide +kernel, rfl, by decide +kernel, by decide +kernel, .inr ⟨rfl, .inl rfl⟩⟩⟩)
  · unfold HandleOf; decide +kernel

theorem witness_jobsComplete : let s := withJob { job (.mxdrop 0) .finished with writes := [.s 1 7] }
    swf {} s.dies = true ∧ swf {} s.tags = true ∧ (∃ w, s.warp? ⟨0, 0⟩ = some w ∧ w.run = none ∧ (w.ops.map CtrOp.id).Nodup ∧
      Oldest w 10 [] { id := 3, ctr := 10, done := false } []) :=
  ⟨by decide +kernel, by decide +kernel, _, rfl, rfl, by decide, ⟨rfl, by simp, rfl, by simp⟩⟩

/-! Ports, interfaces, boot, the bus -/

/-- A port whose shootdown ring of one entry lies in host memory. -/
def shooting : Port := { sdbase := 0x1001, sdn := 1 }

theorem witness_DeviceRegisters : ShootRing shooting 0x1000 1 ∧ ShootRing { shooting with sdn := 65536 } 0x1000 65536 ∧
    (∀ base n, ¬ShootRing {} base n) ∧ ({ ports := [(1, { shooting with shoot := some { cons := 1, ack := 2, prod := 3 } })] } : State).port 1 = { shooting with shoot := some { cons := 1, ack := 2, prod := 3 } } ∧
    ({ ports := [(1, { shooting with shoot := some { cons := 1, ack := 2, prod := 3 } })] } : State).port 0 = {} ∧ (State.reset.port 0).shoot = none ∧
    (qifOf { ports := [(0, { qif := [(7, { cfg := 0x100003 })] })] } 0 7).cfg.getLsbD 20 = true ∧
    ¬Locked State.reset 15 ∧ Locked { tdis := [(15, { st := .run })] } 15 ∧ swf none State.reset.scribe.queues = true := by
  refine ⟨⟨by decide, by decide, by decide, 0, by decide, rfl⟩, ⟨by decide, by decide, by decide, 16, by decide, rfl⟩, ?_, by decide +kernel, by decide +kernel, by decide +kernel,
    by decide +kernel, ?_, ?_, by decide +kernel⟩
  · intro base n h; exact absurd h.1 (by decide)
  · unfold Locked; decide +kernel
  · unfold Locked; decide +kernel

/-- A live session, its last clk, and one past it. -/
theorem witness_TrustedInterfaces : SessionLive { now := 216000000000, spdm := some ⟨0⟩ } ∧ ¬SessionLive { now := 216000000001, spdm := some ⟨0⟩ } ∧
    (∀ st ∈ [TdiSt.unlocked, .locked, .run], (({ tdis := sset {} 3 { st := st, nonce := 4 } [] } : State).tdi 3).st = st) ∧
    TablesOk { tdis := [(3, { st := .run })], scribe := { queues := [(2, some { ctx := 5 })] } } := by
  refine ⟨⟨_, rfl, by decide⟩, ?_, by decide +kernel, by decide +kernel, by decide +kernel, by decide +kernel, ?_⟩
  · rintro ⟨x, h, h'⟩; cases h; exact absurd h' (by decide)
  · intro j x h
    by_cases hj : j = 2
    · subst hj; cases h; decide
    · simp [State.queueObj, sget] at h
      exact absurd h.1 hj

theorem witness_BootAndMeasurement : Memory.wf ([] : List Host.Cell) = true ∧ ((15 : Nat) < 16 ∧ (16 : Nat) < 17) ∧
    (let s : State := { scribe := { snaps := [(2, some { phase := .updating })] } }
     s.scribe.snaps.find? (fun y => y.2.any fun x => x.phase == .updating) = some (2, some { phase := .updating }) ∧ swf none s.scribe.snaps = true ∧
       swf 0 s.meas = true) := by decide +kernel

/-- An address of a mapping-free context faults; a host access of the last byte; a line whose check fails. -/
theorem witness_OutsideAccesses : swf 0 State.reset.bad = true ∧ busLen (.rmw 10 8 (256 ^ 8 - 1)) = 8 ∧ State.reset.bootstat.getLsbD 4 = false ∧
    (16 : W64).getLsbD 4 = true ∧ (match State.reset.vaRange 0 0 1 .r with | .fault .. => true | _ => false) = true ∧
    State.reset.planHeader = none ∧ (({ planbase := 0x1001 } : State).planHeader = some 0x1000) ∧ (∀ k < 128, isParam (0x2000 + k) = false) := by decide +kernel

/-! Frames -/

/-- A launch built and placed in part, of a PROGRAM that is BUILT, and the launch's frame saved in the bay's slots. -/
def placeable (fs : List Frame) : State :=
  { launches := [loadedLaunch], frames := fs, fresh := 1
    scribe := { progs := [(0, some { lid := some 0 })], entries := [(4 * 2 ^ 20, { st := .built, live := true })] } }

/-- Where it goes. -/
def there : Placement := { prog := 0, frame := 0, bay := 1, slots := [(4, 7, 15)] }

theorem witness_placesNew : let s := placeable []
    s.progObj 0 = some { lid := some 0 } ∧ s.launch? 0 = some loadedLaunch ∧ MayPlace s loadedLaunch ∧ (there.frame < loadedLaunch.frames) ∧
      s.canPlace (loadedLaunch.newFrame s.fresh 0) loadedLaunch there = true ∧
      s.canPlace (loadedLaunch.newFrame s.fresh 0) loadedLaunch { there with slots := [(8, 7, 15)] } = false ∧ CapsOk loadedLaunch ∧
      swf {} s.scribe.entries = true ∧ Fits routine loadedLaunch ∧ ¬Fits { routine with width := 32 } loadedLaunch := by
  unfold MayPlace NotHeld CapsOk Fits
  exact ⟨by decide +kernel, by decide +kernel, ⟨rfl, rfl, ⟨fun c h => by simp [State.ctxObj, placeable, sget] at h, by decide, fun i x h => by simp [placeable] at h⟩, by decide +kernel⟩,
    by decide, by decide +kernel, by decide +kernel, by decide, by decide, by decide, by decide⟩

/-- The places of a frame of one warp fit R233. -/
theorem witness_PlaceFits : PlaceFits (placeable []) (loadedLaunch.newFrame 1 0) loadedLaunch there := by
  refine ⟨by decide, by decide +kernel, by decide +kernel, ?_, by decide +kernel, fun c h => ?_, fun _ n h => ?_⟩
  · intro core part slot h
    have : (core, part, slot) = (4, 7, 15) := by
      have e : ((loadedLaunch.newFrame 1 0).warps.zip there.slots).filterMap (fun x => if x.1.gone then none else some x.2) = [(4, 7, 15)] := by decide +kernel
      rw [e] at h; simpa using h
    obtain ⟨rfl, rfl, rfl⟩ := Prod.mk.injEq .. ▸ this
    decide +kernel
  · simp [Launch.newFrame] at h
  · simp [State.slices, State.ctxObj, placeable, sget] at h

/-- A frame out, after a save, with the routines of its context. -/
def saved (f : Frame) : State :=
  { placeable [f] with scribe := { (withRoutines {}).scribe with progs := [(0, some { lid := some 0 }), (1, some { lid := some 1 })] }, launches := [loadedLaunch, routine] }

theorem witness_placesBack : let f := { frame warp with phase := .out }
    let s := saved f
    s.progObj 0 = some { lid := some 0 } ∧ s.launch? 0 = some loadedLaunch ∧ (s.frames.find? fun f => f.lid == 0 && f.idx == 0) = some f ∧
      s.frame? 0 = some f ∧ f.again = false ∧ (∃ c, s.ctxObj 0 = some c ∧ s.routineOf c.restore = some routine ∧ s.routineOf none = none) ∧ Fits routine loadedLaunch ∧
      s.canPlace f loadedLaunch there = true ∧ CapsOk routine := by
  unfold Fits CapsOk
  exact ⟨by decide +kernel, by decide +kernel, by decide +kernel, by decide +kernel, rfl, ⟨_, rfl, by decide +kernel, rfl⟩, by decide, by decide +kernel, by decide⟩

theorem witness_saveRequests : let s := saved (frame warp)
    s.frame? 0 = some (frame warp) ∧ s.launch? 0 = some loadedLaunch ∧ ((frame warp).warps.map Warp.idx).Nodup ∧ s.cur = none ∧
      (s.ctxObj 0).bind (fun c => s.routineOf c.save) = some routine ∧ (frame warp).phase = .resident ∧ (s.entry 4 0).st ≠ .faulted := by decide +kernel

/-- A frame that saves, whose only warp has left its routine; one being removed; one that leaves for a relaunch. -/
theorem witness_framesOut :
    (let f := { frame { warp with gone := true } with phase := .saving }
     let s := saved f
     s.frame? 0 = some f ∧ s.copies = [] ∧ s.idle f = true ∧ swf {} s.bays = true) ∧
    (let f := { frame warp with phase := .removing }
     (saved f).frame? 0 = some f ∧ (saved f).idle f = true) := by decide +kernel

theorem witness_relaunches :
    (let f := { frame warp with phase := .relaunching, relaunchCause := 0xF }
     let s := saved f
     s.frame? 0 = some f ∧ s.launch? 0 = some loadedLaunch ∧ s.copies = [] ∧ s.idle f = true ∧ (s.frames.map Frame.fid).Nodup ∧ swf {} s.scribe.entries = true ∧
       loadedLaunch.rstmap = none) ∧
    (let f := { frame warp with phase := .out, again := true }
     let s := saved f
     s.frame? 0 = some f ∧ s.canPlace f loadedLaunch there = true ∧ there.bay ≠ f.bay ∧ ∀ w ∈ f.warps, w.gone = false) := by decide +kernel

theorem witness_bayPower : (let b : Bay := ({} : State).bay 63
    b.power = .on ∧ b.rings = [] ∧ b.slots = []) ∧ (({ bays := [(0, { power := .waking })] } : State).bay 0).power = .waking := by decide +kernel

/-! Queues and page requests -/

/-- A context whose root entry maps every low address to itself. -/
def mapped (s : State) (x : Scribe) : State :=
  { s with mem := writeNat [] 0x80000 8 215, scribe := { x with ctxs := [(0, some { root := 0xA000000000000080 })] } }

/-- A page that is there. -/
def reaches (a : VaAcc) : Bool := match a with | .ok .. => true | _ => false

/-- A queue of two messages over the mapping at 0x10000. -/
def queue : QueueObj := { count := 2, made := true, consumer := 0 }
def queues (q : QueueObj) : State :=
  mapped {} { queues := [(5, some q)], maps := [(0, some { base := 0x10000, len := 192 })], entries := [(2 ^ 20, { st := .built, live := true })] }

theorem witness_tailWrites : let s : State := { queues queue with ports := [(0, { qif := [(0, { cfg := 0x100000 })] })] }
    (holder s 0 0 0).filter (fun x => x.2.made) = some (5, queue) ∧ (qifOf s 0 0).cfg.getLsbD 20 = true ∧ (s.tdi 0).st ≠ .run ∧ s.bootstat.getLsbD 4 = false ∧
      (s.entry 1 0).st = .built ∧ (s.entry 3 5).st = .absent ∧ 8 * 511 < 4096 ∧ swf {} s.bays = true ∧
      (let q := { queue with flags := 1, latch := [⟨0, 0, 0, 0, 1, true⟩] }
       q.flags % 2 = 1 ∧ q.latch ≠ []) := by decide +kernel

theorem witness_messagesPlaced : let q := { queue with anns := [⟨0, 0, 0, 0x20000, 1, true⟩] }
    let s := queues q
    FirstQueue s 5 q NothingIn ∧ ¬NothingIn 5 q ∧ q.inDeny = none ∧ memoryOf s q = 0x10000 ∧ SafeState s ∧
      reaches (s.vaRange 0 (0x10000 + 8) 8 .r) = true ∧ reaches (s.vaRange 0 0x20000 64 .r) = true ∧ reaches (s.vaRange 0 0x10040 64 .w) = true := by
  refine ⟨⟨by decide +kernel, [], [], rfl, fun j x h => by cases h⟩, ?_, rfl, by decide +kernel, rfl, by decide +kernel, by decide +kernel, by decide +kernel⟩
  unfold NothingIn; decide

/-- A queue whose COUNT is to change, and whose entry moves to it. -/
def resizing : State :=
  let s := queues { queue with newCount := some 1 }
  { s with scribe := { s.scribe with entries := s.scribe.entries ++ [(3 * 2 ^ 20 + 5, { st := .building })] } }

theorem witness_resizes : let q := { queue with newCount := some 1 }
    let s := resizing
    FirstQueue s 5 q (NoResize s) ∧ ¬NoResize s 5 q ∧ q.outDeny = none ∧ swf {} s.scribe.entries = true ∧
      reaches (s.vaRange 0 (memoryOf s q) (64 + 64 * max 1 q.count) .w) = true ∧ (∀ a < 192, isParam (0x10000 + a) = false) := by
  refine ⟨⟨by decide +kernel, [], [], rfl, fun j x h => by cases h⟩, ?_, rfl, by decide +kernel, by decide +kernel, by decide +kernel⟩
  unfold NoResize; decide

theorem witness_closes : let q := { queue with reason := 1 }
    let s := queues q
    FirstQueue s 5 q NoClose ∧ ¬NoClose 5 q ∧ q.outDeny = none ∧ q.claimed = none ∧ reaches (s.vaRange 0 (memoryOf s q) 192 .w) = true ∧
      s.ringAt 0 none 128 = .none ∧ s.ringAt 0 (some 0) 128 = .at_ 0x10000 1 ∧ (match appendVa s 0 0x10000 128 1 [] with | .wrote _ => true | _ => false) = true := by
  refine ⟨⟨by decide +kernel, [], [], rfl, fun j x h => by cases h⟩, ?_, rfl, rfl, by decide +kernel, rfl, by decide +kernel, by decide +kernel⟩
  unfold NoClose; decide

theorem witness_reportRings : let s := queues queue
    reaches (s.vaRange 0 0x10000 16 .w) = true ∧ reaches (s.vaRange 0 (0x10000 + 64 + 64 * (0 % 1)) 64 .w) = true ∧ SafeState s := by
  unfold SafeState; decide +kernel

/-- A group of one page, for a held warp, with a ring of 64 entries in host memory. -/
def asked (ph : PagePhase) : PageGroup := { num := 0, party := .warp ⟨0, 0⟩, recs := [(0x5000, true, false, false, 3, 0x100)], phase := ph }
def asking (ph : PagePhase) : State :=
  { running { warp with hold := some ⟨.page 0, 0x100, [3], 0⟩ } with
    cur := none, now := 1800, fresh := 1, pages := [asked ph], ports := [(0, { prbase := 0x10001, prn := 64, prsbase := 0x20001, prsn := 1 })]
    mem := writeNat [] 0x20000 8 1 }

theorem witness_PageRequests :
    (let s := asking .toSend
     s.pages.find? (fun g => g.phase == .toSend) = some (asked .toSend) ∧ s.partyWaits (asked .toSend) = true ∧ GoesTo s 0 ∧ ¬AsksOn s 1 ∧ SafeState s ∧
       ∀ k < 64 + 32 * 64, isParam (0x10000 + k) = false) ∧
    (let s := asking .sent
     (s.port 0).prsbase.getLsbD 0 = true ∧ (s.port 0).prsn.toNat % 2 ^ 17 = 1 ∧ s.rd 0x20000 8 = 1 ∧ s.rd 0x20008 8 = 0 ∧
       s.pages.find? (fun g => g.phase == .sent && g.port == 0 && g.group == s.rd 0x20040 4 && g.ctx == s.rd 0x20044 2) = some (asked .sent) ∧ s.rd 0x20047 9 = 0) ∧
    (let s := asking (.retry 1800)
     s.pages.find? (fun g => match g.phase with | .retry t => decide (t ≤ s.now) | _ => false) = some (asked (.retry 1800))) := by
  unfold GoesTo AsksOn SafeState; decide +kernel

/-! The Scribe -/

/-- A plan header at 0x1000 whose arrays are empty, with one conflict and one error entry. -/
def planned : State :=
  { planbase := 0x1001, bootstat := 3
    mem := [(0x1000, 8, 0x1_4E414C50), (0x1010, 8, 0x4000), (0x1018, 8, 0x5000), (0x1020, 8, 1), (0x1028, 8, 0x6000), (0x1030, 8, 1)].foldl
      (fun m (x : Nat × Nat × Nat) => writeNat m x.1 x.2.1 x.2.2) [] }

theorem witness_headerTest : planned.planHeader = some 0x1000 ∧ HeaderGood planned 0x1000 ∧ (readHeader planned).isSome = true := by
  refine ⟨by decide +kernel, ?_, by decide +kernel⟩
  unfold HeaderGood
  exact ⟨by decide +kernel, by decide +kernel, by decide +kernel, by decide +kernel, by decide +kernel, by decide +kernel, by decide +kernel, by decide +kernel,
    by decide +kernel, ⟨0, by decide, by decide +kernel⟩, ⟨0, by decide, by decide +kernel⟩, by decide +kernel, by decide +kernel⟩

/-- A record of a context at 0x2000, with its slot's CRC right: version 1 by committer 1. -/
def recorded (body0 : Nat) (payload : List Byte) : State :=
  let m := writeNat [] 0x2000 8 (1 + 2 ^ 48 + 2 ^ 56)
  let m := writeBytes (writeNat m 0x2040 8 body0) 0x204C payload
  { mem := writeNat m 0x2048 4 (crc32c (leBytes 8 body0 ++ payload)) }

/-- A payload with ROOT of Sv57 and no routine, map or ring. -/
def contextPayload : List Byte :=
  leBytes 8 0xA000000000000080 ++ List.replicate 8 0 ++ List.replicate 8 0xFF ++ List.replicate 8 0xFF ++ leBytes 4 0xFFFF ++ List.replicate 48 0

set_option maxRecDepth 20000 in
theorem witness_recordReads : PayloadGood 1 contextPayload ∧ readRecord (recorded (2 ^ 40) contextPayload) 1 0x2000 = .body 1 false contextPayload ∧
    readRecord (recorded (2 ^ 40 + 2 ^ 48) (List.replicate 84 0)) 1 0x2000 = .body 1 true (List.replicate 84 0) ∧ readRecord planned 1 0x2000 = .absent := by
  refine ⟨?_, by decide +kernel, by decide +kernel, by decide +kernel⟩
  exact ⟨by decide +kernel, by decide +kernel, by decide +kernel, by unfold IdIn; decide +kernel, by decide +kernel⟩

theorem witness_asBuiltEntries : State.reset.hdmBase + Config.devBytes ≤ 2 ^ 64 → Memory.wf State.reset.mem = true ∧ swf {} State.reset.scribe.entries = true ∧
    1023 < mostOf 1 ∧ ¬1024 < mostOf 1 ∧ 63 < mostOf 5 := fun _ => by decide +kernel

theorem witness_passes : planned.planbase.getLsbD 0 = true ∧ planned.bootstat.getLsbD 4 = false ∧ 3 ≤ planned.bootstat.toNat % 16 ∧ SafeState planned ∧
    planned.hdmBase + Config.devBytes ≤ 2 ^ 64 ∧ readHeader { planned with mem := [] } = none := by
  unfold SafeState; decide +kernel

/-- The tables of a device that holds nothing, and of one context. -/
theorem witness_tables : ScribeOk State.reset ∧ ScribeOk (queues queue) := by unfold ScribeOk; decide +kernel

set_option maxRecDepth 20000 in
/-- A record of each sort at one place of the CONTEXT array. -/
theorem witness_recordSteps : let h : PlanHdr := { plumb := 0, conflicts := (0, 1), arrays := [(0x2000, 1)] }
    (recorded (2 ^ 40) contextPayload).recordAt h 1 0 = .body 1 false contextPayload ∧ (recorded (2 ^ 40 + 7) contextPayload).recordAt h 1 0 = .conflict (1 + 2 ^ 48 + 2 ^ 56) (2 ^ 40 + 7) ∧
      (recorded (2 ^ 40) (List.replicate 84 1)).recordAt h 1 0 = .invalid 1 ∧ planned.recordAt h 1 0 = .absent ∧ planned.recordAt h 1 1 = .absent ∧
      (at_ contextPayload 0 8) / 2 ^ 60 = 10 ∧ planned.ctxHeld 0 = false := by decide +kernel

/-- A program whose image's header reads as zeros, one that was refused its page, and one whose page is absent. -/
def building (o : ProgObj) : State :=
  mapped {} { progs := [(0, some o)], maps := [(0, some { base := 0x10000, len := 0x1000 })], entries := [(4 * 2 ^ 20, { st := .building })] }

theorem witness_imagesBuilt : let o : ProgObj := { pending := true }
    ScribeOk (building o) ∧ ToBuild (building o) 0 o ∧ reaches ((building o).mapAccess 0 0 256 .r) = true ∧ BadVersion (List.replicate 256 0) ∧
      (match (building { o with imgmap := 1 }).mapAccess 1 0 256 .r with | .fault .. => true | _ => false) = true ∧
      (match ({ building o with mem := [] } : State).mapAccess 0 0 256 .r with | .absent _ => true | _ => false) = true := by
  unfold ScribeOk ToBuild BadVersion; decide +kernel

/-- The header of a small image with 16 lanes and one group. -/
def smallHeader : List Byte :=
  leBytes 4 0x4B4E4D44 ++ [3, 16] ++ leBytes 2 1 ++ leBytes 2 1 ++ leBytes 2 1 ++ leBytes 4 0 ++ leBytes 4 0x140 ++ leBytes 4 0x100 ++ leBytes 16 0 ++ leBytes 4 0x180 ++
    List.replicate 212 0

theorem witness_HeaderFits : HeaderFits smallHeader {} ∧ ¬BadVersion smallHeader ∧ GroupsFit smallHeader (smallHeader ++ List.replicate 128 0) {} := by
  refine ⟨?_, ?_, ?_⟩
  · unfold HeaderFits; decide +kernel
  · unfold BadVersion; decide +kernel
  · unfold GroupsFit inGroup
    refine ⟨?_, ?_⟩
    · decide +kernel
    · decide +kernel

theorem witness_drains :
    (let e : AbEntry := { st := .draining, target := 3 }
     let s : State := { scribe := { entries := [(2 * 2 ^ 20, e)], maps := [(0, some {})] } }
     s.scribe.entries.find? (fun x => x.1 / 2 ^ 20 == 2 && match x.2.revoke with | some (key, gen) => !s.inUse key gen | none => x.2.st == .draining && !s.named (x.1 % 2 ^ 20)) =
       some (2 * 2 ^ 20, e) ∧ e.revoke = none ∧ s.inUse 0 0 = false ∧ s.named 0 = false) ∧
    (let e : AbEntry := { st := .draining, target := 3 }
     let s : State := { scribe := { entries := [(2 ^ 20, e)], ctxs := [(0, some {})] } }
     s.scribe.entries.find? (fun x => x.1 / 2 ^ 20 == 1 && (x.2.st == .draining && !s.ctxNamed (x.1 % 2 ^ 20))) = some (2 ^ 20, e) ∧ s.ctxObj 0 = some {}) := by
  decide +kernel

/-! Snapshots -/

/-- A target in a peer's memory: one index entry, blocks of 4096 bytes. -/
def targeted (x : SnapObj) : State :=
  { mem := [(0, 8, 0x1_50475453), (24, 8, 0xC_00000001)].foldl (fun m (y : Nat × Nat × Nat) => writeNat m ((Region.peer 0).at y.1) y.2.1 y.2.2) []
    scribe := { maps := [(0, some { target := 1, len := 2 ^ 20 })], snaps := [(0, some x)], entries := [(5 * 2 ^ 20, { st := .building, target := 1 })] } }

/-- Its descriptor. -/
def goodTarget : SnapTarget := { indexN := 1, sqdb := 0, cqdb := 0, nsid := 1, lba := 4096, dataLba := 0, manLba := 0 }

def chunk : SnapChunk := { pos := 0, map := 0, num := 0, len := 64, slot := some 0 }

theorem witness_targets : readTarget (targeted {}) 0 = (targeted {}, some goodTarget) ∧ ((targeted {}).targetAt 0 0 64 .r).2.isSome = true ∧
    ((targeted {}).targetAt 0 4096 128 .r).2.isSome = true := by decide +kernel

/-- A snapshot with nothing to suspend, one with a chunk to copy, to digest, to claim and to write, and one whose chunks are done. -/
theorem witness_FirstSnap : ∀ x ∈ [({ phase := .suspending } : SnapObj), { phase := .moving, chunks := [{ chunk with slot := none }] }, { phase := .moving, chunks := [chunk] },
      { phase := .moving, ctxs := [0], chunks := [{ chunk with chunk := some 0, slot := none }] }, { phase := .checking, ctxs := [0] }, { phase := .restoring, ctxs := [0] }],
    ScribeOk (targeted x) ∧ (∀ z ∈ x.held ++ x.ctxs, z < 2 ^ 16) ∧ (targeted x).scribe.snaps = [] ++ (0, some x) :: [] ∧ readTarget (targeted x) x.tgtmap = (targeted x, some goodTarget) := by
  unfold ScribeOk; decide +kernel

theorem witness_chunks : (targeted {}).freeSpare = some 0 ∧ ((targeted {}).chunkAddrs { chunk with len := 0 }).2 = [] ∧
    (let x : SnapObj := { phase := .moving, waits := some 0 }
     ((targeted x).targetAt 0 (4096 + 128 * 0 + 64) 8 .a).2.isSome = true) ∧
    (∀ n < 64, isParam (slotOf State.reset 0 + n) = false ∨ State.reset.hdmBase ≠ 0) := by
  refine ⟨by decide +kernel, by decide +kernel, by decide +kernel, ?_⟩
  intro n _; exact .inr (by decide +kernel)

/-! Invariants -/

/-- The state after reset, and one from which a step answers a next state. -/
theorem witness_StepKeepsNumbers : NumbersOk State.reset ∧ NumbersOk { agenda := [.touch] } ∧ ∃ t, step { agenda := [.touch] } = .next t := by
  refine ⟨⟨by decide, by decide, by decide⟩, ⟨by decide, by decide, by decide⟩, _, rfl⟩

theorem witness_StepKeepsForms : FormsOk { agenda := [.touch] } ∧ ∃ t, step { agenda := [.touch] } = .next t := by
  exact ⟨⟨by decide, (by unfold ScribeOk; decide), fun f h => (by cases h), fun f h => (by cases h), fun f h => (by cases h), by decide, fun i x h => (by cases h), fun i x h => (by cases h)⟩, _, rfl⟩

/-! Units in flight, bursts, what is held before issue -/

/-- A unit of an access of one word of the scratchpad. -/
def unitOf (op lane : Nat) (w : UnitWork) : MemUnit := { op := op, lane := lane, work := w }
def wordAt (a : Nat) : List Nat := (List.range 4).map fun i => (Region.scratch 0).at (a + i)

/-- A store, a fence of its lane, and a read-modify-write of an operation at a peer, whose line is good or bad; links up and down. -/
theorem witness_units :
    let st := unitOf 1 0 (.store (wordAt 0) [1, 2, 3, 4])
    let rmw := unitOf 2 0 (.rmw (wordAt 0) 1 0 none (some { r := 4, lanes := [0] }) 0)
    SafeState (running warp) ∧ (wordAt 0).Nodup ∧ (wordAt 0).length ∈ [4, 8] ∧ (∀ a ∈ wordAt 0, isParam a = false) ∧ (∀ a ∈ wordAt 0, (running warp).lineBad a = false) ∧
      (∃ a ∈ wordAt 0, ({ running warp with bad := [((Region.scratch 0).at 0 / 64, 1)] } : State).lineBad a = true) ∧ (running warp).noPath = false ∧
      ({ running warp with linksDown := (List.range 16).map fun i => (i, true) } : State).noPath = true ∧
      ({ warp with acc := [rmw], ops := [{ id := 2, ctr := 4, peer := some 8 }] } : Warp).peerOf rmw = some 8 ∧
      0 ∈ (running warp).performable { warp with acc := [st, unitOf 3 0 (.fence .plain [0]), rmw] } ∧
      2 ∉ (running warp).performable { warp with acc := [st, unitOf 3 0 (.fence .plain [0]), rmw] } := by
  unfold SafeState; decide +kernel

/-- A formatted view of one element, and its bytes. -/
theorem witness_viewReads : let r : MemRef := { cap := { kind := 0, fmt := 16, view := 13, len := 64, geom := 1 } }
    r.scr = false ∧ r.cap.view ≠ 0 ∧ 0 < 2 := by decide

/-- A burst over two PCs of three lanes, of which one has been issued in it. -/
def bursting (pcs : List Nat) : Warp :=
  { warp.mapLanes [3, 4] fun _ y => { y with pc := 0x80 } with burst := some { pcs := pcs, run := [3, 4, 5], done := [4] } }

theorem witness_bursts : (bursting []).burst = some { pcs := [], run := [3, 4, 5], done := [4] } ∧
    (let w := bursting [0x40, 0x80, 0x100]
     w.burst = some { pcs := [0x40, 0x80, 0x100], run := [3, 4, 5], done := [4] } ∧ (∀ k ∈ [3, 5], (w.lane k).pc ≠ 0x40) ∧ (w.lane 3).pc = 0x80 ∧
       (w.lane 3).st = .live ∧ (w.lane 3).waitJoin = none ∧ (w.lane 3).waitBar = none ∧ (w.lane 5).pc = 0x100) := by decide +kernel

/-- A warp held on a full queue, and the queue. -/
def queuedUp : State :=
  { running { warp with hold := some ⟨.queueRoom, 0x100, [0], 5⟩ } with cur := none, dies := [(0, { jobs := List.replicate 64 (job (.mxdrop 0) .queued) })] }

theorem witness_eligibility : warp.run = none ∧
    (∃ h o, (Instr.ld {} word).parts = some (0x80, h, .mem o)) ∧ (∃ h o, (Instr.frcp {} {}).parts = some (0x4A, h, .alu o)) ∧
    (∃ h x, (Instr.cpy {} (copyArgs (.tag 3) 32)).parts = some (0x90, h, .ext x) ∧ x.fin = .tag 3) ∧
    (∃ h x, (Instr.mloop {} { d := .s 1, fin := .ctr 8, x := .loop 0 17 0 }).parts = some (0xC0, h, .ext x) ∧ x.fin = .ctr 8) ∧
    (∃ h x, (Instr.infl {} { d := .s 1, fin := .ctr 10 }).parts = some (0xD0, h, .ext x) ∧ (env warp).exec h ≠ []) ∧
    queuedUp.queueTurn (frame warp) warp = false ∧ (queuedUp.queueHeld 0) = [(⟨0, 0⟩, 5)] ∧
    (∃ e i pc n, (withText (running warp) 0x100 0x2A8).upNext (frame warp) warp = some (e, .instr i pc n)) :=
  ⟨rfl, ⟨_, _, rfl⟩, ⟨_, _, rfl⟩, ⟨_, _, rfl, rfl⟩, ⟨_, _, rfl, rfl⟩, ⟨_, _, rfl, by decide +kernel⟩, by decide +kernel, by decide +kernel,
    ⟨{ env warp with c := { issue with len := 0 } }, .nop {} {}, 0x100, 8, by decide +kernel⟩⟩

/-! Copies, decrements, images -/

theorem of_moves {p : Xst × Chk} (h : moves p = true) : ∃ x m, p = (x, .ok m) := by
  obtain ⟨x, m⟩ := p
  unfold moves at h
  split at h
  · next h' => exact ⟨x, _, by rw [← h']⟩
  · simp at h

/-- A lane of no bytes, and the state in which its copy is in flight. -/
def zeros : CopyLane := { lane := 0, src := { scr := true }, n := 0, dst := { scr := true, off := 64 } }
def copying : State := { running warp with cur := none, copies := [inFlight] }

/-- A lane whose range translates; a copy to a peer with every link down. -/
theorem witness_laneBytes : (∃ v ms as dst, LaneAt copying (frame warp) loadedLaunch inFlight zeros v ms as dst) ∧ ¬cutOff copying zeros ∧
    cutOff { copying with linksDown := (List.range 16).map fun i => (i, true) } { zeros with src := { cap := { kind := 1 } } } ∧
    (copying.copies.map CopyOp.id).Nodup ∧ inFlight ∈ copying.copies := by
  refine ⟨?_, by unfold cutOff; decide +kernel, by unfold cutOff; decide +kernel, by decide, by decide⟩
  obtain ⟨z, md, h⟩ := of_moves (p := (⟨copying, { idx := 0, core := 0, part := 0, slot := 0 }⟩ : Xst).move (frame warp) loadedLaunch zeros.dst 32 .w) (by decide +kernel)
  have strict : ¬strictCopy loadedLaunch zeros := by unfold strictCopy; decide
  exact ⟨_, _, _, _, _, z, md, ⟨rfl, rfl⟩, h, rfl, rfl, fun h => absurd h strict, fun _ => rfl⟩

/-- A word through a register window that reaches a live lane, and one beyond the registers. -/
theorem witness_windowWrites : let s := { running warp with launches := [{ loadedLaunch with lid := 0 }], scribe := (placeable []).scribe }
    s.frameNamed 0 0 = some (frame warp) ∧ s.warp? ⟨0, (4 * 15) / (256 * 1024)⟩ = some warp ∧ s.frame? 0 = some (frame warp) ∧ 4 * 15 % 256 / 4 = 15 := by decide +kernel

/-- A decrement in flight, ready and not. -/
theorem witness_decrementMade : let d : DepOp := { id := 3, fid := 0, widx := 0, pc := 0x100, cap := { kind := 0, len := 32, perm := 7 }, off := 0, amount := 1 }
    let s : State := { running warp with deps := [d] }
    s.deps.find? (fun x => x.id == d.id) = some d ∧ s.frame? d.fid = some (frame warp) ∧ s.launch? 0 = some loadedLaunch ∧ d.paused = none ∧
      loadedLaunch.guarded = false ∧ warp.acc = [] := by decide +kernel

/-! Jobs -/

/-- A job, a ring with a slot for it, and one without. -/
theorem witness_slotsTaken : let j := job (.desc 0xD0 (List.replicate 64 0) {} {} {}) .running
    (∀ r ∈ [{ ring 1 1 0 0 with size8 := 2 }, { ring 0 0 0 0 with size8 := 2 }], (ringed warp r).jobRing j 5 = some r) ∧ j.badIn = none ∧
      ({ ring 1 1 0 0 with size8 := 2 } : Ring).empty = false ∧ ({ ring 0 0 0 0 with size8 := 2 } : Ring).empty = true ∧
      (match jobAccess (ringed warp { ring 1 1 0 0 with size8 := 2 }) j 0 (({ ring 1 1 0 0 with size8 := 2 } : Ring).slot 0) 8 .r with | .ok .. => true | _ => false) = true := by
  decide +kernel

theorem witness_jobsAdvance : let s := withJob (job (.mxdrop 0) .queued)
    swf {} s.dies = true ∧ (s.die 0).jobs = [] ++ job (.mxdrop 0) .queued :: [] ∧ (job (.mxdrop 0) .queued).eng.num = Eng.mortise.num := by decide +kernel

/-! Lines, records -/

/-- A line that is good, and one whose check fails; an error ring of two records, empty and full. -/
theorem witness_lines : swf 0 State.reset.bad = true ∧ Memory.wf State.reset.mem = true ∧ isParam 0x1000 = false ∧ (1 : Byte) ≠ 0 ∧
    State.reset.lineBad 0x1000 = false ∧ ({ bad := [(0x40, 1)] } : State).lineBad 0x1000 = true ∧
    (∀ k < 192, isParam (0x2000 + k) = false) ∧ swf 0 State.reset.scribe.cons = true ∧
    ((2 + 2 ^ 64 - 0) % 2 ^ 64 = 2 ∧ (1 + 2 ^ 64 - 0) % 2 ^ 64 ≠ 2) := by decide +kernel

/-- A built program of one frame whose restart record is still to be written. -/
theorem witness_recordsWritten : let l := { loadedLaunch with lid := 0, rstmap := some 0 }
    let o : ProgObj := { lid := some 0 }
    let s := { building o with launches := [l] }
    RecordsDue s 0 o l 0 ∧ FirstProg s 0 o ∧ ScribeOk s ∧ (s.entry 4 0).detail = placedOf s 4 0 ∧ reaches (s.mapAccess 0 0 64 .w) = true ∧ l.frames = o.recs + 1 := by
  refine ⟨⟨rfl, rfl, by decide +kernel, ⟨0, rfl, by decide +kernel⟩, rfl, by decide⟩, ⟨[], [], rfl, fun j x h => by cases h⟩, ?_, by decide +kernel, by decide +kernel, rfl⟩
  unfold ScribeOk; decide +kernel
/-! Ordering (Tables 9.5 to 9.17): thread T`n` is a lane of a frame in bay `n`. -/

def lane (n : Nat) : Place := { thread := .lane n 0 0, bay := n }
/-- A lane of another warp of T0's frame, in bay `b`. -/
def lane1 (b : Nat) : Place := { thread := .lane 1 0 0, bay := b }
def st (n pos : Nat) (bytes : Nat) (o : MOrd := .plain) (c : Cls := .release) (sc : Scope := .dv) : Event :=
  { place := lane n, pos := pos, writes := true, bytes := [bytes], eff := effective c o, scope := sc }
def ld (n pos : Nat) (bytes : Nat) (o : MOrd := .plain) (c : Cls := .release) (sc : Scope := .dv) : Event :=
  { place := lane n, pos := pos, reads := true, bytes := [bytes], eff := effective c o, scope := sc }
def fenceAt (n pos : Nat) (o : MOrd := .plain) : Event := { place := lane n, pos := pos, fence := some o }
def co2 : List (Nat × List Nat) := [(0, [0]), (1, [1])]

/-- SB with a = 0 and b = 0: release plain, release and acquire, fences, strict (Table 9.5). -/
def sb (o p : MOrd) (c : Cls) (fs : List Event) : Exec :=
  { events := [st 0 0 0 o c, st 1 0 1 o c, ld 0 2 1 p c, ld 1 2 0 p c] ++ fs, rf := [], co := co2 }
theorem test_sb : (sb .plain .plain .release []).allowed = true ∧ (sb .rel .acq .release []).allowed = true ∧
    (sb .plain .plain .release [fenceAt 0 1, fenceAt 1 1]).allowed = false ∧ (sb .plain .plain .strict []).allowed = false := by decide +kernel

/-- MP with a = 1 and b = 0 (Table 9.6); T1 in another bay and in T0's own. -/
def mp (o p : MOrd) (c d : Cls) (sc : Scope) (n : Nat) (more : List Event) : Exec :=
  { events := [st 0 0 0 .plain c, st 0 2 1 o c sc, { ld 1 0 1 p d sc with place := lane1 n }, { ld 1 2 0 .plain d with place := lane1 n }] ++ more
    rf := [(1, 2, 1)], co := co2 }
theorem test_mp : (mp .plain .plain .release .release .dv 1 []).allowed = true ∧ (mp .rel .plain .release .release .dv 1 []).allowed = false ∧
    (mp .plain .acq .release .release .dv 1 []).allowed = true ∧ (mp .plain .plain .strict .strict .dv 1 []).allowed = false ∧
    (mp .rel .acq .release .release .by_ 1 []).allowed = true ∧ (mp .rel .acq .release .release .by_ 0 []).allowed = false := by decide +kernel

/-- LB (Table 9.7) in every class, and a = 1, b = 0. -/
def lb (c : Cls) (rf : List (Nat × Nat × Nat)) : Exec :=
  { events := [ld 0 0 0 .plain c, st 0 1 1 .plain c, ld 1 0 1 .plain c, st 1 1 0 .plain c], rf := rf, co := [(0, [3]), (1, [1])] }
theorem test_lb : (∀ c ∈ [Cls.strict, .release, .free], (lb c [(3, 0, 0), (1, 2, 1)]).allowed = false) ∧ (lb .release [(3, 0, 0)]).allowed = true := by decide +kernel

/-- IRIW (Table 9.8). -/
def iriw (c : Cls) : Exec :=
  { events := [st 0 0 0 .plain c, st 1 0 1 .plain c, ld 2 0 0 .plain c, ld 2 1 1 .plain c, ld 3 0 1 .plain c, ld 3 1 0 .plain c]
    rf := [(0, 2, 0), (1, 4, 1)], co := co2 }
theorem test_iriw : (iriw .release).allowed = false ∧ (iriw .strict).allowed = false ∧ (iriw .free).allowed = true := by decide +kernel

/-- 2+2W with x = 1 and y = 1 at the end (Table 9.9). -/
def ww (o : MOrd) (c : Cls) : Exec :=
  { events := [st 0 0 0 .plain c, st 0 1 1 o c, st 1 0 1 .plain c, st 1 1 0 o c], rf := [], co := [(0, [3, 0]), (1, [1, 2])] }
theorem test_2_2w : (ww .plain .release).allowed = true ∧ (ww .rel .release).allowed = false ∧ (ww .plain .strict).allowed = false := by decide +kernel

/-- WRC (Table 9.10). -/
def wrc (c : Cls) : Exec :=
  { events := [st 0 0 0 .plain c, ld 1 0 0 .plain c, st 1 1 1 .plain c, ld 2 0 1 .plain c, ld 2 1 0 .plain c]
    rf := [(0, 1, 0), (2, 3, 1)], co := [(0, [0]), (1, [2])] }
theorem test_wrc : (wrc .release).allowed = false ∧ (wrc .strict).allowed = false ∧ (wrc .free).allowed = true := by decide +kernel

/-- Mixed classes (Table 9.11). -/
def mx2 : Exec :=
  { events := [st 0 0 0 .plain .strict, ld 0 1 1 .plain .strict, st 1 0 1, ld 1 1 0], rf := [], co := [(0, [0]), (1, [2])] }
def mx3 (fs : List Event) : Exec :=
  { events := [st 0 0 0 .plain .free, st 0 2 1 .rel, ld 1 0 1 .acq, ld 1 2 0 .plain .free] ++ fs, rf := [(1, 2, 1)], co := co2 }
theorem test_mixed : (mp .plain .plain .strict .release .dv 1 []).allowed = false ∧ mx2.allowed = true ∧ (mx3 []).allowed = true ∧
    (mx3 [fenceAt 0 1 .free, fenceAt 1 1 .free]).allowed = false := by decide +kernel

/-- A ring hand-off: what T1 reads of the slot after taking it (Table 9.12). -/
def handoff (rf : List (Nat × Nat × Nat)) : Exec :=
  { events := [{ st 0 0 0 with scope := .by_ }, { place := lane 0, pos := 1, gives := [.ring .by_ 4 0] }, { st 0 2 0 with scope := .by_ },
      { place := lane1 0, pos := 0, takes := [.ring .by_ 4 0] }, { ld 1 1 0 with place := lane1 0, scope := .by_ }]
    rf := rf, co := [(0, [0, 2])] }
theorem test_ring : (handoff []).allowed = false ∧ (handoff [(0, 4, 0)]).allowed = true ∧ (handoff [(2, 4, 0)]).allowed = true := by decide +kernel

def copyOf (pos byte : Nat) : Event := { st 0 pos byte with async := some 9, copy := true, on := some (.tag 0 5, 9) }
def tagWait (pos : Nat) : Event := { place := lane 0, pos := pos, waits := [(.tag 0 5, 10)] }

/-- A copy, a tag wait, a flag (Table 9.13). -/
def copyFlag (wait : List Event) : Exec :=
  { events := [copyOf 0 0, st 0 2 1 .rel, ld 1 0 1 .acq, ld 1 1 0] ++ wait, rf := [(1, 2, 1)], co := co2 }
theorem test_copy_flag : (copyFlag [tagWait 1]).allowed = false ∧ (copyFlag []).allowed = true ∧ (copyFlag [fenceAt 0 1]).allowed = true := by decide +kernel

/-- A copy and its own thread (R183, R211): what the thread reads after it, waited for and not; and a store before it. -/
theorem test_copy_own :
    (let x (wait : List Event) : Exec := { events := [copyOf 0 0, ld 0 2 0] ++ wait, rf := [], co := [(0, [0])] }
     (x []).allowed = true ∧ (x [tagWait 1]).allowed = false) ∧
    (let x (copy : Bool) : Exec := { events := [st 0 0 0, { ld 0 1 0 with async := some 9, copy := copy }], rf := [], co := [(0, [0])] }
     (x true).allowed = false ∧ (x false).allowed = true) := by decide +kernel

/-- A counter wait (Table 9.16), and a barrier (Table 9.17) after which another lane of the warp reads. -/
theorem test_waits :
    (let x : Exec := mp .plain .plain .release .release .dv 1 [{ place := lane 0, pos := 1, waits := [(.counter 0 0 4, 1)] }]
     Exec.allowed { x with events := x.events.mapIdx fun i e => if i = 0 then { e with on := some (.counter 0 0 4, 0) } else e } = false) ∧
    (let at_ (w l : Nat) (e : Event) : Event := { e with place := { thread := .lane 0 w l } }
     let x : Exec := { events := [at_ 0 3 (st 0 0 0), at_ 0 0 { place := lane 0, pos := 1, gives := [.barrier 0 0 0] },
       at_ 1 0 { place := lane 0, pos := 1, takes := [.barrier 0 0 0] }, at_ 1 2 (ld 0 2 0)], rf := [], co := [(0, [0])] }
     x.allowed = false ∧ { x with rf := [(0, 3, 0)] }.allowed = true) := by decide +kernel

/-- Lanes of one store reach coherence in lane order (R170); two aligned stores stand in one order at every byte (R204). -/
theorem test_lanes_and_units :
    (let at_ (l : Nat) : Event := { st 0 0 0 with place := { thread := .lane 0 0 l } }
     let x (co : List Nat) : Exec := { events := [at_ 0, at_ 1], rf := [], co := [(0, co)] }
     (x [0, 1]).allowed = true ∧ (x [1, 0]).allowed = false) ∧
    (let w (n : Nat) : Event := { st n 0 0 with bytes := [0, 1] }
     let x (co : List Nat) : Exec := { events := [w 0, w 1], rf := [], co := [(0, [0, 1]), (1, co)] }
     (x [0, 1]).allowed = true ∧ (x [1, 0]).allowed = false) := by decide +kernel

/-- A store from outside the scope of an RMW may come between (R206); a free-class store that is published to a release-class
read is seen by it (R210, R212). -/
theorem test_scope_and_publication :
    (let x (s : Scope) : Exec := { events := [{ st 0 0 0 with reads := true, scope := s }, st 1 0 0], rf := [], co := [(0, [1, 0])] }
     (x .wp).allowed = true ∧ (x .dv).allowed = false) ∧
    (let x (fs : List Event) : Exec := { events := [st 0 0 0 .plain .free, st 0 2 1 .rel, ld 1 0 1 .acq, ld 1 2 0] ++ fs, rf := [(1, 2, 1)], co := co2 }
     (x []).allowed = true ∧ (x [fenceAt 0 1 .free]).allowed = false) := by decide +kernel

/-- Two loads of a host hart, of which RVWMO orders an acquire, or `fence r,rw`, before the second (R213, Table 9.15). -/
theorem test_hart :
    let h (e : Event) : Event := { e with place := { thread := .hart 0 }, scope := .sy }
    let x (o : MOrd) (more : List Event) : Exec :=
      { events := [{ st 0 0 0 with scope := .sy }, st 0 1 1 .rel .release .sy, h (ld 0 0 1 o), h (ld 0 2 0)] ++ more, rf := [(1, 2, 1)], co := co2 }
    (x .plain []).allowed = true ∧ (x .acq []).allowed = false ∧
      (x .plain [h { place := lane 0, pos := 1, fence := some .acq, rv := { fence := some ((true, false), (true, true)) } }]).allowed = false := by decide +kernel

/-- Two atomics on one word cannot both read the first value (Table 9.14); a word is read whole (Table 9.15). -/
theorem test_atomics :
    (let rmw (n : Nat) : Event := { st n 0 0 with reads := true }
     let x : Exec := { events := [rmw 0, rmw 1], rf := [], co := [(0, [0, 1])] }
     x.allowed = false ∧ { x with rf := [(0, 1, 0)] }.allowed = true ∧ { x with rf := [(0, 1, 0), (1, 0, 0)] }.allowed = false) ∧
    (let x : Exec := { events := [{ st 0 0 0 with bytes := [0, 1] }, { ld 1 0 0 with bytes := [0, 1] }], rf := [(0, 1, 0)], co := [(0, [0]), (1, [0])] }
     x.allowed = false ∧ { x with rf := [(0, 1, 0), (0, 1, 1)] }.allowed = true) := by decide +kernel

theorem witness_InterleavingsAllowed : let x : Exec := { events := [st 0 0 0, st 0 1 1 .rel, ld 1 0 1 .acq, ld 1 1 0], rf := [(1, 2, 1), (0, 3, 0)], co := co2 }
    x.wf = true ∧ Interleaved x := by
  have forward : ∀ a < 4, ∀ b < 4, Exec.warpBefore { events := [st 0 0 0, st 0 1 1 .rel, ld 1 0 1 .acq, ld 1 1 0], rf := [(1, 2, 1), (0, 3, 0)], co := co2 } a b = true →
      a < b := by decide +kernel
  have alone : ∀ u < 4, ∀ r, Exec.rmwRead { events := [st 0 0 0, st 0 1 1 .rel, ld 1 0 1 .acq, ld 1 1 0], rf := [(1, 2, 1), (0, 3, 0)], co := co2 } u = some r →
      r = u := by
    intro u hu
    match u with
    | 0 | 1 | 2 | 3 => intro r h; cases h
  refine ⟨by decide +kernel, ⟨by decide +kernel, fun a ha b hb h _ => forward a ha b hb h, by decide +kernel, by decide +kernel, fun b => ?_,
    by decide +kernel, fun u hu r h n => absurd (alone u hu r h) n⟩⟩
  match b with
  | 0 => decide +kernel
  | 1 => decide +kernel
  | b + 2 =>
    have : Exec.order { events := [st 0 0 0, st 0 1 1 .rel, ld 1 0 1 .acq, ld 1 1 0], rf := [(1, 2, 1), (0, 3, 0)], co := co2 } (b + 2) = [] := by
      simp [Exec.order, co2]
    rw [this]; exact List.Pairwise.nil

end Sys2Proof.Tests
end

section
/-! The scope of the model: what a byte reads after a write, what every step keeps of memory, and that every step
answers a next state.

A step changes memory by byte writes and by leaving entries out, whatever it does, and each of the two keeps the
canonical form (`Edited.wf`). So one lemma per function of the model says that it keeps `From m₀`, the fact that a
state's memory comes from `m₀` by such edits: `From.f` for a function `f` of a state, `Issued.f` for one that needs the
issue's frame, warp and launch. The lemmas follow the calls, so a proof names the calls along each branch; they end in
`step_ok`, from which both statements about a step follow. -/

-- One declaration at a time: the threads of many small proofs at once pass the memory limit of the check.
set_option Elab.async false

namespace Sys2Proof.Machine

/-! ### A byte reads as last written -/

/-- Settles O12, from the laws of memory. -/
theorem readAfterWrite : Obligations.ReadAfterWrite := by
  intro m a n v bs hm
  refine ⟨fun hp => ⟨readBytes_writeBytes hm hp, fun k hk => readByte_writeBytes_other bs hm hk⟩, readNat_writeNat hm,
    fun k hk => ?_, wf_writeBytes a bs hm, wf_writeNat a n v hm, wf_clearRange a n hm⟩
  rw [readByte_param hk, readByte_param hk]

/-! ### Edited memory -/

/-- `n` comes from `m` by writing bytes and by leaving entries out. -/
inductive Edited (m : List Host.Cell) : List Host.Cell → Prop
  | refl : Edited m m
  | write {n : List Host.Cell} (a : Nat) (b : Byte) : Edited m n → Edited m (writeByte n a b)
  | drop {n : List Host.Cell} (p : Host.Cell → Bool) : Edited m n → Edited m (n.filter p)

section
variable {m n : List Host.Cell}

theorem Edited.wf (h : Edited m n) (hm : Memory.wf m = true) : Memory.wf n = true := by
  induction h with
  | refl => exact hm
  | write a b _ ih => exact wf_writeByte a b ih
  | drop p _ ih => exact wf_filter p ih

theorem Edited.writeBytes (h : Edited m n) (a : Nat) (bs : List Byte) : Edited m (writeBytes n a bs) := by
  induction bs generalizing n a with
  | nil => exact h
  | cons b r ih => exact ih (h.write a b) (a + 1)

theorem Edited.writeCells (h : Edited m n) (cs : List Host.Cell) : Edited m (writeCells n cs) := by
  induction cs generalizing n with
  | nil => exact h
  | cons c r ih => exact ih (h.write c.1 c.2)

theorem Edited.foldl {α : Type} {f : List Host.Cell → α → List Host.Cell} {l : List α} (h : Edited m n)
    (hf : ∀ {k a}, Edited m k → Edited m (f k a)) : Edited m (l.foldl f n) := by
  induction l generalizing n with
  | nil => exact h
  | cons a r ih => exact ih (hf h)

end

/-! ### States with edited memory -/

/-- The memory of the state comes from `m` by byte writes and by leaving entries out. -/
def From (m : List Host.Cell) (s : State) : Prop := Edited m s.mem

/-- So does the memory of the state found, where one is found. -/
def FromSome (m : List Host.Cell) (o : Option State) : Prop := ∀ t, o = some t → From m t

/-- The answer is a next state, and its memory comes from `m`. -/
def Ok (m : List Host.Cell) (r : Res) : Prop := ∃ t, r = .next t ∧ From m t

/-! `From` for each type of answer that carries a state. -/

def AcdFrom (m : List Host.Cell) : Acd → Prop
  | .ok s _ | .bad s _ => From m s
  | .absent _ => True

def VaAccFrom (m : List Host.Cell) : VaAcc → Prop
  | .ok s _ | .fault s _ _ => From m s
  | .absent _ => True

def DepEndFrom (m : List Host.Cell) : DepEnd → Prop
  | .done s _ => From m s
  | .absent _ | .wait => True

def MovedFrom (m : List Host.Cell) : Moved → Prop
  | .done s _ => From m s
  | .absent _ | .wait => True

def TickFrom (m : List Host.Cell) : Tick → Prop
  | .go s _ | .stop s _ => From m s

def RecAccFrom (m : List Host.Cell) : RecAcc → Prop
  | .ok s _ | .wait s => From m s

def AppendedFrom (m : List Host.Cell) (x : Appended) : Prop :=
  (∀ t, x = .wrote t → From m t) ∧ ∀ t va c, x = .fault t va c → From m t

def QAccFrom (m : List Host.Cell) : QAcc → Prop
  | .ok s _ | .wait s | .fault s => From m s

def PassFrom (m : List Host.Cell) : Pass → Prop
  | .paused s _ _ _ | .ended s _ _ => From m s

/-- The state runs an instruction whose frame, warp and launch are there: what no arm of `exec` refuses. -/
def Issued (m : List Host.Cell) (s : State) : Prop := From m s ∧ ∃ e, s.env = some e

def ReadyFrom (m : List Host.Cell) : Ready → Prop
  | .stop s => From m s
  | .go _ s => Issued m s

/-! ### How the fact passes through a result -/

section
variable {m₀ : List Host.Cell} {s t : State}

theorem FromSome.none : FromSome m₀ none := nofun
theorem From.toSome (hs : From m₀ s) : FromSome m₀ (some s) := fun _ e => Option.some.inj e ▸ hs

theorem From.getD {o : Option State} (hs : From m₀ s) (ho : FromSome m₀ o) : From m₀ (o.getD s) := by
  cases o with
  | none => exact hs
  | some t => exact ho t rfl

theorem From.next (hs : From m₀ s) : Ok m₀ (.next s) := ⟨s, rfl, hs⟩
theorem From.same (hs : From m₀ s) (e : t.mem = s.mem := by rfl) : From m₀ t := by unfold From; rw [e]; exact hs
theorem From.left {α : Type} {p : State × α} {a : α} (hs : From m₀ p.1) (e : p = (t, a)) : From m₀ t := by subst e; exact hs

theorem From.leftX {α : Type} {p : Xst × α} {a : α} {x : Xst} (hs : From m₀ p.1.s) (e : p = (x, a)) : From m₀ x.s := by
  subst e; exact hs

theorem From.ite {c : Prop} [Decidable c] (hs : From m₀ s) (ht : From m₀ t) : From m₀ (if c then s else t) := by
  split
  · exact hs
  · exact ht

theorem From.iteX {α : Type} {c : Prop} [Decidable c] {p q : Xst × α} (hp : From m₀ p.1.s) (hq : From m₀ q.1.s) :
    From m₀ (if c then p else q).1.s := by
  split
  · exact hp
  · exact hq

theorem From.foldl {α : Type} {f : State → α → State} (hs : From m₀ s) {l : List α}
    (hf : ∀ {t a}, From m₀ t → From m₀ (f t a)) : From m₀ (l.foldl f s) := by
  induction l generalizing s with
  | nil => exact hs
  | cons a r ih => exact ih (hf hs)

theorem AcdFrom.ok {x : Acd} {p} (h : AcdFrom m₀ x) (e : x = .ok t p) : From m₀ t := by subst e; exact h
theorem AcdFrom.bad {x : Acd} {p} (h : AcdFrom m₀ x) (e : x = .bad t p) : From m₀ t := by subst e; exact h
theorem VaAccFrom.ok {x : VaAcc} {p} (h : VaAccFrom m₀ x) (e : x = .ok t p) : From m₀ t := by subst e; exact h
theorem VaAccFrom.fault {x : VaAcc} {p c} (h : VaAccFrom m₀ x) (e : x = .fault t p c) : From m₀ t := by subst e; exact h
theorem DepEndFrom.done {x : DepEnd} {p} (h : DepEndFrom m₀ x) (e : x = .done t p) : From m₀ t := by subst e; exact h
theorem MovedFrom.done {x : Moved} {p} (h : MovedFrom m₀ x) (e : x = .done t p) : From m₀ t := by subst e; exact h
theorem TickFrom.go {x : Tick} {p} (h : TickFrom m₀ x) (e : x = .go t p) : From m₀ t := by subst e; exact h
theorem TickFrom.stop {x : Tick} {p} (h : TickFrom m₀ x) (e : x = .stop t p) : From m₀ t := by subst e; exact h
theorem RecAccFrom.ok {x : RecAcc} {p} (h : RecAccFrom m₀ x) (e : x = .ok t p) : From m₀ t := by subst e; exact h
theorem RecAccFrom.wait {x : RecAcc} (h : RecAccFrom m₀ x) (e : x = .wait t) : From m₀ t := by subst e; exact h
theorem AppendedFrom.wrote {x : Appended} (h : AppendedFrom m₀ x) (e : x = .wrote t) : From m₀ t := h.1 t e
theorem AppendedFrom.fault {x : Appended} {va c} (h : AppendedFrom m₀ x) (e : x = .fault t va c) : From m₀ t := h.2 t va c e
theorem AppendedFrom.absent {p} : AppendedFrom m₀ (.absent p) := ⟨(by rintro _ ⟨⟩), (by rintro _ _ _ ⟨⟩)⟩
theorem AppendedFrom.full : AppendedFrom m₀ .full := ⟨(by rintro _ ⟨⟩), (by rintro _ _ _ ⟨⟩)⟩
theorem From.appended (hs : From m₀ s) : AppendedFrom m₀ (.wrote s) := ⟨(by rintro _ ⟨⟩; exact hs), by rintro _ _ _ ⟨⟩⟩

theorem From.appendFault (hs : From m₀ s) {va c} : AppendedFrom m₀ (.fault s va c) :=
  ⟨(by rintro _ ⟨⟩), by rintro _ _ _ ⟨⟩; exact hs⟩

theorem QAccFrom.ok {x : QAcc} {p} (h : QAccFrom m₀ x) (e : x = .ok t p) : From m₀ t := by subst e; exact h
theorem QAccFrom.wait {x : QAcc} (h : QAccFrom m₀ x) (e : x = .wait t) : From m₀ t := by subst e; exact h
theorem QAccFrom.fault {x : QAcc} (h : QAccFrom m₀ x) (e : x = .fault t) : From m₀ t := by subst e; exact h
theorem PassFrom.paused {x : Pass} {o l p} (h : PassFrom m₀ x) (e : x = .paused t o l p) : From m₀ t := by subst e; exact h
theorem PassFrom.ended {x : Pass} {o l} (h : PassFrom m₀ x) (e : x = .ended t o l) : From m₀ t := by subst e; exact h
theorem ReadyFrom.stop {x : Ready} (h : ReadyFrom m₀ x) (e : x = .stop t) : From m₀ t := by subst e; exact h
theorem ReadyFrom.go {x : Ready} {i} (h : ReadyFrom m₀ x) (e : x = .go i t) : Issued m₀ t := by subst e; exact h

end

section
variable {m₀ : List Host.Cell} {s : State}

theorem From.writeBytes (hs : From m₀ s) {a : Nat} {bs : List Byte} : From m₀ (s.setMem (writeBytes s.mem a bs)) :=
  Edited.writeBytes hs a bs

theorem From.writeCells (hs : From m₀ s) {cs : List Host.Cell} : From m₀ (s.setMem (writeCells s.mem cs)) :=
  Edited.writeCells hs cs

theorem From.setMem {n : List Host.Cell} (hn : Edited m₀ n) : From m₀ (s.setMem n) := hn
theorem From.wr (hs : From m₀ s) {a n v : Nat} : From m₀ (s.wr a n v) := hs.writeBytes

/-! ### The memory system and the end of an issue -/

theorem From.corrupt (hs : From m₀ s) {a flip} : From m₀ (s.corrupt a flip) := Edited.write _ _ hs
theorem From.spoil (hs : From m₀ s) {l} : From m₀ (s.spoil l) := hs.same

theorem From.heal (hs : From m₀ s) {as} : From m₀ (s.heal as) := by
  fun_cases State.heal
  case case1 => exact hs
  case case2 => exact hs.same

theorem From.setEntry (hs : From m₀ s) {kind id e} : From m₀ (s.setEntry kind id e) := hs.same.wr.wr.wr.wr.wr
theorem From.faultEntry (hs : From m₀ s) {kind id cause} : From m₀ (s.faultEntry kind id cause) := From.ite hs.setEntry hs
theorem From.noteCons (hs : From m₀ s) {base cons} : From m₀ (s.noteCons base cons) := hs.same

theorem From.appendReport (hs : From m₀ s) {base size n rc} : FromSome m₀ (appendReport s base size n rc) := by
  fun_cases Machine.appendReport
  case case1 | case2 => exact .none
  case case3 => exact hs.noteCons.writeBytes.wr.toSome

theorem From.appendOrDrop (hs : From m₀ s) {base n rc} : From m₀ (appendOrDrop s base n rc) := by
  fun_cases Machine.appendOrDrop
  case case1 => exact hs.appendReport _ ‹_›
  case case2 => exact hs.wr

theorem From.errorRecord (hs : From m₀ s) {code b4 b8 b24} : From m₀ (s.errorRecord code b4 b8 b24) :=
  From.ite hs hs.appendOrDrop

theorem From.addRefused (hs : From m₀ s) {port qif} : From m₀ (s.addRefused port qif) := hs.same.wr
theorem From.setFrame (hs : From m₀ s) {f} : From m₀ (s.setFrame f) := hs.same
theorem From.setWarp (hs : From m₀ s) {fid w} : From m₀ (s.setWarp fid w) := hs.same
theorem From.modWarp (hs : From m₀ s) {i g} : From m₀ (s.modWarp i g) := hs.same
theorem From.setBay (hs : From m₀ s) {b x} : From m₀ (s.setBay b x) := hs.same
theorem From.setDie (hs : From m₀ s) {d x} : From m₀ (s.setDie d x) := hs.same
theorem From.setTag (hs : From m₀ s) {core t x} : From m₀ (s.setTag core t x) := hs.same
theorem From.setPort (hs : From m₀ s) {p x} : From m₀ (s.setPort p x) := hs.same
theorem From.tick (hs : From m₀ s) : From m₀ s.tick := hs.same

theorem From.storeAt (hs : From m₀ s) {fid buf as bs} : From m₀ (s.storeAt fid buf as bs) := by
  fun_cases State.storeAt
  case case1 => exact hs
  case case2 => exact hs.setFrame
  case case3 => exact hs.writeCells.heal

theorem From.lineError (hs : From m₀ s) {a point} : From m₀ (s.lineError a point) := hs.errorRecord

theorem From.consumeBad (hs : From m₀ s) {w bad} : From m₀ (consumeBad s w bad).1 := by
  fun_cases Machine.consumeBad
  case case1 => exact hs
  case case2 => exact hs.lineError

theorem From.unitEffect (hs : From m₀ s) {fid u} : From m₀ (s.unitEffect fid u).1 := by
  unfold State.unitEffect
  split
  case h_1 | h_4 => exact hs
  case h_2 => exact hs.storeAt
  case h_3 =>
    dsimp only
    split
    · exact hs
    · dsimp only
      split
      · exact hs.writeCells
      · exact hs

theorem From.performUnit (hs : From m₀ s) {fid w k early} : From m₀ (performUnit s fid w k early).1 := by
  fun_cases Machine.performUnit
  case case1 | case2 => exact hs
  case case3 => exact (hs.unitEffect.left ‹_›).consumeBad

theorem From.performFirst (hs : From m₀ s) {fid w n} : From m₀ (performFirst s fid w n).1 := by
  induction n generalizing s w with
  | zero => exact hs
  | succ n ih => exact ih hs.performUnit

theorem From.performBefore (hs : From m₀ s) {fid w all} : From m₀ (performBefore s fid w all).1 := hs.performFirst

theorem From.performOlder (hs : From m₀ s) {i id as all} : From m₀ (s.performOlder i id as all) := by
  fun_cases State.performOlder
  case case1 | case3 => exact hs
  case case2 => exact (hs.performFirst.left ‹_›).setWarp

theorem From.performAll (hs : From m₀ s) {fid w} : From m₀ (performAll s fid w).1 := hs.performFirst

theorem From.performWarp (hs : From m₀ s) {i} : From m₀ (s.performWarp i) := by
  fun_cases State.performWarp
  case case1 => exact hs
  case case2 => exact (hs.performAll.left ‹_›).setWarp

theorem From.performEvery (hs : From m₀ s) : From m₀ s.performEvery := hs.foldl fun hs => hs.performWarp
theorem From.endIssue (hs : From m₀ s) {fid w} : From m₀ (s.endIssue fid w) := hs.same
theorem From.finish (hs : From m₀ s) {e h w} : Ok m₀ (finish s e h w) := hs.endIssue.next
theorem From.finishAt (hs : From m₀ s) {e h w} : Ok m₀ (finishAt s e h w) := hs.endIssue.next
theorem From.holdAt (hs : From m₀ s) {e why} : Ok m₀ (holdAt s e why) := hs.endIssue.next

theorem From.commit (hs : From m₀ s) {fid} : From m₀ (s.commit fid) := by
  fun_cases State.commit
  case case1 => exact hs
  case case2 =>
    refine From.setFrame (From.heal (From.setMem (s := s) (Edited.foldl hs fun h => ?_)))
    split
    split
    · exact h.write _ _
    · exact h

theorem From.dropBuffer (hs : From m₀ s) {fid} : From m₀ (s.dropBuffer fid) := by
  fun_cases State.dropBuffer
  case case1 => exact hs
  case case2 => exact hs.setFrame

theorem From.closeBuffer (hs : From m₀ s) {fid l keep} : From m₀ (s.closeBuffer fid l keep).1 :=
  (From.ite hs.commit hs.dropBuffer).same

theorem From.withCommit (hs : From m₀ s) {e now k} (hk : ∀ {t}, From m₀ t → Ok m₀ (k t)) : Ok m₀ (withCommit s e now k) := by
  fun_cases Machine.withCommit
  case case1 => exact hk hs
  case case2 => exact hk (hs.closeBuffer.left ‹_›)
  case case3 => exact (hs.closeBuffer.left ‹_›).holdAt

theorem From.revokeWindows (hs : From m₀ s) {prog idx} : From m₀ (s.revokeWindows prog idx) := From.ite hs.performEvery.same hs

theorem From.killFrame (hs : From m₀ s) {fid cause} : From m₀ (killFrame s fid cause) := by
  fun_cases Machine.killFrame
  case case1 => exact hs
  case case2 => exact hs.setFrame
  case case3 => exact hs.setFrame.revokeWindows.faultEntry

theorem From.startRelaunch (hs : From m₀ s) {fid cause} : From m₀ (startRelaunch s fid cause) := by
  fun_cases Machine.startRelaunch
  case case1 | case2 => exact hs
  case case3 => exact hs.setFrame

theorem From.askPages (hs : From m₀ s) {fid ctx w pc lanes ps} : From m₀ (askPages s fid ctx w pc lanes ps) := hs.same.setWarp

theorem From.stopRun (hs : From m₀ s) {fid ctx w} : From m₀ (stopRun s fid ctx w) := by
  fun_cases Machine.stopRun
  case case1 => exact hs
  case case2 => exact hs.askPages

theorem From.takeTrap (hs : From m₀ s) {fid widx lanes pc ilen cause val lane late} :
    From m₀ (takeTrap s fid widx lanes pc ilen cause val lane late) := by
  fun_cases Machine.takeTrap
  case case1 | case8 => exact hs.same.performWarp
  case case2 | case3 => exact hs.same.performWarp.setWarp.startRelaunch
  case case4 | case5 | case6 => exact hs.same.performWarp.setWarp.killFrame
  case case7 => exact hs.same.performWarp.setWarp

theorem From.trap (hs : From m₀ s) {e cause val lane} : Ok m₀ (trap s e cause val lane) := by
  fun_cases Machine.trap
  case case1 => exact hs.stopRun.next
  case case2 => exact hs.takeTrap.next

theorem From.trapWord (hs : From m₀ s) {e cause} : Ok m₀ (trapWord s e cause) := hs.trap

theorem From.enterSave (hs : From m₀ s) {fid w} : From m₀ (enterSave s fid w) := by
  fun_cases Machine.enterSave
  case case1 | case2 | case3 => exact hs
  case case4 => exact hs.setWarp

theorem From.settleBarriers (hs : From m₀ s) {fid gone} : From m₀ (s.settleBarriers fid gone) := by
  fun_cases State.settleBarriers
  case case1 | case2 | case3 => exact hs
  case case4 => exact hs.setFrame

/-! ### Translation, checks and the units of an access -/

theorem Edited.writeNat {n : List Host.Cell} (hn : Edited m₀ n) {a k v} : Edited m₀ (writeNat n a k v) := hn.writeBytes a _

/-- A walk's step that goes on or ends leaves edited memory. -/
def StepEdited (m : List Host.Cell) : (List Host.Cell × Xl) ⊕ Nat → Prop
  | .inl y => Edited m y.1
  | .inr _ => True

theorem StepEdited.inl {m : List Host.Cell} {x y} (h : StepEdited m x) (e : x = .inl y) : Edited m y.1 := by subst e; exact h

theorem Edited.pteStep {n : List Host.Cell} {at_ va level acc st2 put} (hn : Edited m₀ n)
    (hp : ∀ {p}, Edited m₀ (put p).1) :
    StepEdited m₀ (pteStep n at_ va level acc st2 put) := by
  have hput {p k x} (e : put p = (k, x)) : Edited m₀ k := by simpa [e] using hp (p := p)
  fun_cases Machine.pteStep
  case case1 | case2 | case4 | case7 => exact hn
  case case3 => exact trivial
  case case5 | case6 => exact hput ‹_›

theorem Edited.walk2 {n : List Host.Cell} (hn : Edited m₀ n) {ga acc level table} :
    Edited m₀ (walk2 n ga acc level table).1 := by
  fun_induction Machine.walk2 n ga acc level table
  case case1 => exact (Edited.pteStep hn hn.writeNat).inl ‹_›
  case case2 => exact hn
  case case3 ih => exact ih

theorem Edited.stage2 {n : List Host.Cell} (hn : Edited m₀ n) {root ga acc} : Edited m₀ (stage2 n root ga acc).1 := by
  fun_cases Machine.stage2
  case case1 | case2 => exact hn
  case case3 => exact hn.walk2

theorem Edited.left {α : Type} {n : List Host.Cell} {p : List Host.Cell × α} {a : α} (h : Edited m₀ p.1)
    (e : p = (n, a)) : Edited m₀ n := by
  subst e; exact h

theorem Edited.walk1 {n : List Host.Cell} (hn : Edited m₀ n) {root2 va acc msi level table seen} :
    Edited m₀ (walk1 n root2 va acc msi level table seen).1 := by
  have put {k ea p} (hk : Edited m₀ k) : Edited m₀ (match Machine.stage2 k root2 ea .w with
      | (m, .ok at_) => (Machine.writeNat m (at_.pa + ea % 4096) 8 p, none)
      | (m, x) => (m, some x)).1 := by
    split
    · next e => exact (hk.stage2.left e).writeNat
    · next e => exact hk.stage2.left e
  fun_induction Machine.walk1 n root2 va acc msi level table seen
  case case1 | case7 => exact hn.stage2.left ‹_›
  case case2 ih => exact ih (hn.stage2.left ‹_›)
  case case3 | case6 =>
    have hm := hn.stage2.left ‹_›
    exact (hm.pteStep (put hm)).inl ‹_›
  case case4 | case5 =>
    have hm := hn.stage2.left ‹_›
    exact ((hm.pteStep (put hm)).inl ‹_›).stage2.left ‹_›

theorem Edited.walkPage (hs : From m₀ s) {u ctx c va acc o n} : Edited m₀ (s.walkPage u ctx c va acc o n).1 := by
  fun_cases State.walkPage <;> exact Edited.walk1 hs

theorem From.tlbFill (hs : From m₀ s) {u c vpn l} : From m₀ (s.tlbFill u c vpn l) := hs.same
theorem From.walkFill (hs : From m₀ s) {u c va seen} : From m₀ (s.walkFill u c va seen) := hs.same

theorem From.lookup (hs : From m₀ s) {u ctx va acc n} : From m₀ (s.lookup u ctx va acc n).1 := by
  unfold State.lookup
  split
  · exact hs
  · split
    · exact hs
    · extract_lets vpn hit cached
      clear_value cached
      split
      · exact hs.tlbFill
      · have hw {u c} : From m₀ (s.setMem (s.walkPage u ctx c va acc (va % 4096) n).1) := From.setMem (.walkPage hs)
        dsimp only
        split
        · split
          · exact hw
          · exact hw.walkFill.tlbFill
        · exact hw

theorem From.translate (hs : From m₀ s) {u ctx va acc n} : From m₀ (s.translate u ctx va acc n).1 := by
  fun_cases State.translate
  exact hs.lookup.left ‹_›

theorem From.laneTranslate (hs : From m₀ s) {w u lane ctx va acc n} : From m₀ (s.laneTranslate w u lane ctx va acc n).1 := by
  fun_cases State.laneTranslate
  case case1 => exact hs
  case case2 | case3 | case4 => exact hs.translate.left ‹_›

theorem From.xpage {x : Xst} (hs : From m₀ x.s) {who sp acc a n} : From m₀ (x.page who sp acc a n).1.s := by
  fun_cases Xst.page
  case case2 | case9 =>
    dsimp +zetaDelta only
    split
    · exact hs
    · split
      · split <;> exact hs
      · exact hs
  case case11 | case12 | case13 =>
    refine From.leftX ?_ ‹_›
    dsimp +zetaDelta only
    split
    · exact hs.laneTranslate
    · exact hs.translate (u := none)
  all_goals exact hs

theorem From.xpages {x : Xst} (hs : From m₀ x.s) {who sp acc n off ps} : From m₀ (x.pages who sp acc n off ps).1.s := by
  fun_induction Xst.pages x who sp acc n off ps
  case case1 => exact hs
  case case2 | case3 => exact hs.xpage.leftX ‹_›
  case case5 ih | case8 ih => exact ih (hs.xpage.leftX ‹_›)
  case case4 ih | case6 ih | case7 ih => exact (ih (hs.xpage.leftX ‹_›)).leftX ‹_›

theorem From.xcapRange {x : Xst} (hs : From m₀ x.s) {who c off n u} : From m₀ (x.capRange who c off n u).1.s := by
  fun_cases Xst.capRange
  case case1 | case2 | case3 | case4 => exact hs
  case case5 => exact hs.xpages

theorem From.xrange {x : Xst} (hs : From m₀ x.s) {who f l r n u} : From m₀ (x.range who f l r n u).1.s := by
  fun_cases Xst.range
  case case1 | case2 => exact hs
  case case3 => exact hs.xcapRange

theorem From.xlane {x : Xst} (hs : From m₀ x.s) {e lane off align n r u} : From m₀ (x.lane e lane off align n r u).1.s :=
  From.iteX hs (From.iteX hs hs.xrange)

theorem From.xlanes {x : Xst} (hs : From m₀ x.s) {e al n r u ls as bs} : From m₀ (Xst.lanes e al n r u ls x as bs).1.s := by
  fun_induction Xst.lanes e al n r u ls x as bs
  case case1 => exact hs
  case case2 ih => exact ih hs
  case case3 ih | case4 ih => exact ih (hs.xlane.leftX ‹_›)
  case case5 | case6 => exact hs.xlane.leftX ‹_›

theorem From.leaveBay (hs : From m₀ s) {f} : From m₀ (s.leaveBay f) := Edited.drop _ hs

theorem From.bufferLanes (hs : From m₀ s) {e o ls} : From m₀ (bufferLanes s e o ls) := by
  fun_induction Machine.bufferLanes s e o ls
  case case1 => exact hs
  case case2 ih => exact ih hs
  case case3 ih => exact ih hs.storeAt

theorem From.withRoom (hs : From m₀ s) {e ctr k} (hk : Ok m₀ k) : Ok m₀ (withRoom s e ctr k) := by
  unfold Machine.withRoom
  split
  · exact hs.holdAt
  · exact hk

theorem From.absentFault (hs : From m₀ s) {e ab} : Ok m₀ (absentFault s e ab) := by
  fun_cases Machine.absentFault
  case case1 => exact (hs.performAll.left ‹_›).setWarp.trap
  case case2 => exact (hs.performAll.left ‹_›).setWarp.askPages.next
  case case3 => exact (hs.performAll.left ‹_›).setWarp.holdAt
  case case4 => exact (hs.performAll.left ‹_›).setWarp.setWarp.next

theorem From.afterChecks (hs : From m₀ s) {e res spec k ra} (hx : From m₀ res.1.s)
    (hk : ∀ {t e ls}, From m₀ t → Ok m₀ (k t e ls))
    (hr : ∀ {e ls}, Ok m₀ (ra s e ls)) : Ok m₀ (afterChecks s e res spec k ra) := by
  fun_cases Machine.afterChecks
  case case1 => exact hs.trap
  case case2 | case6 => exact hs.stopRun.next
  case case3 => exact hs.holdAt
  case case4 => exact hk hx
  case case5 => exact hs.absentFault
  case case7 => exact hr

theorem From.makeRoom (hs : From m₀ s) {fid w n} : From m₀ (makeRoom s fid w n).1 := by
  fun_cases Machine.makeRoom
  case case1 => exact hs
  case case2 => exact (hs.setWarp.performAll.left ‹_›).foldl fun hs => hs.performWarp

theorem From.issueUnits (hs : From m₀ s) {fid w ctr reg peer us done} :
    From m₀ (issueUnits s fid w ctr reg peer us done).1 := by
  fun_cases Machine.issueUnits
  exact (hs.makeRoom.left ‹_›).tick

theorem From.modList (hs : From m₀ s) {die idx g} : From m₀ (s.modList die idx g) := hs.setDie
theorem From.pushItem (hs : From m₀ s) {die idx item} : From m₀ (s.pushItem die idx item) := From.ite hs.modList hs.wr.modList

theorem From.popItem (hs : From m₀ s) {die idx x t} (e : s.popItem die idx = some (x, t)) : From m₀ t := by
  revert e
  fun_cases State.popItem
  case case1 => nofun
  case case2 | case3 =>
    rintro ⟨⟩
    exact hs.modList

theorem From.depSubtract (hs : From m₀ s) {ctx a amount val off} : DepEndFrom m₀ (depSubtract s ctx a amount val off) := by
  fun_cases Machine.depSubtract
  case case1 => exact hs.lineError
  case case2 => exact hs
  case case3 | case4 => exact hs.wr
  case case5 => exact trivial
  case case6 => exact hs.wr.pushItem

theorem From.depDecrement (hs : From m₀ s) {f l cap off amount} : DepEndFrom m₀ (depDecrement s f l cap off amount) := by
  fun_cases Machine.depDecrement
  case case1 => exact ((From.ite hs.commit hs).xcapRange.leftX ‹_›).depSubtract
  case case2 | case4 => exact From.ite hs.commit hs
  case case3 | case5 => exact trivial

theorem From.memCheck (hs : From m₀ s) {e o indexed lanes acc} : From m₀ (memCheck s e o indexed lanes acc).1.s := hs.xlanes

theorem From.finishUnits (hs : From m₀ s) {e h o reg ls us} : Ok m₀ (finishUnits s e h o reg ls us) := by
  fun_cases Machine.finishUnits
  exact (hs.issueUnits.left ‹_›).finish

theorem From.finishEmpty (hs : From m₀ s) {e h ctr} : Ok m₀ (finishEmpty s e h ctr) := hs.tick.finish
theorem From.addDep (hs : From m₀ s) {e c off amount} : From m₀ (s.addDep e c off amount) := hs.same

theorem From.finishStore (hs : From m₀ s) {e h o ls us} : Ok m₀ (finishStore s e h o ls us) := by
  fun_cases Machine.finishStore
  case case1 => exact (hs.issueUnits.left ‹_›).finish
  case case2 => exact (hs.issueUnits.left ‹_›).addDep.finish

theorem From.setCircle (hs : From m₀ s) {c} : From m₀ (s.setCircle c) := hs.same
theorem From.vacate (hs : From m₀ s) {f} : From m₀ (s.vacate f) := hs.same

theorem From.finishLaunch (hs : From m₀ s) {l} : From m₀ (s.finishLaunch l) :=
  (hs.foldl fun hs => hs.revokeWindows.leaveBay).same.setEntry

theorem From.settleDone (hs : From m₀ s) : From m₀ s.settleDone := hs.foldl fun hs => hs.finishLaunch

/-! ### Copies, dependency records and rings -/

theorem From.copyChecks {t : Xst} (hs : From m₀ t.s) {e x c wide ls as bs} :
    From m₀ (copyChecks e x c wide ls t as bs).1.s := by
  have src {t : Xst} (hs : From m₀ t.s) {c : Prop} [Decidable c] {x who f l r n u}
      (e : (if c then (t, Chk.ok []) else t.range who f l r n u) = x) : From m₀ x.1.s := by
    subst e; exact From.iteX hs hs.xrange
  fun_induction Machine.copyChecks e x c wide ls t as bs
  case case1 => exact hs
  case case2 ih => exact ih hs
  case case3 | case4 | case5 => exact src hs ‹_›
  case case6 | case7 => exact (From.xrange (src hs ‹_›)).leftX ‹_›
  case case8 ih => exact ih ((From.xrange (src hs ‹_›)).leftX ‹_›)

theorem From.countTag (hs : From m₀ s) {core t n} : From m₀ (s.countTag core t n) := by
  fun_cases State.countTag
  case case1 => exact hs
  case case2 => exact hs.setTag

theorem From.xmove {x : Xst} (hs : From m₀ x.s) {f l r n acc} : From m₀ (x.move f l r n acc).1.s := by
  fun_cases Xst.move
  case case1 => exact hs.xrange
  case case2 => exact hs.xpages

theorem From.windowWord (hs : From m₀ s) {prog idx a x} : From m₀ (s.windowWord prog idx a x) := by
  fun_cases State.windowWord
  case case1 | case2 => exact hs
  case case3 => exact hs.modWarp

theorem From.windowWords (hs : From m₀ s) {prog idx a n bs} : From m₀ (s.windowWords prog idx a n bs) := by
  induction n generalizing s a bs with
  | zero => exact hs
  | succ n ih => exact ih hs.windowWord

theorem From.storeLane (hs : From m₀ s) {l c x dst bs} : MovedFrom m₀ (storeLane s l c x dst bs) := by
  fun_cases Machine.storeLane
  case case1 => exact hs.windowWords
  case case2 | case5 | case7 => exact hs
  case case3 | case4 | case6 => exact hs.storeAt

theorem From.moveLane (hs : From m₀ s) {f l c x} : MovedFrom m₀ (moveLane s f l c x) := by
  fun_cases Machine.moveLane
  case case1 | case4 | case7 => exact hs
  case case2 | case3 | case5 | case6 => exact trivial
  all_goals
    have ht := ((From.iteX hs hs.xmove).leftX ‹_›).xmove.leftX ‹_›
  case case8 => exact (From.ite ht.performOlder.commit ht.performOlder).storeLane
  case case9 => exact (From.ite ht.performOlder.commit ht.performOlder).lineError.startRelaunch
  case case10 => exact (From.ite ht.performOlder.commit ht.performOlder).lineError.modWarp.storeLane

theorem From.tagDone (hs : From m₀ s) {i core t err} : From m₀ (s.tagDone i core t err) := hs.setTag.modWarp
theorem From.dropCopy (hs : From m₀ s) {id} : From m₀ (s.dropCopy id) := hs.same

theorem From.finishCopy (hs : From m₀ s) {c} : From m₀ (finishCopy s c) := by
  fun_cases Machine.finishCopy
  case case1 => exact hs.dropCopy.foldl fun hs => hs.tagDone
  case case2 => exact hs.dropCopy.modWarp
  case case3 => exact hs.dropCopy

theorem From.beginDep (hs : From m₀ s) {c} : From m₀ (s.beginDep c) := by
  fun_cases State.beginDep
  case case1 | case2 => exact hs
  case case3 => exact hs.same

theorem From.finishCollective (hs : From m₀ s) {fid k} : From m₀ (finishCollective s fid k) := by
  fun_cases Machine.finishCollective
  case case1 => exact hs
  case case2 => exact hs.foldl fun hs => hs.beginDep
  case case3 => exact (hs.foldl fun hs => hs.finishCopy).setFrame
  case case4 => exact hs.foldl fun hs => hs.finishCopy

theorem From.settleCopy (hs : From m₀ s) {id} : From m₀ (settleCopy s id) := by
  fun_cases Machine.settleCopy
  case case1 | case3 => exact hs
  case case2 => exact hs.finishCollective
  case case4 => exact hs.beginDep
  case case5 => exact hs.finishCopy

theorem From.askJob (hs : From m₀ s) {party ctx pc p} : From m₀ (askJob s party ctx pc p) := hs.same
theorem From.setCopy (hs : From m₀ s) {id g} : From m₀ (s.setCopy id g) := hs.same
theorem From.setCopyLane (hs : From m₀ s) {id lane g} : From m₀ (s.setCopyLane id lane g) := hs.setCopy

theorem From.laneDone (hs : From m₀ s) {id lane err} : From m₀ (laneDone s id lane err) := by
  fun_cases Machine.laneDone
  case case1 | case3 => exact hs.setCopyLane
  case case2 => exact hs.setCopyLane.tagDone
  case case4 => exact hs.setCopyLane.setCopy.settleCopy

theorem From.execTagLanePerformed (hs : From m₀ s) {opId lane} : Ok m₀ (execTagLanePerformed opId lane s) := by
  fun_cases Machine.execTagLanePerformed
  case case1 | case2 | case3 | case6 | case8 => exact hs.next
  case case4 => exact hs.laneDone.settleDone.next
  case case5 => exact (hs.moveLane.done ‹_›).laneDone.settleDone.next
  case case7 => exact hs.askJob.setCopyLane.next

theorem From.depDone (hs : From m₀ s) {d err} : From m₀ (depDone s d err) := From.ite hs.same.setCopy.settleCopy hs.same.modWarp

theorem From.performDep (hs : From m₀ s) {id} : From m₀ (performDep s id) := by
  fun_cases Machine.performDep
  case case1 | case3 | case4 | case6 => exact hs
  case case2 | case7 => exact hs.same
  case case5 => exact (hs.depDecrement.done ‹_›).depDone.settleDone

theorem From.execCpygCollectiveStart (hs : From m₀ s) {fid g} : Ok m₀ (execCpygCollectiveStart fid g s) := by
  fun_cases Machine.execCpygCollectiveStart
  case case1 | case2 | case4 => exact hs.next
  case case3 => exact hs.same.finishCollective.settleDone.next

theorem From.tagTrap (hs : From m₀ s) {e t x} : Ok m₀ (tagTrap s e t x) := by
  fun_cases Machine.tagTrap
  case case1 => exact hs.setTag.stopRun.next
  case case2 => exact hs.setTag.takeTrap.next

theorem From.setRing (hs : From m₀ s) {bay code r} : From m₀ (s.setRing bay code r) := From.ite hs.setBay hs.setDie
theorem From.seal (hs : From m₀ s) {ctx c} : From m₀ (s.seal ctx c).1 := hs.same

theorem From.orIssued (hs : From m₀ s) {core tagiss} : From m₀ (s.orIssued core tagiss) :=
  hs.foldl fun hs => From.ite hs.setTag hs

/-! ### Truss and the text engines -/

theorem From.consumed (hs : From m₀ s) {l i off} : From m₀ (consumed s l i off) := by
  fun_cases Machine.consumed
  case case1 => exact hs.startRelaunch
  case case2 => exact hs.modWarp

theorem From.tldRows (hs : From m₀ s) {f l q a cap n o sl} : PassFrom m₀ (tldRows f l q a cap n s o sl) := by
  fun_induction Machine.tldRows f l q a cap n s o sl
  case case1 => exact hs
  case case2 ih | case3 ih => exact ih _ _ hs
  case case4 | case5 | case6 => exact hs
  case case7 ih =>
    have hx := hs.xmove.leftX ‹_›
    refine ih _ _ ?_
    dsimp +zetaDelta only
    split
    · exact hx.lineError.consumed
    · exact hx

theorem From.tstWrite (hs : From m₀ s) {f l q a cap start n o sl} : PassFrom m₀ (tstWrite f l q a cap start n s o sl) := by
  fun_induction Machine.tstWrite f l q a cap start n s o sl
  case case1 | case3 | case4 | case5 => exact hs
  case case2 ih => subst cap; exact ih hs.writeBytes
  case case6 ih => subst cap; exact ih (hs.xmove.leftX ‹_›).storeAt

theorem From.trussPass (hs : From m₀ s) {f l w o sl} : PassFrom m₀ (trussPass s f l w o sl) := by
  fun_cases Machine.trussPass
  case case5 => exact hs.tldRows
  case case6 => exact hs.tstWrite
  all_goals exact hs

theorem From.trussPut (hs : From m₀ s) {bay fid g o sl} : From m₀ (s.trussPut bay fid g o sl) := hs.setBay

theorem From.noteTrussFault (hs : From m₀ s) {o} : From m₀ (s.noteTrussFault o) := by
  fun_cases State.noteTrussFault
  case case1 => exact hs.modWarp
  case case2 => exact hs

theorem From.execTrussGrant (hs : From m₀ s) {bay} : Ok m₀ (execTrussGrant bay s) := by
  fun_cases Machine.execTrussGrant
  case case1 | case4 | case5 => exact hs.next
  case case2 => exact ((From.ite hs hs.setBay).trussPass.ended ‹_›).trussPut.noteTrussFault.next
  case case3 => exact ((From.ite hs hs.setBay).trussPass.paused ‹_›).askJob.trussPut.next

theorem From.execTrussOpComplete (hs : From m₀ s) {bay} : Ok m₀ (execTrussOpComplete bay s) := by
  fun_cases Machine.execTrussOpComplete
  case case1 | case2 => exact hs.next
  case case3 => exact hs.setBay.modWarp.settleDone.next

theorem From.ftDone (hs : From m₀ s) {o err} : From m₀ (s.ftDone o err) := hs.same.modWarp

theorem From.execFtloadFlip (hs : From m₀ s) : Ok m₀ (execFtloadFlip s) := by
  fun_cases Machine.execFtloadFlip
  case case1 | case5 => exact hs.next
  case case2 | case4 | case8 => exact hs.ftDone.next
  case case3 => exact hs.same.next
  case case6 => exact (hs.xmove.leftX ‹_›).performOlder.setBay.ftDone.next
  case case7 =>
    have ht := hs.xmove.leftX ‹_›
    exact (From.ite ht.performOlder.lineError.consumed ht.performOlder.lineError.consumed.setBay).ftDone.next

theorem From.jobAccess (hs : From m₀ s) {j fid r n acc} : AcdFrom m₀ (jobAccess s j fid r n acc) := by
  fun_cases Machine.jobAccess
  case case1 => exact hs
  case case2 | case4 | case5 => exact hs.xrange.leftX ‹_›
  case case3 => exact trivial

theorem From.wrAt (hs : From m₀ s) {as bs} : From m₀ (s.wrAt as bs) := hs.writeCells.heal
theorem From.jobWrites (hs : From m₀ s) {j r m bs} : From m₀ (s.jobWrites j r m bs) := hs.performOlder.wrAt
theorem From.pauseJob (hs : From m₀ s) {j p pc} : TickFrom m₀ (pauseJob s j p pc) := hs.askJob

theorem From.readPiece (hs : From m₀ s) {j cap which off n} : TickFrom m₀ (readPiece s j cap which off n) := by
  fun_cases Machine.readPiece
  case case1 => exact hs.pauseJob
  case case2 => exact hs.jobAccess.bad ‹_›
  case case3 => exact (hs.jobAccess.ok ‹_›).lineError
  case case4 => exact hs.jobAccess.ok ‹_›

theorem From.takeMemory (hs : From m₀ s) {j n} : TickFrom m₀ (takeMemory s j n) := by
  fun_cases Machine.takeMemory
  case case1 => exact hs.pauseJob
  case case2 | case4 => exact (hs.jobAccess.bad ‹_›).jobAccess.ok ‹_›
  case case3 => exact ((hs.jobAccess.bad ‹_›).jobAccess.ok ‹_›).lineError
  case case5 => exact (hs.jobAccess.bad ‹_›).pauseJob
  case case6 => exact (hs.jobAccess.bad ‹_›).jobAccess.bad ‹_›
  case case7 => exact hs.jobAccess.bad ‹_›
  case case8 | case10 => exact hs.jobAccess.ok ‹_›
  case case9 => exact (hs.jobAccess.ok ‹_›).lineError

theorem From.takeSlot (hs : From m₀ s) {j code skip} : TickFrom m₀ (takeSlot s j code skip) := by
  fun_cases Machine.takeSlot
  case case1 | case2 => exact hs
  case case3 => exact hs.pauseJob
  case case4 => exact (hs.jobAccess.bad ‹_›).setRing
  case case5 => exact hs.jobAccess.bad ‹_›
  case case6 => exact (hs.jobAccess.ok ‹_›).lineError.setRing
  case case7 | case8 | case9 => exact (hs.jobAccess.ok ‹_›).setRing
  case case10 => exact (hs.jobAccess.ok ‹_›).pauseJob
  case case11 => exact ((hs.jobAccess.ok ‹_›).jobAccess.bad ‹_›).setRing
  case case12 => exact ((hs.jobAccess.ok ‹_›).jobAccess.ok ‹_›).lineError.setRing
  case case13 => exact ((hs.jobAccess.ok ‹_›).jobAccess.ok ‹_›).setRing

theorem From.putSlot (hs : From m₀ s) {j code payload last poison bad}
    (hb : ∀ {t k}, From m₀ t → TickFrom m₀ (bad t k) := by exact id) :
    TickFrom m₀ (putSlot s j code payload last poison bad) := by
  fun_cases Machine.putSlot
  case case1 => exact hb hs
  case case2 => exact hs
  case case3 => exact hs.pauseJob
  case case4 => exact hb (hs.jobAccess.bad ‹_›)
  case case5 => exact (hs.jobAccess.ok ‹_›).jobWrites.setRing

theorem From.writeOut (hs : From m₀ s) {j t bs} : TickFrom m₀ (writeOut s j t bs) := by
  fun_cases Machine.writeOut
  case case1 => exact hs.pauseJob
  case case2 => exact (hs.jobAccess.ok ‹_›).jobWrites
  case case3 => exact ((hs.jobAccess.bad ‹_›).jobAccess.ok ‹_›).jobWrites
  case case4 => exact (hs.jobAccess.bad ‹_›).pauseJob
  case case5 => exact (hs.jobAccess.bad ‹_›).jobAccess.bad ‹_›
  case case6 => exact hs.jobAccess.bad ‹_›

theorem From.vaRange (hs : From m₀ s) {ctx va n acc} : VaAccFrom m₀ (s.vaRange ctx va n acc) := by
  fun_cases State.vaRange
  case case1 | case3 | case4 => exact hs.xpages.leftX ‹_›
  case case2 => exact trivial

theorem From.appendVa (hs : From m₀ s) {ctx base size n rc} : AppendedFrom m₀ (appendVa s ctx base size n rc) := by
  unfold Machine.appendVa
  split
  · exact .absent
  · exact (hs.vaRange.fault ‹_›).appendFault
  · dsimp only
    have hn {a c} := (hs.vaRange.ok ‹_›).noteCons (base := a) (cons := c)
    split
    · exact .full
    · split
      · exact .absent
      · exact (hn.vaRange.fault ‹_›).appendFault
      · exact (hn.vaRange.ok ‹_›).wrAt.wrAt.appended

theorem From.reportFault (hs : From m₀ s) {ctx va area cause} : From m₀ (s.reportFault ctx va area cause) := hs.errorRecord

theorem From.endFailed (hs : From m₀ s) {j e} : TickFrom m₀ (endFailed s j e) := by
  unfold Machine.endFailed
  dsimp only
  split
  · exact hs
  · split
    · exact hs
    · exact hs
    · split
      · exact hs.reportFault
      · split
        · next e => exact hs.appendVa.wrote e
        · exact hs
        · exact hs.pauseJob
        · next e => exact (hs.appendVa.fault e).reportFault

theorem From.failTick (hs : From m₀ s) {j e} : TickFrom m₀ (failTick s j e) := by
  unfold Machine.failTick
  split
  · exact hs
  · extract_lets unsent skipRest
    have rest : TickFrom m₀ skipRest := by
      dsimp only [skipRest]
      split
      · exact hs.takeSlot
      · split
        · exact hs.putSlot
        · exact hs.endFailed
    split
    · split
      · exact hs.putSlot
      · exact rest
    · exact rest

theorem From.moreInput (hs : From m₀ s) {j t bytes} : TickFrom m₀ (moreInput s j t bytes) := by
  fun_cases Machine.moreInput
  case case1 | case2 => exact hs
  case case3 => exact hs.takeSlot
  case case4 => exact hs.takeMemory

theorem From.afterOutput (hs : From m₀ s) {j t bytes} : TickFrom m₀ (afterOutput s j t bytes) := by
  fun_cases Machine.afterOutput
  case case1 | case4 => exact hs
  case case2 => exact hs.readPiece
  case case3 => exact hs.moreInput
  case case5 => exact hs.putSlot

theorem From.descTick (hs : From m₀ s) {j} : TickFrom m₀ (descTick s j) := by
  fun_cases Machine.descTick
  case case1 => exact hs.writeOut
  case case2 | case4 => exact hs
  case case3 | case6 => exact hs.afterOutput
  case case5 => exact hs.putSlot

theorem From.withHandle (hs : From m₀ s) {j v k} (hk : ∀ i h, TickFrom m₀ (k i h)) : TickFrom m₀ (withHandle s j v k) := by
  fun_cases Machine.withHandle
  case case1 => exact hs
  case case2 => exact hk _ _

theorem From.setHandle (hs : From m₀ s) {j i h} : From m₀ (s.setHandle j i h) := hs.setDie

theorem From.openHandle (hs : From m₀ s) {j h} : TickFrom m₀ (openHandle s j h) := by
  fun_cases Machine.openHandle
  case case1 => exact hs
  case case2 => exact hs.setDie

theorem From.mxappTick (hs : From m₀ s) {j v c} : TickFrom m₀ (mxappTick s j v c) := by
  refine hs.withHandle fun i h => ?_
  dsimp only
  split
  · exact hs
  · split
    · exact hs
    · split
      · exact hs.pauseJob
      · exact hs.jobAccess.bad ‹_›
      · have hm := hs.jobAccess.ok ‹_›
        split
        · exact hm.lineError
        · exact hm.setHandle

theorem From.mxlookTick (hs : From m₀ s) {j v dmax dst vreg} : TickFrom m₀ (mxlookTick s j v dmax dst vreg) := by
  refine hs.withHandle fun i h => ?_
  dsimp only
  split
  · exact hs.readPiece
  · exact hs.setHandle
  · split
    · exact hs.readPiece
    · exact hs.setHandle
    · split
      · exact hs.setHandle
      · split
        · exact hs.setHandle
        · split
          · exact hs.pauseJob
          · exact (hs.jobAccess.bad ‹_›).setHandle
          · exact (hs.jobAccess.ok ‹_›).jobWrites.setHandle

theorem From.mxsaveTick (hs : From m₀ s) {j v img off} : TickFrom m₀ (mxsaveTick s j v img off) := by
  refine hs.withHandle fun i h => ?_
  dsimp only
  split
  · exact hs.pauseJob
  · exact hs.jobAccess.bad ‹_›
  · exact (hs.jobAccess.ok ‹_›).jobWrites

theorem From.mxloadTick (hs : From m₀ s) {j log img off} : TickFrom m₀ (mxloadTick s j log img off) := by
  fun_cases Machine.mxloadTick
  case case1 | case4 => exact hs.readPiece
  case case2 | case3 | case5 | case6 => exact hs
  case case7 => exact hs.openHandle

theorem From.jobTick (hs : From m₀ s) {j} : TickFrom m₀ (jobTick s j) := by
  fun_cases Machine.jobTick
  case case1 => exact hs.failTick
  case case2 => exact hs.descTick
  case case3 | case4 => exact hs
  case case5 => exact hs.openHandle
  case case6 => exact hs.mxappTick
  case case7 => exact hs.mxlookTick
  case case8 => exact hs.mxsaveTick
  case case9 => exact hs.mxloadTick
  case case10 => exact hs.withHandle fun _ _ => hs.setDie

theorem From.runJob (hs : From m₀ s) {n j} : From m₀ (runJob n s j).1 := by
  induction n generalizing s j with
  | zero => exact hs
  | succ n ih =>
    unfold Machine.runJob
    split
    · exact ih (hs.jobTick.go ‹_›)
    · exact hs.jobTick.stop ‹_›

theorem From.setJob (hs : From m₀ s) {die j} : From m₀ (s.setJob die j) := hs.setDie

theorem From.advanceJob (hs : From m₀ s) {die j} : From m₀ (advanceJob s die j) := by
  fun_cases Machine.advanceJob
  exact (hs.runJob.left ‹_›).setJob

theorem From.execEngineJobStart (hs : From m₀ s) {die eng} : Ok m₀ (execEngineJobStart die eng s) := by
  fun_cases Machine.execEngineJobStart
  case case1 => exact hs.advanceJob.next
  case case2 | case3 => exact hs.next

theorem From.execEngineRingResume (hs : From m₀ s) {die eng} : Ok m₀ (execEngineRingResume die eng s) := by
  fun_cases Machine.execEngineRingResume
  case case1 => exact hs.advanceJob.next
  case case2 | case3 => exact hs.next

theorem From.jobWriteEarly (hs : From m₀ s) {j k} : From m₀ (s.jobWriteEarly j k) := by
  fun_cases State.jobWriteEarly
  case case1 => exact hs.modWarp
  case case2 => exact hs

theorem From.execEngineJobComplete (hs : From m₀ s) {die eng} : Ok m₀ (execEngineJobComplete die eng s) := by
  unfold Machine.execEngineJobComplete
  split
  · exact hs.next
  · dsimp only
    split
    · exact hs.setDie.modWarp.settleDone.next
    · exact hs.setDie.modWarp.tagDone.settleDone.next
    · exact hs.setDie.settleDone.next

theorem From.ownBefore (hs : From m₀ s) {e as} : From m₀ (s.ownBefore e as).1 := hs.setWarp.performOlder

/-! ### Events of warps, pages, interfaces and frames -/

theorem From.dropped (hs : From m₀ s) {t p} (e : t.mem = s.mem.filter p := by rfl) : From m₀ t := by
  unfold From
  rw [e]
  exact hs.drop p

theorem From.execUserInterruptDelivery (hs : From m₀ s) {i} : Ok m₀ (execUserInterruptDelivery i s) := by
  fun_cases Machine.execUserInterruptDelivery
  case case1 | case2 | case4 => exact hs.next
  case case3 => exact hs.setWarp.next

theorem From.issue (hs : From m₀ s) {p f w} : From m₀ (s.issue p f w) := by
  fun_cases State.issue
  case case1 => exact hs
  case case2 => exact hs.same

theorem From.takeLate (hs : From m₀ s) {f w x} : From m₀ (s.takeLate f w x) := hs.setWarp.takeTrap

theorem From.noteHeld (hs : From m₀ s) {x} : From m₀ (s.noteHeld x) := by
  fun_cases State.noteHeld
  case case1 => exact hs.tick.modWarp
  case case2 | case3 => exact hs

theorem From.execPartitionIssue (hs : From m₀ s) {part} : Ok m₀ (execPartitionIssue part s) := by
  fun_cases Machine.execPartitionIssue
  case case1 => exact hs.next
  case case2 => exact hs.takeLate.next
  case case3 | case4 => exact (hs.foldl fun hs => hs.noteHeld).next
  case case5 => exact ((hs.foldl fun hs => hs.noteHeld).foldl fun hs => From.ite hs.modWarp hs).issue.next

theorem From.execWarpHoldRelease (hs : From m₀ s) {i} : Ok m₀ (execWarpHoldRelease i s) := by
  fun_cases Machine.execWarpHoldRelease
  case case1 | case2 | case5 | case6 | case8 => exact hs.next
  case case3 | case7 => exact hs.setWarp.next
  case case4 => exact hs.same.next

theorem From.execSleepExpiry (hs : From m₀ s) {i} : Ok m₀ (execSleepExpiry i s) := by
  fun_cases Machine.execSleepExpiry
  case case1 | case3 | case4 | case5 => exact hs.next
  case case2 => exact hs.setWarp.next

theorem From.execCounterRetire (hs : From m₀ s) {i c} : Ok m₀ (execCounterRetire i c s) := by
  fun_cases Machine.execCounterRetire
  case case1 => exact hs.next
  case case2 => exact hs.setWarp.settleDone.next

theorem From.execPeerTimeout (hs : From m₀ s) {i c} : Ok m₀ (execPeerTimeout i c s) := by
  fun_cases Machine.execPeerTimeout
  case case1 | case2 => exact hs.next
  case case3 => exact hs.same.setWarp.next

theorem From.execPeerErrorResponse (hs : From m₀ s) {i c} : Ok m₀ (execPeerErrorResponse i c s) := by
  fun_cases Machine.execPeerErrorResponse
  case case1 | case2 | case3 => exact hs.next
  case case4 => exact hs.setWarp.next

theorem From.performStray (hs : From m₀ s) {k} : From m₀ (s.performStray k) := by
  fun_cases State.performStray
  case case1 => exact hs
  case case2 => exact hs.same.unitEffect

theorem From.performAt (hs : From m₀ s) {i k early} : From m₀ (s.performAt i k early) := by
  fun_cases State.performAt
  case case1 | case3 => exact hs
  case case2 => exact (hs.performUnit.left ‹_›).setWarp.settleDone

theorem From.answerWarp (hs : From m₀ s) {g i ok} : From m₀ (answerWarp s g i ok) := by
  fun_cases Machine.answerWarp
  case case1 | case2 | case5 => exact hs
  case case3 => exact hs.setWarp
  case case4 => exact hs.setWarp.takeTrap

theorem From.failCollective (hs : From m₀ s) {fid k err} : From m₀ (failCollective s fid k err) := hs.same.finishCollective

theorem From.answerCopy (hs : From m₀ s) {g id lane ok} : From m₀ (answerCopy s g id lane ok) := by
  fun_cases Machine.answerCopy
  case case1 => exact hs.setCopyLane
  case case2 => exact hs
  case case3 => exact hs.failCollective
  case case4 => exact hs.laneDone

theorem From.answerTruss (hs : From m₀ s) {g id ok} : From m₀ (answerTruss s g id ok) := by
  fun_cases Machine.answerTruss
  case case1 => exact hs
  case case2 => exact hs.setBay.noteTrussFault
  case case3 => exact hs.setBay

theorem From.answerFt (hs : From m₀ s) {g id ok} : From m₀ (answerFt s g id ok) := by
  fun_cases Machine.answerFt
  case case1 => exact hs
  case case2 => exact hs.same
  case case3 => exact hs.ftDone

theorem From.answerDep (hs : From m₀ s) {g id ok} : From m₀ (answerDep s g id ok) := by
  fun_cases Machine.answerDep
  case case1 => exact hs
  case case2 => exact hs.same
  case case3 => exact hs.depDone

theorem From.answerJob (hs : From m₀ s) {g op ok} : From m₀ (answerJob s g op ok) := by
  fun_cases Machine.answerJob
  case case1 | case2 => exact hs
  case case3 => exact hs.advanceJob

theorem From.setProg (hs : From m₀ s) {i o} : From m₀ (s.setProg i o) := hs.same
theorem From.setQueue (hs : From m₀ s) {i o} : From m₀ (s.setQueue i o) := hs.same

theorem From.answer (hs : From m₀ s) {g ok} : From m₀ (answer s g ok) := by
  fun_cases Machine.answer
  case case1 | case9 | case11 | case13 => exact hs.same
  case case2 => exact hs.same.answerWarp
  case case3 => exact hs.same.answerCopy
  case case4 => exact hs.same.answerTruss
  case case5 => exact hs.same.answerFt
  case case6 => exact hs.same.answerDep
  case case7 => exact hs.same.answerJob
  case case8 => exact hs.same.setProg
  case case10 => exact hs.same.setFrame
  case case12 => exact hs.same.setQueue

theorem From.writeRecords (hs : From m₀ s) {base n prod rs} : From m₀ (writeRecords s base n prod rs) := by
  induction rs generalizing s prod with
  | nil => exact hs
  | cons r rs ih => exact ih hs.writeBytes

theorem From.sendGroup (hs : From m₀ s) {p g} : FromSome m₀ (sendGroup s p g) := by
  fun_cases Machine.sendGroup
  case case1 => exact .none
  case case2 => exact hs.writeRecords.wr.same.toSome

theorem From.execPageRequestSend (hs : From m₀ s) : Ok m₀ (execPageRequestSend s) := by
  fun_cases Machine.execPageRequestSend
  case case1 => exact hs.next
  case case2 => exact hs.same.next
  case case3 => exact hs.answer.next
  case case4 => exact (hs.getD hs.sendGroup).next

theorem From.takeResponse (hs : From m₀ s) {port a} : From m₀ (takeResponse s port a) := by
  fun_cases Machine.takeResponse
  case case1 | case2 => exact hs
  case case3 => exact hs.same
  case case4 => exact hs.answer

theorem From.takeResponses (hs : From m₀ s) {port base n k q} : From m₀ (takeResponses port base n k q s) := by
  induction k generalizing s q with
  | zero => exact hs
  | succ k ih => exact ih hs.takeResponse

theorem From.execPageResponseDoorbell (hs : From m₀ s) {port value} : Ok m₀ (execPageResponseDoorbell port value s) := by
  fun_cases Machine.execPageResponseDoorbell
  case case1 => exact hs.next
  case case2 => exact hs.takeResponses.wr.settleDone.next

theorem From.execPageRetryDelayExpiry (hs : From m₀ s) : Ok m₀ (execPageRetryDelayExpiry s) := by
  fun_cases Machine.execPageRetryDelayExpiry
  case case1 => exact hs.next
  case case2 => exact hs.answer.next

theorem From.shootdown (hs : From m₀ s) {r} : From m₀ (s.shootdown r) := hs.same

theorem From.holdShoot (hs : From m₀ s) {port r cons ack prod} : From m₀ (holdShoot s port r cons ack prod) :=
  hs.performEvery.shootdown.setPort

theorem From.overrun (hs : From m₀ s) {port base n prod} : From m₀ (overrun s port base n prod) := hs.holdShoot

theorem From.takeShoot (hs : From m₀ s) {port base n cons prod} : From m₀ (takeShoot s port base n cons prod) :=
  From.ite hs.setPort (From.ite hs.overrun hs.holdShoot)

theorem From.execShootdownFileWrite (hs : From m₀ s) {port off value} : Ok m₀ (execShootdownFileWrite port off value s) := by
  fun_cases Machine.execShootdownFileWrite
  case case1 => exact hs.next
  case case2 => exact hs.overrun.next
  case case3 => exact hs.setPort.next
  case case4 => exact hs.takeShoot.next

theorem From.execShootdownAck (hs : From m₀ s) : Ok m₀ (execShootdownAck s) := by
  fun_cases Machine.execShootdownAck
  case case1 => exact hs.next
  case case2 => exact hs.setPort.next
  case case3 => exact hs.wr.wr.takeShoot.next

theorem From.setTdi (hs : From m₀ s) {i t} : From m₀ (s.setTdi i t) := hs.same

theorem From.refuse (hs : From m₀ s) {code qid port qif qnum b24} : From m₀ (s.refuse code qid port qif qnum b24) :=
  hs.addRefused.errorRecord

theorem From.dropAnnouncements (hs : From m₀ s) {port qif} : From m₀ (dropAnnouncements s port qif) :=
  hs.foldl fun hs => hs.setQueue.foldl fun hs => hs.refuse

theorem From.tdiLost (hs : From m₀ s) {i} : From m₀ (tdiLost s i) :=
  (hs.dropAnnouncements.foldl fun hs => hs.faultEntry).foldl fun hs => From.ite hs.setQueue hs

theorem From.tdiFails (hs : From m₀ s) {i} : From m₀ (tdiFails s i) := From.ite hs.tdiLost.setTdi hs
theorem From.execTdiError (hs : From m₀ s) {iface} : Ok m₀ (execTdiError iface s) := hs.tdiFails.next

theorem From.secured (hs : From m₀ s) : From m₀ s.secured := by
  fun_cases State.secured
  case case1 => exact hs.same
  case case2 => exact hs

theorem From.inSession (hs : From m₀ s) {k} (hk : ∀ t, From m₀ t → Ok m₀ (k t)) : Ok m₀ (inSession s k) := by
  fun_cases Machine.inSession
  case case1 => exact hk _ hs.secured
  case case2 => exact hs.same.next

theorem From.execLockInterfaceRequest (hs : From m₀ s) {iface nonce} : Ok m₀ (execLockInterfaceRequest iface nonce s) := by
  refine hs.inSession fun t ht => ?_
  dsimp only
  split
  · exact ht.same.next
  · exact ht.same.next

theorem From.execStartInterfaceRequest (hs : From m₀ s) {iface nonce} : Ok m₀ (execStartInterfaceRequest iface nonce s) := by
  refine hs.inSession fun t ht => ?_
  dsimp only
  split
  · exact ht.same.next
  · exact ht.same.next

theorem From.execStopInterfaceRequest (hs : From m₀ s) {iface} : Ok m₀ (execStopInterfaceRequest iface s) :=
  hs.inSession fun _ ht => (From.ite ht.tdiLost ht).same.next

theorem From.sessionEnds (hs : From m₀ s) : From m₀ s.sessionEnds := hs.same.foldl fun hs => hs.tdiFails

theorem From.execSpdmSessionStart (hs : From m₀ s) : Ok m₀ (execSpdmSessionStart s) := by
  fun_cases Machine.execSpdmSessionStart
  case case1 => exact hs.next
  case case2 => exact (From.ite hs.sessionEnds hs).same.next

theorem From.execSpdmSessionExpiry (hs : From m₀ s) : Ok m₀ (execSpdmSessionExpiry s) := by
  fun_cases Machine.execSpdmSessionExpiry
  case case1 => exact hs.sessionEnds.next
  case case2 => exact hs.next

theorem From.writePlanbase (hs : From m₀ s) {value} : From m₀ (s.writePlanbase value) := by
  fun_cases State.writePlanbase
  case case1 => exact hs
  case case2 => exact hs.same

theorem From.execPlanbase (hs : From m₀ s) {value} : Ok m₀ (execPlanbase value s) := hs.writePlanbase.next
theorem From.execTouch (hs : From m₀ s) : Ok m₀ (execTouch s) := hs.same.next
theorem From.setQif (hs : From m₀ s) {port i g} : From m₀ (s.setQif port i g) := hs.setPort

theorem From.writeQifcfg (hs : From m₀ s) {port i value} : From m₀ (s.writeQifcfg port i value) :=
  (From.ite hs.setQif.dropAnnouncements hs.setQif).tdiFails

theorem From.execQifcfg (hs : From m₀ s) {port i value} : Ok m₀ (execQifcfg port i value s) := by
  fun_cases Machine.execQifcfg
  case case1 => exact hs.writeQifcfg.next
  case case2 => exact hs.next

theorem From.writeConfig (hs : From m₀ s) {port off value} : From m₀ (s.writeConfig port off value) :=
  .ite hs.writePlanbase <| .ite hs.same <| .ite hs.setPort <| .ite hs.setPort <| .ite hs.setPort <| .ite hs.setPort <|
    .ite hs.setPort <| .ite hs.setPort <| .ite hs <| .ite hs.writeQifcfg <| .ite hs.setQif.tdiFails <|
    .ite hs.setQif.tdiFails hs

theorem From.execConfigRegisterWrite (hs : From m₀ s) {port off value} : Ok m₀ (execConfigRegisterWrite port off value s) :=
  hs.writeConfig.next

theorem From.busPerform (hs : From m₀ s) {op as point} : From m₀ (busPerform s op as point) := by
  fun_cases Machine.busPerform
  case case1 => exact hs.writeCells.heal.same
  case case2 | case4 => exact hs.lineError.same
  case case3 => exact hs.same
  case case5 => exact hs.writeCells.same

theorem From.execHostCxlAccess (hs : From m₀ s) {acc} : Ok m₀ (execHostCxlAccess acc s) := by
  fun_cases Machine.execHostCxlAccess
  case case1 => exact hs.same.next
  case case2 => exact hs.busPerform.next

theorem From.execPeerInboundAccess (hs : From m₀ s) {acc} : Ok m₀ (execPeerInboundAccess acc s) := by
  fun_cases Machine.execPeerInboundAccess
  case case1 => exact (hs.vaRange.ok ‹_›).busPerform.next
  case case2 => exact hs.errorRecord.same.next
  case case3 => exact (hs.vaRange.fault ‹_›).errorRecord.same.next

theorem From.execMemoryScrub (hs : From m₀ s) {addr} : Ok m₀ (execMemoryScrub addr s) := by
  fun_cases Machine.execMemoryScrub
  case case1 => exact hs.next
  case case2 => exact hs.spoil.lineError.next

theorem From.execLinkDown (hs : From m₀ s) {link} : Ok m₀ (execLinkDown link s) := by
  fun_cases Machine.execLinkDown
  case case1 => exact hs.next
  case case2 => exact hs.same.errorRecord.next

theorem From.execLinkRetrained (hs : From m₀ s) {link} : Ok m₀ (execLinkRetrained link s) := hs.same.next
theorem From.extend (hs : From m₀ s) {m d} : From m₀ (s.extend m d) := hs.same

theorem From.execConventionalReset (hs : From m₀ s) {b} : Ok m₀ (execConventionalReset b s) := by
  unfold Machine.execConventionalReset
  extract_lets ab keep r s0 verified stages s1
  have h0 : From m₀ s0 := hs.dropped
  have h1 : From m₀ s1 := h0.foldl fun ht => ht.extend
  exact h1.same.next

theorem From.execGetMeasurements (hs : From m₀ s) {index} : Ok m₀ (execGetMeasurements index s) := by
  fun_cases Machine.execGetMeasurements <;> exact hs.secured.same.next

theorem From.freshTags (hs : From m₀ s) {core} : From m₀ (s.freshTags core) := by
  fun_cases State.freshTags
  case case1 => exact hs.same
  case case2 => exact hs

theorem From.placeFrame (hs : From m₀ s) {f l p why} : From m₀ (placeFrame s f l p why) := by
  have ht {cs : List Nat} : From m₀ (cs.foldl State.freshTags s) := hs.foldl fun ht => ht.freshTags
  exact ht.dropped

theorem From.settleProgram (hs : From m₀ s) {prog} : From m₀ (s.settleProgram prog) := by
  fun_cases State.settleProgram
  case case1 | case2 | case5 => exact hs
  case case3 | case4 => exact hs.setEntry

theorem From.settleContext (hs : From m₀ s) {ctx} : From m₀ (s.settleContext ctx) := by
  fun_cases State.settleContext
  case case1 | case5 => exact hs
  case case2 | case3 | case4 => exact hs.setEntry

theorem From.placeNew (hs : From m₀ s) {o l p} : From m₀ (placeNew s o l p) := by
  fun_cases Machine.placeNew
  case case1 | case4 => exact hs
  case case2 => exact hs.setEntry
  case case3 => exact hs.tick.placeFrame.setProg.settleProgram

theorem From.placeBack (hs : From m₀ s) {f l p} : From m₀ (placeBack s f l p) := by
  fun_cases Machine.placeBack
  case case1 | case3 => exact hs
  case case2 => exact hs.placeFrame.settleProgram.settleContext

theorem From.execFramePlacement (hs : From m₀ s) {p} : Ok m₀ (execFramePlacement p s) := by
  fun_cases Machine.execFramePlacement
  case case1 | case2 | case5 => exact hs.next
  case case3 => exact hs.placeNew.next
  case case4 => exact hs.placeBack.next

theorem From.stopFrame (hs : From m₀ s) {f} : From m₀ (stopFrame s f) := hs.setFrame

theorem From.enterSaves (hs : From m₀ s) {fid} : From m₀ (enterSaves s fid) := by
  fun_cases Machine.enterSaves
  case case1 | case2 => exact hs
  case case3 => exact hs.foldl fun hs => hs.enterSave

theorem From.saveFrame (hs : From m₀ s) {f} : From m₀ (saveFrame s f) :=
  (From.ite hs.commit hs.dropBuffer).same.setFrame.enterSaves

theorem From.preempt (hs : From m₀ s) {f inPlace} : From m₀ (preempt s f inPlace) := by
  fun_cases Machine.preempt
  case case1 | case5 => exact hs
  case case2 => exact hs.saveFrame
  case case3 => exact hs.faultEntry
  case case4 => exact hs.stopFrame

theorem From.execSaveReq (hs : From m₀ s) {fid} : Ok m₀ (execSaveReq fid s) := by
  fun_cases Machine.execSaveReq
  case case1 | case2 => exact hs.next
  case case3 => exact hs.enterSaves.next
  case case4 => exact hs.preempt.next

theorem From.suspendContext (hs : From m₀ s) {ctx} : From m₀ (suspendContext s ctx) :=
  (hs.foldl fun hs => hs.preempt).settleContext

theorem From.resumeContext (hs : From m₀ s) {ctx} : From m₀ (resumeContext s ctx) := by
  fun_cases Machine.resumeContext
  case case1 => exact hs
  case case2 => exact (hs.foldl fun hs => From.ite hs.setFrame hs).setEntry
  case case3 => exact hs.foldl fun hs => From.ite hs.setFrame hs

theorem From.endStranded (hs : From m₀ s) {f} : From m₀ (endStranded s f) := hs.foldl fun hs => hs.finishCopy
theorem From.removeFrame (hs : From m₀ s) {f} : From m₀ (removeFrame s f) := hs.leaveBay.same
theorem From.startRemoval (hs : From m₀ s) {f} : From m₀ (startRemoval s f) := hs.setFrame.revokeWindows
theorem From.endReaching (hs : From m₀ s) {f} : From m₀ (endReaching s f) := hs.foldl fun hs => hs.laneDone
theorem From.removeOut (hs : From m₀ s) {f} : From m₀ (removeOut s f) := hs.startRemoval.endReaching.removeFrame

theorem From.takeFrame (hs : From m₀ s) {f} : From m₀ (takeFrame s f) := by
  fun_cases Machine.takeFrame
  case case1 => exact hs.removeOut
  case case2 => exact hs
  case case3 => exact hs.startRemoval

theorem From.removeLaunch (hs : From m₀ s) {lid} : From m₀ (removeLaunch s lid) := (Edited.drop _ hs).drop _

theorem From.programDrained (hs : From m₀ s) {prog} : From m₀ (s.programDrained prog) := by
  unfold State.programDrained
  dsimp only
  split
  · exact hs
  · split
    · exact hs
    · have ht {o : Option Nat} : From m₀ (match o with | some l => Machine.removeLaunch s l | none => s) := by
        split
        · exact hs.removeLaunch
        · exact hs
      split
      · exact ht.same.setEntry
      · exact ht.same.setEntry

theorem From.frameSaved (hs : From m₀ s) {f} : From m₀ (frameSaved s f) :=
  hs.commit.vacate.setFrame.dropped.settleProgram.settleContext

theorem From.execFrameOut (hs : From m₀ s) {fid} : Ok m₀ (execFrameOut fid s) := by
  fun_cases Machine.execFrameOut
  case case1 => exact hs.next
  case case2 => exact (From.ite hs.endStranded hs).frameSaved.next
  case case3 => exact (From.ite hs.endStranded hs).removeFrame.programDrained.settleProgram.settleContext.next
  case case4 => exact (From.ite hs.endStranded hs).next

theorem From.mapAccess (hs : From m₀ s) {m off n acc} : VaAccFrom m₀ (s.mapAccess m off n acc) := by
  fun_cases State.mapAccess
  case case1 | case2 | case4 | case5 | case6 => exact hs
  case case3 => exact hs.vaRange

theorem From.restartRecord (hs : From m₀ s) {f l} : RecAccFrom m₀ (s.restartRecord f l) := by
  fun_cases State.restartRecord
  case case1 | case2 | case3 => exact hs
  case case4 => exact hs.mapAccess.ok ‹_›
  case case5 => exact hs.mapAccess.fault ‹_›
  case case6 => exact hs.askJob.setFrame

theorem From.leaveForRelaunch (hs : From m₀ s) {f} : From m₀ (leaveForRelaunch s f) := by
  fun_cases Machine.leaveForRelaunch
  case case1 => exact hs.restartRecord.wait ‹_›
  case case2 =>
    have ht := hs.restartRecord.ok ‹_›
    exact (ht.wrAt.leaveBay.same.revokeWindows.faultEntry.foldl fun ht => ht.takeFrame).settleProgram
  case case3 => exact (hs.restartRecord.ok ‹_›).wrAt.leaveBay.setFrame.settleProgram.settleContext

theorem From.placeAgain (hs : From m₀ s) {f l p} : From m₀ (placeAgain s f l p) :=
  From.ite hs (From.ite hs.placeFrame.settleProgram hs)

theorem From.execFrameRelaunch (hs : From m₀ s) {fid p} : Ok m₀ (execFrameRelaunch fid p s) := by
  unfold Machine.execFrameRelaunch
  split
  · exact hs.next
  · extract_lets s₁ f s₂
    have h₁ : From m₀ s₁ := From.ite hs.endStranded hs
    have h₂ : From m₀ s₂ := From.ite h₁.leaveForRelaunch h₁
    split
    · exact h₂.next
    · exact h₂.placeAgain.next

theorem From.execBayPowerGate (hs : From m₀ s) {bay} : Ok m₀ (execBayPowerGate bay s) := by
  fun_cases Machine.execBayPowerGate
  case case1 => exact hs.same.next
  case case2 => exact hs.next

/-! ### Queues and snapshots -/

theorem From.askQueue (hs : From m₀ s) {i q out p} : From m₀ (askQueue s i q out p) := hs.askJob.setQueue

theorem From.queueAccess (hs : From m₀ s) {i q out va n acc area} : QAccFrom m₀ (queueAccess s i q out va n acc area) := by
  fun_cases Machine.queueAccess
  case case1 => exact hs.reportFault.setQueue
  case case2 => exact hs.vaRange.ok ‹_›
  case case3 => exact hs.askQueue
  case case4 => exact (hs.vaRange.fault ‹_›).reportFault

theorem From.queueFaulted (hs : From m₀ s) {i} : From m₀ (s.queueFaulted i) := hs.setEntry

theorem From.makeQueue (hs : From m₀ s) {i q} : From m₀ (makeQueue s i q) := by
  fun_cases Machine.makeQueue
  case case1 => exact hs.queueAccess.wait ‹_›
  case case2 => exact (hs.queueAccess.fault ‹_›).same.queueFaulted
  case case3 => exact (hs.queueAccess.ok ‹_›).wrAt.setQueue.setEntry

theorem From.latchTail (hs : From m₀ s) {i q a} : From m₀ (latchTail s i q a) :=
  (hs.foldl fun hs => From.ite hs.setBay hs).setQueue

theorem From.acceptTail (hs : From m₀ s) {i q a} : From m₀ (acceptTail s i q a) := From.ite hs.setQueue.setEntry hs.setQueue

theorem From.tailFate (hs : From m₀ s) {port qif qnum value ide replay} :
    From m₀ (tailFate s port qif qnum value ide replay) := by
  fun_cases Machine.tailFate
  case case1 | case2 | case3 | case4 => exact hs.refuse
  case case5 => exact hs.latchTail
  case case6 => exact hs.acceptTail

theorem From.execTailWrite (hs : From m₀ s) {port page off value ide} : Ok m₀ (execTailWrite port page off value ide s) := by
  fun_cases Machine.execTailWrite
  case case1 => exact hs.tailFate.next
  case case2 => exact hs.next

theorem From.replayLatch (hs : From m₀ s) {i} : From m₀ (replayLatch s i) := by
  fun_cases Machine.replayLatch
  case case1 => exact hs
  case case2 => exact hs.setQueue.foldl fun hs => hs.tailFate

theorem From.execBayWake (hs : From m₀ s) {bay} : Ok m₀ (execBayWake bay s) := by
  fun_cases Machine.execBayWake
  case case1 => exact hs.next
  case case2 => exact (hs.setBay.foldl fun hs => hs.replayLatch).next

theorem From.endAnnouncement (hs : From m₀ s) {i q} : From m₀ (endAnnouncement s i q) := hs.setQueue.addRefused

theorem From.headBad (hs : From m₀ s) {i q} : FromSome m₀ (headBad s i q) := by
  fun_cases Machine.headBad
  case case1 => exact .none
  case case2 => exact hs.setQueue.errorRecord.toSome

theorem From.placeOne (hs : From m₀ s) {i q} : FromSome m₀ (placeOne s i q) := by
  unfold Machine.placeOne
  split
  · exact .none
  · split
    · exact .none
    · split
      · exact hs.setQueue.refuse.toSome
      · split
        · exact (hs.queueAccess.wait ‹_›).toSome
        · exact (hs.queueAccess.fault ‹_›).endAnnouncement.toSome
        · have h1 := hs.queueAccess.ok ‹_›
          dsimp only
          split
          · exact h1.headBad
          · split
            · exact .none
            · split
              · exact h1.endAnnouncement.errorRecord.toSome
              · exact (h1.vaRange.fault ‹_›).endAnnouncement.errorRecord.toSome
              · have h2 := h1.vaRange.ok ‹_›
                split
                · exact (h2.queueAccess.wait ‹_›).toSome
                · exact (h2.queueAccess.fault ‹_›).endAnnouncement.toSome
                · have h3 := h2.queueAccess.ok ‹_›
                  split
                  · exact (h3.queueAccess.wait ‹_›).toSome
                  · exact (h3.queueAccess.fault ‹_›).endAnnouncement.toSome
                  · exact (h3.queueAccess.ok ‹_›).wrAt.wrAt.setQueue.toSome

theorem FromSome.firstQueue {f qs} (hf : ∀ {i q}, FromSome m₀ (f s i q)) : FromSome m₀ (firstQueue s f qs) := by
  induction qs with
  | nil => exact .none
  | cons x r ih =>
    obtain ⟨i, _ | q⟩ := x
    · exact ih
    · unfold Machine.firstQueue
      split
      · next e => exact (hf _ e).toSome
      · exact ih

theorem From.execQueueMessagePlace (hs : From m₀ s) : Ok m₀ (execQueueMessagePlace s) :=
  (hs.getD (FromSome.firstQueue hs.placeOne)).next

theorem From.moveMessages (hs : From m₀ s) {old new head n} : From m₀ (moveMessages s old new head n) :=
  hs.foldl fun hs => hs.wrAt

theorem From.resizeOne (hs : From m₀ s) {i q} : FromSome m₀ (resizeOne s i q) := by
  unfold Machine.resizeOne
  split
  · exact .none
  · extract_lets
    split
    · exact .none
    · split
      · exact (hs.queueAccess.wait ‹_›).toSome
      · exact (hs.queueAccess.fault ‹_›).setQueue.queueFaulted.toSome
      · have ht := hs.queueAccess.ok ‹_›
        extract_lets
        split
        · exact ht.headBad
        · split
          · exact .none
          · split
            · exact ht.wrAt.setQueue.toSome
            · exact (From.ite ht.moveMessages.wrAt.setQueue.setEntry ht.moveMessages.wrAt.setQueue).toSome

theorem From.execQueueResize (hs : From m₀ s) : Ok m₀ (execQueueResize s) := (hs.getD (FromSome.firstQueue hs.resizeOne)).next

theorem From.startQueueDrain (hs : From m₀ s) {i q reason} : From m₀ (startQueueDrain s i q reason) :=
  hs.setQueue.foldl fun hs => hs.refuse

theorem From.returnClaimed (hs : From m₀ s) {i q seq msg} : FromSome m₀ (returnClaimed s i q seq msg) := by
  fun_cases Machine.returnClaimed
  case case1 => exact hs.setQueue.toSome
  case case2 | case5 => exact .none
  case case3 => exact hs.reportFault.setQueue.toSome
  case case4 => exact (hs.appendVa.wrote ‹_›).setQueue.toSome
  case case6 => exact hs.askQueue.toSome
  case case7 => exact (hs.appendVa.fault ‹_›).reportFault.setQueue.toSome

theorem From.queueClosed (hs : From m₀ s) {i q} : From m₀ (queueClosed s i q) := by
  fun_cases Machine.queueClosed
  case case1 => exact hs.setQueue
  case case2 | case3 => exact hs.same.setEntry

theorem From.repairHead (hs : From m₀ s) {i q as} : From m₀ (repairHead s i q as) := (hs.getD hs.headBad).wrAt

theorem From.drainOne (hs : From m₀ s) {i q} : FromSome m₀ (drainOne s i q) := by
  fun_cases Machine.drainOne
  case case1 | case9 => exact .none
  case case2 => exact hs.returnClaimed
  case case3 => exact (hs.queueAccess.wait ‹_›).toSome
  case case4 => exact (hs.queueAccess.fault ‹_›).queueClosed.toSome
  case case5 | case6 | case10 => exact (hs.queueAccess.ok ‹_›).wrAt.setQueue.toSome
  case case7 => exact (hs.queueAccess.ok ‹_›).repairHead.toSome
  case case8 => exact (hs.queueAccess.ok ‹_›).queueClosed.toSome

theorem From.execQueueCloseDrain (hs : From m₀ s) : Ok m₀ (execQueueCloseDrain s) :=
  (hs.getD (FromSome.firstQueue hs.drainOne)).next

theorem From.targetAt (hs : From m₀ s) {m off n acc} : From m₀ (s.targetAt m off n acc).1 := by
  fun_cases State.targetAt
  case case1 => exact hs.mapAccess.ok ‹_›
  case case2 => exact hs.mapAccess.fault ‹_›
  case case3 => exact hs

theorem From.readTarget (hs : From m₀ s) {m} : From m₀ (readTarget s m).1 := by
  fun_cases Machine.readTarget <;> exact hs.targetAt.left ‹_›

theorem From.devData (hs : From m₀ s) {ctx k va n} : From m₀ (devData ctx k s va n).1 := by
  fun_induction Machine.devData ctx k s va n
  case case1 | case2 => exact hs
  case case3 ih => exact (ih (hs.translate.left ‹_›)).left ‹_›
  case case4 ih => exact ih (hs.translate.left ‹_›)

theorem From.mapData (hs : From m₀ s) {m} : From m₀ (s.mapData m).1 := by
  fun_cases State.mapData
  case case1 => exact hs
  case case2 => exact hs.devData

theorem From.mapChunks {acc : State × List SnapChunk} (hs : From m₀ acc.1) {pos m} : From m₀ (mapChunks pos acc m).1 :=
  hs.mapData

theorem From.foldlP {α β : Type} {f : State × β → α → State × β} {l : List α} {p : State × β} (hp : From m₀ p.1)
    (hf : ∀ {p a}, From m₀ p.1 → From m₀ (f p a).1) : From m₀ (l.foldl f p).1 := by
  induction l generalizing p with
  | nil => exact hp
  | cons a r ih => exact ih (hf hp)

theorem From.planChunks (hs : From m₀ s) {ctxs} : From m₀ (planChunks s ctxs).1 :=
  From.foldlP hs fun hp => From.foldlP hp fun hp => From.mapChunks hp

theorem From.chunkAddrs (hs : From m₀ s) {c} : From m₀ (s.chunkAddrs c).1 := by
  fun_cases State.chunkAddrs
  exact hs.mapData.left ‹_›

theorem From.setSnap (hs : From m₀ s) {i x} : From m₀ (s.setSnap i x) := hs.same

theorem FromSome.firstSnap {f xs} (hf : ∀ {i x}, FromSome m₀ (f s i x)) : FromSome m₀ (firstSnap s f xs) := by
  induction xs with
  | nil => exact .none
  | cons x r ih =>
    obtain ⟨i, _ | x⟩ := x
    · exact ih
    · unfold Machine.firstSnap
      split
      · next e => exact (hf _ e).toSome
      · exact ih

theorem From.endSnap (hs : From m₀ s) {i x cause} : From m₀ (endSnap s i x cause) := by
  fun_cases Machine.endSnap <;> exact hs.setSnap.setEntry

theorem From.resumeAll (hs : From m₀ s) {ctxs} : From m₀ (resumeAll s ctxs) := hs.foldl fun hs => hs.resumeContext

theorem From.abandonSnap (hs : From m₀ s) {i} : From m₀ (abandonSnap s i) := by
  fun_cases Machine.abandonSnap
  case case1 => exact hs
  case case2 => exact (From.ite hs.same hs.same).resumeAll

theorem From.carry (hs : From m₀ s) {src dst} : From m₀ (s.carry src dst) := hs.wrAt.foldl fun hs => hs.spoil

theorem From.stageOne (hs : From m₀ s) {i} : From m₀ (stageOne s i) := by
  unfold Machine.stageOne
  split
  · split
    · exact hs
    · split
      · exact (hs.chunkAddrs.left ‹_›).carry.setSnap
  · exact hs

theorem From.releaseStaged (hs : From m₀ s) {i} : From m₀ (releaseStaged s i) := by
  fun_cases Machine.releaseStaged
  case case1 => exact hs
  case case2 => exact hs.setSnap.resumeAll

theorem From.copyDone (hs : From m₀ s) {i x} : FromSome m₀ (copyDone s i x) := by
  fun_cases Machine.copyDone
  case case1 => exact (hs.foldl fun hs => hs.stageOne).releaseStaged.toSome
  case case2 => exact .none

theorem From.execInControllerCopyDone (hs : From m₀ s) : Ok m₀ (execInControllerCopyDone s) :=
  (hs.getD (FromSome.firstSnap hs.copyDone)).next

theorem From.probeIndex (hs : From m₀ s) {m size d n e} : From m₀ (probeIndex m size d n s e).1 := by
  fun_induction Machine.probeIndex m size d n s e
  case case1 => exact hs
  case case2 | case3 | case4 | case5 => exact hs.targetAt.left ‹_›
  case case6 ih => exact ih (hs.targetAt.left ‹_›)

theorem From.claimEntry (hs : From m₀ s) {m e old new} : From m₀ (claimEntry s m e old new).1 := by
  fun_cases Machine.claimEntry
  case case1 | case3 => exact hs.targetAt.left ‹_›
  case case2 => exact (hs.targetAt.left ‹_›).wrAt

theorem From.driveStep (hs : From m₀ s) {i x t read data lba n k} (hk : ∀ t x, From m₀ t → From m₀ (k t x)) :
    From m₀ (driveStep s i x t read data lba n k) := by
  fun_cases Machine.driveStep
  case case1 => exact hs.wr.setSnap
  case case2 => exact hk _ _ hs.wr

theorem From.writeChunk (hs : From m₀ s) {i x t j c slot d e word} : From m₀ (writeChunk s i x t j c slot d e word) := by
  unfold Machine.writeChunk
  split
  · exact hs.targetAt.left ‹_›
  · have ht := hs.targetAt.left ‹_›
    split
    · exact ht.setSnap
    · exact ht.driveStep fun t x ht => ht.carry.wrAt.wrAt.wrAt.setSnap

theorem From.drainChunk (hs : From m₀ s) {i x t j c slot} : From m₀ (drainChunk s i x t j c slot) := by
  fun_cases Machine.drainChunk
  case case1 => exact hs.lineError
  case case2 => exact hs.setSnap
  case case3 => exact hs.writeChunk
  case case4 | case5 => exact (hs.probeIndex.left ‹_›).setSnap
  case case6 => exact hs.probeIndex.left ‹_›
  case case7 => exact ((hs.probeIndex.left ‹_›).claimEntry.left ‹_›).setSnap
  case case8 => exact (hs.probeIndex.left ‹_›).claimEntry.left ‹_›

theorem From.writeShard (hs : From m₀ s) {i x t ctx} : FromSome m₀ (writeShard s i x t ctx) := by
  rintro u hu
  obtain ⟨k, _, rfl⟩ := Option.map_eq_some_iff.mp hu
  refine hs.writeBytes.driveStep fun t x ht => ?_
  dsimp only
  split
  · exact ht.writeBytes.endSnap
  · exact ht.writeBytes.setSnap

theorem From.snapStep (hs : From m₀ s) {i x} : FromSome m₀ (snapStep s i x) := by
  fun_cases Machine.snapStep
  case case1 => exact ((hs.foldl fun hs => hs.settleContext).planChunks.left ‹_›).setSnap.releaseStaged.toSome
  case case2 | case5 | case8 => exact .none
  case case3 => exact (hs.readTarget.left ‹_›).endSnap.resumeAll.toSome
  case case4 => exact (hs.readTarget.left ‹_›).drainChunk.toSome
  case case6 => exact (hs.readTarget.left ‹_›).writeShard
  case case7 => exact (hs.readTarget.left ‹_›).endSnap.toSome

theorem From.execSnapshotStep (hs : From m₀ s) : Ok m₀ (execSnapshotStep s) := (hs.getD (FromSome.firstSnap hs.snapStep)).next

theorem From.takeOver (hs : From m₀ s) {i x} : FromSome m₀ (takeOver s i x) := by
  fun_cases Machine.takeOver
  case case1 | case2 | case5 => exact .none
  case case3 => exact (hs.targetAt.left ‹_›).setSnap.toSome
  case case4 => exact (hs.targetAt.left ‹_›).wrAt.setSnap.toSome

theorem From.execChunkClaimTakeover (hs : From m₀ s) : Ok m₀ (execChunkClaimTakeover s) :=
  (hs.getD (FromSome.firstSnap hs.takeOver)).next

theorem From.checkRestore (hs : From m₀ s) {i x} : From m₀ (checkRestore s i x) := by
  unfold Machine.checkRestore
  split
  · exact (hs.readTarget.left ‹_›).endSnap.resumeAll
  · refine (hs.readTarget.left ‹_›).driveStep fun t x ht => ?_
    dsimp only
    split
    · exact ht.endSnap.resumeAll
    · exact ht.planChunks.setSnap

theorem From.tear (hs : From m₀ s) {cs} : From m₀ (s.tear cs) := hs.same

theorem From.restoreOne (hs : From m₀ s) {i x} : FromSome m₀ (restoreOne s i x) := by
  unfold Machine.restoreOne
  split
  · exact (hs.readTarget.left ‹_›).endSnap.tear.toSome
  · have ht := hs.readTarget.left ‹_›
    split
    · exact ht.endSnap.same.resumeAll.toSome
    · split
      · exact .none
      · refine (ht.driveStep fun t x ht => ?_).toSome
        dsimp only
        split
        · exact ht.carry.endSnap.tear
        · exact ht.carry.chunkAddrs.carry.setSnap

theorem From.restoreStep (hs : From m₀ s) {i x} : FromSome m₀ (restoreStep s i x) := by
  fun_cases Machine.restoreStep
  case case1 => exact hs.checkRestore.toSome
  case case2 => exact hs.restoreOne
  case case3 => exact .none

theorem From.execSnapshotRestore (hs : From m₀ s) : Ok m₀ (execSnapshotRestore s) :=
  (hs.getD (FromSome.firstSnap hs.restoreStep)).next

theorem From.takeover (hs : From m₀ s) : From m₀ s.takeover := hs.same

theorem From.updateStep (hs : From m₀ s) {b i x} : FromSome m₀ (updateStep b s i x) := by
  fun_cases Machine.updateStep
  case case1 => exact .none
  case case2 => exact hs.extend.takeover.endSnap.toSome
  case case3 => exact hs.endSnap.toSome

theorem From.execFirmwareUpdate (hs : From m₀ s) {b} : Ok m₀ (execFirmwareUpdate b s) :=
  (hs.getD (FromSome.firstSnap hs.updateStep)).next

theorem From.execFailover (hs : From m₀ s) : Ok m₀ (execFailover s) := hs.takeover.errorRecord.next

/-! ### The Scribe -/

theorem From.setCtx (hs : From m₀ s) {i c} : From m₀ (s.setCtx i c) := hs.same
theorem From.setMap (hs : From m₀ s) {i o} : From m₀ (s.setMap i o) := hs.same
theorem From.setTab (hs : From m₀ s) {key x} : From m₀ (s.setTab key x) := hs.same
theorem From.building (hs : From m₀ s) {kind i v} : From m₀ (s.building kind i v) := hs.setEntry
theorem From.built (hs : From m₀ s) {kind i v detail} : From m₀ (s.built kind i v detail) := hs.setEntry
theorem From.waiting (hs : From m₀ s) {kind i detail} : From m₀ (s.waiting kind i detail) := hs.setEntry
theorem From.faulted (hs : From m₀ s) {kind i c detail} : From m₀ (s.faulted kind i c detail) := hs.setEntry
theorem From.refused (hs : From m₀ s) {kind i c} : From m₀ (s.refused kind i c) := hs.faulted
theorem From.draining (hs : From m₀ s) {kind i v replace} : From m₀ (s.draining kind i v replace) := hs.setEntry
theorem From.removed (hs : From m₀ s) {kind i} : From m₀ (s.removed kind i) := From.ite hs.setEntry hs.setEntry
theorem From.note (hs : From m₀ s) {kind i e} : From m₀ (s.note kind i e) := hs.same
theorem From.saw (hs : From m₀ s) {kind i v} : From m₀ (s.saw kind i v) := hs.note

theorem From.withDep (hs : From m₀ s) {k n} {d : Dep} {t} (ht : From m₀ t) : From m₀ (withDep s k n d t) := by
  fun_cases Machine.withDep
  case case1 => exact ht
  case case2 => exact hs.waiting
  case case3 => exact hs.refused

theorem From.stepContext (hs : From m₀ s) {i v c} : From m₀ (stepContext s i v c) := by
  unfold Machine.stepContext
  split
  · exact hs.refused
  · extract_lets old moved s₁ s₂ s₃
    clear_value moved
    have h₁ : From m₀ s₁ := hs.setCtx
    have h₂ : From m₀ s₂ := by
      dsimp only [s₂]
      split
      · exact h₁.shootdown
      · exact h₁
    have h₃ : From m₀ s₃ := From.ite h₂.building.suspendContext h₂.built.resumeContext
    exact From.ite (h₃.foldl fun hs => hs.tdiFails) h₃

theorem From.revokeMap (hs : From m₀ s) {i o} : From m₀ (revokeMap s i o) := by
  unfold Machine.revokeMap
  split
  split
  · exact hs
  · extract_lets s₁ s₂ e
    have h₁ : From m₀ s₁ := hs.performEvery.setTab
    have h₂ : From m₀ s₂ := by
      dsimp only [s₂]
      split
      · exact From.ite h₁.shootdown h₁
      · exact h₁
    exact From.ite h₂.note h₂

theorem From.bindList (hs : From m₀ s) {i o} : From m₀ (bindList s i o) := by
  fun_cases Machine.bindList
  case case1 => exact hs
  case case2 => exact hs.modList.foldl fun hs => hs.wr

theorem From.settleMap (hs : From m₀ s) {i} : From m₀ (settleMap s i) := by
  unfold Machine.settleMap
  extract_lets e t
  have ht : From m₀ t := .ite hs (.ite hs.setEntry hs.setEntry)
  exact .ite hs (.ite ht.setMap.removed ht)

theorem From.stepMapping (hs : From m₀ s) {i v o} : From m₀ (stepMapping s i v o) := by
  refine hs.withDep (From.ite hs.refused ?_)
  extract_lets s₁ gen s₂ e
  have h₁ : From m₀ s₁ := by
    dsimp only [s₁]
    split
    · exact hs.revokeMap
    · exact hs
  have h₂ : From m₀ s₂ := h₁.setMap.setTab.bindList
  exact From.ite h₂.note h₂.built

theorem From.drainMapping (hs : From m₀ s) {i v replace} : From m₀ (drainMapping s i v replace) := by
  fun_cases Machine.drainMapping
  case case1 => exact hs.draining.removed
  case case2 => exact hs.revokeMap.note
  case case3 => exact hs.revokeMap.draining.settleMap

theorem From.resizeTo (hs : From m₀ s) {i v old n} : From m₀ (resizeTo s i v old n) := by
  fun_cases Machine.resizeTo
  case case1 => exact (hs.setQueue.vaRange.ok ‹_›).setEntry
  case case2 => exact (hs.setQueue.vaRange.ok ‹_›).building
  case case3 => exact hs.setQueue.building

theorem From.stepQueue (hs : From m₀ s) {i v q} : From m₀ (stepQueue s i v q) := by
  refine hs.withDep ?_
  split
  · exact hs.setQueue.building.makeQueue
  · dsimp only
    split
    · exact From.ite hs.setQueue.building hs.setQueue.building.makeQueue
    · exact From.ite hs.resizeTo hs.setQueue.built

theorem From.drainQueue (hs : From m₀ s) {i v replace} : From m₀ (drainQueue s i v replace) := by
  fun_cases Machine.drainQueue
  case case1 => exact hs.draining.removed
  case case2 => exact hs.same.draining.removed
  case case3 => exact hs.draining.startQueueDrain

theorem From.queueUnlocks (hs : From m₀ s) {old new} : From m₀ (queueUnlocks s old new) := by
  fun_cases Machine.queueUnlocks
  case case1 => exact hs.tdiFails
  case case2 => exact hs

theorem From.buildFails (hs : From m₀ s) {i o c} : From m₀ (buildFails s i o c) := hs.same.refused
theorem From.buildAsks (hs : From m₀ s) {i o p} : From m₀ (buildAsks s i o p) := hs.askJob.setProg

theorem From.writeRecs (hs : From m₀ s) {i l m k o} : From m₀ (writeRecs i l m k s o) := by
  fun_induction Machine.writeRecs i l m k s o
  case case1 => exact hs
  case case2 => exact hs.buildAsks
  case case3 => exact (hs.mapAccess.fault ‹_›).buildFails
  case case4 ih => exact ih (hs.mapAccess.ok ‹_›).wrAt.setProg

theorem From.moreRecs (hs : From m₀ s) {i o l} : From m₀ (moreRecs s i o l) := by
  fun_cases Machine.moreRecs
  case case1 => exact hs
  case case2 => exact hs.writeRecs

theorem From.buildLaunch (hs : From m₀ s) {i o h img gs} : From m₀ (buildLaunch s i o h img gs) := by
  have ht {a b xs ys} : Edited m₀ (Machine.writeBytes (Machine.writeBytes s.mem a xs) b ys) :=
    (Edited.writeBytes hs a xs).writeBytes b ys
  unfold Machine.buildLaunch
  extract_lets l text m n o
  have hn : From m₀ ({ s.tick with mem := n, launches := s.launches ++ [l] }.setProg i o) := ht
  exact hn.moreRecs.settleProgram

theorem From.buildImage (hs : From m₀ s) {i o h img} : From m₀ (buildImage s i o h img) :=
  From.ite hs.buildFails (From.ite hs.buildFails (From.ite hs.buildFails hs.buildLaunch))

theorem From.recordsOne (hs : From m₀ s) {i o} : FromSome m₀ (recordsOne s i o) := by
  fun_cases Machine.recordsOne
  case case1 | case2 => exact .none
  case case3 => exact (From.ite hs.buildFails hs.moreRecs.settleProgram).toSome

theorem From.buildOne (hs : From m₀ s) {i o} : FromSome m₀ (buildOne s i o) := by
  fun_cases Machine.buildOne
  case case1 | case6 | case10 => exact .none
  case case2 => exact hs.recordsOne
  case case3 => exact hs.buildFails.toSome
  case case4 => exact hs.buildAsks.toSome
  case case5 => exact (hs.mapAccess.fault ‹_›).buildFails.toSome
  case case7 => exact (hs.mapAccess.ok ‹_›).buildFails.toSome
  case case8 => exact (hs.mapAccess.ok ‹_›).buildAsks.toSome
  case case9 => exact ((hs.mapAccess.ok ‹_›).mapAccess.fault ‹_›).buildFails.toSome
  case case11 => exact ((hs.mapAccess.ok ‹_›).mapAccess.ok ‹_›).buildImage.toSome

theorem FromSome.firstProg {ps} (hs : From m₀ s) : FromSome m₀ (firstProg s ps) := by
  induction ps with
  | nil => exact .none
  | cons x r ih =>
    obtain ⟨i, _ | o⟩ := x
    · exact ih
    · unfold Machine.firstProg
      split
      · next e => exact (hs.buildOne _ e).toSome
      · exact ih

theorem From.execProgramBuild (hs : From m₀ s) : Ok m₀ (execProgramBuild s) := (hs.getD (FromSome.firstProg hs)).next
theorem From.takeFrames (hs : From m₀ s) {fs} : From m₀ (takeFrames s fs) := hs.foldl fun hs => hs.takeFrame

theorem From.progInPlace (hs : From m₀ s) {i v old o l} : From m₀ (progInPlace s i v old o l) := by
  fun_cases Machine.progInPlace
  case case1 => exact hs.refused
  case case2 => exact hs.same.takeFrames.setProg.setEntry.moreRecs.settleProgram

theorem From.stepProgram (hs : From m₀ s) {i v o} : From m₀ (stepProgram s i v o) := by
  refine hs.withDep ?_
  split
  · split
    · exact hs.progInPlace
    · exact hs.setProg.building
  · exact hs.setProg.building

theorem From.drainProgram (hs : From m₀ s) {i v replace} : From m₀ (drainProgram s i v replace) := by
  fun_cases Machine.drainProgram
  case case1 => exact hs.draining.removed
  case case2 => exact hs.takeFrames.draining.programDrained

theorem From.settleCtxDrain (hs : From m₀ s) {i} : From m₀ (settleCtxDrain s i) := by
  unfold Machine.settleCtxDrain
  split
  · exact hs
  · extract_lets s₁ bays kept dies s₂ s₃ e
    have h₁ : From m₀ s₁ := by
      dsimp only [s₁]
      split
      · exact hs.shootdown
      · exact hs
    exact h₁.same.setCtx.setEntry.removed

theorem From.drainContext (hs : From m₀ s) {i v} : From m₀ (drainContext s i v) := by
  fun_cases Machine.drainContext
  case case1 => exact hs.draining.removed
  case case2 => exact hs.draining.settleCtxDrain

theorem From.stepSnapshot (hs : From m₀ s) {i v x} : From m₀ (stepSnapshot s i v x) := by
  refine hs.withDep (From.ite hs.setSnap.building ?_)
  split
  · exact (hs.readTarget.left ‹_›).refused
  · have ht := hs.readTarget.left ‹_›
    exact From.ite ht.setSnap.building (ht.setSnap.building.foldl fun ht => ht.suspendContext)

theorem From.drainSnapshot (hs : From m₀ s) {i v replace} : From m₀ (drainSnapshot s i v replace) :=
  hs.draining.abandonSnap.removed

theorem From.removeRecord (hs : From m₀ s) {kind i v replace} : From m₀ (removeRecord s kind i v replace) := by
  fun_cases Machine.removeRecord
  case case1 => exact hs.drainContext
  case case2 => exact hs.drainMapping
  case case3 => exact hs.drainQueue
  case case4 => exact hs.drainProgram
  case case5 => exact hs.drainSnapshot

theorem From.stepBody (hs : From m₀ s) {kind i v p} : From m₀ (stepBody s kind i v p) := by
  fun_cases Machine.stepBody
  case case1 => exact hs.stepContext
  case case2 => exact hs.stepMapping
  case case3 => exact hs.stepQueue
  case case4 => exact hs.stepProgram
  case case5 => exact hs.stepSnapshot

theorem From.updateRecord (hs : From m₀ s) {kind i v p} : From m₀ (updateRecord s kind i v p) := by
  unfold Machine.updateRecord
  split
  · extract_lets old s₁ s₂ e
    clear_value old
    have h₁ : From m₀ s₁ := hs.removeRecord
    have h₂ : From m₀ s₂ := by
      dsimp only [s₂]
      split
      · split
        · exact h₁.queueUnlocks
        · exact h₁
      · exact h₁
    exact From.ite h₂.stepBody h₂
  · exact hs.stepBody

theorem From.deleteOne (hs : From m₀ s) {h kind i} : From m₀ (deleteOne h kind s i) := by
  fun_cases Machine.deleteOne
  case case1 | case2 => exact From.ite hs.saw hs.saw.removeRecord
  case case3 => exact hs

theorem From.createOne (hs : From m₀ s) {h kind i} : From m₀ (createOne h kind s i) := by
  fun_cases Machine.createOne
  case case1 | case2 | case3 => exact hs
  case case4 => exact hs.setEntry
  case case5 => exact hs.saw.appendOrDrop.faulted
  case case6 => exact hs.saw.refused
  case case7 => exact hs.note.updateRecord

theorem From.writeStatus (hs : From m₀ s) : From m₀ s.writeStatus := hs.writeBytes
theorem From.plumb (hs : From m₀ s) {h} : From m₀ (s.plumb h) := From.ite hs.wr.same hs

theorem From.runPass (hs : From m₀ s) {h} : From m₀ (runPass s h) :=
  ((hs.foldl fun hs => hs.foldl fun hs => hs.deleteOne).foldl fun hs => hs.foldl fun hs => hs.createOne).plumb

theorem From.scribePass (hs : From m₀ s) : From m₀ (scribePass s) := by
  unfold Machine.scribePass
  extract_lets t r u
  have ht : From m₀ t := hs.same
  have hu : From m₀ u := by
    dsimp only [u]
    split
    · exact ht.same
    · exact ht.same.runPass
  exact hu.same.writeStatus

theorem From.execScribePass (hs : From m₀ s) : Ok m₀ (execScribePass s) := (From.ite hs.scribePass hs).next

theorem From.firstEntry (hs : From m₀ s) {kind p f} (hf : ∀ {i}, From m₀ (f s i)) : From m₀ (firstEntry s kind p f) := by
  fun_cases Machine.firstEntry
  case case1 => exact hf
  case case2 => exact hs

theorem From.execMappingDrainComplete (hs : From m₀ s) : Ok m₀ (execMappingDrainComplete s) := (hs.firstEntry hs.settleMap).next

theorem From.execContextDrainComplete (hs : From m₀ s) : Ok m₀ (execContextDrainComplete s) :=
  (hs.firstEntry hs.settleCtxDrain).next

/-! ### Instructions -/

theorem Issued.withEnv (hi : Issued m₀ s) {k} (hk : ∀ {e}, From m₀ s → Ok m₀ (k e)) : Ok m₀ (withEnv s k) := by
  obtain ⟨hs, e, he⟩ := hi
  cases hc : s.cur with
  | none => simp [State.env, hc] at he
  | some c =>
    simp only [Machine.withEnv, hc, he]
    exact hk hs

theorem Ok.ite {c : Prop} [Decidable c] {a b : Res} (ha : Ok m₀ a) (hb : Ok m₀ b) : Ok m₀ (if c then a else b) := by
  split
  · exact ha
  · exact hb

theorem Issued.tick (hi : Issued m₀ s) : Issued m₀ s.tick := ⟨hi.1.tick, hi.2⟩

theorem Issued.ite {t : State} {c : Prop} [Decidable c] (hs : Issued m₀ s) (ht : Issued m₀ t) :
    Issued m₀ (if c then s else t) := by
  split
  · exact hs
  · exact ht

theorem Issued.drawing (hi : Issued m₀ s) {o} : Issued m₀ (s.drawing o) := Issued.ite hi.tick hi

theorem Issued.scalarResult (hi : Issued m₀ s) {h lat d srcs f} : Ok m₀ (scalarResult s h lat d srcs f) :=
  hi.withEnv fun hs => .ite hs.finish hs.finish

theorem Issued.laneResult (hi : Issued m₀ s) {h lat d srcs f} : Ok m₀ (laneResult s h lat d srcs f) :=
  hi.withEnv fun hs => hs.finish

theorem Issued.lanesToScalar (hi : Issued m₀ s) {h lat d a f} : Ok m₀ (lanesToScalar s h lat d a f) :=
  hi.withEnv fun hs => .ite hs.finish hs.finish

theorem Issued.execFact (hi : Issued m₀ s) {h o} : Ok m₀ (execFact h o s) := hi.withEnv fun hs => .ite hs.trap hi.laneResult
theorem Issued.floatExact (hi : Issued m₀ s) {h o op lat f} : Ok m₀ (floatExact s h o op lat f) := (hi.tick.ite hi).laneResult

theorem Issued.loadOp (hi : Issued m₀ s) {h o indexed uniform} : Ok m₀ (loadOp s h o indexed uniform) :=
  hi.withEnv fun hs => hs.withRoom <|
    hs.afterChecks hs.memCheck (fun ht => ht.withCommit fun hu => hu.finishUnits) hs.finish

theorem Issued.storeOp (hi : Issued m₀ s) {h o indexed uniform} : Ok m₀ (storeOp s h o indexed uniform) := by
  refine hi.withEnv fun hs => hs.withRoom <| .ite hs.trap <| hs.afterChecks hs.memCheck (fun ht => ?_) hs.finish
  dsimp only
  split
  · exact ht.trap
  · refine ht.withCommit fun hu => .ite (.ite ?_ ?_) hu.finishStore
    · exact hu.performAll.setWarp.trap
    · exact hu.performAll.bufferLanes.finishStore

theorem Issued.atomicInstr (hi : Issued m₀ s) {h o n ret cas} : Ok m₀ (atomicInstr s h o n ret cas) := by
  refine hi.withEnv fun hs => hs.withRoom <| hs.afterChecks hs.memCheck (fun ht => ?_) hs.finish
  dsimp only
  split
  · exact ht.trap
  · exact ht.withCommit fun hu => hu.finishUnits

theorem From.iteP {α : Type} {c : Prop} [Decidable c] {p q : State × α} (hp : From m₀ p.1) (hq : From m₀ q.1) :
    From m₀ (if c then p else q).1 := by
  split
  · exact hp
  · exact hq

theorem Issued.crossRead (hi : Issued m₀ s) {h o idx fill} : Ok m₀ (crossRead s h o idx fill) := hi.withEnv fun hs => hs.finish
theorem Issued.execMfs (hi : Issued m₀ s) {h o} : Ok m₀ (execMfs h o s) := .ite hi.laneResult hi.scalarResult
theorem Issued.execMts (hi : Issued m₀ s) {h o} : Ok m₀ (execMts h o s) := hi.withEnv fun hs => .ite hs.finish hs.finish

theorem Issued.execFence (hi : Issued m₀ s) {h o} : Ok m₀ (execFence h o s) :=
  hi.withEnv fun hs => .ite hs.finish hs.tick.finish

theorem Issued.execShjoin (hi : Issued m₀ s) {h o} : Ok m₀ (execShjoin h o s) := by
  refine hi.withEnv fun hs => .ite hs.finish <| .ite hs.trap ?_
  split
  · exact hs.finish
  · exact hs.setCircle.finish

theorem Issued.execShleave (hi : Issued m₀ s) {h o} : Ok m₀ (execShleave h o s) :=
  hi.withEnv fun hs => .ite hs.finish <| .ite hs.finish hs.setCircle.finish

theorem Issued.copyInstr (hi : Issued m₀ s) {h x wide coll} : Ok m₀ (copyInstr s h x wide coll) := by
  refine hi.withEnv fun hs => .ite hs.holdAt <| .ite hs.trapWord <| .ite hs.trap ?_
  split
  · exact hs.trap
  · refine hs.afterChecks hs.copyChecks (fun ht => ?_) hs.finish
    dsimp only
    split
    · exact ht.trap
    · have hp {c : Prop} [Decidable c] {v w fid all} :=
        From.iteP (c := c) (p := (_, v)) ht (ht.performBefore (fid := fid) (w := w) (all := all))
      split
      · exact hp.tick.countTag.same.finish
      · exact hp.tick.same.finish
      · exact hp.finish

theorem Issued.tagInstr (hi : Issued m₀ s) {h k} (hk : ∀ {e}, From m₀ s → Ok m₀ (k e)) : Ok m₀ (tagInstr s h k) :=
  hi.withEnv fun hs => .ite hs.finish (hk hs)

theorem Issued.execTagclr (hi : Issued m₀ s) {h x} : Ok m₀ (execTagclr h x s) :=
  hi.tagInstr fun hs => (hs.foldl fun ht => ht.setTag).finish

theorem Issued.execTagwall (hi : Issued m₀ s) {h x} : Ok m₀ (execTagwall h x s) := by
  refine hi.tagInstr fun hs => .ite hs.holdAt ?_
  split
  · exact hs.tagTrap
  · exact hs.finish

theorem Issued.execTagwany (hi : Issued m₀ s) {h x} : Ok m₀ (execTagwany h x s) := by
  refine hi.tagInstr fun hs => ?_
  split
  · exact hs.holdAt
  · split
    · exact hs.tagTrap
    · exact hs.finish

theorem Issued.execTagff (hi : Issued m₀ s) {h x} : Ok m₀ (execTagff h x s) := by
  refine hi.tagInstr fun hs => ?_
  split
  · exact hs.tagTrap
  · exact hs.finish

theorem Issued.ringInstr (hi : Issued m₀ s) {h x k} (hk : ∀ {e r}, From m₀ s → Ok m₀ (k e r)) : Ok m₀ (ringInstr s h x k) := by
  refine hi.withEnv fun hs => .ite hs.finish ?_
  split
  · exact hs.trap
  · exact .ite (hk hs) hs.trap

theorem From.finishS (hs : From m₀ s) {e h d v} : Ok m₀ (finishS s e h d v) := hs.finish

theorem Issued.execRgrsv (hi : Issued m₀ s) {h x} : Ok m₀ (execRgrsv h x s) :=
  hi.ringInstr fun hs => .ite (.ite hs.finishS hs.holdAt) hs.setRing.finishS

theorem Issued.execRgpub (hi : Issued m₀ s) {h x} : Ok m₀ (execRgpub h x s) := by
  refine hi.ringInstr fun hs => ?_
  split
  · exact hs.trap
  · exact hs.withCommit fun ht => ht.performAll.setRing.finish

theorem Issued.execRgawt (hi : Issued m₀ s) {h x} : Ok m₀ (execRgawt h x s) :=
  hi.ringInstr fun hs => .ite (.ite hs.finishS hs.holdAt) hs.setRing.finishS

theorem Issued.execRgrel (hi : Issued m₀ s) {h x} : Ok m₀ (execRgrel h x s) := by
  refine hi.ringInstr fun hs => ?_
  split
  · exact hs.trap
  · exact hs.setRing.finish

theorem Issued.execRgqryState (hi : Issued m₀ s) {h x} : Ok m₀ (execRgqryState h x s) := hi.ringInstr fun hs => hs.finish

theorem From.descriptorAt (hs : From m₀ s) {e x k} (hk : ∀ {a}, Ok m₀ (k a)) : Ok m₀ (descriptorAt s e x k) :=
  .ite hs.trap <| .ite hs.trap hk

theorem Issued.execRgqryBind (hi : Issued m₀ s) {h x} : Ok m₀ (execRgqryBind h x s) := by
  refine hi.withEnv fun hs => .ite hs.finish <| hs.descriptorAt ?_
  intro a
  dsimp only
  split
  · exact hs.performAll.setRing.finish
  · exact hs.performAll.setWarp.trap

theorem Issued.execRgqryUnbind (hi : Issued m₀ s) {h x} : Ok m₀ (execRgqryUnbind h x s) :=
  hi.ringInstr fun hs => .ite hs.trap <| hs.descriptorAt hs.performAll.writeBytes.setRing.finish

theorem Issued.execRgqryWaiters (hi : Issued m₀ s) {h x} : Ok m₀ (execRgqryWaiters h x s) := hi.ringInstr fun hs => hs.finishS

theorem Issued.depInstr (hi : Issued m₀ s) {h x k} (hk : ∀ {t e ctr c off}, From m₀ t → Ok m₀ (k t e ctr c off)) :
    Ok m₀ (depInstr s h x k) :=
  hi.withEnv fun hs => hs.withRoom <| hs.afterChecks (From.xlanes hs) (fun ht => .ite ht.finishEmpty (hk ht)) hs.finish

theorem Issued.execDepdec (hi : Issued m₀ s) {h x} : Ok m₀ (execDepdec h x s) :=
  hi.depInstr fun ht => by
    split
    exact (ht.issueUnits.left ‹_›).addDep.finish

theorem Issued.execDepdecSet (hi : Issued m₀ s) {h x} : Ok m₀ (execDepdecSet h x s) := hi.depInstr fun ht => ht.finishEmpty

theorem Issued.listInstr (hi : Issued m₀ s) {h x bit k} (hk : ∀ {e d i}, From m₀ s → Ok m₀ (k e d i)) :
    Ok m₀ (listInstr s h x bit k) := by
  refine hi.withEnv fun hs => .ite hs.finish ?_
  dsimp only
  split
  · exact .ite hs.trap <| .ite hs.trap (hk hs)
  · exact hs.trap

theorem Issued.execRlpush (hi : Issued m₀ s) {h x} : Ok m₀ (execRlpush h x s) :=
  hi.listInstr fun hs => .ite hs.holdAt <| hs.withCommit fun ht => ht.performAll.pushItem.finish

theorem Issued.execRlpop (hi : Issued m₀ s) {h x} : Ok m₀ (execRlpop h x s) := by
  refine hi.listInstr fun hs => ?_
  dsimp only
  split
  · exact hs.finish
  · exact (hs.popItem ‹_›).finish

theorem Issued.execWaitc (hi : Issued m₀ s) {h o} : Ok m₀ (execWaitc h o s) := by
  refine hi.withEnv fun hs => .ite hs.finish <| .ite hs.holdAt ?_
  split
  · exact hs.finish
  · exact .ite hs.stopRun.next hs.setWarp.takeTrap.next

theorem Issued.warpInstr (hi : Issued m₀ s) {h g} : Ok m₀ (warpInstr s h g) := hi.withEnv fun hs => hs.finish

theorem Issued.execUiret (hi : Issued m₀ s) {h o} : Ok m₀ (execUiret h o s) :=
  hi.withEnv fun hs => .ite hs.finish <| .ite hs.trapWord hs.finishAt

theorem Issued.branch (hi : Issued m₀ s) {h f g} : Ok m₀ (branch s h f g) := hi.withEnv fun hs => hs.finishAt
theorem Issued.execJoin (hi : Issued m₀ s) {h o} : Ok m₀ (execJoin h o s) := hi.withEnv fun hs => hs.finishAt

theorem Issued.execExit (hi : Issued m₀ s) {h o} : Ok m₀ (execExit h o s) := by
  refine hi.withEnv fun {e} hs => .ite hs.trapWord ?_
  extract_lets w
  split
  have hp {v} := ((From.iteP hs.performAll hs).left ‹_›).endIssue (w := v) (fid := e.c.fid)
  exact (From.ite hp.settleBarriers.settleDone hp).next

theorem Issued.execNop (hi : Issued m₀ s) {h o} : Ok m₀ (execNop h o s) := hi.withEnv fun hs => hs.finish
theorem Issued.execUtrap (hi : Issued m₀ s) {h o} : Ok m₀ (execUtrap h o s) := hi.withEnv fun hs => .ite hs.finish hs.trap
theorem Issued.execBkpt (hi : Issued m₀ s) {h o} : Ok m₀ (execBkpt h o s) := hi.withEnv fun hs => .ite hs.finish hs.trap
theorem Issued.execSleep (hi : Issued m₀ s) {h o} : Ok m₀ (execSleep h o s) := hi.withEnv fun hs => .ite hs.finish hs.holdAt

theorem Issued.groupInstr (hi : Issued m₀ s) {h a k} (hk : ∀ {e g}, From m₀ s → Ok m₀ (k e g)) : Ok m₀ (groupInstr s h a k) :=
  hi.withEnv fun hs => .ite (hk hs) hs.trapWord

theorem From.barrierEnd (hs : From m₀ s) {e h g w arrives} : Ok m₀ (barrierEnd s e h g w arrives) := by
  unfold Machine.barrierEnd
  split
  · exact hs.endIssue.settleBarriers.next
  · have hp {v} : From m₀ ((Machine.performAll s e.c.fid w).1.endIssue e.c.fid v) := hs.performAll.endIssue
    dsimp only
    split
    · exact (From.ite hp hp.setFrame).settleBarriers.next
    · exact hp.settleBarriers.next

theorem Issued.groupQuery (hi : Issued m₀ s) {h o f} : Ok m₀ (groupQuery s h o f) :=
  hi.groupInstr fun hs => .ite hs.finish hs.finish

theorem Issued.execGrpqMem (hi : Issued m₀ s) {h o} : Ok m₀ (execGrpqMem h o s) :=
  hi.withEnv fun hs => .ite hs.trapWord hi.groupQuery

theorem Issued.bufferInstr (hi : Issued m₀ s) {h keep} : Ok m₀ (bufferInstr s h keep) :=
  hi.withEnv fun hs => .ite hs.finish <| .ite hs.closeBuffer.finish hs.closeBuffer.holdAt

theorem Issued.scalarInt (hi : Issued m₀ s) {h o op lat f} : Ok m₀ (scalarInt s h o op lat f) := hi.scalarResult
theorem Issued.vectorInt (hi : Issued m₀ s) {h o op lat f} : Ok m₀ (vectorInt s h o op lat f) := hi.laneResult
theorem Issued.floatCode (hi : Issued m₀ s) {h o op lat f} : Ok m₀ (floatCode s h o op lat f) := hi.laneResult
theorem Issued.special (hi : Issued m₀ s) {h o fn} : Ok m₀ (special s h o fn) := hi.laneResult
theorem Issued.capQuery (hi : Issued m₀ s) {h o f} : Ok m₀ (capQuery s h o f) := hi.scalarResult
theorem Issued.faultQuery (hi : Issued m₀ s) {h o f} : Ok m₀ (faultQuery s h o f) := hi.scalarResult
theorem Issued.mxstat (hi : Issued m₀ s) {h x f} : Ok m₀ (mxstat s h x f) := hi.scalarResult
theorem From.finishCap (hs : From m₀ s) {e h d lat c} : Ok m₀ (finishCap s e h d lat c) := hs.finish

theorem Issued.capInstr (hi : Issued m₀ s) {h k} (hk : ∀ {e}, From m₀ s → Ok m₀ (k e)) : Ok m₀ (capInstr s h k) :=
  hi.withEnv fun hs => .ite hs.finish (hk hs)

theorem Issued.execCapld (hi : Issued m₀ s) {h o} : Ok m₀ (execCapld h o s) := hi.capInstr fun hs => .ite hs.trap hs.finishCap

theorem Issued.execCapnar (hi : Issued m₀ s) {h o} : Ok m₀ (execCapnar h o s) :=
  hi.capInstr fun hs => .ite hs.trap <| .ite hs.trap <| .ite hs.trap hs.finishCap

theorem Issued.execCapvw (hi : Issued m₀ s) {h o} : Ok m₀ (execCapvw h o s) := by
  refine hi.capInstr fun hs => .ite hs.trap ?_
  split
  · exact hs.trap
  · exact hs.finishCap

theorem Issued.imageInstr (hi : Issued m₀ s) {h a b n acc k} (hk : ∀ {t e r m}, From m₀ t → Ok m₀ (k t e r m)) :
    Ok m₀ (imageInstr s h a b n acc k) := by
  refine hi.withEnv fun hs => .ite hs.finish <| hs.afterChecks (From.xlanes hs) (fun ht => ?_) hs.finish
  split
  · exact ht.withCommit fun hu => hk hu.performAll.setWarp
  · exact ht.finish

theorem From.readImage (hs : From m₀ s) {e r n m k} (hk : ∀ {t e bs}, From m₀ t → Ok m₀ (k t e bs)) :
    Ok m₀ (readImage s e r n m k) :=
  hk hs.consumeBad.setWarp

theorem From.writeImage (hs : From m₀ s) {e r m bs k} (hk : ∀ {t}, From m₀ t → Ok m₀ (k t)) : Ok m₀ (writeImage s e r m bs k) :=
  .ite hs.trap (hk hs.storeAt)

theorem Issued.execBarsv (hi : Issued m₀ s) {h o} : Ok m₀ (execBarsv h o s) :=
  hi.withEnv fun _ => hi.imageInstr fun ht => ht.writeImage fun hu => hu.finish

theorem Issued.execBarrs (hi : Issued m₀ s) {h o} : Ok m₀ (execBarrs h o s) := by
  refine hi.withEnv fun hs => .ite hs.trapWord <| hi.imageInstr fun ht => ht.readImage fun hu => ?_
  split
  · exact hu.trap
  · exact hu.setFrame.endIssue.settleBarriers.next

theorem Issued.execCapsv (hi : Issued m₀ s) {h o} : Ok m₀ (execCapsv h o s) :=
  hi.imageInstr fun ht => ht.seal.writeImage fun hu => hu.finish

theorem Issued.execCaprs (hi : Issued m₀ s) {h o} : Ok m₀ (execCaprs h o s) := by
  refine hi.imageInstr fun ht => ht.readImage fun hu => ?_
  split
  · exact hu.trap
  · exact hu.finish

theorem From.afterRoutine (hs : From m₀ s) {e h w} : Ok m₀ (afterRoutine s e h w) :=
  (From.ite hs.endIssue.settleBarriers (From.ite hs.endIssue hs.endIssue.enterSave)).next

theorem Issued.tretInstr (hi : Issued m₀ s) {h skip} : Ok m₀ (tretInstr s h skip) :=
  hi.withEnv fun hs => .ite hs.finish <| .ite hs.trapWord hs.afterRoutine

theorem Issued.execCcsv (hi : Issued m₀ s) {h o} : Ok m₀ (execCcsv h o s) := by
  refine hi.withEnv fun hs => .ite hs.holdAt <| hi.imageInstr fun {t} _ _ _ ht => ?_
  split
  next u _ e =>
    have hu : From m₀ u := by
      revert e
      split
      · rintro ⟨⟩
        exact ht.seal
      · rintro ⟨⟩
        exact ht
    exact hu.writeImage fun hv => hv.finish

theorem Issued.execCcsvDrain (hi : Issued m₀ s) {h o} : Ok m₀ (execCcsvDrain h o s) :=
  hi.withEnv fun hs => .ite hs.holdAt hs.finish

theorem Issued.execTretImg (hi : Issued m₀ s) {h o} : Ok m₀ (execTretImg h o s) :=
  hi.withEnv fun hs => .ite hs.trapWord <| hi.imageInstr fun ht => ht.readImage fun hu =>
    .ite hu.trap <| .ite hu.holdAt hu.orIssued.afterRoutine

theorem Issued.execFltqErr (hi : Issued m₀ s) {h o} : Ok m₀ (execFltqErr h o s) := hi.withEnv fun hs => .ite hs.finish hs.finish

theorem From.trussStart (hs : From m₀ s) {e h d ctr g slot new p} : Ok m₀ (trussStart s e h d ctr g slot new p) :=
  hs.withCommit fun ht => ht.performBefore.tick.setBay.finish

theorem Issued.trussInstr (hi : Issued m₀ s) {h x g new plan} : Ok m₀ (trussInstr s h x g new plan) := by
  refine hi.withEnv fun hs => hs.withRoom <| .ite hs.finishEmpty <| .ite hs.holdAt <| .ite hs.trapWord <| .ite hs.trap ?_
  split
  · exact hs.trapWord
  · exact hs.trap
  · refine .ite hs.trussStart ?_
    split
    · exact hs.trap
    · exact hs.trussStart

theorem Issued.execTrel (hi : Issued m₀ s) {h x} : Ok m₀ (execTrel h x s) := by
  refine hi.withEnv fun hs => .ite hs.finish ?_
  dsimp only
  split
  · exact hs.trap
  · exact hs.setBay.finish

theorem Issued.execTst (hi : Issued m₀ s) {h x} : Ok m₀ (execTst h x s) := by
  unfold Machine.execTst
  split
  · exact hi.trussInstr
  · exact hi.withEnv fun hs => hs.trapWord

theorem Issued.execTqrySlots (hi : Issued m₀ s) {h x} : Ok m₀ (execTqrySlots h x s) :=
  hi.withEnv fun hs => .ite hs.finish hs.finish

theorem Issued.execFtload (hi : Issued m₀ s) {h o} : Ok m₀ (execFtload h o s) := by
  refine hi.withEnv fun hs => hs.withRoom <| .ite hs.finishEmpty <| .ite hs.trap ?_
  split
  · exact hs.trap
  · split
    · exact hs.trap
    · exact hs.holdAt
    · refine ((From.xcapRange hs).leftX ‹_›).withCommit fun ht => ?_
      exact ht.performBefore.tick.same.finish

theorem From.enqueueJob {q : Submit} (hq : From m₀ q.s) {e h x eng} : Ok m₀ (enqueueJob e h x eng q) := by
  have hp {fid w} := (hq.performBefore (fid := fid) (w := w) (all := false)).tick
  unfold Machine.enqueueJob
  dsimp only
  split
  · exact hp.setDie.finish
  · exact hp.setDie.countTag.finish
  · exact hp.setDie.finish

theorem Issued.submitInstr (hi : Issued m₀ s) {h x eng prep}
    (hp : ∀ {t e k}, From m₀ t → (∀ {u e w r}, From m₀ u → Ok m₀ (k u e w r)) → Ok m₀ (prep t e k)) :
    Ok m₀ (submitInstr s h x eng prep) := by
  refine hi.withEnv fun hs => .ite ?_ ?_
  · split
    · exact hs.withRoom hs.finishEmpty
    · exact hs.finish
  · split
    · exact hs.holdAt
    · split
      · exact hs.trap
      · refine hs.withCommit fun ht => hp ht fun hu => ?_
        split
        · exact hu.trap
        · exact From.enqueueJob hu

theorem From.readDesc (hs : From m₀ s) {e x k} (hk : ∀ {t e bs}, From m₀ t → Ok m₀ (k t e bs)) : Ok m₀ (readDesc s e x k) := by
  unfold Machine.readDesc
  refine hs.afterChecks (From.xlanes hs) (fun ht => ?_) ?_
  · exact hk ht.ownBefore.consumeBad.setWarp
  · exact hs.stopRun.next

theorem Issued.descJob (hi : Issued m₀ s) {h x eng op} : Ok m₀ (descJob s h x eng op) :=
  hi.submitInstr fun ht hk => ht.readDesc fun hu => hk hu

theorem Issued.execMxopen (hi : Issued m₀ s) {h x} : Ok m₀ (execMxopen h x s) := by
  unfold Machine.execMxopen
  refine hi.submitInstr fun ht hk => ?_
  exact hk ht

theorem Issued.execMxapp (hi : Issued m₀ s) {h x} : Ok m₀ (execMxapp h x s) := hi.submitInstr fun ht hk => hk ht
theorem Issued.execMxsave (hi : Issued m₀ s) {h x} : Ok m₀ (execMxsave h x s) := hi.submitInstr fun ht hk => hk ht
theorem Issued.execMxload (hi : Issued m₀ s) {h x} : Ok m₀ (execMxload h x s) := hi.submitInstr fun ht hk => hk ht
theorem Issued.execMxdrop (hi : Issued m₀ s) {h x} : Ok m₀ (execMxdrop h x s) := hi.submitInstr fun ht hk => hk ht

theorem Issued.execMxlook (hi : Issued m₀ s) {h x} : Ok m₀ (execMxlook h x s) := by
  unfold Machine.execMxlook
  refine hi.submitInstr fun ht hk => ?_
  exact .ite (hk ht) (hk ht)

theorem Issued.voteResult (hi : Issued m₀ s) {h d p f} : Ok m₀ (voteResult s h d p f) :=
  hi.withEnv fun hs => .ite hs.finish hs.finish

theorem Issued.loopInstr (hi : Issued m₀ s) {h x step} : Ok m₀ (loopInstr s h x step) := hi.trussInstr

/-! ### Every instruction and every event -/

theorem From.event (hs : From m₀ s) {i : Instr} (hp : i.parts = none) : Ok m₀ (exec i s) := by
  unfold Machine.exec
  cases i
  case partitionIssue => exact hs.execPartitionIssue
  case warpHoldRelease => exact hs.execWarpHoldRelease
  case sleepExpiry => exact hs.execSleepExpiry
  case userInterruptDelivery => exact hs.execUserInterruptDelivery
  case counterRetire => exact hs.execCounterRetire
  case tagLanePerformed => exact hs.execTagLanePerformed
  case cpygCollectiveStart => exact hs.execCpygCollectiveStart
  case trussGrant => exact hs.execTrussGrant
  case trussOpComplete => exact hs.execTrussOpComplete
  case engineJobStart => exact hs.execEngineJobStart
  case engineRingResume => exact hs.execEngineRingResume
  case engineJobComplete => exact hs.execEngineJobComplete
  case pageResponseDoorbell => exact hs.execPageResponseDoorbell
  case peerTimeout => exact hs.execPeerTimeout
  case peerErrorResponse => exact hs.execPeerErrorResponse
  case peerInboundAccess => exact hs.execPeerInboundAccess
  case hostCxlAccess => exact hs.execHostCxlAccess
  case linkDown => exact hs.execLinkDown
  case linkRetrained => exact hs.execLinkRetrained
  case planbase => exact hs.execPlanbase
  case configRegisterWrite => exact hs.execConfigRegisterWrite
  case qifcfg => exact hs.execQifcfg
  case framePlacement => exact hs.execFramePlacement
  case saveReq => exact hs.execSaveReq
  case frameOut => exact hs.execFrameOut
  case frameRelaunch => exact hs.execFrameRelaunch
  case tailWrite => exact hs.execTailWrite
  case bayWake => exact hs.execBayWake
  case bayPowerGate => exact hs.execBayPowerGate
  case shootdownFileWrite => exact hs.execShootdownFileWrite
  case firmwareUpdate => exact hs.execFirmwareUpdate
  case conventionalReset => exact hs.execConventionalReset
  case lockInterfaceRequest => exact hs.execLockInterfaceRequest
  case startInterfaceRequest => exact hs.execStartInterfaceRequest
  case stopInterfaceRequest => exact hs.execStopInterfaceRequest
  case tdiError => exact hs.execTdiError
  case getMeasurements => exact hs.execGetMeasurements
  case spdmSessionStart => exact hs.execSpdmSessionStart
  case memoryScrub => exact hs.execMemoryScrub
  case ftloadFlip => exact hs.execFtloadFlip
  case pageRequestSend => exact hs.execPageRequestSend
  case pageRetryDelayExpiry => exact hs.execPageRetryDelayExpiry
  case touch => exact hs.execTouch
  case scribePass => exact hs.execScribePass
  case programBuild => exact hs.execProgramBuild
  case mappingDrainComplete => exact hs.execMappingDrainComplete
  case contextDrainComplete => exact hs.execContextDrainComplete
  case queueResize => exact hs.execQueueResize
  case queueCloseDrain => exact hs.execQueueCloseDrain
  case queueMessagePlace => exact hs.execQueueMessagePlace
  case shootdownAck => exact hs.execShootdownAck
  case snapshotStep => exact hs.execSnapshotStep
  case snapshotRestore => exact hs.execSnapshotRestore
  case failover => exact hs.execFailover
  case spdmSessionExpiry => exact hs.execSpdmSessionExpiry
  case chunkClaimTakeover => exact hs.execChunkClaimTakeover
  case inControllerCopyDone => exact hs.execInControllerCopyDone
  all_goals nomatch hp

theorem Issued.exec (hi : Issued m₀ s) {i : Instr} : Ok m₀ (exec i s) := by
  by_cases hp : i.parts = none
  · exact hi.1.event hp
  unfold Machine.exec
  cases i
  case sadd | ssub | smul | smulhi | sdiv | smod | sand | sor | sxor | sshl | sshr | ssar | smin | smax | sbfx | spopc |
      sclz | sctz | scmp | smov =>
    exact hi.scalarInt
  case sbfi | ssel | smovi | slea | tqryFree | tqryFault | tqryPend => exact hi.scalarResult
  case vadd | vsub | vmul | vmulhi | vmad | vand | vor | vxor | vshl | vshr | vsar | vmin | vmax | vabs | vbfx | vbfi |
      vpopc | vclz =>
    exact hi.vectorInt
  case vcmp | vsel | vmov | vmovi | vlea | fcmp | qscaleCode | qlq4Nib | qlq4Qcode | qlq4Bscale | pand | por | pxor |
      pnot | pfromv | ptov | elect | s2v =>
    exact hi.laneResult
  case fdot2 | cvt | cvtpk2 | cvtpk4 | cvtup | qscaleApply | qmx => exact hi.drawing.laneResult
  case fadd | fsub | fmul | ffma | fmin | fmax => exact hi.floatExact
  case fclass | frnd => exact hi.floatCode
  case frcp | fsqrt | frsq | fexp2 | flog2 | fsin | fcos => exact hi.special
  case fact => exact hi.execFact
  case ftload => exact hi.execFtload
  case pvote | pcnt => exact hi.voteResult
  case xperm | xbcast | xrot => exact hi.crossRead
  case xscan | pfetch | yield => exact hi.withEnv fun hs => hs.finish
  case xred | v2s | gmask => exact hi.lanesToScalar
  case mfs => exact hi.execMfs
  case mts => exact hi.execMts
  case ld | ldu | ldx => exact hi.loadOp
  case st | stu | stx => exact hi.storeOp
  case atom | acas | xatom => exact hi.atomicInstr
  case fence => exact hi.execFence
  case shjoin => exact hi.execShjoin
  case shleave => exact hi.execShleave
  case cpy | cpyg | cpyw => exact hi.copyInstr
  case tagclr => exact hi.execTagclr
  case tagwall => exact hi.execTagwall
  case tagwany => exact hi.execTagwany
  case tagff => exact hi.execTagff
  case rgrsv => exact hi.execRgrsv
  case rgpub => exact hi.execRgpub
  case rgawt => exact hi.execRgawt
  case rgrel => exact hi.execRgrel
  case rgqryState => exact hi.execRgqryState
  case rgqryBind => exact hi.execRgqryBind
  case rgqryUnbind => exact hi.execRgqryUnbind
  case rgqryWaiters => exact hi.execRgqryWaiters
  case depdec => exact hi.execDepdec
  case depdecSet => exact hi.execDepdecSet
  case rlpush => exact hi.execRlpush
  case rlpop => exact hi.execRlpop
  case waitc => exact hi.execWaitc
  case uisetVec | uisetTags | uisetRing | uimask => exact hi.warpInstr
  case uiret => exact hi.execUiret
  case bra | brx | call | ret => exact hi.branch
  case join => exact hi.execJoin
  case exit => exact hi.execExit
  case nop => exact hi.execNop
  case utrap => exact hi.execUtrap
  case bkpt => exact hi.execBkpt
  case sleep => exact hi.execSleep
  case bar | bara | barw => exact hi.groupInstr fun hs => hs.barrierEnd
  case grpqCount | grpqArrived | grpqGen => exact hi.groupQuery
  case grpqMem => exact hi.execGrpqMem
  case fcommit | fabort => exact hi.bufferInstr
  case barsv => exact hi.execBarsv
  case barrs => exact hi.execBarrs
  case mloop | mstep => exact hi.loopInstr
  case tld | tzero | tmask | tmaskClr => exact hi.trussInstr
  case tst => exact hi.execTst
  case trel => exact hi.execTrel
  case tqrySlots => exact hi.execTqrySlots
  case infl | xcod | tokz | dtok | sfcomp | sfscan | sfmask | sfstop => exact hi.descJob
  case mxopen => exact hi.execMxopen
  case mxapp => exact hi.execMxapp
  case mxlook => exact hi.execMxlook
  case mxstatMatch | mxstatLen | mxstatFill => exact hi.mxstat
  case mxsave => exact hi.execMxsave
  case mxload => exact hi.execMxload
  case mxdrop => exact hi.execMxdrop
  case capld => exact hi.execCapld
  case capnar => exact hi.execCapnar
  case capvw => exact hi.execCapvw
  case capdrp | capclr => exact hi.capInstr fun hs => hs.finishCap
  case capqryLen | capqryBase | capqryAttr | capqryValid => exact hi.capQuery
  case capsv => exact hi.execCapsv
  case caprs => exact hi.execCaprs
  case tret | tretSkip => exact hi.tretInstr
  case tretImg => exact hi.execTretImg
  case ccsv => exact hi.execCcsv
  case ccsvDrain => exact hi.execCcsvDrain
  case fltqLanes | fltqLane | fltqIlen | fltqRpc => exact hi.faultQuery
  case fltqErr => exact hi.execFltqErr
  all_goals exact absurd rfl hp

/-! ### A step -/

theorem Warp.put_idx (w : Warp) (x : RegWrite) : (w.put x).idx = w.idx := by
  fun_cases Warp.put w x <;> rfl

theorem Warp.putAll_idx (w : Warp) (xs : List RegWrite) : (w.putAll xs).idx = w.idx := by
  induction xs generalizing w with
  | nil => rfl
  | cons x r ih => exact (ih (w.put x)).trans (w.put_idx x)

theorem Warp.landDue_idx (w : Warp) (now : Nat) : (w.landDue now).idx = w.idx := Warp.putAll_idx _ _

theorem find_of_modifyFirst {α : Type} {p q : α → Bool} {f : α → α} {l : List α} {y : α} (hf : ∀ x, q (f x) = q x)
    (h : (modifyFirst p f l).find? q = some y) : ∃ x, l.find? q = some x ∧ (y = x ∨ y = f x) := by
  induction l with
  | nil => simp [modifyFirst] at h
  | cons z r ih =>
    simp only [modifyFirst] at h
    cases hq : q z with
    | true =>
      refine ⟨z, by simp [hq], ?_⟩
      split at h
      · exact .inr (Option.some.inj (by simpa [hf, hq] using h.symm))
      · exact .inl (Option.some.inj (by simpa [hq] using h.symm))
    | false =>
      split at h
      · simp only [List.find?_cons, hf, hq] at h
        exact ⟨y, by simp [hq, h], .inl rfl⟩
      · simp only [List.find?_cons, hq] at h ⊢
        exact ih h

/-- The frame and the warp of an issue are there, and the frame's launch. -/
def Located (s : State) (c : Issue) : Prop :=
  ∃ f w l, s.frame? c.fid = some f ∧ f.warp? c.widx = some w ∧ s.launch? f.lid = some l

theorem located_of_env {e : Env} (he : s.env = some e) : Located s e.c :=
  have ⟨_, hf, hw, hl, _⟩ := env_spec he
  ⟨_, _, _, hf, hw, hl⟩

theorem Located.env {c d : Issue} (h : Located s c) (hf : d.fid = c.fid := by rfl) (hw : d.widx = c.widx := by rfl) :
    ∃ e, ({ s with cur := some d } : State).env = some e := by
  obtain ⟨f, w, l, hframe, hwarp, hlaunch⟩ := h
  rw [← hf] at hframe
  rw [← hw] at hwarp
  refine ⟨⟨d, f, w, l, s.textLaunch l w⟩, ?_⟩
  simp only [State.env, State.frame?, State.launch?] at *
  simp [hframe, hwarp, hlaunch]
  rfl

theorem Located.setWarp {c : Issue} {v : Warp} (h : Located s c) (hv : v.idx = c.widx) : Located (s.setWarp c.fid v) c := by
  obtain ⟨f, w, l, hf, hw, hl⟩ := h
  exact ⟨f.setWarp v, v, l, frame_setWarp v hf, warp_frame_setWarp v hw hv, hl⟩

theorem Located.of_modWarp {c : Issue} {g : Warp → Warp} (hg : ∀ w, (g w).idx = w.idx)
    (h : Located (s.modWarp ⟨c.fid, c.widx⟩ g) c) : Located s c := by
  obtain ⟨f, w, l, hf, hw, hl⟩ := h
  obtain ⟨f₀, hf₀, e⟩ := find_of_modifyFirst (q := fun f : Frame => f.fid == c.fid)
    (f := fun f => { f with warps := modifyFirst (fun w => w.idx == c.widx) g f.warps }) (fun _ => rfl) hf
  obtain e | e := e <;> subst e
  · exact ⟨_, w, l, hf₀, hw, hl⟩
  · obtain ⟨w₀, hw₀, _⟩ := find_of_modifyFirst (q := fun w : Warp => w.idx == c.widx) (f := g) (fun w => by rw [hg]) hw
    exact ⟨f₀, w₀, l, hf₀, hw₀, hl⟩

theorem runCheck_idx {e : Env} {r : Run} {i : Instr} {w : Warp} (h : e.runCheck r i = some w) : w.idx = e.w.idx := by
  revert h
  fun_cases Env.runCheck e r i
  case case1 | case3 => nofun
  case case2 | case4 =>
    intro h
    exact (congrArg Warp.idx (Option.some.inj h)).symm

theorem From.readyIssue (hs : From m₀ s) {c} (hc : s.cur = some c) : ReadyFrom m₀ (readyIssue s c) := by
  unfold Machine.readyIssue
  split
  · exact hs.same
  · next e he =>
    obtain rfl : c = e.c := Option.some.inj (hc.symm.trans (env_spec he).1)
    have hi := env_widx he
    have hl : Located (s.setWarp e.c.fid e.w) e.c := ((located_of_env he).of_modWarp fun w => w.landDue_idx _).setWarp hi
    dsimp only
    split
    · split
      · exact hs.setWarp.stopRun
      · split
        · exact hs.setWarp.setWarp.takeTrap
        · exact hs.setWarp.takeTrap
    · exact hs.setWarp.endIssue
    · split
      · exact ⟨hs.same, hl.env⟩
      · split
        · exact hs.setWarp.stopRun
        · next hr => exact ⟨hs.same, (hl.setWarp ((runCheck_idx hr).trans hi)).env⟩

theorem From.stepIssue (hs : From m₀ s) {c} (hc : s.cur = some c) : Ok m₀ (stepIssue s c) := by
  unfold Machine.stepIssue
  split
  · next e => exact ((hs.readyIssue hc).stop e).next
  · next e => exact ((hs.readyIssue hc).go e).exec

theorem parts_of_mem_warpEvents {f : Frame} {w : Warp} {i : Instr} (h : i ∈ warpEvents f w) : i.parts = none := by
  simp only [warpEvents, List.mem_append, List.mem_cons, List.not_mem_nil, or_false, List.mem_map] at h
  obtain (rfl | rfl | rfl | rfl) | ⟨c, _, rfl⟩ := h <;> rfl

theorem parts_of_mem_frameEvents {f : Frame} {i : Instr} (h : i ∈ s.frameEvents f) : i.parts = none := by
  simp only [State.frameEvents, List.mem_append, List.mem_flatten, List.mem_cons, List.not_mem_nil, or_false, List.mem_map] at h
  obtain ((⟨_, ⟨w, _, rfl⟩, hw⟩ | ⟨g, _, rfl⟩) | rfl | rfl) | h := h
  · exact parts_of_mem_warpEvents hw
  · rfl
  · rfl
  · rfl
  · split at h
    · obtain ⟨p, _, rfl⟩ := List.mem_map.mp h
      split <;> rfl
    · nomatch h

theorem parts_of_mem_unitEvents {i : Instr} (h : i ∈ s.unitEvents) : i.parts = none := by
  simp only [State.unitEvents, List.mem_append, List.mem_flatten, List.mem_map] at h
  obtain (⟨_, ⟨c, _, rfl⟩, h⟩ | ⟨_, ⟨b, _, rfl⟩, h⟩) | ⟨_, ⟨d, _, rfl⟩, h⟩ := h
  · obtain ⟨x, _, rfl⟩ := List.mem_map.mp h
    rfl
  · simp only [List.mem_cons, List.not_mem_nil, or_false] at h
    obtain rfl | rfl | rfl | rfl := h <;> rfl
  · simp only [List.mem_flatten, List.mem_map] at h
    obtain ⟨_, ⟨e, _, rfl⟩, h⟩ := h
    simp only [List.mem_cons, List.not_mem_nil, or_false] at h
    obtain rfl | rfl | rfl := h <;> rfl

theorem parts_of_mem_controlEvents {i : Instr} (h : i ∈ controlEvents) : i.parts = none := by
  revert i
  decide

theorem parts_of_mem_events {i : Instr} (h : i ∈ s.events) : i.parts = none := by
  simp only [State.events, List.mem_append, List.mem_flatten, List.mem_map] at h
  obtain ((h | ⟨_, ⟨f, _, rfl⟩, h⟩) | ⟨p, _, rfl⟩) | h := h
  · exact parts_of_mem_controlEvents h
  · exact parts_of_mem_frameEvents h
  · rfl
  · exact parts_of_mem_unitEvents h

theorem event_notMem_silent {i : Instr} : Act.event i ∉ s.silent := by
  simp [State.silent]

theorem mem_events_of_pick {i : Instr} (h : s.pick = .event i) : i ∈ s.events := by
  unfold State.pick at h
  cases hc : s.candidates[Config.choose s.fresh % s.candidates.length]? with
  | none => simp [hc] at h
  | some a =>
    obtain rfl : a = .event i := by simpa [hc] using h
    have hm := List.mem_of_getElem? hc
    have hi : i ∈ s.events ∧ s.enabled (.event i) = true := by simpa [State.candidates, event_notMem_silent] using hm
    exact hi.1

theorem From.act (hs : From m₀ s) {a} (ha : ∀ i, a = .event i → i.parts = none) : Ok m₀ (s.act a) := by
  cases a with
  | clk => exact hs.same.next
  | event i => exact hs.event (ha i rfl)
  | unit w k early => exact hs.performAt.next
  | dep id => exact hs.performDep.next
  | early die j k =>
    refine (hs.getD ?_).next
    rintro t ht
    obtain ⟨x, _, rfl⟩ := Option.map_eq_some_iff.mp ht
    exact hs.jobWriteEarly
  | stray k => exact hs.performStray.next
  | fault => exact hs.corrupt.next

/-- What both statements about a step rest on. -/
theorem step_ok (s : State) : Ok s.mem (step s) := by
  have hs : From s.mem s := Edited.refl
  unfold Machine.step
  split
  · exact hs.stepIssue ‹_›
  · split
    · split
      · exact hs.same.next
      · next hp => exact hs.same.event (by simpa using hp)
    · exact hs.tick.act fun i hi => parts_of_mem_events (mem_events_of_pick hi)

end

/-! ### The statements about a step -/

/-- Settles O9, from `step_ok`. -/
theorem stepNeverStops : Obligations.StepNeverStops := by
  intro s
  obtain ⟨t, ht, _⟩ := step_ok s
  exact ⟨t, ht⟩

/-- Settles O11, from `step_ok`: the next state's memory is edited memory, and edits keep the form. -/
theorem stepKeepsMemoryForm : Obligations.StepKeepsMemoryForm := by
  intro s t hs ht
  obtain ⟨u, hu, hm⟩ := step_ok s
  obtain rfl : u = t := Host.Outcome.next.inj (hu.symm.trans ht)
  exact hm.wf hs

end Sys2Proof.Machine
end

section
/-! The numbers of frames, of their warps and of page-request groups stay their own in every step.

A frame gets its number where it is placed for the first time (`Numbered.placeFrame`) and a group where it is asked for
(`Numbered.newGroup`), each from `State.fresh`, which rises with it; nothing else gives a number or a warp index. So whatever
else a function of the model does, it replaces frames and warps under their own numbers or leaves some out, and one lemma per
function, `Numbered.f` for a function `f`, says that it keeps `Numbered`. The lemmas follow the calls, so a proof names the
calls along each branch; they end in `Numbered.step`. -/

-- One declaration at a time: the threads of many small proofs at once pass the memory limit of the check.
set_option Elab.async false

namespace Sys2Proof.Machine

/-! ### States whose numbers are their own -/

/-- The numbers of the state are its own. -/
def Numbered (s : State) : Prop := Claims.NumbersOk s

/-- The frame's warps have indices of their own. -/
def WarpsOwn (f : Frame) : Prop := (f.warps.map Warp.idx).Nodup

/-- The numbers of the state found are its own, where one is found. -/
def SomeNumbered (o : Option State) : Prop := ∀ t, o = some t → Numbered t

/-- Where the answer is a next state, its numbers are its own. -/
def NextNumbered (r : Res) : Prop := ∀ t, r = .next t → Numbered t

/-! `Numbered` for each type of answer that carries a state. -/

def AcdNumbered : Acd → Prop
  | .ok s _ | .bad s _ => Numbered s
  | .absent _ => True

def VaAccNumbered : VaAcc → Prop
  | .ok s _ | .fault s _ _ => Numbered s
  | .absent _ => True

def DepEndNumbered : DepEnd → Prop
  | .done s _ => Numbered s
  | .absent _ | .wait => True

def MovedNumbered : Moved → Prop
  | .done s _ => Numbered s
  | .absent _ | .wait => True

def TickNumbered : Tick → Prop
  | .go s _ | .stop s _ => Numbered s

def RecAccNumbered : RecAcc → Prop
  | .ok s _ | .wait s => Numbered s

def AppendedNumbered (x : Appended) : Prop :=
  (∀ t, x = .wrote t → Numbered t) ∧ ∀ t va c, x = .fault t va c → Numbered t

def QAccNumbered : QAcc → Prop
  | .ok s _ | .wait s | .fault s => Numbered s

def PassNumbered : Pass → Prop
  | .paused s _ _ _ | .ended s _ _ => Numbered s

def ReadyNumbered : Ready → Prop
  | .stop s | .go _ s => Numbered s

/-! ### How the fact passes through a result -/

section
variable {s t : State}

theorem SomeNumbered.none : SomeNumbered none := nofun
theorem Numbered.toSome (hs : Numbered s) : SomeNumbered (some s) := fun _ e => Option.some.inj e ▸ hs

theorem Numbered.getD {o : Option State} (hs : Numbered s) (ho : SomeNumbered o) : Numbered (o.getD s) := by
  cases o with
  | none => exact hs
  | some t => exact ho t rfl

theorem Numbered.next (hs : Numbered s) : NextNumbered (.next s) := fun _ e => Host.Outcome.next.inj e ▸ hs
theorem Numbered.left {α : Type} {p : State × α} {a : α} (hs : Numbered p.1) (e : p = (t, a)) : Numbered t := by subst e; exact hs

theorem Numbered.leftX {α : Type} {p : Xst × α} {a : α} {x : Xst} (hs : Numbered p.1.s) (e : p = (x, a)) : Numbered x.s := by
  subst e; exact hs

theorem Numbered.ite {c : Prop} [Decidable c] (hs : Numbered s) (ht : Numbered t) : Numbered (if c then s else t) := by
  split
  · exact hs
  · exact ht

theorem Numbered.iteX {α : Type} {c : Prop} [Decidable c] {p q : Xst × α} (hp : Numbered p.1.s) (hq : Numbered q.1.s) :
    Numbered (if c then p else q).1.s := by
  split
  · exact hp
  · exact hq

theorem Numbered.foldl_of_mem {α : Type} {f : State → α → State} {l : List α} (hs : Numbered s)
    (hf : ∀ {t a}, a ∈ l → Numbered t → Numbered (f t a)) : Numbered (l.foldl f s) := by
  induction l generalizing s with
  | nil => exact hs
  | cons a r ih => exact ih (hf (List.mem_cons_self ..) hs) fun ha => hf (List.mem_cons_of_mem _ ha)

theorem Numbered.foldl {α : Type} {f : State → α → State} (hs : Numbered s) {l : List α}
    (hf : ∀ {t a}, Numbered t → Numbered (f t a)) : Numbered (l.foldl f s) := hs.foldl_of_mem fun _ => hf

theorem AcdNumbered.ok {x : Acd} {p} (h : AcdNumbered x) (e : x = .ok t p) : Numbered t := by subst e; exact h
theorem AcdNumbered.bad {x : Acd} {p} (h : AcdNumbered x) (e : x = .bad t p) : Numbered t := by subst e; exact h
theorem VaAccNumbered.ok {x : VaAcc} {p} (h : VaAccNumbered x) (e : x = .ok t p) : Numbered t := by subst e; exact h
theorem VaAccNumbered.fault {x : VaAcc} {p c} (h : VaAccNumbered x) (e : x = .fault t p c) : Numbered t := by subst e; exact h
theorem DepEndNumbered.done {x : DepEnd} {p} (h : DepEndNumbered x) (e : x = .done t p) : Numbered t := by subst e; exact h
theorem MovedNumbered.done {x : Moved} {p} (h : MovedNumbered x) (e : x = .done t p) : Numbered t := by subst e; exact h
theorem TickNumbered.go {x : Tick} {p} (h : TickNumbered x) (e : x = .go t p) : Numbered t := by subst e; exact h
theorem TickNumbered.stop {x : Tick} {p} (h : TickNumbered x) (e : x = .stop t p) : Numbered t := by subst e; exact h
theorem RecAccNumbered.ok {x : RecAcc} {p} (h : RecAccNumbered x) (e : x = .ok t p) : Numbered t := by subst e; exact h
theorem RecAccNumbered.wait {x : RecAcc} (h : RecAccNumbered x) (e : x = .wait t) : Numbered t := by subst e; exact h
theorem AppendedNumbered.wrote {x : Appended} (h : AppendedNumbered x) (e : x = .wrote t) : Numbered t := h.1 t e
theorem AppendedNumbered.fault {x : Appended} {va c} (h : AppendedNumbered x) (e : x = .fault t va c) : Numbered t := h.2 t va c e
theorem AppendedNumbered.absent {p} : AppendedNumbered (.absent p) := ⟨(by rintro _ ⟨⟩), by rintro _ _ _ ⟨⟩⟩
theorem AppendedNumbered.full : AppendedNumbered .full := ⟨(by rintro _ ⟨⟩), by rintro _ _ _ ⟨⟩⟩
theorem Numbered.appended (hs : Numbered s) : AppendedNumbered (.wrote s) := ⟨(by rintro _ ⟨⟩; exact hs), by rintro _ _ _ ⟨⟩⟩

theorem Numbered.appendFault (hs : Numbered s) {va c} : AppendedNumbered (.fault s va c) :=
  ⟨(by rintro _ ⟨⟩), by rintro _ _ _ ⟨⟩; exact hs⟩

theorem QAccNumbered.ok {x : QAcc} {p} (h : QAccNumbered x) (e : x = .ok t p) : Numbered t := by subst e; exact h
theorem QAccNumbered.wait {x : QAcc} (h : QAccNumbered x) (e : x = .wait t) : Numbered t := by subst e; exact h
theorem QAccNumbered.fault {x : QAcc} (h : QAccNumbered x) (e : x = .fault t) : Numbered t := by subst e; exact h
theorem PassNumbered.paused {x : Pass} {o l p} (h : PassNumbered x) (e : x = .paused t o l p) : Numbered t := by subst e; exact h
theorem PassNumbered.ended {x : Pass} {o l} (h : PassNumbered x) (e : x = .ended t o l) : Numbered t := by subst e; exact h
theorem ReadyNumbered.stop {x : Ready} (h : ReadyNumbered x) (e : x = .stop t) : Numbered t := by subst e; exact h
theorem ReadyNumbered.go {x : Ready} {i} (h : ReadyNumbered x) (e : x = .go i t) : Numbered t := by subst e; exact h

end

/-! ### What gives numbers, and what keeps them -/

section
variable {s t : State}

theorem Numbered.warpsOwn {f : Frame} (hs : Numbered s) (hf : f ∈ s.frames) : WarpsOwn f := hs.warps f hf
theorem Numbered.frame_lt {f : Frame} (hs : Numbered s) (hf : f ∈ s.frames) : f.fid < s.fresh := hs.frames.2 f hf

/-- No number is new: the state holds frames and groups whose numbers the state before held, in their order. -/
theorem Numbered.of_sublist (hs : Numbered s) (hf : (t.frames.map Frame.fid).Sublist (s.frames.map Frame.fid))
    (hw : ∀ f ∈ t.frames, WarpsOwn f) (hp : (t.pages.map PageGroup.num).Sublist (s.pages.map PageGroup.num))
    (hn : s.fresh ≤ t.fresh) : Numbered t where
  frames := by
    refine ⟨hs.frames.1.sublist hf, fun f h => ?_⟩
    obtain ⟨g, hg, e⟩ := List.mem_map.mp (hf.subset (List.mem_map_of_mem h))
    have := hs.frames.2 g hg
    omega
  groups := by
    refine ⟨hs.groups.1.sublist hp, fun g h => ?_⟩
    obtain ⟨k, hk, e⟩ := List.mem_map.mp (hp.subset (List.mem_map_of_mem h))
    have := hs.groups.2 k hk
    omega
  warps := hw

/-- Everything but frames, groups and the numbers given out is free. -/
theorem Numbered.same (hs : Numbered s)
    (e : t.frames = s.frames ∧ t.pages = s.pages ∧ s.fresh ≤ t.fresh := by exact ⟨rfl, rfl, Nat.le_refl _⟩) : Numbered t := by
  obtain ⟨hf, hp, hn⟩ := e
  exact hs.of_sublist (by rw [hf]) (by rw [hf]; exact hs.warps) (by rw [hp]) hn

theorem Numbered.tick (hs : Numbered s) : Numbered s.tick := hs.same ⟨rfl, rfl, Nat.le_succ _⟩

/-- A frame with a new number. -/
theorem Numbered.newFrame (hs : Numbered s) {f : Frame} (hf : s.frame? f.fid = none) (hn : f.fid < s.fresh) (hw : WarpsOwn f) :
    Numbered { s with frames := s.frames ++ [f] } where
  frames := by
    have hne : ∀ g ∈ s.frames, g.fid ≠ f.fid := by simpa [State.frame?] using hf
    refine ⟨?_, fun g hg => ?_⟩
    · rw [List.map_append, List.nodup_append]
      exact ⟨hs.frames.1, List.nodup_singleton _, by simpa using hne⟩
    · obtain hg | rfl := by simpa using hg
      · exact hs.frames.2 g hg
      · exact hn
  groups := hs.groups
  warps g hg := by
    obtain hg | rfl := by simpa using hg
    · exact hs.warps g hg
    · exact hw

/-- A page-request group with a new number. -/
theorem Numbered.newGroup (hs : Numbered s) {g : PageGroup} {c : Option Issue} (hg : g.num = s.fresh) :
    Numbered { s.tick with pages := s.pages ++ [g], cur := c } where
  frames := ⟨hs.frames.1, fun f hf => Nat.lt_succ_of_lt (hs.frames.2 f hf)⟩
  groups := by
    refine ⟨?_, fun k hk => ?_⟩
    · rw [List.map_append, List.nodup_append]
      refine ⟨hs.groups.1, List.nodup_singleton _, ?_⟩
      simp only [List.map_cons, List.map_nil, List.mem_map, List.mem_singleton]
      rintro _ ⟨k, hk, rfl⟩ _ rfl
      have := hs.groups.2 k hk
      omega
    · obtain hk | rfl := by simpa using hk
      · exact Nat.lt_succ_of_lt (hs.groups.2 k hk)
      · simp [hg]
  warps := hs.warps

/-- Replacing elements without changing a key of theirs keeps the keys. -/
theorem map_modifyFirst_eq {α β : Type} {p : α → Bool} {f : α → α} {l : List α} {key : α → β}
    (h : ∀ x ∈ l, p x = true → key (f x) = key x) : (modifyFirst p f l).map key = l.map key := by
  induction l with
  | nil => rfl
  | cons x r ih =>
    simp only [modifyFirst]
    split
    · next hx => simp [h x (List.mem_cons_self ..) hx]
    · simp [ih fun y hy => h y (List.mem_cons_of_mem _ hy)]

theorem mem_modifyFirst {α : Type} {p : α → Bool} {f : α → α} {l : List α} {y : α} (h : y ∈ modifyFirst p f l) :
    y ∈ l ∨ ∃ x ∈ l, p x = true ∧ y = f x := by
  induction l with
  | nil => simp [modifyFirst] at h
  | cons x r ih =>
    simp only [modifyFirst] at h
    split at h
    · next hx =>
      obtain rfl | h := List.mem_cons.mp h
      · exact .inr ⟨x, List.mem_cons_self .., hx, rfl⟩
      · exact .inl (List.mem_cons_of_mem _ h)
    · obtain rfl | h := List.mem_cons.mp h
      · exact .inl (List.mem_cons_self ..)
      · obtain h | ⟨z, hz, e⟩ := ih h
        · exact .inl (List.mem_cons_of_mem _ h)
        · exact .inr ⟨z, List.mem_cons_of_mem _ hz, e⟩

/-- One frame changed under its number. -/
theorem Numbered.modFrame (hs : Numbered s) {p : Frame → Bool} {g : Frame → Frame}
    (hg : ∀ f ∈ s.frames, p f = true → (g f).fid = f.fid ∧ WarpsOwn (g f)) :
    Numbered { s with frames := modifyFirst p g s.frames } := by
  refine hs.of_sublist ?_ (fun f hf => ?_) (List.Sublist.refl _) (Nat.le_refl _)
  · exact (map_modifyFirst_eq fun f hf hp => (hg f hf hp).1) ▸ List.Sublist.refl _
  · obtain hf | ⟨k, hk, hp, rfl⟩ := mem_modifyFirst hf
    · exact hs.warps f hf
    · exact (hg k hk hp).2

theorem Numbered.setFrame (hs : Numbered s) {f} (hf : WarpsOwn f) : Numbered (s.setFrame f) :=
  hs.modFrame fun _ _ hp => ⟨(beq_iff_eq.mp hp).symm, hf⟩

theorem WarpsOwn.map {f k : Frame} {g : Warp → Warp} (hf : WarpsOwn f) (e : k.warps = f.warps.map g := by rfl)
    (hg : ∀ w, (g w).idx = w.idx := by intro _; rfl) : WarpsOwn k := by
  unfold WarpsOwn
  rw [e, List.map_map]
  exact (List.map_congr_left (g := Warp.idx) fun w _ => hg w) ▸ hf

theorem WarpsOwn.modifyFirst {f : Frame} {p : Warp → Bool} {g : Warp → Warp} (hf : WarpsOwn f)
    (hg : ∀ w, p w = true → (g w).idx = w.idx) : WarpsOwn { f with warps := modifyFirst p g f.warps } := by
  unfold WarpsOwn
  rw [map_modifyFirst_eq fun w _ hp => hg w hp]
  exact hf

theorem WarpsOwn.emptied {f : Frame} (hf : WarpsOwn f) : WarpsOwn f.emptied := by
  fun_cases Frame.emptied f <;> exact hf

theorem WarpsOwn.completeBarriers {f : Frame} (hf : WarpsOwn f) {s l gone} {gs : List Nat} :
    WarpsOwn (gs.foldl (fun f g => completeBarrier s f l gone g) f) := by
  induction gs generalizing f with
  | nil => exact hf
  | cons g r ih =>
    refine ih ?_
    dsimp only
    fun_cases completeBarrier s f l gone g
    case case1 => exact hf.map
    case case2 => exact hf

theorem Numbered.setWarp (hs : Numbered s) {fid w} : Numbered (s.setWarp fid w) :=
  hs.modFrame fun _ hf _ => ⟨rfl, (hs.warpsOwn hf).modifyFirst fun _ hp => (beq_iff_eq.mp hp).symm⟩

theorem Numbered.modWarp (hs : Numbered s) {i g} (hg : ∀ w, (g w).idx = w.idx := by intro _; rfl) : Numbered (s.modWarp i g) :=
  hs.modFrame fun _ hf _ => ⟨rfl, (hs.warpsOwn hf).modifyFirst fun w _ => hg w⟩

theorem Numbered.mapFrames (hs : Numbered s) {g : Frame → Frame} (hg : ∀ f, (g f).fid = f.fid) (hw : ∀ f, WarpsOwn f → WarpsOwn (g f)) :
    Numbered { s with frames := s.frames.map g } := by
  refine hs.of_sublist ?_ (fun f hf => ?_) (List.Sublist.refl _) (Nat.le_refl _)
  · rw [List.map_map, show Frame.fid ∘ g = Frame.fid from funext hg]
  · obtain ⟨k, hk, rfl⟩ := List.mem_map.mp hf
    exact hw k (hs.warps k hk)

theorem Numbered.filterFrames (hs : Numbered s) {p : Frame → Bool} : Numbered { s with frames := s.frames.filter p } :=
  hs.of_sublist (List.filter_sublist.map _) (fun f hf => hs.warps f (List.mem_of_mem_filter hf)) (List.Sublist.refl _) (Nat.le_refl _)

theorem Numbered.filterGroups (hs : Numbered s) {p : PageGroup → Bool} : Numbered { s with pages := s.pages.filter p } :=
  hs.of_sublist (List.Sublist.refl _) hs.warps (List.filter_sublist.map _) (Nat.le_refl _)

theorem Numbered.modGroup (hs : Numbered s) {p : PageGroup → Bool} {g : PageGroup → PageGroup} (hg : ∀ k, (g k).num = k.num := by intro _; rfl) :
    Numbered { s with pages := modifyFirst p g s.pages } :=
  hs.of_sublist (List.Sublist.refl _) hs.warps (by rw [map_modifyFirst_eq fun k _ _ => hg k]) (Nat.le_refl _)

theorem WarpsOwn.same {f k : Frame} (hf : WarpsOwn f) (e : k.warps = f.warps := by rfl) : WarpsOwn k := by
  unfold WarpsOwn
  rw [e]
  exact hf

/-- Frames of the state handled one after another. -/
theorem Numbered.foldFrames (hs : Numbered s) {f : State → Frame → State} {p : Frame → Bool}
    (hf : ∀ {t g}, WarpsOwn g → Numbered t → Numbered (f t g)) : Numbered ((s.frames.filter p).foldl f s) :=
  hs.foldl_of_mem fun hg => hf (hs.warpsOwn (List.mem_of_mem_filter hg))

theorem Numbered.frame (hs : Numbered s) {i f} (h : s.frame? i = some f) : WarpsOwn f := hs.warpsOwn (List.mem_of_find?_eq_some h)

theorem Numbered.frameGetD (hs : Numbered s) {i f} (hf : WarpsOwn f) : WarpsOwn ((s.frame? i).getD f) := by
  cases h : s.frame? i with
  | none => exact hf
  | some g => exact hs.frame h

end

section
variable {s : State}

theorem Numbered.setMem (hs : Numbered s) {m} : Numbered (s.setMem m) := hs.same
theorem Numbered.wr (hs : Numbered s) {a n v} : Numbered (s.wr a n v) := hs.same

/-! ### Warp indices -/

@[simp] theorem Warp.rollback_idx (w : Warp) : w.rollback.idx = w.idx := by
  fun_cases Warp.rollback w <;> rfl

@[simp] theorem Warp.setLate_idx (w : Warp) (c : Cause) (v : Nat) : (w.setLate c v).idx = w.idx := by
  fun_cases Warp.setLate w c v <;> rfl

@[simp] theorem Warp.stopInPlace_idx (w : Warp) : w.stopInPlace.idx = w.idx := w.rollback_idx

@[simp] theorem Warp.setErr_idx (w : Warp) (c : Nat) (x : Nat × Nat) : (w.setErr c x).idx = w.idx := by
  fun_cases Warp.setErr w c x <;> rfl

@[simp] theorem Warp.retire_idx (w : Warp) (o : CtrOp) : (w.retire o).idx = w.idx := by
  unfold Warp.retire
  extract_lets put w₁ w₂ w₃
  have h : w₃.idx = w.idx := Warp.putAll_idx _ _
  split
  · exact (w₃.setErr_idx ..).trans h
  · exact h

theorem Warp.retireOne_idx {w v : Warp} {c : Nat} (h : w.retireOne c = some v) : v.idx = w.idx := by
  revert h
  fun_cases Warp.retireOne w c
  case case2 => exact fun h => Option.some.inj h ▸ w.retire_idx _
  case case1 | case3 => nofun

theorem Warp.opDone_retireOne_idx (w : Warp) (id c : Nat) (ws : List RegWrite) (err : Option (Nat × Nat)) :
    (((w.opDone id ws err).retireOne c).getD (w.opDone id ws err)).idx = w.idx := by
  cases h : (w.opDone id ws err).retireOne c with
  | none => rfl
  | some v => exact (Warp.retireOne_idx h :)

/-! ### The memory system and the end of an issue -/

theorem Numbered.corrupt (hs : Numbered s) {a flip} : Numbered (s.corrupt a flip) := hs.same
theorem Numbered.spoil (hs : Numbered s) {l} : Numbered (s.spoil l) := hs.same

theorem Numbered.heal (hs : Numbered s) {as} : Numbered (s.heal as) := by
  fun_cases State.heal
  case case1 => exact hs
  case case2 => exact hs.same

theorem Numbered.setEntry (hs : Numbered s) {kind id e} : Numbered (s.setEntry kind id e) := hs.same.wr.wr.wr.wr.wr
theorem Numbered.faultEntry (hs : Numbered s) {kind id cause} : Numbered (s.faultEntry kind id cause) :=
  Numbered.ite hs.setEntry hs
theorem Numbered.noteCons (hs : Numbered s) {base cons} : Numbered (s.noteCons base cons) := hs.same

theorem Numbered.appendReport (hs : Numbered s) {base size n rc} : SomeNumbered (appendReport s base size n rc) := by
  fun_cases Machine.appendReport
  case case1 | case2 => exact .none
  case case3 => exact hs.noteCons.setMem.wr.toSome

theorem Numbered.appendOrDrop (hs : Numbered s) {base n rc} : Numbered (appendOrDrop s base n rc) := by
  fun_cases Machine.appendOrDrop
  case case1 => exact hs.appendReport _ ‹_›
  case case2 => exact hs.wr

theorem Numbered.errorRecord (hs : Numbered s) {code b4 b8 b24} : Numbered (s.errorRecord code b4 b8 b24) :=
  Numbered.ite hs hs.appendOrDrop

theorem Numbered.addRefused (hs : Numbered s) {port qif} : Numbered (s.addRefused port qif) := hs.same.wr
theorem Numbered.setBay (hs : Numbered s) {b x} : Numbered (s.setBay b x) := hs.same
theorem Numbered.setDie (hs : Numbered s) {d x} : Numbered (s.setDie d x) := hs.same
theorem Numbered.setTag (hs : Numbered s) {core t x} : Numbered (s.setTag core t x) := hs.same
theorem Numbered.setPort (hs : Numbered s) {p x} : Numbered (s.setPort p x) := hs.same

theorem Numbered.storeAt (hs : Numbered s) {fid buf as bs} : Numbered (s.storeAt fid buf as bs) := by
  fun_cases State.storeAt
  case case1 => exact hs
  case case2 => exact hs.setFrame (hs.frame ‹_›).same
  case case3 => exact hs.setMem.heal

theorem Numbered.lineError (hs : Numbered s) {a point} : Numbered (s.lineError a point) := hs.errorRecord

theorem Numbered.consumeBad (hs : Numbered s) {w bad} : Numbered (consumeBad s w bad).1 := by
  fun_cases Machine.consumeBad
  case case1 => exact hs
  case case2 => exact hs.lineError

theorem Numbered.unitEffect (hs : Numbered s) {fid u} : Numbered (s.unitEffect fid u).1 := by
  unfold State.unitEffect
  split
  case h_1 | h_4 => exact hs
  case h_2 =>
    dsimp only
    exact hs.storeAt
  case h_3 =>
    dsimp only
    split
    · exact hs
    · dsimp only
      split
      · exact hs.setMem
      · exact hs

theorem Numbered.performUnit (hs : Numbered s) {fid w k early} : Numbered (performUnit s fid w k early).1 := by
  fun_cases Machine.performUnit
  case case1 | case2 => exact hs
  case case3 => exact (hs.unitEffect.left ‹_›).consumeBad

theorem Numbered.performFirst (hs : Numbered s) {fid w n} : Numbered (performFirst s fid w n).1 := by
  induction n generalizing s w with
  | zero => exact hs
  | succ n ih => exact ih hs.performUnit

theorem Numbered.performBefore (hs : Numbered s) {fid w all} : Numbered (performBefore s fid w all).1 := hs.performFirst

theorem Numbered.performOlder (hs : Numbered s) {i id as all} : Numbered (s.performOlder i id as all) := by
  fun_cases State.performOlder
  case case1 | case3 => exact hs
  case case2 => exact (hs.performFirst.left ‹_›).setWarp

theorem Numbered.performAll (hs : Numbered s) {fid w} : Numbered (performAll s fid w).1 := hs.performFirst

theorem Numbered.performWarp (hs : Numbered s) {i} : Numbered (s.performWarp i) := by
  fun_cases State.performWarp
  case case1 => exact hs
  case case2 => exact (hs.performAll.left ‹_›).setWarp

theorem Numbered.performEvery (hs : Numbered s) : Numbered s.performEvery := hs.foldl fun hs => hs.performWarp
theorem Numbered.endIssue (hs : Numbered s) {fid w} : Numbered (s.endIssue fid w) := hs.setWarp.same
theorem Numbered.finish (hs : Numbered s) {e h w} : NextNumbered (finish s e h w) := hs.endIssue.next
theorem Numbered.finishAt (hs : Numbered s) {e h w} : NextNumbered (finishAt s e h w) := hs.endIssue.next
theorem Numbered.holdAt (hs : Numbered s) {e why} : NextNumbered (holdAt s e why) := hs.endIssue.next

theorem Numbered.commit (hs : Numbered s) {fid} : Numbered (s.commit fid) := by
  fun_cases State.commit
  case case1 => exact hs
  case case2 => exact hs.same.heal.setFrame (hs.frame ‹_›).emptied

theorem Numbered.dropBuffer (hs : Numbered s) {fid} : Numbered (s.dropBuffer fid) := by
  fun_cases State.dropBuffer
  case case1 => exact hs
  case case2 => exact hs.setFrame (hs.frame ‹_›).emptied

theorem Numbered.closeBuffer (hs : Numbered s) {fid l keep} : Numbered (s.closeBuffer fid l keep).1 :=
  (Numbered.ite hs.commit hs.dropBuffer).same

theorem Numbered.withCommit (hs : Numbered s) {e now k} (hk : ∀ {t}, Numbered t → NextNumbered (k t)) :
    NextNumbered (withCommit s e now k) := by
  fun_cases Machine.withCommit
  case case1 => exact hk hs
  case case2 => exact hk (hs.closeBuffer.left ‹_›)
  case case3 => exact (hs.closeBuffer.left ‹_›).holdAt

theorem Numbered.revokeWindows (hs : Numbered s) {prog idx} : Numbered (s.revokeWindows prog idx) :=
  Numbered.ite hs.performEvery.same hs

theorem Numbered.killFrame (hs : Numbered s) {fid cause} : Numbered (killFrame s fid cause) := by
  fun_cases Machine.killFrame
  case case1 => exact hs
  case case2 => exact hs.setFrame (hs.frame ‹_›).map
  case case3 => exact (hs.setFrame (hs.frame ‹_›).map).revokeWindows.faultEntry

theorem Numbered.startRelaunch (hs : Numbered s) {fid cause} : Numbered (startRelaunch s fid cause) := by
  fun_cases Machine.startRelaunch
  case case1 | case2 => exact hs
  case case3 => exact hs.setFrame (hs.frame ‹_›).map

theorem Numbered.askPages (hs : Numbered s) {fid ctx w pc lanes ps} : Numbered (askPages s fid ctx w pc lanes ps) :=
  (hs.newGroup rfl).setWarp

theorem Numbered.stopRun (hs : Numbered s) {fid ctx w} : Numbered (stopRun s fid ctx w) := by
  fun_cases Machine.stopRun
  case case1 => exact hs
  case case2 => exact hs.askPages

theorem Numbered.takeTrap (hs : Numbered s) {fid widx lanes pc ilen cause val lane late} :
    Numbered (takeTrap s fid widx lanes pc ilen cause val lane late) := by
  fun_cases Machine.takeTrap
  case case1 | case8 => exact hs.same.performWarp
  case case2 | case3 => exact hs.same.performWarp.setWarp.startRelaunch
  case case4 | case5 | case6 => exact hs.same.performWarp.setWarp.killFrame
  case case7 => exact hs.same.performWarp.setWarp

theorem Numbered.trap (hs : Numbered s) {e cause val lane} : NextNumbered (trap s e cause val lane) := by
  fun_cases Machine.trap
  case case1 => exact hs.stopRun.next
  case case2 => exact hs.takeTrap.next

theorem Numbered.trapWord (hs : Numbered s) {e cause} : NextNumbered (trapWord s e cause) := hs.trap

theorem Numbered.enterSave (hs : Numbered s) {fid w} : Numbered (enterSave s fid w) := by
  fun_cases Machine.enterSave
  case case1 | case2 | case3 => exact hs
  case case4 => exact hs.setWarp

theorem Numbered.settleBarriers (hs : Numbered s) {fid gone} : Numbered (s.settleBarriers fid gone) := by
  fun_cases State.settleBarriers
  case case1 | case2 | case3 => exact hs
  case case4 => exact hs.setFrame ((hs.frame ‹_›).completeBarriers)

/-! ### Translation, checks and the units of an access -/

theorem Numbered.tlbFill (hs : Numbered s) {u c vpn l} : Numbered (s.tlbFill u c vpn l) := hs.same
theorem Numbered.walkFill (hs : Numbered s) {u c va seen} : Numbered (s.walkFill u c va seen) := hs.same

theorem Numbered.lookup (hs : Numbered s) {u ctx va acc n} : Numbered (s.lookup u ctx va acc n).1 := by
  unfold State.lookup
  split
  · exact hs
  · split
    · exact hs
    · extract_lets vpn hit cached
      clear_value cached
      split
      · exact hs.tlbFill
      · have hw {u c} : Numbered (s.setMem (s.walkPage u ctx c va acc (va % 4096) n).1) := hs.setMem
        dsimp only
        split
        · split
          · exact hw
          · exact hw.walkFill.tlbFill
        · exact hw

theorem Numbered.translate (hs : Numbered s) {u ctx va acc n} : Numbered (s.translate u ctx va acc n).1 := by
  fun_cases State.translate
  exact hs.lookup.left ‹_›

theorem Numbered.laneTranslate (hs : Numbered s) {w u lane ctx va acc n} :
    Numbered (s.laneTranslate w u lane ctx va acc n).1 := by
  fun_cases State.laneTranslate
  case case1 => exact hs
  case case2 | case3 | case4 => exact hs.translate.left ‹_›

theorem Numbered.xpage {x : Xst} (hs : Numbered x.s) {who sp acc a n} : Numbered (x.page who sp acc a n).1.s := by
  fun_cases Xst.page
  case case2 | case9 =>
    dsimp +zetaDelta only
    split
    · exact hs
    · split
      · split <;> exact hs
      · exact hs
  case case11 | case12 | case13 =>
    refine Numbered.leftX ?_ ‹_›
    dsimp +zetaDelta only
    split
    · exact hs.laneTranslate
    · exact hs.translate (u := none)
  all_goals exact hs

theorem Numbered.xpages {x : Xst} (hs : Numbered x.s) {who sp acc n off ps} : Numbered (x.pages who sp acc n off ps).1.s := by
  fun_induction Xst.pages x who sp acc n off ps
  case case1 => exact hs
  case case2 | case3 => exact hs.xpage.leftX ‹_›
  case case5 ih | case8 ih => exact ih (hs.xpage.leftX ‹_›)
  case case4 ih | case6 ih | case7 ih => exact (ih (hs.xpage.leftX ‹_›)).leftX ‹_›

theorem Numbered.xcapRange {x : Xst} (hs : Numbered x.s) {who c off n u} : Numbered (x.capRange who c off n u).1.s := by
  fun_cases Xst.capRange
  case case1 | case2 | case3 | case4 => exact hs
  case case5 => exact hs.xpages

theorem Numbered.xrange {x : Xst} (hs : Numbered x.s) {who f l r n u} : Numbered (x.range who f l r n u).1.s := by
  fun_cases Xst.range
  case case1 | case2 => exact hs
  case case3 => exact hs.xcapRange

theorem Numbered.xlane {x : Xst} (hs : Numbered x.s) {e lane off align n r u} : Numbered (x.lane e lane off align n r u).1.s :=
  Numbered.iteX hs (Numbered.iteX hs hs.xrange)

theorem Numbered.xlanes {x : Xst} (hs : Numbered x.s) {e al n r u ls as bs} : Numbered (Xst.lanes e al n r u ls x as bs).1.s := by
  fun_induction Xst.lanes e al n r u ls x as bs
  case case1 => exact hs
  case case2 ih => exact ih hs
  case case3 ih | case4 ih => exact ih (hs.xlane.leftX ‹_›)
  case case5 | case6 => exact hs.xlane.leftX ‹_›

theorem Numbered.leaveBay (hs : Numbered s) {f} : Numbered (s.leaveBay f) := hs.same

theorem Numbered.bufferLanes (hs : Numbered s) {e o ls} : Numbered (bufferLanes s e o ls) := by
  fun_induction Machine.bufferLanes s e o ls
  case case1 => exact hs
  case case2 ih => exact ih hs
  case case3 ih => exact ih hs.storeAt

theorem Numbered.withRoom (hs : Numbered s) {e ctr k} (hk : NextNumbered k) : NextNumbered (withRoom s e ctr k) := by
  unfold Machine.withRoom
  split
  · exact hs.holdAt
  · exact hk

theorem Numbered.absentFault (hs : Numbered s) {e ab} : NextNumbered (absentFault s e ab) := by
  fun_cases Machine.absentFault
  case case1 => exact (hs.performAll.left ‹_›).setWarp.trap
  case case2 => exact (hs.performAll.left ‹_›).setWarp.askPages.next
  case case3 => exact (hs.performAll.left ‹_›).setWarp.holdAt
  case case4 => exact (hs.performAll.left ‹_›).setWarp.setWarp.next

theorem Numbered.afterChecks (hs : Numbered s) {e res spec k ra} (hx : Numbered res.1.s)
    (hk : ∀ {t w ls}, Numbered t → NextNumbered (k t { e with w := w } ls))
    (hr : ∀ {e ls}, NextNumbered (ra s e ls)) : NextNumbered (afterChecks s e res spec k ra) := by
  fun_cases Machine.afterChecks
  case case1 => exact hs.trap
  case case2 | case6 => exact hs.stopRun.next
  case case3 => exact hs.holdAt
  case case4 => exact hk hx
  case case5 => exact hs.absentFault
  case case7 => exact hr

theorem Numbered.makeRoom (hs : Numbered s) {fid w n} : Numbered (makeRoom s fid w n).1 := by
  fun_cases Machine.makeRoom
  case case1 => exact hs
  case case2 => exact (hs.setWarp.performAll.left ‹_›).foldl fun hs => hs.performWarp

theorem Numbered.issueUnits (hs : Numbered s) {fid w ctr reg peer us done} :
    Numbered (issueUnits s fid w ctr reg peer us done).1 := by
  fun_cases Machine.issueUnits
  exact (hs.makeRoom.left ‹_›).tick

theorem Numbered.modList (hs : Numbered s) {die idx g} : Numbered (s.modList die idx g) := hs.setDie
theorem Numbered.pushItem (hs : Numbered s) {die idx item} : Numbered (s.pushItem die idx item) :=
  Numbered.ite hs.modList hs.wr.modList

theorem Numbered.popItem (hs : Numbered s) {die idx x t} (e : s.popItem die idx = some (x, t)) : Numbered t := by
  revert e
  fun_cases State.popItem
  case case1 => nofun
  case case2 | case3 =>
    rintro ⟨⟩
    exact hs.modList

theorem Numbered.depSubtract (hs : Numbered s) {ctx a amount val off} : DepEndNumbered (depSubtract s ctx a amount val off) := by
  fun_cases Machine.depSubtract
  case case1 => exact hs.lineError
  case case2 => exact hs
  case case3 | case4 => exact hs.wr
  case case5 => exact trivial
  case case6 => exact hs.wr.pushItem

theorem Numbered.depDecrement (hs : Numbered s) {f l cap off amount} : DepEndNumbered (depDecrement s f l cap off amount) := by
  fun_cases Machine.depDecrement
  case case1 => exact ((Numbered.ite hs.commit hs).xcapRange.leftX ‹_›).depSubtract
  case case2 | case4 => exact Numbered.ite hs.commit hs
  case case3 | case5 => exact trivial

theorem Numbered.memCheck (hs : Numbered s) {e o indexed lanes acc} : Numbered (memCheck s e o indexed lanes acc).1.s := hs.xlanes

theorem Numbered.finishUnits (hs : Numbered s) {e h o reg ls us} : NextNumbered (finishUnits s e h o reg ls us) := by
  fun_cases Machine.finishUnits
  exact (hs.issueUnits.left ‹_›).finish

theorem Numbered.finishEmpty (hs : Numbered s) {e h ctr} : NextNumbered (finishEmpty s e h ctr) := hs.tick.finish
theorem Numbered.addDep (hs : Numbered s) {e c off amount} : Numbered (s.addDep e c off amount) := hs.same

theorem Numbered.finishStore (hs : Numbered s) {e h o ls us} : NextNumbered (finishStore s e h o ls us) := by
  fun_cases Machine.finishStore
  case case1 => exact (hs.issueUnits.left ‹_›).finish
  case case2 => exact (hs.issueUnits.left ‹_›).addDep.finish

theorem Numbered.setCircle (hs : Numbered s) {c} : Numbered (s.setCircle c) := hs.same
theorem Numbered.vacate (hs : Numbered s) {f} : Numbered (s.vacate f) := hs.same

theorem Numbered.finishLaunch (hs : Numbered s) {l} : Numbered (s.finishLaunch l) :=
  (hs.foldl fun hs => hs.revokeWindows.leaveBay).filterFrames.same.setEntry

theorem Numbered.settleDone (hs : Numbered s) : Numbered s.settleDone := hs.foldl fun hs => hs.finishLaunch

/-! ### Copies, dependency records and rings -/

theorem Numbered.copyChecks {t : Xst} (hs : Numbered t.s) {e x c wide ls as bs} :
    Numbered (copyChecks e x c wide ls t as bs).1.s := by
  have src {t : Xst} (hs : Numbered t.s) {c : Prop} [Decidable c] {x who f l r n u}
      (e : (if c then (t, Chk.ok []) else t.range who f l r n u) = x) : Numbered x.1.s := by
    subst e; exact Numbered.iteX hs hs.xrange
  fun_induction Machine.copyChecks e x c wide ls t as bs
  case case1 => exact hs
  case case2 ih => exact ih hs
  case case3 | case4 | case5 => exact src hs ‹_›
  case case6 | case7 => exact (Numbered.xrange (src hs ‹_›)).leftX ‹_›
  case case8 ih => exact ih ((Numbered.xrange (src hs ‹_›)).leftX ‹_›)

theorem Numbered.countTag (hs : Numbered s) {core t n} : Numbered (s.countTag core t n) := by
  fun_cases State.countTag
  case case1 => exact hs
  case case2 => exact hs.setTag

theorem Numbered.xmove {x : Xst} (hs : Numbered x.s) {f l r n acc} : Numbered (x.move f l r n acc).1.s := by
  fun_cases Xst.move
  case case1 => exact hs.xrange
  case case2 => exact hs.xpages

theorem Numbered.windowWord (hs : Numbered s) {prog idx a x} : Numbered (s.windowWord prog idx a x) := by
  fun_cases State.windowWord
  case case1 | case2 => exact hs
  case case3 put => exact hs.modWarp fun w => by dsimp only [put]; split <;> simp [Warp.put_idx]

theorem Numbered.windowWords (hs : Numbered s) {prog idx a n bs} : Numbered (s.windowWords prog idx a n bs) := by
  induction n generalizing s a bs with
  | zero => exact hs
  | succ n ih => exact ih hs.windowWord

theorem Numbered.storeLane (hs : Numbered s) {l c x dst bs} : MovedNumbered (storeLane s l c x dst bs) := by
  fun_cases Machine.storeLane
  case case1 => exact hs.windowWords
  case case2 | case5 | case7 => exact hs
  case case3 | case4 | case6 => exact hs.storeAt

theorem Numbered.moveLane (hs : Numbered s) {f l c x} : MovedNumbered (moveLane s f l c x) := by
  fun_cases Machine.moveLane
  case case1 | case4 | case7 => exact hs
  case case2 | case3 | case5 | case6 => exact trivial
  all_goals
    have ht := ((Numbered.iteX hs hs.xmove).leftX ‹_›).xmove.leftX ‹_›
  case case8 => exact (Numbered.ite ht.performOlder.commit ht.performOlder).storeLane
  case case9 => exact (Numbered.ite ht.performOlder.commit ht.performOlder).lineError.startRelaunch
  case case10 => exact (Numbered.ite ht.performOlder.commit ht.performOlder).lineError.modWarp (fun w => w.setLate_idx _ _)
    |>.storeLane

theorem Numbered.tagDone (hs : Numbered s) {i core t err} : Numbered (s.tagDone i core t err) := hs.setTag.modWarp
theorem Numbered.dropCopy (hs : Numbered s) {id} : Numbered (s.dropCopy id) := hs.same

theorem Numbered.finishCopy (hs : Numbered s) {c} : Numbered (finishCopy s c) := by
  fun_cases Machine.finishCopy
  case case1 => exact hs.dropCopy.foldl fun hs => hs.tagDone
  case case2 => exact hs.dropCopy.modWarp
  case case3 => exact hs.dropCopy

theorem Numbered.beginDep (hs : Numbered s) {c} : Numbered (s.beginDep c) := by
  fun_cases State.beginDep
  case case1 | case2 => exact hs
  case case3 => exact hs.same

theorem Numbered.finishCollective (hs : Numbered s) {fid k} : Numbered (finishCollective s fid k) := by
  fun_cases Machine.finishCollective
  case case1 => exact hs
  case case2 => exact hs.foldl fun hs => hs.beginDep
  case case3 => 
    have ht := hs.foldl (l := s.collective fid k) (f := Machine.finishCopy) fun hs => hs.finishCopy
    exact ht.setFrame (ht.frame ‹_›).same
  case case4 => exact hs.foldl fun hs => hs.finishCopy

theorem Numbered.settleCopy (hs : Numbered s) {id} : Numbered (settleCopy s id) := by
  fun_cases Machine.settleCopy
  case case1 | case3 => exact hs
  case case2 => exact hs.finishCollective
  case case4 => exact hs.beginDep
  case case5 => exact hs.finishCopy

theorem Numbered.askJob (hs : Numbered s) {party ctx pc p} : Numbered (askJob s party ctx pc p) := hs.newGroup rfl
theorem Numbered.setCopy (hs : Numbered s) {id g} : Numbered (s.setCopy id g) := hs.same
theorem Numbered.setCopyLane (hs : Numbered s) {id lane g} : Numbered (s.setCopyLane id lane g) := hs.setCopy

theorem Numbered.laneDone (hs : Numbered s) {id lane err} : Numbered (laneDone s id lane err) := by
  fun_cases Machine.laneDone
  case case1 | case3 => exact hs.setCopyLane
  case case2 => exact hs.setCopyLane.tagDone
  case case4 => exact hs.setCopyLane.setCopy.settleCopy

theorem Numbered.execTagLanePerformed (hs : Numbered s) {opId lane} : NextNumbered (execTagLanePerformed opId lane s) := by
  fun_cases Machine.execTagLanePerformed
  case case1 | case2 | case3 | case6 | case8 => exact hs.next
  case case4 => exact hs.laneDone.settleDone.next
  case case5 => exact (hs.moveLane.done ‹_›).laneDone.settleDone.next
  case case7 => exact hs.askJob.setCopyLane.next

theorem Numbered.depDone (hs : Numbered s) {d err} : Numbered (depDone s d err) :=
  Numbered.ite hs.same.setCopy.settleCopy hs.same.modWarp

theorem Numbered.performDep (hs : Numbered s) {id} : Numbered (performDep s id) := by
  fun_cases Machine.performDep
  case case1 | case3 | case4 | case6 => exact hs
  case case2 => exact hs.same
  case case7 => exact hs.askJob.same
  case case5 => exact (hs.depDecrement.done ‹_›).depDone.settleDone

theorem Numbered.execCpygCollectiveStart (hs : Numbered s) {fid g} : NextNumbered (execCpygCollectiveStart fid g s) := by
  fun_cases Machine.execCpygCollectiveStart
  case case1 | case2 | case4 => exact hs.next
  case case3 => exact hs.same.finishCollective.settleDone.next

theorem Numbered.tagTrap (hs : Numbered s) {e t x} : NextNumbered (tagTrap s e t x) := by
  fun_cases Machine.tagTrap
  case case1 => exact hs.setTag.stopRun.next
  case case2 => exact hs.setTag.takeTrap.next

theorem Numbered.setRing (hs : Numbered s) {bay code r} : Numbered (s.setRing bay code r) := Numbered.ite hs.setBay hs.setDie
theorem Numbered.seal (hs : Numbered s) {ctx c} : Numbered (s.seal ctx c).1 := hs.tick.same

theorem Numbered.orIssued (hs : Numbered s) {core tagiss} : Numbered (s.orIssued core tagiss) :=
  hs.foldl fun hs => Numbered.ite hs.setTag hs

/-! ### Truss and the text engines -/

theorem Numbered.consumed (hs : Numbered s) {l i off} : Numbered (consumed s l i off) := by
  fun_cases Machine.consumed
  case case1 => exact hs.startRelaunch
  case case2 => exact hs.modWarp fun w => w.setLate_idx _ _

theorem Numbered.tldRows (hs : Numbered s) {f l q a cap n o sl} : PassNumbered (tldRows f l q a cap n s o sl) := by
  fun_induction Machine.tldRows f l q a cap n s o sl
  case case1 => exact hs
  case case2 ih | case3 ih => exact ih _ _ hs
  case case4 | case5 | case6 => exact hs
  case case7 ih =>
    have hx := hs.xmove.leftX ‹_›
    refine ih _ _ ?_
    dsimp +zetaDelta only
    split
    · exact hx.lineError.consumed
    · exact hx

theorem Numbered.tstWrite (hs : Numbered s) {f l q a cap start n o sl} : PassNumbered (tstWrite f l q a cap start n s o sl) := by
  fun_induction Machine.tstWrite f l q a cap start n s o sl
  case case1 | case3 | case4 | case5 => exact hs
  case case2 ih => subst cap; exact ih hs.setMem
  case case6 ih => subst cap; exact ih (hs.xmove.leftX ‹_›).storeAt

theorem Numbered.trussPass (hs : Numbered s) {f l w o sl} : PassNumbered (trussPass s f l w o sl) := by
  fun_cases Machine.trussPass
  case case5 => exact hs.tldRows
  case case6 => exact hs.tstWrite
  all_goals exact hs

theorem Numbered.trussPut (hs : Numbered s) {bay fid g o sl} : Numbered (s.trussPut bay fid g o sl) := hs.setBay

theorem Numbered.noteTrussFault (hs : Numbered s) {o} : Numbered (s.noteTrussFault o) := by
  fun_cases State.noteTrussFault
  case case1 => exact hs.modWarp
  case case2 => exact hs

theorem Numbered.execTrussGrant (hs : Numbered s) {bay} : NextNumbered (execTrussGrant bay s) := by
  fun_cases Machine.execTrussGrant
  case case1 | case4 | case5 => exact hs.next
  case case2 => exact ((Numbered.ite hs hs.setBay).trussPass.ended ‹_›).trussPut.noteTrussFault.next
  case case3 => exact ((Numbered.ite hs hs.setBay).trussPass.paused ‹_›).askJob.trussPut.next

theorem Numbered.execTrussOpComplete (hs : Numbered s) {bay} : NextNumbered (execTrussOpComplete bay s) := by
  fun_cases Machine.execTrussOpComplete
  case case1 | case2 => exact hs.next
  case case3 => exact hs.setBay.modWarp.settleDone.next

theorem Numbered.ftDone (hs : Numbered s) {o err} : Numbered (s.ftDone o err) := hs.same.modWarp

theorem Numbered.execFtloadFlip (hs : Numbered s) : NextNumbered (execFtloadFlip s) := by
  fun_cases Machine.execFtloadFlip
  case case1 | case5 => exact hs.next
  case case2 | case4 | case8 => exact hs.ftDone.next
  case case3 => exact hs.askJob.same.next
  case case6 => exact (hs.xmove.leftX ‹_›).performOlder.setBay.ftDone.next
  case case7 =>
    have ht := hs.xmove.leftX ‹_›
    exact (Numbered.ite ht.performOlder.lineError.consumed ht.performOlder.lineError.consumed.setBay).ftDone.next

theorem Numbered.jobAccess (hs : Numbered s) {j fid r n acc} : AcdNumbered (jobAccess s j fid r n acc) := by
  fun_cases Machine.jobAccess
  case case1 => exact hs
  case case2 | case4 | case5 => exact hs.xrange.leftX ‹_›
  case case3 => exact trivial

theorem Numbered.wrAt (hs : Numbered s) {as bs} : Numbered (s.wrAt as bs) := hs.setMem.heal
theorem Numbered.jobWrites (hs : Numbered s) {j r m bs} : Numbered (s.jobWrites j r m bs) := hs.performOlder.wrAt
theorem Numbered.pauseJob (hs : Numbered s) {j p pc} : TickNumbered (pauseJob s j p pc) := hs.askJob

theorem Numbered.readPiece (hs : Numbered s) {j cap which off n} : TickNumbered (readPiece s j cap which off n) := by
  fun_cases Machine.readPiece
  case case1 => exact hs.pauseJob
  case case2 => exact hs.jobAccess.bad ‹_›
  case case3 => exact (hs.jobAccess.ok ‹_›).lineError
  case case4 => exact hs.jobAccess.ok ‹_›

theorem Numbered.takeMemory (hs : Numbered s) {j n} : TickNumbered (takeMemory s j n) := by
  fun_cases Machine.takeMemory
  case case1 => exact hs.pauseJob
  case case2 | case4 => exact (hs.jobAccess.bad ‹_›).jobAccess.ok ‹_›
  case case3 => exact ((hs.jobAccess.bad ‹_›).jobAccess.ok ‹_›).lineError
  case case5 => exact (hs.jobAccess.bad ‹_›).pauseJob
  case case6 => exact (hs.jobAccess.bad ‹_›).jobAccess.bad ‹_›
  case case7 => exact hs.jobAccess.bad ‹_›
  case case8 | case10 => exact hs.jobAccess.ok ‹_›
  case case9 => exact (hs.jobAccess.ok ‹_›).lineError

theorem Numbered.takeSlot (hs : Numbered s) {j code skip} : TickNumbered (takeSlot s j code skip) := by
  fun_cases Machine.takeSlot
  case case1 | case2 => exact hs
  case case3 => exact hs.pauseJob
  case case4 => exact (hs.jobAccess.bad ‹_›).setRing
  case case5 => exact hs.jobAccess.bad ‹_›
  case case6 => exact (hs.jobAccess.ok ‹_›).lineError.setRing
  case case7 | case8 | case9 => exact (hs.jobAccess.ok ‹_›).setRing
  case case10 => exact (hs.jobAccess.ok ‹_›).pauseJob
  case case11 => exact ((hs.jobAccess.ok ‹_›).jobAccess.bad ‹_›).setRing
  case case12 => exact ((hs.jobAccess.ok ‹_›).jobAccess.ok ‹_›).lineError.setRing
  case case13 => exact ((hs.jobAccess.ok ‹_›).jobAccess.ok ‹_›).setRing

theorem Numbered.putSlot (hs : Numbered s) {j code payload last poison bad}
    (hb : ∀ {t k}, Numbered t → TickNumbered (bad t k) := by exact id) :
    TickNumbered (putSlot s j code payload last poison bad) := by
  fun_cases Machine.putSlot
  case case1 => exact hb hs
  case case2 => exact hs
  case case3 => exact hs.pauseJob
  case case4 => exact hb (hs.jobAccess.bad ‹_›)
  case case5 => exact (hs.jobAccess.ok ‹_›).jobWrites.setRing

theorem Numbered.writeOut (hs : Numbered s) {j t bs} : TickNumbered (writeOut s j t bs) := by
  fun_cases Machine.writeOut
  case case1 => exact hs.pauseJob
  case case2 => exact (hs.jobAccess.ok ‹_›).jobWrites
  case case3 => exact ((hs.jobAccess.bad ‹_›).jobAccess.ok ‹_›).jobWrites
  case case4 => exact (hs.jobAccess.bad ‹_›).pauseJob
  case case5 => exact (hs.jobAccess.bad ‹_›).jobAccess.bad ‹_›
  case case6 => exact hs.jobAccess.bad ‹_›

theorem Numbered.vaRange (hs : Numbered s) {ctx va n acc} : VaAccNumbered (s.vaRange ctx va n acc) := by
  fun_cases State.vaRange
  case case1 | case3 | case4 => exact hs.xpages.leftX ‹_›
  case case2 => exact trivial

theorem Numbered.appendVa (hs : Numbered s) {ctx base size n rc} : AppendedNumbered (appendVa s ctx base size n rc) := by
  unfold Machine.appendVa
  split
  · exact .absent
  · exact (hs.vaRange.fault ‹_›).appendFault
  · dsimp only
    have hn {a c} := (hs.vaRange.ok ‹_›).noteCons (base := a) (cons := c)
    split
    · exact .full
    · split
      · exact .absent
      · exact (hn.vaRange.fault ‹_›).appendFault
      · exact (hn.vaRange.ok ‹_›).wrAt.wrAt.appended

theorem Numbered.reportFault (hs : Numbered s) {ctx va area cause} : Numbered (s.reportFault ctx va area cause) := hs.errorRecord

theorem Numbered.endFailed (hs : Numbered s) {j e} : TickNumbered (endFailed s j e) := by
  unfold Machine.endFailed
  dsimp only
  split
  · exact hs
  · split
    · exact hs
    · exact hs
    · split
      · exact hs.reportFault
      · split
        · next e => exact hs.appendVa.wrote e
        · exact hs
        · exact hs.pauseJob
        · next e => exact (hs.appendVa.fault e).reportFault

theorem Numbered.failTick (hs : Numbered s) {j e} : TickNumbered (failTick s j e) := by
  unfold Machine.failTick
  split
  · exact hs
  · extract_lets unsent skipRest
    have rest : TickNumbered skipRest := by
      dsimp only [skipRest]
      split
      · exact hs.takeSlot
      · split
        · exact hs.putSlot
        · exact hs.endFailed
    split
    · split
      · exact hs.putSlot
      · exact rest
    · exact rest

theorem Numbered.moreInput (hs : Numbered s) {j t bytes} : TickNumbered (moreInput s j t bytes) := by
  fun_cases Machine.moreInput
  case case1 | case2 => exact hs
  case case3 => exact hs.takeSlot
  case case4 => exact hs.takeMemory

theorem Numbered.afterOutput (hs : Numbered s) {j t bytes} : TickNumbered (afterOutput s j t bytes) := by
  fun_cases Machine.afterOutput
  case case1 | case4 => exact hs
  case case2 => exact hs.readPiece
  case case3 => exact hs.moreInput
  case case5 => exact hs.putSlot

theorem Numbered.descTick (hs : Numbered s) {j} : TickNumbered (descTick s j) := by
  fun_cases Machine.descTick
  case case1 => exact hs.writeOut
  case case2 | case4 => exact hs
  case case3 | case6 => exact hs.afterOutput
  case case5 => exact hs.putSlot

theorem Numbered.withHandle (hs : Numbered s) {j v k} (hk : ∀ i h, TickNumbered (k i h)) : TickNumbered (withHandle s j v k) := by
  fun_cases Machine.withHandle
  case case1 => exact hs
  case case2 => exact hk _ _

theorem Numbered.setHandle (hs : Numbered s) {j i h} : Numbered (s.setHandle j i h) := hs.setDie

theorem Numbered.openHandle (hs : Numbered s) {j h} : TickNumbered (openHandle s j h) := by
  fun_cases Machine.openHandle
  case case1 => exact hs
  case case2 => exact hs.setDie

theorem Numbered.mxappTick (hs : Numbered s) {j v c} : TickNumbered (mxappTick s j v c) := by
  refine hs.withHandle fun i h => ?_
  dsimp only
  split
  · exact hs
  · split
    · exact hs
    · split
      · exact hs.pauseJob
      · exact hs.jobAccess.bad ‹_›
      · have hm := hs.jobAccess.ok ‹_›
        split
        · exact hm.lineError
        · exact hm.setHandle

theorem Numbered.mxlookTick (hs : Numbered s) {j v dmax dst vreg} : TickNumbered (mxlookTick s j v dmax dst vreg) := by
  refine hs.withHandle fun i h => ?_
  dsimp only
  split
  · exact hs.readPiece
  · exact hs.setHandle
  · split
    · exact hs.readPiece
    · exact hs.setHandle
    · split
      · exact hs.setHandle
      · split
        · exact hs.setHandle
        · split
          · exact hs.pauseJob
          · exact (hs.jobAccess.bad ‹_›).setHandle
          · exact (hs.jobAccess.ok ‹_›).jobWrites.setHandle

theorem Numbered.mxsaveTick (hs : Numbered s) {j v img off} : TickNumbered (mxsaveTick s j v img off) := by
  refine hs.withHandle fun i h => ?_
  dsimp only
  split
  · exact hs.pauseJob
  · exact hs.jobAccess.bad ‹_›
  · exact (hs.jobAccess.ok ‹_›).jobWrites

theorem Numbered.mxloadTick (hs : Numbered s) {j log img off} : TickNumbered (mxloadTick s j log img off) := by
  fun_cases Machine.mxloadTick
  case case1 | case4 => exact hs.readPiece
  case case2 | case3 | case5 | case6 => exact hs
  case case7 => exact hs.openHandle

theorem Numbered.jobTick (hs : Numbered s) {j} : TickNumbered (jobTick s j) := by
  fun_cases Machine.jobTick
  case case1 => exact hs.failTick
  case case2 => exact hs.descTick
  case case3 | case4 => exact hs
  case case5 => exact hs.openHandle
  case case6 => exact hs.mxappTick
  case case7 => exact hs.mxlookTick
  case case8 => exact hs.mxsaveTick
  case case9 => exact hs.mxloadTick
  case case10 => exact hs.withHandle fun _ _ => hs.setDie

theorem Numbered.runJob (hs : Numbered s) {n j} : Numbered (runJob n s j).1 := by
  induction n generalizing s j with
  | zero => exact hs
  | succ n ih =>
    unfold Machine.runJob
    split
    · exact ih (hs.jobTick.go ‹_›)
    · exact hs.jobTick.stop ‹_›

theorem Numbered.setJob (hs : Numbered s) {die j} : Numbered (s.setJob die j) := hs.setDie

theorem Numbered.advanceJob (hs : Numbered s) {die j} : Numbered (advanceJob s die j) := by
  fun_cases Machine.advanceJob
  exact (hs.runJob.left ‹_›).setJob

theorem Numbered.execEngineJobStart (hs : Numbered s) {die eng} : NextNumbered (execEngineJobStart die eng s) := by
  fun_cases Machine.execEngineJobStart
  case case1 => exact hs.advanceJob.next
  case case2 | case3 => exact hs.next

theorem Numbered.execEngineRingResume (hs : Numbered s) {die eng} : NextNumbered (execEngineRingResume die eng s) := by
  fun_cases Machine.execEngineRingResume
  case case1 => exact hs.advanceJob.next
  case case2 | case3 => exact hs.next

theorem Numbered.jobWriteEarly (hs : Numbered s) {j k} : Numbered (s.jobWriteEarly j k) := by
  fun_cases State.jobWriteEarly
  case case1 => exact hs.modWarp fun w => by split <;> simp [Warp.put_idx]
  case case2 => exact hs

theorem Numbered.execEngineJobComplete (hs : Numbered s) {die eng} : NextNumbered (execEngineJobComplete die eng s) := by
  unfold Machine.execEngineJobComplete
  split
  · exact hs.next
  · dsimp only
    split
    · exact (hs.setDie.modWarp fun w => w.opDone_retireOne_idx ..).settleDone.next
    · exact (hs.setDie.modWarp fun w => w.retire_idx _).tagDone.settleDone.next
    · exact hs.setDie.settleDone.next

theorem Numbered.ownBefore (hs : Numbered s) {e as} : Numbered (s.ownBefore e as).1 := hs.setWarp.performOlder

/-! ### Events of warps, pages, interfaces and frames -/

theorem Numbered.execUserInterruptDelivery (hs : Numbered s) {i} : NextNumbered (execUserInterruptDelivery i s) := by
  fun_cases Machine.execUserInterruptDelivery
  case case1 | case2 | case4 => exact hs.next
  case case3 => exact hs.setWarp.next

theorem Numbered.issue (hs : Numbered s) {p f w} : Numbered (s.issue p f w) := by
  fun_cases State.issue
  case case1 => exact hs
  case case2 => exact (hs.same (t := s.setPart _ _)).setWarp.same

theorem Numbered.takeLate (hs : Numbered s) {f w x} : Numbered (s.takeLate f w x) := hs.setWarp.takeTrap

theorem Numbered.noteHeld (hs : Numbered s) {x} : Numbered (s.noteHeld x) := by
  fun_cases State.noteHeld
  case case1 => exact hs.tick.modWarp
  case case2 | case3 => exact hs

theorem Numbered.execPartitionIssue (hs : Numbered s) {part} : NextNumbered (execPartitionIssue part s) := by
  fun_cases Machine.execPartitionIssue
  case case1 => exact hs.next
  case case2 => exact hs.takeLate.next
  case case3 | case4 => exact (hs.foldl fun hs => hs.noteHeld).next
  case case5 => exact ((hs.foldl fun hs => hs.noteHeld).foldl fun hs => Numbered.ite hs.modWarp hs).issue.next

theorem Numbered.execWarpHoldRelease (hs : Numbered s) {i} : NextNumbered (execWarpHoldRelease i s) := by
  fun_cases Machine.execWarpHoldRelease
  case case1 | case2 | case5 | case6 | case8 => exact hs.next
  case case3 | case7 => exact hs.setWarp.next
  case case4 => exact hs.setWarp.same.next

theorem Numbered.execSleepExpiry (hs : Numbered s) {i} : NextNumbered (execSleepExpiry i s) := by
  fun_cases Machine.execSleepExpiry
  case case1 | case3 | case4 | case5 => exact hs.next
  case case2 => exact hs.setWarp.next

theorem Numbered.execCounterRetire (hs : Numbered s) {i c} : NextNumbered (execCounterRetire i c s) := by
  fun_cases Machine.execCounterRetire
  case case1 => exact hs.next
  case case2 => exact hs.setWarp.settleDone.next

theorem Numbered.execPeerTimeout (hs : Numbered s) {i c} : NextNumbered (execPeerTimeout i c s) := by
  fun_cases Machine.execPeerTimeout
  case case1 | case2 => exact hs.next
  case case3 => exact hs.same.setWarp.next

theorem Numbered.execPeerErrorResponse (hs : Numbered s) {i c} : NextNumbered (execPeerErrorResponse i c s) := by
  fun_cases Machine.execPeerErrorResponse
  case case1 | case2 | case3 => exact hs.next
  case case4 => exact hs.setWarp.next

theorem Numbered.performStray (hs : Numbered s) {k} : Numbered (s.performStray k) := by
  fun_cases State.performStray
  case case1 => exact hs
  case case2 => exact hs.same.unitEffect

theorem Numbered.performAt (hs : Numbered s) {i k early} : Numbered (s.performAt i k early) := by
  fun_cases State.performAt
  case case1 | case3 => exact hs
  case case2 => exact (hs.performUnit.left ‹_›).setWarp.settleDone

theorem Numbered.answerWarp (hs : Numbered s) {g i ok} : Numbered (answerWarp s g i ok) := by
  fun_cases Machine.answerWarp
  case case1 | case2 | case5 => exact hs
  case case3 => exact hs.setWarp
  case case4 => exact hs.setWarp.takeTrap

theorem Numbered.failCollective (hs : Numbered s) {fid k err} : Numbered (failCollective s fid k err) := hs.same.finishCollective

theorem Numbered.answerCopy (hs : Numbered s) {g id lane ok} : Numbered (answerCopy s g id lane ok) := by
  fun_cases Machine.answerCopy
  case case1 => exact hs.setCopyLane
  case case2 => exact hs
  case case3 => exact hs.failCollective
  case case4 => exact hs.laneDone

theorem Numbered.answerTruss (hs : Numbered s) {g id ok} : Numbered (answerTruss s g id ok) := by
  fun_cases Machine.answerTruss
  case case1 => exact hs
  case case2 => exact hs.setBay.noteTrussFault
  case case3 => exact hs.setBay

theorem Numbered.answerFt (hs : Numbered s) {g id ok} : Numbered (answerFt s g id ok) := by
  fun_cases Machine.answerFt
  case case1 => exact hs
  case case2 => exact hs.same
  case case3 => exact hs.ftDone

theorem Numbered.answerDep (hs : Numbered s) {g id ok} : Numbered (answerDep s g id ok) := by
  fun_cases Machine.answerDep
  case case1 => exact hs
  case case2 => exact hs.same
  case case3 => exact hs.depDone

theorem Numbered.answerJob (hs : Numbered s) {g op ok} : Numbered (answerJob s g op ok) := by
  fun_cases Machine.answerJob
  case case1 | case2 => exact hs
  case case3 => exact hs.advanceJob

theorem Numbered.setProg (hs : Numbered s) {i o} : Numbered (s.setProg i o) := hs.same
theorem Numbered.setQueue (hs : Numbered s) {i o} : Numbered (s.setQueue i o) := hs.same

theorem Numbered.answer (hs : Numbered s) {g ok} : Numbered (answer s g ok) := by
  fun_cases Machine.answer
  case case1 | case9 | case11 | case13 => exact hs.filterGroups
  case case2 => exact hs.filterGroups.answerWarp
  case case3 => exact hs.filterGroups.answerCopy
  case case4 => exact hs.filterGroups.answerTruss
  case case5 => exact hs.filterGroups.answerFt
  case case6 => exact hs.filterGroups.answerDep
  case case7 => exact hs.filterGroups.answerJob
  case case8 => exact hs.filterGroups.setProg
  case case10 => exact hs.filterGroups.setFrame (Numbered.frame hs.filterGroups ‹_›).same
  case case12 => exact hs.filterGroups.setQueue

theorem Numbered.writeRecords (hs : Numbered s) {base n prod rs} : Numbered (writeRecords s base n prod rs) := by
  induction rs generalizing s prod with
  | nil => exact hs
  | cons r rs ih => exact ih hs.setMem

theorem Numbered.sendGroup (hs : Numbered s) {p g} : SomeNumbered (sendGroup s p g) := by
  fun_cases Machine.sendGroup
  case case1 => exact .none
  case case2 => exact hs.writeRecords.wr.setPort.modGroup.toSome

theorem Numbered.execPageRequestSend (hs : Numbered s) : NextNumbered (execPageRequestSend s) := by
  fun_cases Machine.execPageRequestSend
  case case1 => exact hs.next
  case case2 => exact hs.filterGroups.next
  case case3 => exact hs.answer.next
  case case4 => exact (hs.getD hs.sendGroup).next

theorem Numbered.takeResponse (hs : Numbered s) {port a} : Numbered (takeResponse s port a) := by
  fun_cases Machine.takeResponse
  case case1 | case2 => exact hs
  case case3 => exact hs.modGroup
  case case4 => exact hs.answer

theorem Numbered.takeResponses (hs : Numbered s) {port base n k q} : Numbered (takeResponses port base n k q s) := by
  induction k generalizing s q with
  | zero => exact hs
  | succ k ih => exact ih hs.takeResponse

theorem Numbered.execPageResponseDoorbell (hs : Numbered s) {port value} :
    NextNumbered (execPageResponseDoorbell port value s) := by
  fun_cases Machine.execPageResponseDoorbell
  case case1 => exact hs.next
  case case2 => exact hs.takeResponses.wr.settleDone.next

theorem Numbered.execPageRetryDelayExpiry (hs : Numbered s) : NextNumbered (execPageRetryDelayExpiry s) := by
  fun_cases Machine.execPageRetryDelayExpiry
  case case1 => exact hs.next
  case case2 => exact hs.answer.next

theorem Numbered.shootdown (hs : Numbered s) {r} : Numbered (s.shootdown r) :=
  (hs.mapFrames (g := fun f => { f with warps := f.warps.map (Warp.shoot r) }) (fun _ => rfl) fun _ h => h.map).same

theorem Numbered.holdShoot (hs : Numbered s) {port r cons ack prod} : Numbered (holdShoot s port r cons ack prod) :=
  hs.performEvery.shootdown.setPort

theorem Numbered.overrun (hs : Numbered s) {port base n prod} : Numbered (overrun s port base n prod) := hs.holdShoot

theorem Numbered.takeShoot (hs : Numbered s) {port base n cons prod} : Numbered (takeShoot s port base n cons prod) :=
  Numbered.ite hs.setPort (Numbered.ite hs.overrun hs.holdShoot)

theorem Numbered.execShootdownFileWrite (hs : Numbered s) {port off value} :
    NextNumbered (execShootdownFileWrite port off value s) := by
  fun_cases Machine.execShootdownFileWrite
  case case1 => exact hs.next
  case case2 => exact hs.overrun.next
  case case3 => exact hs.setPort.next
  case case4 => exact hs.takeShoot.next

theorem Numbered.execShootdownAck (hs : Numbered s) : NextNumbered (execShootdownAck s) := by
  fun_cases Machine.execShootdownAck
  case case1 => exact hs.next
  case case2 => exact hs.setPort.next
  case case3 => exact hs.wr.wr.takeShoot.next

theorem Numbered.setTdi (hs : Numbered s) {i t} : Numbered (s.setTdi i t) := hs.same

theorem Numbered.refuse (hs : Numbered s) {code qid port qif qnum b24} : Numbered (s.refuse code qid port qif qnum b24) :=
  hs.addRefused.errorRecord

theorem Numbered.dropAnnouncements (hs : Numbered s) {port qif} : Numbered (dropAnnouncements s port qif) :=
  hs.foldl fun hs => hs.setQueue.foldl fun hs => hs.refuse

theorem Numbered.tdiLost (hs : Numbered s) {i} : Numbered (tdiLost s i) :=
  (hs.dropAnnouncements.foldl fun hs => hs.faultEntry).foldl fun hs => Numbered.ite hs.setQueue hs

theorem Numbered.tdiFails (hs : Numbered s) {i} : Numbered (tdiFails s i) := Numbered.ite hs.tdiLost.setTdi hs
theorem Numbered.execTdiError (hs : Numbered s) {iface} : NextNumbered (execTdiError iface s) := hs.tdiFails.next

theorem Numbered.secured (hs : Numbered s) : Numbered s.secured := by
  fun_cases State.secured
  case case1 => exact hs.same
  case case2 => exact hs

theorem Numbered.inSession (hs : Numbered s) {k} (hk : ∀ t, Numbered t → NextNumbered (k t)) : NextNumbered (inSession s k) := by
  fun_cases Machine.inSession
  case case1 => exact hk _ hs.secured
  case case2 => exact hs.same.next

theorem Numbered.execLockInterfaceRequest (hs : Numbered s) {iface nonce} :
    NextNumbered (execLockInterfaceRequest iface nonce s) := by
  refine hs.inSession fun t ht => ?_
  dsimp only
  split
  · exact ht.same.next
  · exact ht.same.next

theorem Numbered.execStartInterfaceRequest (hs : Numbered s) {iface nonce} :
    NextNumbered (execStartInterfaceRequest iface nonce s) := by
  refine hs.inSession fun t ht => ?_
  dsimp only
  split
  · exact ht.same.next
  · exact ht.same.next

theorem Numbered.execStopInterfaceRequest (hs : Numbered s) {iface} : NextNumbered (execStopInterfaceRequest iface s) :=
  hs.inSession fun _ ht => (Numbered.ite ht.tdiLost ht).same.next

theorem Numbered.sessionEnds (hs : Numbered s) : Numbered s.sessionEnds := hs.same.foldl fun hs => hs.tdiFails

theorem Numbered.execSpdmSessionStart (hs : Numbered s) : NextNumbered (execSpdmSessionStart s) := by
  fun_cases Machine.execSpdmSessionStart
  case case1 => exact hs.next
  case case2 => exact (Numbered.ite hs.sessionEnds hs).same.next

theorem Numbered.execSpdmSessionExpiry (hs : Numbered s) : NextNumbered (execSpdmSessionExpiry s) := by
  fun_cases Machine.execSpdmSessionExpiry
  case case1 => exact hs.sessionEnds.next
  case case2 => exact hs.next

theorem Numbered.writePlanbase (hs : Numbered s) {value} : Numbered (s.writePlanbase value) := by
  fun_cases State.writePlanbase
  case case1 => exact hs
  case case2 => exact hs.same

theorem Numbered.execPlanbase (hs : Numbered s) {value} : NextNumbered (execPlanbase value s) := hs.writePlanbase.next
theorem Numbered.execTouch (hs : Numbered s) : NextNumbered (execTouch s) := hs.same.next
theorem Numbered.setQif (hs : Numbered s) {port i g} : Numbered (s.setQif port i g) := hs.setPort

theorem Numbered.writeQifcfg (hs : Numbered s) {port i value} : Numbered (s.writeQifcfg port i value) :=
  (Numbered.ite hs.setQif.dropAnnouncements hs.setQif).tdiFails

theorem Numbered.execQifcfg (hs : Numbered s) {port i value} : NextNumbered (execQifcfg port i value s) := by
  fun_cases Machine.execQifcfg
  case case1 => exact hs.writeQifcfg.next
  case case2 => exact hs.next

theorem Numbered.writeConfig (hs : Numbered s) {port off value} : Numbered (s.writeConfig port off value) :=
  .ite hs.writePlanbase <| .ite hs.same <| .ite hs.setPort <| .ite hs.setPort <| .ite hs.setPort <| .ite hs.setPort <|
    .ite hs.setPort <| .ite hs.setPort <| .ite hs <| .ite hs.writeQifcfg <| .ite hs.setQif.tdiFails <|
    .ite hs.setQif.tdiFails hs

theorem Numbered.execConfigRegisterWrite (hs : Numbered s) {port off value} :
    NextNumbered (execConfigRegisterWrite port off value s) :=
  hs.writeConfig.next

theorem Numbered.busPerform (hs : Numbered s) {op as point} : Numbered (busPerform s op as point) := by
  fun_cases Machine.busPerform
  case case1 => exact (hs.setMem (m := writeCells ..)).heal.same
  case case2 | case4 => exact hs.lineError.same
  case case3 => exact hs.same
  case case5 => exact hs.same

theorem Numbered.execHostCxlAccess (hs : Numbered s) {acc} : NextNumbered (execHostCxlAccess acc s) := by
  fun_cases Machine.execHostCxlAccess
  case case1 => exact hs.same.next
  case case2 => exact hs.busPerform.next

theorem Numbered.execPeerInboundAccess (hs : Numbered s) {acc} : NextNumbered (execPeerInboundAccess acc s) := by
  fun_cases Machine.execPeerInboundAccess
  case case1 => exact (hs.vaRange.ok ‹_›).busPerform.next
  case case2 => exact hs.errorRecord.same.next
  case case3 => exact (hs.vaRange.fault ‹_›).errorRecord.same.next

theorem Numbered.execMemoryScrub (hs : Numbered s) {addr} : NextNumbered (execMemoryScrub addr s) := by
  fun_cases Machine.execMemoryScrub
  case case1 => exact hs.next
  case case2 => exact hs.spoil.lineError.next

theorem Numbered.execLinkDown (hs : Numbered s) {link} : NextNumbered (execLinkDown link s) := by
  fun_cases Machine.execLinkDown
  case case1 => exact hs.next
  case case2 => exact hs.same.errorRecord.next

theorem Numbered.execLinkRetrained (hs : Numbered s) {link} : NextNumbered (execLinkRetrained link s) := hs.same.next
theorem Numbered.extend (hs : Numbered s) {m d} : Numbered (s.extend m d) := hs.same

theorem Numbered.execConventionalReset (hs : Numbered s) {b} : NextNumbered (execConventionalReset b s) := by
  unfold Machine.execConventionalReset
  extract_lets ab keep r s0 verified stages s1
  have h0 : Numbered s0 := hs.of_sublist (List.nil_sublist _) nofun (List.nil_sublist _) (Nat.le_refl _)
  have h1 : Numbered s1 := h0.foldl fun ht => ht.extend
  exact h1.same.next

theorem Numbered.execGetMeasurements (hs : Numbered s) {index} : NextNumbered (execGetMeasurements index s) := by
  fun_cases Machine.execGetMeasurements <;> exact hs.secured.same.next

theorem Numbered.freshTags (hs : Numbered s) {core} : Numbered (s.freshTags core) := by
  fun_cases State.freshTags
  case case1 => exact hs.same
  case case2 => exact hs

/-- The cores that get clear tags change nothing else. -/
theorem freshTags_foldl (s : State) (cs : List Nat) : ∃ ts, cs.foldl State.freshTags s = { s with tags := ts } := by
  induction cs generalizing s with
  | nil => exact ⟨s.tags, rfl⟩
  | cons c r ih =>
    obtain ⟨ts, h⟩ := ih (s.freshTags c)
    refine ⟨ts, h.trans ?_⟩
    fun_cases State.freshTags s c <;> rfl

theorem map_fst_zip_sublist {α β : Type} (xs : List α) (ys : List β) : ((xs.zip ys).map Prod.fst).Sublist xs := by
  induction xs generalizing ys with
  | nil => simp
  | cons x r ih =>
    cases ys with
    | nil => simp
    | cons y ys => simpa using (ih ys).cons_cons x

/-- A frame's warps start under their own indices. -/
theorem startWarps_idx (s : State) (f : Frame) (l : Launch) (p : Placement) (why : Start) :
    (s.startWarps f l p why).map Warp.idx = ((f.warps.zip p.slots).map Prod.fst).map Warp.idx := by
  have restored (r : Launch) (x : Warp × Nat × Nat × Nat) (k : Cap) :
      (if x.1.gone then restoreWarp l r x.1 x.2 (s.startCaps l r) s.now
        else (restoreWarp l r x.1 x.2 (s.startCaps l r) s.now).setBank 0 f k).idx = x.1.idx := by
    unfold restoreWarp
    cases x.1.gone <;> rfl
  cases why with
  | entry | restart => simp only [State.startWarps, List.map_map]; rfl
  | restore r =>
    simp only [State.startWarps, List.map_map]
    exact List.map_congr_left fun x _ => restored r x _

theorem WarpsOwn.startWarps {f : Frame} (hf : WarpsOwn f) {s : State} {g l p why} (e : g.warps = f.warps) :
    ((s.startWarps g l p why).map Warp.idx).Nodup := by
  rw [startWarps_idx, e]
  exact hf.sublist ((map_fst_zip_sublist _ _).map _)

theorem WarpsOwn.newFrame {l : Launch} {fid idx} : WarpsOwn (l.newFrame fid idx) := by
  have h : (l.newFrame fid idx).warps.map Warp.idx = List.range l.warpCount := by
    simp only [Launch.newFrame, List.map_map]
    exact List.map_id _
  unfold WarpsOwn
  rw [h]
  exact List.nodup_range

theorem Numbered.placeFrame (hs : Numbered s) {f l p why} (hn : f.fid < s.fresh) (hf : WarpsOwn f) :
    Numbered (placeFrame s f l p why) := by
  unfold Machine.placeFrame
  extract_lets cores s₁ f₁ b b₁ ws f₂ s₂ s₃ fs
  obtain ⟨ts, h₁⟩ := freshTags_foldl s cores
  have h₃ : Numbered s₃ := by
    have h : Numbered s₁ := by
      dsimp only [s₁]
      rw [h₁]
      exact hs.same
    exact h.same
  have hw : WarpsOwn f₂ := hf.startWarps rfl
  have hn₃ : f₂.fid < s₃.fresh := by
    have h : s₁.fresh = s.fresh := by
      dsimp only [s₁]
      rw [h₁]
    exact h.symm ▸ hn
  have hx : Numbered { s₃ with frames := if (s₃.frame? f₂.fid).isSome then modifyFirst (fun g => g.fid == f₂.fid) (fun _ => f₂) s₃.frames
      else s₃.frames ++ [f₂] } := by
    cases h : s₃.frame? f₂.fid with
    | some g => exact h₃.setFrame hw
    | none => exact h₃.newFrame h hn₃ hw
  exact hx

theorem Numbered.settleProgram (hs : Numbered s) {prog} : Numbered (s.settleProgram prog) := by
  fun_cases State.settleProgram
  case case1 | case2 | case5 => exact hs
  case case3 | case4 => exact hs.setEntry

theorem Numbered.settleContext (hs : Numbered s) {ctx} : Numbered (s.settleContext ctx) := by
  fun_cases State.settleContext
  case case1 | case5 => exact hs
  case case2 | case3 | case4 => exact hs.setEntry

theorem Numbered.placeNew (hs : Numbered s) {o l p} : Numbered (placeNew s o l p) := by
  fun_cases Machine.placeNew
  case case1 | case4 => exact hs
  case case2 => exact hs.setEntry
  case case3 => exact (hs.tick.placeFrame (Nat.lt_succ_self _) .newFrame).setProg.settleProgram

theorem Numbered.placeBack (hs : Numbered s) {f l p} (hf : f ∈ s.frames) : Numbered (placeBack s f l p) := by
  fun_cases Machine.placeBack
  case case1 | case3 => exact hs
  case case2 => exact (hs.placeFrame (hs.frame_lt hf) (hs.warpsOwn hf)).settleProgram.settleContext

theorem Numbered.execFramePlacement (hs : Numbered s) {p} : NextNumbered (execFramePlacement p s) := by
  fun_cases Machine.execFramePlacement
  case case1 | case2 | case5 => exact hs.next
  case case3 => exact hs.placeNew.next
  case case4 => exact (hs.placeBack (List.mem_of_find?_eq_some ‹_›)).next

theorem Numbered.stopFrame (hs : Numbered s) {f} (hf : WarpsOwn f) : Numbered (stopFrame s f) :=
  hs.setFrame (hf.map rfl Warp.stopInPlace_idx)

theorem Numbered.enterSaves (hs : Numbered s) {fid} : Numbered (enterSaves s fid) := by
  fun_cases Machine.enterSaves
  case case1 | case2 => exact hs
  case case3 => exact hs.foldl fun hs => hs.enterSave

theorem Numbered.saveFrame (hs : Numbered s) {f} (hf : WarpsOwn f) : Numbered (saveFrame s f) := by
  unfold Machine.saveFrame
  split
  next u _ e =>
    have hu := hs.closeBuffer.left e
    extract_lets g mark
    refine (hu.setFrame ((hu.frameGetD hf).map (g := mark) rfl fun w => ?_)).enterSaves
    dsimp only [mark]
    split
    · rfl
    · split
      · rfl
      · exact w.stopInPlace_idx

theorem Numbered.preempt (hs : Numbered s) {f inPlace} (hf : WarpsOwn f) : Numbered (preempt s f inPlace) := by
  fun_cases Machine.preempt
  case case1 | case5 => exact hs
  case case2 => exact hs.saveFrame hf
  case case3 => exact hs.faultEntry
  case case4 => exact hs.stopFrame hf

theorem Numbered.execSaveReq (hs : Numbered s) {fid} : NextNumbered (execSaveReq fid s) := by
  fun_cases Machine.execSaveReq
  case case1 | case2 => exact hs.next
  case case3 => exact hs.enterSaves.next
  case case4 => exact (hs.preempt (hs.frame ‹_›)).next

theorem Numbered.suspendContext (hs : Numbered s) {ctx} : Numbered (suspendContext s ctx) :=
  Numbered.settleContext (hs.foldFrames fun hf ht => ht.preempt hf)

theorem Numbered.resumeContext (hs : Numbered s) {ctx} : Numbered (resumeContext s ctx) := by
  fun_cases Machine.resumeContext
  case case1 => exact hs
  case case2 => exact Numbered.setEntry (hs.foldFrames fun hf ht => .ite (ht.setFrame hf.same) ht)
  case case3 => exact hs.foldFrames fun hf ht => .ite (ht.setFrame hf.same) ht

theorem Numbered.endStranded (hs : Numbered s) {f} : Numbered (endStranded s f) := hs.foldl fun hs => hs.finishCopy
theorem Numbered.removeFrame (hs : Numbered s) {f} : Numbered (removeFrame s f) := hs.leaveBay.filterFrames

theorem Numbered.startRemoval (hs : Numbered s) {f} (hf : WarpsOwn f) : Numbered (startRemoval s f) :=
  (hs.setFrame hf.map).revokeWindows

theorem Numbered.endReaching (hs : Numbered s) {f} : Numbered (endReaching s f) := hs.foldl fun hs => hs.laneDone

theorem Numbered.takeFrame (hs : Numbered s) {f} (hf : WarpsOwn f) : Numbered (takeFrame s f) := by
  fun_cases Machine.takeFrame
  case case1 => exact (hs.startRemoval hf).endReaching.removeFrame
  case case2 => exact hs
  case case3 => exact hs.startRemoval hf

theorem Numbered.removeLaunch (hs : Numbered s) {lid} : Numbered (removeLaunch s lid) := hs.same

theorem Numbered.programDrained (hs : Numbered s) {prog} : Numbered (s.programDrained prog) := by
  unfold State.programDrained
  dsimp only
  split
  · exact hs
  · split
    · exact hs
    · have ht {o : Option Nat} : Numbered (match o with | some l => Machine.removeLaunch s l | none => s) := by
        split
        · exact hs.removeLaunch
        · exact hs
      split
      · exact ht.same.setEntry
      · exact ht.same.setEntry

theorem Numbered.frameSaved (hs : Numbered s) {f} (hf : WarpsOwn f) : Numbered (frameSaved s f) := by
  unfold Machine.frameSaved
  extract_lets mine g warps s₁ s₂ s₃
  have h₂ : Numbered s₂ := hs.commit.vacate.setFrame hf.map
  have h₃ : Numbered s₃ := h₂.same
  exact h₃.settleProgram.settleContext

theorem Numbered.execFrameOut (hs : Numbered s) {fid} : NextNumbered (execFrameOut fid s) := by
  unfold Machine.execFrameOut
  split
  · exact hs.next
  · extract_lets l s₁ f
    have h₁ : Numbered s₁ := .ite hs.endStranded hs
    split
    · exact (h₁.frameSaved (h₁.frameGetD (hs.frame ‹_›))).next
    · split
      · exact h₁.removeFrame.programDrained.settleProgram.settleContext.next
      · exact h₁.next

theorem Numbered.mapAccess (hs : Numbered s) {m off n acc} : VaAccNumbered (s.mapAccess m off n acc) := by
  fun_cases State.mapAccess
  case case1 | case2 | case4 | case5 | case6 => exact hs
  case case3 => exact hs.vaRange

theorem Numbered.restartRecord (hs : Numbered s) {f l} (hf : WarpsOwn f) : RecAccNumbered (s.restartRecord f l) := by
  fun_cases State.restartRecord
  case case1 | case2 | case3 => exact hs
  case case4 => exact hs.mapAccess.ok ‹_›
  case case5 => exact hs.mapAccess.fault ‹_›
  case case6 => exact hs.askJob.setFrame hf.same

theorem Numbered.leaveForRelaunch (hs : Numbered s) {f} (hf : WarpsOwn f) : Numbered (leaveForRelaunch s f) := by
  fun_cases Machine.leaveForRelaunch
  case case1 => exact (hs.restartRecord hf).wait ‹_›
  case case2 =>
    have ht := (hs.restartRecord hf).ok ‹_›
    exact Numbered.settleProgram (ht.wrAt.leaveBay.filterFrames.revokeWindows.faultEntry.foldFrames fun hg hu => hu.takeFrame hg)
  case case3 => exact (((hs.restartRecord hf).ok ‹_›).wrAt.leaveBay.setFrame hf.map).settleProgram.settleContext

theorem Numbered.placeAgain (hs : Numbered s) {f l p} (hf : f ∈ s.frames) : Numbered (placeAgain s f l p) :=
  .ite hs (.ite (hs.placeFrame (hs.frame_lt hf) (hs.warpsOwn hf)).settleProgram hs)

theorem Numbered.execFrameRelaunch (hs : Numbered s) {fid p} : NextNumbered (execFrameRelaunch fid p s) := by
  unfold Machine.execFrameRelaunch
  split
  · exact hs.next
  · extract_lets s₁ f s₂
    have h₁ : Numbered s₁ := Numbered.ite hs.endStranded hs
    have h₂ : Numbered s₂ := Numbered.ite (h₁.leaveForRelaunch (h₁.frameGetD (hs.frame ‹_›))) h₁
    split
    · exact h₂.next
    · next h => exact (h₂.placeAgain (List.mem_of_find?_eq_some (Option.filter_eq_some_iff.mp h).1)).next

theorem Numbered.execBayPowerGate (hs : Numbered s) {bay} : NextNumbered (execBayPowerGate bay s) := by
  fun_cases Machine.execBayPowerGate
  case case1 => exact hs.same.next
  case case2 => exact hs.next

/-! ### Queues and snapshots -/

theorem Numbered.askQueue (hs : Numbered s) {i q out p} : Numbered (askQueue s i q out p) := hs.askJob.setQueue

theorem Numbered.queueAccess (hs : Numbered s) {i q out va n acc area} : QAccNumbered (queueAccess s i q out va n acc area) := by
  fun_cases Machine.queueAccess
  case case1 => exact hs.reportFault.setQueue
  case case2 => exact hs.vaRange.ok ‹_›
  case case3 => exact hs.askQueue
  case case4 => exact (hs.vaRange.fault ‹_›).reportFault

theorem Numbered.queueFaulted (hs : Numbered s) {i} : Numbered (s.queueFaulted i) := hs.setEntry

theorem Numbered.makeQueue (hs : Numbered s) {i q} : Numbered (makeQueue s i q) := by
  fun_cases Machine.makeQueue
  case case1 => exact hs.queueAccess.wait ‹_›
  case case2 => exact (hs.queueAccess.fault ‹_›).same.queueFaulted
  case case3 => exact (hs.queueAccess.ok ‹_›).wrAt.setQueue.setEntry

theorem Numbered.latchTail (hs : Numbered s) {i q a} : Numbered (latchTail s i q a) :=
  (hs.foldl fun hs => Numbered.ite hs.setBay hs).setQueue

theorem Numbered.acceptTail (hs : Numbered s) {i q a} : Numbered (acceptTail s i q a) :=
  Numbered.ite hs.setQueue.setEntry hs.setQueue

theorem Numbered.tailFate (hs : Numbered s) {port qif qnum value ide replay} :
    Numbered (tailFate s port qif qnum value ide replay) := by
  fun_cases Machine.tailFate
  case case1 | case2 | case3 | case4 => exact hs.refuse
  case case5 => exact hs.latchTail
  case case6 => exact hs.acceptTail

theorem Numbered.execTailWrite (hs : Numbered s) {port page off value ide} :
    NextNumbered (execTailWrite port page off value ide s) := by
  fun_cases Machine.execTailWrite
  case case1 => exact hs.tailFate.next
  case case2 => exact hs.next

theorem Numbered.replayLatch (hs : Numbered s) {i} : Numbered (replayLatch s i) := by
  fun_cases Machine.replayLatch
  case case1 => exact hs
  case case2 => exact hs.setQueue.foldl fun hs => hs.tailFate

theorem Numbered.execBayWake (hs : Numbered s) {bay} : NextNumbered (execBayWake bay s) := by
  fun_cases Machine.execBayWake
  case case1 => exact hs.next
  case case2 => exact (hs.setBay.foldl fun hs => hs.replayLatch).next

theorem Numbered.endAnnouncement (hs : Numbered s) {i q} : Numbered (endAnnouncement s i q) := hs.setQueue.addRefused

theorem Numbered.headBad (hs : Numbered s) {i q} : SomeNumbered (headBad s i q) := by
  fun_cases Machine.headBad
  case case1 => exact .none
  case case2 => exact hs.setQueue.errorRecord.toSome

theorem Numbered.placeOne (hs : Numbered s) {i q} : SomeNumbered (placeOne s i q) := by
  unfold Machine.placeOne
  split
  · exact .none
  · split
    · exact .none
    · split
      · exact hs.setQueue.refuse.toSome
      · split
        · exact (hs.queueAccess.wait ‹_›).toSome
        · exact (hs.queueAccess.fault ‹_›).endAnnouncement.toSome
        · have h1 := hs.queueAccess.ok ‹_›
          dsimp only
          split
          · exact h1.headBad
          · split
            · exact .none
            · split
              · exact h1.endAnnouncement.errorRecord.toSome
              · exact (h1.vaRange.fault ‹_›).endAnnouncement.errorRecord.toSome
              · have h2 := h1.vaRange.ok ‹_›
                split
                · exact (h2.queueAccess.wait ‹_›).toSome
                · exact (h2.queueAccess.fault ‹_›).endAnnouncement.toSome
                · have h3 := h2.queueAccess.ok ‹_›
                  split
                  · exact (h3.queueAccess.wait ‹_›).toSome
                  · exact (h3.queueAccess.fault ‹_›).endAnnouncement.toSome
                  · exact (h3.queueAccess.ok ‹_›).wrAt.wrAt.setQueue.toSome

theorem SomeNumbered.firstQueue {f qs} (hf : ∀ {i q}, SomeNumbered (f s i q)) : SomeNumbered (firstQueue s f qs) := by
  induction qs with
  | nil => exact .none
  | cons x r ih =>
    obtain ⟨i, _ | q⟩ := x
    · exact ih
    · unfold Machine.firstQueue
      split
      · next e => exact (hf _ e).toSome
      · exact ih

theorem Numbered.execQueueMessagePlace (hs : Numbered s) : NextNumbered (execQueueMessagePlace s) :=
  (hs.getD (SomeNumbered.firstQueue hs.placeOne)).next

theorem Numbered.moveMessages (hs : Numbered s) {old new head n} : Numbered (moveMessages s old new head n) :=
  hs.foldl fun hs => hs.wrAt

theorem Numbered.resizeOne (hs : Numbered s) {i q} : SomeNumbered (resizeOne s i q) := by
  unfold Machine.resizeOne
  split
  · exact .none
  · extract_lets
    split
    · exact .none
    · split
      · exact (hs.queueAccess.wait ‹_›).toSome
      · exact (hs.queueAccess.fault ‹_›).setQueue.queueFaulted.toSome
      · have ht := hs.queueAccess.ok ‹_›
        extract_lets
        split
        · exact ht.headBad
        · split
          · exact .none
          · split
            · exact ht.wrAt.setQueue.toSome
            · exact (Numbered.ite ht.moveMessages.wrAt.setQueue.setEntry ht.moveMessages.wrAt.setQueue).toSome

theorem Numbered.execQueueResize (hs : Numbered s) : NextNumbered (execQueueResize s) :=
  (hs.getD (SomeNumbered.firstQueue hs.resizeOne)).next

theorem Numbered.startQueueDrain (hs : Numbered s) {i q reason} : Numbered (startQueueDrain s i q reason) :=
  hs.setQueue.foldl fun hs => hs.refuse

theorem Numbered.returnClaimed (hs : Numbered s) {i q seq msg} : SomeNumbered (returnClaimed s i q seq msg) := by
  fun_cases Machine.returnClaimed
  case case1 => exact hs.setQueue.toSome
  case case2 | case5 => exact .none
  case case3 => exact hs.reportFault.setQueue.toSome
  case case4 => exact (hs.appendVa.wrote ‹_›).setQueue.toSome
  case case6 => exact hs.askQueue.toSome
  case case7 => exact (hs.appendVa.fault ‹_›).reportFault.setQueue.toSome

theorem Numbered.queueClosed (hs : Numbered s) {i q} : Numbered (queueClosed s i q) := by
  fun_cases Machine.queueClosed
  case case1 => exact hs.setQueue
  case case2 | case3 => exact hs.same.setEntry

theorem Numbered.repairHead (hs : Numbered s) {i q as} : Numbered (repairHead s i q as) := (hs.getD hs.headBad).wrAt

theorem Numbered.drainOne (hs : Numbered s) {i q} : SomeNumbered (drainOne s i q) := by
  fun_cases Machine.drainOne
  case case1 | case9 => exact .none
  case case2 => exact hs.returnClaimed
  case case3 => exact (hs.queueAccess.wait ‹_›).toSome
  case case4 => exact (hs.queueAccess.fault ‹_›).queueClosed.toSome
  case case5 | case6 | case10 => exact (hs.queueAccess.ok ‹_›).wrAt.setQueue.toSome
  case case7 => exact (hs.queueAccess.ok ‹_›).repairHead.toSome
  case case8 => exact (hs.queueAccess.ok ‹_›).queueClosed.toSome

theorem Numbered.execQueueCloseDrain (hs : Numbered s) : NextNumbered (execQueueCloseDrain s) :=
  (hs.getD (SomeNumbered.firstQueue hs.drainOne)).next

theorem Numbered.targetAt (hs : Numbered s) {m off n acc} : Numbered (s.targetAt m off n acc).1 := by
  fun_cases State.targetAt
  case case1 => exact hs.mapAccess.ok ‹_›
  case case2 => exact hs.mapAccess.fault ‹_›
  case case3 => exact hs

theorem Numbered.readTarget (hs : Numbered s) {m} : Numbered (readTarget s m).1 := by
  fun_cases Machine.readTarget <;> exact hs.targetAt.left ‹_›

theorem Numbered.devData (hs : Numbered s) {ctx k va n} : Numbered (devData ctx k s va n).1 := by
  fun_induction Machine.devData ctx k s va n
  case case1 | case2 => exact hs
  case case3 ih => exact (ih (hs.translate.left ‹_›)).left ‹_›
  case case4 ih => exact ih (hs.translate.left ‹_›)

theorem Numbered.mapData (hs : Numbered s) {m} : Numbered (s.mapData m).1 := by
  fun_cases State.mapData
  case case1 => exact hs
  case case2 => exact hs.devData

theorem Numbered.mapChunks {acc : State × List SnapChunk} (hs : Numbered acc.1) {pos m} : Numbered (mapChunks pos acc m).1 :=
  hs.mapData

theorem Numbered.foldlP {α β : Type} {f : State × β → α → State × β} {l : List α} {p : State × β} (hp : Numbered p.1)
    (hf : ∀ {p a}, Numbered p.1 → Numbered (f p a).1) : Numbered (l.foldl f p).1 := by
  induction l generalizing p with
  | nil => exact hp
  | cons a r ih => exact ih (hf hp)

theorem Numbered.planChunks (hs : Numbered s) {ctxs} : Numbered (planChunks s ctxs).1 :=
  Numbered.foldlP hs fun hp => Numbered.foldlP hp fun hp => Numbered.mapChunks hp

theorem Numbered.chunkAddrs (hs : Numbered s) {c} : Numbered (s.chunkAddrs c).1 := by
  fun_cases State.chunkAddrs
  exact hs.mapData.left ‹_›

theorem Numbered.setSnap (hs : Numbered s) {i x} : Numbered (s.setSnap i x) := hs.same

theorem SomeNumbered.firstSnap {f xs} (hf : ∀ {i x}, SomeNumbered (f s i x)) : SomeNumbered (firstSnap s f xs) := by
  induction xs with
  | nil => exact .none
  | cons x r ih =>
    obtain ⟨i, _ | x⟩ := x
    · exact ih
    · unfold Machine.firstSnap
      split
      · next e => exact (hf _ e).toSome
      · exact ih

theorem Numbered.endSnap (hs : Numbered s) {i x cause} : Numbered (endSnap s i x cause) := by
  fun_cases Machine.endSnap <;> exact hs.setSnap.setEntry

theorem Numbered.resumeAll (hs : Numbered s) {ctxs} : Numbered (resumeAll s ctxs) := hs.foldl fun hs => hs.resumeContext

theorem Numbered.abandonSnap (hs : Numbered s) {i} : Numbered (abandonSnap s i) := by
  fun_cases Machine.abandonSnap
  case case1 => exact hs
  case case2 => exact (Numbered.ite hs.same hs.same).resumeAll

theorem Numbered.carry (hs : Numbered s) {src dst} : Numbered (s.carry src dst) := hs.wrAt.foldl fun hs => hs.spoil

theorem Numbered.stageOne (hs : Numbered s) {i} : Numbered (stageOne s i) := by
  unfold Machine.stageOne
  split
  · split
    · exact hs
    · split
      · exact (hs.chunkAddrs.left ‹_›).carry.setSnap
  · exact hs

theorem Numbered.releaseStaged (hs : Numbered s) {i} : Numbered (releaseStaged s i) := by
  fun_cases Machine.releaseStaged
  case case1 => exact hs
  case case2 => exact hs.setSnap.resumeAll

theorem Numbered.copyDone (hs : Numbered s) {i x} : SomeNumbered (copyDone s i x) := by
  fun_cases Machine.copyDone
  case case1 => exact (hs.foldl fun hs => hs.stageOne).releaseStaged.toSome
  case case2 => exact .none

theorem Numbered.execInControllerCopyDone (hs : Numbered s) : NextNumbered (execInControllerCopyDone s) :=
  (hs.getD (SomeNumbered.firstSnap hs.copyDone)).next

theorem Numbered.probeIndex (hs : Numbered s) {m size d n e} : Numbered (probeIndex m size d n s e).1 := by
  fun_induction Machine.probeIndex m size d n s e
  case case1 => exact hs
  case case2 | case3 | case4 | case5 => exact hs.targetAt.left ‹_›
  case case6 ih => exact ih (hs.targetAt.left ‹_›)

theorem Numbered.claimEntry (hs : Numbered s) {m e old new} : Numbered (claimEntry s m e old new).1 := by
  fun_cases Machine.claimEntry
  case case1 | case3 => exact hs.targetAt.left ‹_›
  case case2 => exact (hs.targetAt.left ‹_›).wrAt

theorem Numbered.driveStep (hs : Numbered s) {i x t read data lba n k} (hk : ∀ t x, Numbered t → Numbered (k t x)) :
    Numbered (driveStep s i x t read data lba n k) := by
  fun_cases Machine.driveStep
  case case1 => exact hs.wr.setSnap
  case case2 => exact hk _ _ hs.wr

theorem Numbered.writeChunk (hs : Numbered s) {i x t j c slot d e word} : Numbered (writeChunk s i x t j c slot d e word) := by
  unfold Machine.writeChunk
  split
  · exact hs.targetAt.left ‹_›
  · have ht := hs.targetAt.left ‹_›
    split
    · exact ht.setSnap
    · exact ht.driveStep fun t x ht => ht.carry.wrAt.wrAt.wrAt.setSnap

theorem Numbered.drainChunk (hs : Numbered s) {i x t j c slot} : Numbered (drainChunk s i x t j c slot) := by
  fun_cases Machine.drainChunk
  case case1 => exact hs.lineError
  case case2 => exact hs.setSnap
  case case3 => exact hs.writeChunk
  case case4 | case5 => exact (hs.probeIndex.left ‹_›).setSnap
  case case6 => exact hs.probeIndex.left ‹_›
  case case7 => exact ((hs.probeIndex.left ‹_›).claimEntry.left ‹_›).setSnap
  case case8 => exact (hs.probeIndex.left ‹_›).claimEntry.left ‹_›

theorem Numbered.writeShard (hs : Numbered s) {i x t ctx} : SomeNumbered (writeShard s i x t ctx) := by
  rintro u hu
  obtain ⟨k, _, rfl⟩ := Option.map_eq_some_iff.mp hu
  refine hs.setMem.driveStep fun t x ht => ?_
  dsimp only
  split
  · exact ht.setMem.endSnap
  · exact ht.setMem.setSnap

theorem Numbered.snapStep (hs : Numbered s) {i x} : SomeNumbered (snapStep s i x) := by
  fun_cases Machine.snapStep
  case case1 => exact ((hs.foldl fun hs => hs.settleContext).planChunks.left ‹_›).setSnap.releaseStaged.toSome
  case case2 | case5 | case8 => exact .none
  case case3 => exact (hs.readTarget.left ‹_›).endSnap.resumeAll.toSome
  case case4 => exact (hs.readTarget.left ‹_›).drainChunk.toSome
  case case6 => exact (hs.readTarget.left ‹_›).writeShard
  case case7 => exact (hs.readTarget.left ‹_›).endSnap.toSome

theorem Numbered.execSnapshotStep (hs : Numbered s) : NextNumbered (execSnapshotStep s) :=
  (hs.getD (SomeNumbered.firstSnap hs.snapStep)).next

theorem Numbered.takeOver (hs : Numbered s) {i x} : SomeNumbered (takeOver s i x) := by
  fun_cases Machine.takeOver
  case case1 | case2 | case5 => exact .none
  case case3 => exact (hs.targetAt.left ‹_›).setSnap.toSome
  case case4 => exact (hs.targetAt.left ‹_›).wrAt.setSnap.toSome

theorem Numbered.execChunkClaimTakeover (hs : Numbered s) : NextNumbered (execChunkClaimTakeover s) :=
  (hs.getD (SomeNumbered.firstSnap hs.takeOver)).next

theorem Numbered.checkRestore (hs : Numbered s) {i x} : Numbered (checkRestore s i x) := by
  unfold Machine.checkRestore
  split
  · exact (hs.readTarget.left ‹_›).endSnap.resumeAll
  · refine (hs.readTarget.left ‹_›).driveStep fun t x ht => ?_
    dsimp only
    split
    · exact ht.endSnap.resumeAll
    · exact ht.planChunks.setSnap

theorem Numbered.tear (hs : Numbered s) {cs} : Numbered (s.tear cs) := hs.same

theorem Numbered.restoreOne (hs : Numbered s) {i x} : SomeNumbered (restoreOne s i x) := by
  unfold Machine.restoreOne
  split
  · exact (hs.readTarget.left ‹_›).endSnap.tear.toSome
  · have ht := hs.readTarget.left ‹_›
    split
    · exact ht.endSnap.same.resumeAll.toSome
    · split
      · exact .none
      · refine (ht.driveStep fun t x ht => ?_).toSome
        dsimp only
        split
        · exact ht.carry.endSnap.tear
        · exact ht.carry.chunkAddrs.carry.setSnap

theorem Numbered.restoreStep (hs : Numbered s) {i x} : SomeNumbered (restoreStep s i x) := by
  fun_cases Machine.restoreStep
  case case1 => exact hs.checkRestore.toSome
  case case2 => exact hs.restoreOne
  case case3 => exact .none

theorem Numbered.execSnapshotRestore (hs : Numbered s) : NextNumbered (execSnapshotRestore s) :=
  (hs.getD (SomeNumbered.firstSnap hs.restoreStep)).next

theorem Numbered.takeover (hs : Numbered s) : Numbered s.takeover := hs.same

theorem Numbered.updateStep (hs : Numbered s) {b i x} : SomeNumbered (updateStep b s i x) := by
  fun_cases Machine.updateStep
  case case1 => exact .none
  case case2 => exact hs.extend.takeover.endSnap.toSome
  case case3 => exact hs.endSnap.toSome

theorem Numbered.execFirmwareUpdate (hs : Numbered s) {b} : NextNumbered (execFirmwareUpdate b s) :=
  (hs.getD (SomeNumbered.firstSnap hs.updateStep)).next

theorem Numbered.execFailover (hs : Numbered s) : NextNumbered (execFailover s) := hs.takeover.errorRecord.next

/-! ### The Scribe -/

theorem Numbered.setCtx (hs : Numbered s) {i c} : Numbered (s.setCtx i c) := hs.same
theorem Numbered.setMap (hs : Numbered s) {i o} : Numbered (s.setMap i o) := hs.same
theorem Numbered.setTab (hs : Numbered s) {key x} : Numbered (s.setTab key x) := hs.same
theorem Numbered.building (hs : Numbered s) {kind i v} : Numbered (s.building kind i v) := hs.setEntry
theorem Numbered.built (hs : Numbered s) {kind i v detail} : Numbered (s.built kind i v detail) := hs.setEntry
theorem Numbered.waiting (hs : Numbered s) {kind i detail} : Numbered (s.waiting kind i detail) := hs.setEntry
theorem Numbered.faulted (hs : Numbered s) {kind i c detail} : Numbered (s.faulted kind i c detail) := hs.setEntry
theorem Numbered.refused (hs : Numbered s) {kind i c} : Numbered (s.refused kind i c) := hs.faulted
theorem Numbered.draining (hs : Numbered s) {kind i v replace} : Numbered (s.draining kind i v replace) := hs.setEntry
theorem Numbered.removed (hs : Numbered s) {kind i} : Numbered (s.removed kind i) := Numbered.ite hs.setEntry hs.setEntry
theorem Numbered.note (hs : Numbered s) {kind i e} : Numbered (s.note kind i e) := hs.same
theorem Numbered.saw (hs : Numbered s) {kind i v} : Numbered (s.saw kind i v) := hs.note

theorem Numbered.withDep (hs : Numbered s) {k n} {d : Dep} {t} (ht : Numbered t) : Numbered (withDep s k n d t) := by
  fun_cases Machine.withDep
  case case1 => exact ht
  case case2 => exact hs.waiting
  case case3 => exact hs.refused

theorem Numbered.stepContext (hs : Numbered s) {i v c} : Numbered (stepContext s i v c) := by
  unfold Machine.stepContext
  split
  · exact hs.refused
  · extract_lets old moved s₁ s₂ s₃
    clear_value moved
    have h₁ : Numbered s₁ := hs.setCtx
    have h₂ : Numbered s₂ := by
      dsimp only [s₂]
      split
      · exact h₁.shootdown
      · exact h₁
    have h₃ : Numbered s₃ := Numbered.ite h₂.building.suspendContext h₂.built.resumeContext
    exact Numbered.ite (h₃.foldl fun hs => hs.tdiFails) h₃

theorem Numbered.revokeMap (hs : Numbered s) {i o} : Numbered (revokeMap s i o) := by
  unfold Machine.revokeMap
  split
  split
  · exact hs
  · extract_lets s₁ s₂ e
    have h₁ : Numbered s₁ := hs.performEvery.setTab
    have h₂ : Numbered s₂ := by
      dsimp only [s₂]
      split
      · exact Numbered.ite h₁.shootdown h₁
      · exact h₁
    exact Numbered.ite h₂.note h₂

theorem Numbered.bindList (hs : Numbered s) {i o} : Numbered (bindList s i o) := by
  fun_cases Machine.bindList
  case case1 => exact hs
  case case2 => exact hs.modList.foldl fun hs => hs.wr

theorem Numbered.settleMap (hs : Numbered s) {i} : Numbered (settleMap s i) := by
  unfold Machine.settleMap
  extract_lets e t
  have ht : Numbered t := .ite hs (.ite hs.setEntry hs.setEntry)
  exact .ite hs (.ite ht.setMap.removed ht)

theorem Numbered.stepMapping (hs : Numbered s) {i v o} : Numbered (stepMapping s i v o) := by
  refine hs.withDep (Numbered.ite hs.refused ?_)
  extract_lets s₁ gen s₂ e
  have h₁ : Numbered s₁ := by
    dsimp only [s₁]
    split
    · exact hs.revokeMap
    · exact hs
  have h₂ : Numbered s₂ := h₁.setMap.setTab.bindList
  exact Numbered.ite h₂.note h₂.built

theorem Numbered.drainMapping (hs : Numbered s) {i v replace} : Numbered (drainMapping s i v replace) := by
  fun_cases Machine.drainMapping
  case case1 => exact hs.draining.removed
  case case2 => exact hs.revokeMap.note
  case case3 => exact hs.revokeMap.draining.settleMap

theorem Numbered.resizeTo (hs : Numbered s) {i v old n} : Numbered (resizeTo s i v old n) := by
  fun_cases Machine.resizeTo
  case case1 => exact (hs.setQueue.vaRange.ok ‹_›).setEntry
  case case2 => exact (hs.setQueue.vaRange.ok ‹_›).building
  case case3 => exact hs.setQueue.building

theorem Numbered.stepQueue (hs : Numbered s) {i v q} : Numbered (stepQueue s i v q) := by
  refine hs.withDep ?_
  split
  · exact hs.setQueue.building.makeQueue
  · dsimp only
    split
    · exact Numbered.ite hs.setQueue.building hs.setQueue.building.makeQueue
    · exact Numbered.ite hs.resizeTo hs.setQueue.built

theorem Numbered.drainQueue (hs : Numbered s) {i v replace} : Numbered (drainQueue s i v replace) := by
  fun_cases Machine.drainQueue
  case case1 => exact hs.draining.removed
  case case2 => exact hs.same.draining.removed
  case case3 => exact hs.draining.startQueueDrain

theorem Numbered.queueUnlocks (hs : Numbered s) {old new} : Numbered (queueUnlocks s old new) := by
  fun_cases Machine.queueUnlocks
  case case1 => exact hs.tdiFails
  case case2 => exact hs

theorem Numbered.buildFails (hs : Numbered s) {i o c} : Numbered (buildFails s i o c) := hs.same.refused
theorem Numbered.buildAsks (hs : Numbered s) {i o p} : Numbered (buildAsks s i o p) := hs.askJob.setProg

theorem Numbered.writeRecs (hs : Numbered s) {i l m k o} : Numbered (writeRecs i l m k s o) := by
  fun_induction Machine.writeRecs i l m k s o
  case case1 => exact hs
  case case2 => exact hs.buildAsks
  case case3 => exact (hs.mapAccess.fault ‹_›).buildFails
  case case4 ih => exact ih (hs.mapAccess.ok ‹_›).wrAt.setProg

theorem Numbered.moreRecs (hs : Numbered s) {i o l} : Numbered (moreRecs s i o l) := by
  fun_cases Machine.moreRecs
  case case1 => exact hs
  case case2 => exact hs.writeRecs

theorem Numbered.buildLaunch (hs : Numbered s) {i o h img gs} : Numbered (buildLaunch s i o h img gs) := by
  unfold Machine.buildLaunch
  extract_lets l text m n o
  have hn : Numbered { s.tick with mem := n, launches := s.launches ++ [l] } := hs.tick.same
  exact hn.setProg.moreRecs.settleProgram

theorem Numbered.buildImage (hs : Numbered s) {i o h img} : Numbered (buildImage s i o h img) :=
  Numbered.ite hs.buildFails (Numbered.ite hs.buildFails (Numbered.ite hs.buildFails hs.buildLaunch))

theorem Numbered.recordsOne (hs : Numbered s) {i o} : SomeNumbered (recordsOne s i o) := by
  fun_cases Machine.recordsOne
  case case1 | case2 => exact .none
  case case3 => exact (Numbered.ite hs.buildFails hs.moreRecs.settleProgram).toSome

theorem Numbered.buildOne (hs : Numbered s) {i o} : SomeNumbered (buildOne s i o) := by
  fun_cases Machine.buildOne
  case case1 | case6 | case10 => exact .none
  case case2 => exact hs.recordsOne
  case case3 => exact hs.buildFails.toSome
  case case4 => exact hs.buildAsks.toSome
  case case5 => exact (hs.mapAccess.fault ‹_›).buildFails.toSome
  case case7 => exact (hs.mapAccess.ok ‹_›).buildFails.toSome
  case case8 => exact (hs.mapAccess.ok ‹_›).buildAsks.toSome
  case case9 => exact ((hs.mapAccess.ok ‹_›).mapAccess.fault ‹_›).buildFails.toSome
  case case11 => exact ((hs.mapAccess.ok ‹_›).mapAccess.ok ‹_›).buildImage.toSome

theorem SomeNumbered.firstProg {ps} (hs : Numbered s) : SomeNumbered (firstProg s ps) := by
  induction ps with
  | nil => exact .none
  | cons x r ih =>
    obtain ⟨i, _ | o⟩ := x
    · exact ih
    · unfold Machine.firstProg
      split
      · next e => exact (hs.buildOne _ e).toSome
      · exact ih

theorem Numbered.execProgramBuild (hs : Numbered s) : NextNumbered (execProgramBuild s) :=
  (hs.getD (SomeNumbered.firstProg hs)).next
theorem Numbered.takeFrames (hs : Numbered s) {p} : Numbered (takeFrames s (s.frames.filter p)) :=
  hs.foldFrames fun hf ht => ht.takeFrame hf

theorem Numbered.progInPlace (hs : Numbered s) {i v old o l} : Numbered (progInPlace s i v old o l) := by
  fun_cases Machine.progInPlace
  case case1 => exact hs.refused
  case case2 => exact hs.same.takeFrames.setProg.setEntry.moreRecs.settleProgram

theorem Numbered.stepProgram (hs : Numbered s) {i v o} : Numbered (stepProgram s i v o) := by
  refine hs.withDep ?_
  split
  · split
    · exact hs.progInPlace
    · exact hs.setProg.building
  · exact hs.setProg.building

theorem Numbered.drainProgram (hs : Numbered s) {i v replace} : Numbered (drainProgram s i v replace) := by
  fun_cases Machine.drainProgram
  case case1 => exact hs.draining.removed
  case case2 => exact hs.takeFrames.draining.programDrained

theorem Numbered.settleCtxDrain (hs : Numbered s) {i} : Numbered (settleCtxDrain s i) := by
  unfold Machine.settleCtxDrain
  split
  · exact hs
  · extract_lets s₁ bays kept dies s₂ s₃ e
    have h₁ : Numbered s₁ := by
      dsimp only [s₁]
      split
      · exact hs.shootdown
      · exact hs
    exact h₁.same.setCtx.setEntry.removed

theorem Numbered.drainContext (hs : Numbered s) {i v} : Numbered (drainContext s i v) := by
  fun_cases Machine.drainContext
  case case1 => exact hs.draining.removed
  case case2 => exact hs.draining.settleCtxDrain

theorem Numbered.stepSnapshot (hs : Numbered s) {i v x} : Numbered (stepSnapshot s i v x) := by
  refine hs.withDep (Numbered.ite hs.setSnap.building ?_)
  split
  · exact (hs.readTarget.left ‹_›).refused
  · have ht := hs.readTarget.left ‹_›
    exact Numbered.ite ht.setSnap.building (ht.setSnap.building.foldl fun ht => ht.suspendContext)

theorem Numbered.drainSnapshot (hs : Numbered s) {i v replace} : Numbered (drainSnapshot s i v replace) :=
  hs.draining.abandonSnap.removed

theorem Numbered.removeRecord (hs : Numbered s) {kind i v replace} : Numbered (removeRecord s kind i v replace) := by
  fun_cases Machine.removeRecord
  case case1 => exact hs.drainContext
  case case2 => exact hs.drainMapping
  case case3 => exact hs.drainQueue
  case case4 => exact hs.drainProgram
  case case5 => exact hs.drainSnapshot

theorem Numbered.stepBody (hs : Numbered s) {kind i v p} : Numbered (stepBody s kind i v p) := by
  fun_cases Machine.stepBody
  case case1 => exact hs.stepContext
  case case2 => exact hs.stepMapping
  case case3 => exact hs.stepQueue
  case case4 => exact hs.stepProgram
  case case5 => exact hs.stepSnapshot

theorem Numbered.updateRecord (hs : Numbered s) {kind i v p} : Numbered (updateRecord s kind i v p) := by
  unfold Machine.updateRecord
  split
  · extract_lets old s₁ s₂ e
    clear_value old
    have h₁ : Numbered s₁ := hs.removeRecord
    have h₂ : Numbered s₂ := by
      dsimp only [s₂]
      split
      · split
        · exact h₁.queueUnlocks
        · exact h₁
      · exact h₁
    exact Numbered.ite h₂.stepBody h₂
  · exact hs.stepBody

theorem Numbered.deleteOne (hs : Numbered s) {h kind i} : Numbered (deleteOne h kind s i) := by
  fun_cases Machine.deleteOne
  case case1 | case2 => exact Numbered.ite hs.saw hs.saw.removeRecord
  case case3 => exact hs

theorem Numbered.createOne (hs : Numbered s) {h kind i} : Numbered (createOne h kind s i) := by
  fun_cases Machine.createOne
  case case1 | case2 | case3 => exact hs
  case case4 => exact hs.setEntry
  case case5 => exact hs.saw.appendOrDrop.faulted
  case case6 => exact hs.saw.refused
  case case7 => exact hs.note.updateRecord

theorem Numbered.writeStatus (hs : Numbered s) : Numbered s.writeStatus := hs.setMem
theorem Numbered.plumb (hs : Numbered s) {h} : Numbered (s.plumb h) := .ite hs.same hs

theorem Numbered.runPass (hs : Numbered s) {h} : Numbered (runPass s h) :=
  ((hs.foldl fun hs => hs.foldl fun hs => hs.deleteOne).foldl fun hs => hs.foldl fun hs => hs.createOne).plumb

theorem Numbered.scribePass (hs : Numbered s) : Numbered (scribePass s) := by
  unfold Machine.scribePass
  extract_lets t r u
  have ht : Numbered t := hs.same
  have hu : Numbered u := by
    dsimp only [u]
    split
    · exact ht.same
    · exact ht.same.runPass
  exact hu.same.writeStatus

theorem Numbered.execScribePass (hs : Numbered s) : NextNumbered (execScribePass s) := (Numbered.ite hs.scribePass hs).next

theorem Numbered.firstEntry (hs : Numbered s) {kind p f} (hf : ∀ {i}, Numbered (f s i)) : Numbered (firstEntry s kind p f) := by
  fun_cases Machine.firstEntry
  case case1 => exact hf
  case case2 => exact hs

theorem Numbered.execMappingDrainComplete (hs : Numbered s) : NextNumbered (execMappingDrainComplete s) :=
  (hs.firstEntry hs.settleMap).next

theorem Numbered.execContextDrainComplete (hs : Numbered s) : NextNumbered (execContextDrainComplete s) :=
  (hs.firstEntry hs.settleCtxDrain).next

/-! ### Instructions -/

theorem Numbered.withEnv (hs : Numbered s) {k} (hk : ∀ {e}, WarpsOwn e.f → NextNumbered (k e)) : NextNumbered (withEnv s k) := by
  unfold Machine.withEnv
  split
  · nofun
  · split
    · nofun
    · next e he => exact hk (hs.frame (env_spec he).2.1)

theorem NextNumbered.ite {c : Prop} [Decidable c] {a b : Res} (ha : NextNumbered a) (hb : NextNumbered b) :
    NextNumbered (if c then a else b) := by
  split
  · exact ha
  · exact hb

theorem Numbered.drawing (hs : Numbered s) {o} : Numbered (s.drawing o) := Numbered.ite hs.tick hs

theorem Numbered.scalarResult (hs : Numbered s) {h lat d srcs f} : NextNumbered (scalarResult s h lat d srcs f) :=
  hs.withEnv fun _ => .ite hs.finish hs.finish

theorem Numbered.laneResult (hs : Numbered s) {h lat d srcs f} : NextNumbered (laneResult s h lat d srcs f) :=
  hs.withEnv fun _ => hs.finish

theorem Numbered.lanesToScalar (hs : Numbered s) {h lat d a f} : NextNumbered (lanesToScalar s h lat d a f) :=
  hs.withEnv fun _ => .ite hs.finish hs.finish

theorem Numbered.execFact (hs : Numbered s) {h o} : NextNumbered (execFact h o s) :=
  hs.withEnv fun _ => .ite hs.trap hs.laneResult
theorem Numbered.floatExact (hs : Numbered s) {h o op lat f} : NextNumbered (floatExact s h o op lat f) :=
  (hs.tick.ite hs).laneResult

theorem Numbered.loadOp (hs : Numbered s) {h o indexed uniform} : NextNumbered (loadOp s h o indexed uniform) :=
  hs.withEnv fun _ => hs.withRoom <|
    hs.afterChecks hs.memCheck (fun ht => ht.withCommit fun hu => hu.finishUnits) hs.finish

theorem Numbered.storeOp (hs : Numbered s) {h o indexed uniform} : NextNumbered (storeOp s h o indexed uniform) := by
  refine hs.withEnv fun _ => hs.withRoom <| .ite hs.trap <| hs.afterChecks hs.memCheck (fun ht => ?_) hs.finish
  dsimp only
  split
  · exact ht.trap
  · refine ht.withCommit fun hu => .ite (.ite ?_ ?_) hu.finishStore
    · exact hu.performAll.setWarp.trap
    · exact hu.performAll.bufferLanes.finishStore

theorem Numbered.atomicInstr (hs : Numbered s) {h o n ret cas} : NextNumbered (atomicInstr s h o n ret cas) := by
  refine hs.withEnv fun _ => hs.withRoom <| hs.afterChecks hs.memCheck (fun ht => ?_) hs.finish
  dsimp only
  split
  · exact ht.trap
  · exact ht.withCommit fun hu => hu.finishUnits

theorem Numbered.iteP {α : Type} {c : Prop} [Decidable c] {p q : State × α} (hp : Numbered p.1) (hq : Numbered q.1) :
    Numbered (if c then p else q).1 := by
  split
  · exact hp
  · exact hq

theorem Numbered.crossRead (hs : Numbered s) {h o idx fill} : NextNumbered (crossRead s h o idx fill) :=
  hs.withEnv fun _ => hs.finish
theorem Numbered.execMfs (hs : Numbered s) {h o} : NextNumbered (execMfs h o s) := .ite hs.laneResult hs.scalarResult
theorem Numbered.execMts (hs : Numbered s) {h o} : NextNumbered (execMts h o s) := hs.withEnv fun _ => .ite hs.finish hs.finish

theorem Numbered.execFence (hs : Numbered s) {h o} : NextNumbered (execFence h o s) :=
  hs.withEnv fun _ => .ite hs.finish hs.tick.finish

theorem Numbered.execShjoin (hs : Numbered s) {h o} : NextNumbered (execShjoin h o s) := by
  refine hs.withEnv fun _ => .ite hs.finish <| .ite hs.trap ?_
  split
  · exact hs.finish
  · exact hs.setCircle.finish

theorem Numbered.execShleave (hs : Numbered s) {h o} : NextNumbered (execShleave h o s) :=
  hs.withEnv fun _ => .ite hs.finish <| .ite hs.finish hs.setCircle.finish

theorem Numbered.copyInstr (hs : Numbered s) {h x wide coll} : NextNumbered (copyInstr s h x wide coll) := by
  refine hs.withEnv fun _ => .ite hs.holdAt <| .ite hs.trapWord <| .ite hs.trap ?_
  split
  · exact hs.trap
  · refine hs.afterChecks hs.copyChecks (fun ht => ?_) hs.finish
    dsimp only
    split
    · exact ht.trap
    · have hp {c : Prop} [Decidable c] {v w fid all} :=
        Numbered.iteP (c := c) (p := (_, v)) ht (ht.performBefore (fid := fid) (w := w) (all := all))
      split
      · exact hp.tick.countTag.same.finish
      · exact hp.tick.same.finish
      · exact hp.finish

theorem Numbered.tagInstr (hs : Numbered s) {h k} (hk : ∀ {e}, NextNumbered (k e)) : NextNumbered (tagInstr s h k) :=
  hs.withEnv fun _ => .ite hs.finish hk

theorem Numbered.execTagclr (hs : Numbered s) {h x} : NextNumbered (execTagclr h x s) :=
  hs.tagInstr <| (hs.foldl fun ht => ht.setTag).finish

theorem Numbered.execTagwall (hs : Numbered s) {h x} : NextNumbered (execTagwall h x s) := by
  refine hs.tagInstr <| .ite hs.holdAt ?_
  split
  · exact hs.tagTrap
  · exact hs.finish

theorem Numbered.execTagwany (hs : Numbered s) {h x} : NextNumbered (execTagwany h x s) := by
  refine hs.tagInstr fun {_} => ?_
  split
  · exact hs.holdAt
  · split
    · exact hs.tagTrap
    · exact hs.finish

theorem Numbered.execTagff (hs : Numbered s) {h x} : NextNumbered (execTagff h x s) := by
  refine hs.tagInstr fun {_} => ?_
  split
  · exact hs.tagTrap
  · exact hs.finish

theorem Numbered.ringInstr (hs : Numbered s) {h x k} (hk : ∀ {e r}, NextNumbered (k e r)) : NextNumbered (ringInstr s h x k) := by
  refine hs.withEnv fun _ => .ite hs.finish ?_
  split
  · exact hs.trap
  · exact .ite hk hs.trap

theorem Numbered.finishS (hs : Numbered s) {e h d v} : NextNumbered (finishS s e h d v) := hs.finish

theorem Numbered.execRgrsv (hs : Numbered s) {h x} : NextNumbered (execRgrsv h x s) :=
  hs.ringInstr <| .ite (.ite hs.finishS hs.holdAt) hs.setRing.finishS

theorem Numbered.execRgpub (hs : Numbered s) {h x} : NextNumbered (execRgpub h x s) := by
  refine hs.ringInstr fun {_ _} => ?_
  split
  · exact hs.trap
  · exact hs.withCommit fun ht => ht.performAll.setRing.finish

theorem Numbered.execRgawt (hs : Numbered s) {h x} : NextNumbered (execRgawt h x s) :=
  hs.ringInstr <| .ite (.ite hs.finishS hs.holdAt) hs.setRing.finishS

theorem Numbered.execRgrel (hs : Numbered s) {h x} : NextNumbered (execRgrel h x s) := by
  refine hs.ringInstr fun {_ _} => ?_
  split
  · exact hs.trap
  · exact hs.setRing.finish

theorem Numbered.execRgqryState (hs : Numbered s) {h x} : NextNumbered (execRgqryState h x s) := hs.ringInstr hs.finish

theorem Numbered.descriptorAt (hs : Numbered s) {e x k} (hk : ∀ {a}, NextNumbered (k a)) : NextNumbered (descriptorAt s e x k) :=
  .ite hs.trap <| .ite hs.trap hk

theorem Numbered.execRgqryBind (hs : Numbered s) {h x} : NextNumbered (execRgqryBind h x s) := by
  refine hs.withEnv fun _ => .ite hs.finish <| hs.descriptorAt ?_
  intro a
  dsimp only
  split
  · exact hs.performAll.setRing.finish
  · exact hs.performAll.setWarp.trap

theorem Numbered.execRgqryUnbind (hs : Numbered s) {h x} : NextNumbered (execRgqryUnbind h x s) :=
  hs.ringInstr <| .ite hs.trap <| hs.descriptorAt hs.performAll.setMem.setRing.finish

theorem Numbered.execRgqryWaiters (hs : Numbered s) {h x} : NextNumbered (execRgqryWaiters h x s) := hs.ringInstr hs.finishS

theorem Numbered.depInstr (hs : Numbered s) {h x k} (hk : ∀ {t e ctr c off}, Numbered t → NextNumbered (k t e ctr c off)) :
    NextNumbered (depInstr s h x k) :=
  hs.withEnv fun _ => hs.withRoom <| hs.afterChecks (Numbered.xlanes hs) (fun ht => .ite ht.finishEmpty (hk ht)) hs.finish

theorem Numbered.execDepdec (hs : Numbered s) {h x} : NextNumbered (execDepdec h x s) :=
  hs.depInstr fun ht => by
    split
    exact (ht.issueUnits.left ‹_›).addDep.finish

theorem Numbered.execDepdecSet (hs : Numbered s) {h x} : NextNumbered (execDepdecSet h x s) :=
  hs.depInstr fun ht => ht.finishEmpty

theorem Numbered.listInstr (hs : Numbered s) {h x bit k} (hk : ∀ {e d i}, NextNumbered (k e d i)) :
    NextNumbered (listInstr s h x bit k) := by
  refine hs.withEnv fun _ => .ite hs.finish ?_
  dsimp only
  split
  · exact .ite hs.trap <| .ite hs.trap hk
  · exact hs.trap

theorem Numbered.execRlpush (hs : Numbered s) {h x} : NextNumbered (execRlpush h x s) :=
  hs.listInstr <| .ite hs.holdAt <| hs.withCommit fun ht => ht.performAll.pushItem.finish

theorem Numbered.execRlpop (hs : Numbered s) {h x} : NextNumbered (execRlpop h x s) := by
  refine hs.listInstr fun {_ _ _} => ?_
  dsimp only
  split
  · exact hs.finish
  · exact (hs.popItem ‹_›).finish

theorem Numbered.execWaitc (hs : Numbered s) {h o} : NextNumbered (execWaitc h o s) := by
  refine hs.withEnv fun _ => .ite hs.finish <| .ite hs.holdAt ?_
  split
  · exact hs.finish
  · exact .ite hs.stopRun.next hs.setWarp.takeTrap.next

theorem Numbered.warpInstr (hs : Numbered s) {h g} : NextNumbered (warpInstr s h g) := hs.withEnv fun _ => hs.finish

theorem Numbered.execUiret (hs : Numbered s) {h o} : NextNumbered (execUiret h o s) :=
  hs.withEnv fun _ => .ite hs.finish <| .ite hs.trapWord hs.finishAt

theorem Numbered.branch (hs : Numbered s) {h f g} : NextNumbered (branch s h f g) := hs.withEnv fun _ => hs.finishAt
theorem Numbered.execJoin (hs : Numbered s) {h o} : NextNumbered (execJoin h o s) := hs.withEnv fun _ => hs.finishAt

theorem Numbered.execExit (hs : Numbered s) {h o} : NextNumbered (execExit h o s) := by
  refine hs.withEnv fun {e} _ => .ite hs.trapWord ?_
  extract_lets w
  split
  have hp {v} := ((Numbered.iteP hs.performAll hs).left ‹_›).endIssue (w := v) (fid := e.c.fid)
  exact (Numbered.ite hp.settleBarriers.settleDone hp).next

theorem Numbered.execNop (hs : Numbered s) {h o} : NextNumbered (execNop h o s) := hs.withEnv fun _ => hs.finish
theorem Numbered.execUtrap (hs : Numbered s) {h o} : NextNumbered (execUtrap h o s) := hs.withEnv fun _ => .ite hs.finish hs.trap
theorem Numbered.execBkpt (hs : Numbered s) {h o} : NextNumbered (execBkpt h o s) := hs.withEnv fun _ => .ite hs.finish hs.trap
theorem Numbered.execSleep (hs : Numbered s) {h o} : NextNumbered (execSleep h o s) :=
  hs.withEnv fun _ => .ite hs.finish hs.holdAt

theorem Numbered.groupInstr (hs : Numbered s) {h a k} (hk : ∀ {e g}, NextNumbered (k e g)) : NextNumbered (groupInstr s h a k) :=
  hs.withEnv fun _ => .ite hk hs.trapWord

theorem Numbered.barrierEnd (hs : Numbered s) {e h g w arrives} : NextNumbered (barrierEnd s e h g w arrives) := by
  unfold Machine.barrierEnd
  split
  · exact hs.endIssue.settleBarriers.next
  · have hp {v} : Numbered ((Machine.performAll s e.c.fid w).1.endIssue e.c.fid v) := hs.performAll.endIssue
    dsimp only
    split
    · next hf => exact (Numbered.ite hp (hp.setFrame (hp.frame hf).same)).settleBarriers.next
    · exact hp.settleBarriers.next

theorem Numbered.groupQuery (hs : Numbered s) {h o f} : NextNumbered (groupQuery s h o f) :=
  hs.groupInstr <| .ite hs.finish hs.finish

theorem Numbered.execGrpqMem (hs : Numbered s) {h o} : NextNumbered (execGrpqMem h o s) :=
  hs.withEnv fun _ => .ite hs.trapWord hs.groupQuery

theorem Numbered.bufferInstr (hs : Numbered s) {h keep} : NextNumbered (bufferInstr s h keep) :=
  hs.withEnv fun _ => .ite hs.finish <| .ite hs.closeBuffer.finish hs.closeBuffer.holdAt

theorem Numbered.scalarInt (hs : Numbered s) {h o op lat f} : NextNumbered (scalarInt s h o op lat f) := hs.scalarResult
theorem Numbered.vectorInt (hs : Numbered s) {h o op lat f} : NextNumbered (vectorInt s h o op lat f) := hs.laneResult
theorem Numbered.floatCode (hs : Numbered s) {h o op lat f} : NextNumbered (floatCode s h o op lat f) := hs.laneResult
theorem Numbered.special (hs : Numbered s) {h o fn} : NextNumbered (special s h o fn) := hs.laneResult
theorem Numbered.capQuery (hs : Numbered s) {h o f} : NextNumbered (capQuery s h o f) := hs.scalarResult
theorem Numbered.faultQuery (hs : Numbered s) {h o f} : NextNumbered (faultQuery s h o f) := hs.scalarResult
theorem Numbered.mxstat (hs : Numbered s) {h x f} : NextNumbered (mxstat s h x f) := hs.scalarResult
theorem Numbered.finishCap (hs : Numbered s) {e h d lat c} : NextNumbered (finishCap s e h d lat c) := hs.finish

theorem Numbered.capInstr (hs : Numbered s) {h k} (hk : ∀ {e}, NextNumbered (k e)) : NextNumbered (capInstr s h k) :=
  hs.withEnv fun _ => .ite hs.finish hk

theorem Numbered.execCapld (hs : Numbered s) {h o} : NextNumbered (execCapld h o s) := hs.capInstr <| .ite hs.trap hs.finishCap

theorem Numbered.execCapnar (hs : Numbered s) {h o} : NextNumbered (execCapnar h o s) :=
  hs.capInstr <| .ite hs.trap <| .ite hs.trap <| .ite hs.trap hs.finishCap

theorem Numbered.execCapvw (hs : Numbered s) {h o} : NextNumbered (execCapvw h o s) := by
  refine hs.capInstr <| .ite hs.trap ?_
  split
  · exact hs.trap
  · exact hs.finishCap

theorem Numbered.imageInstr (hs : Numbered s) {h a b n acc k} (hk : ∀ {t e r m}, WarpsOwn e.f → Numbered t → NextNumbered (k t e r m)) :
    NextNumbered (imageInstr s h a b n acc k) := by
  refine hs.withEnv fun hf => .ite hs.finish <| hs.afterChecks (Numbered.xlanes hs) (fun ht => ?_) hs.finish
  split
  · exact ht.withCommit fun hu => hk hf hu.performAll.setWarp
  · exact ht.finish

theorem Numbered.readImage (hs : Numbered s) {e r n m k} (hk : ∀ {t w bs}, Numbered t → NextNumbered (k t { e with w := w } bs)) :
    NextNumbered (readImage s e r n m k) :=
  hk hs.consumeBad.setWarp

theorem Numbered.writeImage (hs : Numbered s) {e r m bs k} (hk : ∀ {t}, Numbered t → NextNumbered (k t)) :
    NextNumbered (writeImage s e r m bs k) :=
  .ite hs.trap (hk hs.storeAt)

theorem Numbered.execBarsv (hs : Numbered s) {h o} : NextNumbered (execBarsv h o s) :=
  hs.withEnv fun _ => hs.imageInstr fun _ ht => ht.writeImage fun hu => hu.finish

theorem Numbered.execBarrs (hs : Numbered s) {h o} : NextNumbered (execBarrs h o s) := by
  refine hs.withEnv fun _ => .ite hs.trapWord <| hs.imageInstr fun hf ht => ht.readImage fun hu => ?_
  split
  · exact hu.trap
  · exact (hu.setFrame (hu.frameGetD hf).same).endIssue.settleBarriers.next

theorem Numbered.execCapsv (hs : Numbered s) {h o} : NextNumbered (execCapsv h o s) :=
  hs.imageInstr fun _ ht => ht.seal.writeImage fun hu => hu.finish

theorem Numbered.execCaprs (hs : Numbered s) {h o} : NextNumbered (execCaprs h o s) := by
  refine hs.imageInstr fun _ ht => ht.readImage fun hu => ?_
  split
  · exact hu.trap
  · exact hu.finish

theorem Numbered.afterRoutine (hs : Numbered s) {e h w} : NextNumbered (afterRoutine s e h w) :=
  (Numbered.ite hs.endIssue.settleBarriers (Numbered.ite hs.endIssue hs.endIssue.enterSave)).next

theorem Numbered.tretInstr (hs : Numbered s) {h skip} : NextNumbered (tretInstr s h skip) :=
  hs.withEnv fun _ => .ite hs.finish <| .ite hs.trapWord hs.afterRoutine

theorem Numbered.execCcsv (hs : Numbered s) {h o} : NextNumbered (execCcsv h o s) := by
  refine hs.withEnv fun _ => .ite hs.holdAt <| hs.imageInstr fun {t} _ _ _ _ ht => ?_
  split
  next u _ e =>
    have hu : Numbered u := by
      revert e
      split
      · rintro ⟨⟩
        exact ht.seal
      · rintro ⟨⟩
        exact ht
    exact hu.writeImage fun hv => hv.finish

theorem Numbered.execCcsvDrain (hs : Numbered s) {h o} : NextNumbered (execCcsvDrain h o s) :=
  hs.withEnv fun _ => .ite hs.holdAt hs.finish

theorem Numbered.execTretImg (hs : Numbered s) {h o} : NextNumbered (execTretImg h o s) :=
  hs.withEnv fun _ => .ite hs.trapWord <| hs.imageInstr fun _ ht => ht.readImage fun hu =>
    .ite hu.trap <| .ite hu.holdAt hu.orIssued.afterRoutine

theorem Numbered.execFltqErr (hs : Numbered s) {h o} : NextNumbered (execFltqErr h o s) :=
  hs.withEnv fun _ => .ite hs.finish hs.finish

theorem Numbered.trussStart (hs : Numbered s) {e h d ctr g slot new p} : NextNumbered (trussStart s e h d ctr g slot new p) :=
  hs.withCommit fun ht => ht.performBefore.tick.setBay.finish

theorem Numbered.trussInstr (hs : Numbered s) {h x g new plan} : NextNumbered (trussInstr s h x g new plan) := by
  refine hs.withEnv fun _ => hs.withRoom <| .ite hs.finishEmpty <| .ite hs.holdAt <| .ite hs.trapWord <| .ite hs.trap ?_
  split
  · exact hs.trapWord
  · exact hs.trap
  · refine .ite hs.trussStart ?_
    split
    · exact hs.trap
    · exact hs.trussStart

theorem Numbered.execTrel (hs : Numbered s) {h x} : NextNumbered (execTrel h x s) := by
  refine hs.withEnv fun _ => .ite hs.finish ?_
  dsimp only
  split
  · exact hs.trap
  · exact hs.setBay.finish

theorem Numbered.execTst (hs : Numbered s) {h x} : NextNumbered (execTst h x s) := by
  unfold Machine.execTst
  split
  · exact hs.trussInstr
  · exact hs.withEnv fun _ => hs.trapWord

theorem Numbered.execTqrySlots (hs : Numbered s) {h x} : NextNumbered (execTqrySlots h x s) :=
  hs.withEnv fun _ => .ite hs.finish hs.finish

theorem Numbered.execFtload (hs : Numbered s) {h o} : NextNumbered (execFtload h o s) := by
  refine hs.withEnv fun _ => hs.withRoom <| .ite hs.finishEmpty <| .ite hs.trap ?_
  split
  · exact hs.trap
  · split
    · exact hs.trap
    · exact hs.holdAt
    · refine ((Numbered.xcapRange hs).leftX ‹_›).withCommit fun ht => ?_
      exact ht.performBefore.tick.same.finish

theorem Numbered.enqueueJob {q : Submit} (hq : Numbered q.s) {e h x eng} : NextNumbered (enqueueJob e h x eng q) := by
  have hp {fid w} := (hq.performBefore (fid := fid) (w := w) (all := false)).tick
  unfold Machine.enqueueJob
  dsimp only
  split
  · exact hp.setDie.finish
  · exact hp.setDie.countTag.finish
  · exact hp.setDie.finish

theorem Numbered.submitInstr (hs : Numbered s) {h x eng prep}
    (hp : ∀ {t e k}, Numbered t → (∀ {u e w r}, Numbered u → NextNumbered (k u e w r)) → NextNumbered (prep t e k)) :
    NextNumbered (submitInstr s h x eng prep) := by
  refine hs.withEnv fun _ => .ite ?_ ?_
  · split
    · exact hs.withRoom hs.finishEmpty
    · exact hs.finish
  · split
    · exact hs.holdAt
    · split
      · exact hs.trap
      · refine hs.withCommit fun ht => hp ht fun hu => ?_
        split
        · exact hu.trap
        · exact Numbered.enqueueJob hu

theorem Numbered.readDesc (hs : Numbered s) {e x k} (hk : ∀ {t e bs}, Numbered t → NextNumbered (k t e bs)) :
    NextNumbered (readDesc s e x k) := by
  unfold Machine.readDesc
  refine hs.afterChecks (Numbered.xlanes hs) (fun ht => ?_) ?_
  · exact hk ht.ownBefore.consumeBad.setWarp
  · exact hs.stopRun.next

theorem Numbered.descJob (hs : Numbered s) {h x eng op} : NextNumbered (descJob s h x eng op) :=
  hs.submitInstr fun ht hk => ht.readDesc fun hu => hk hu

theorem Numbered.execMxopen (hs : Numbered s) {h x} : NextNumbered (execMxopen h x s) := by
  unfold Machine.execMxopen
  refine hs.submitInstr fun ht hk => ?_
  exact hk ht

theorem Numbered.execMxapp (hs : Numbered s) {h x} : NextNumbered (execMxapp h x s) := hs.submitInstr fun ht hk => hk ht
theorem Numbered.execMxsave (hs : Numbered s) {h x} : NextNumbered (execMxsave h x s) := hs.submitInstr fun ht hk => hk ht
theorem Numbered.execMxload (hs : Numbered s) {h x} : NextNumbered (execMxload h x s) := hs.submitInstr fun ht hk => hk ht
theorem Numbered.execMxdrop (hs : Numbered s) {h x} : NextNumbered (execMxdrop h x s) := hs.submitInstr fun ht hk => hk ht

theorem Numbered.execMxlook (hs : Numbered s) {h x} : NextNumbered (execMxlook h x s) := by
  unfold Machine.execMxlook
  refine hs.submitInstr fun ht hk => ?_
  exact .ite (hk ht) (hk ht)

theorem Numbered.voteResult (hs : Numbered s) {h d p f} : NextNumbered (voteResult s h d p f) :=
  hs.withEnv fun _ => .ite hs.finish hs.finish

theorem Numbered.loopInstr (hs : Numbered s) {h x step} : NextNumbered (loopInstr s h x step) := hs.trussInstr

/-! ### Every instruction and every event -/

theorem Numbered.exec (hs : Numbered s) {i : Instr} : NextNumbered (exec i s) := by
  unfold Machine.exec
  cases i
  case partitionIssue => exact hs.execPartitionIssue
  case warpHoldRelease => exact hs.execWarpHoldRelease
  case sleepExpiry => exact hs.execSleepExpiry
  case userInterruptDelivery => exact hs.execUserInterruptDelivery
  case counterRetire => exact hs.execCounterRetire
  case tagLanePerformed => exact hs.execTagLanePerformed
  case cpygCollectiveStart => exact hs.execCpygCollectiveStart
  case trussGrant => exact hs.execTrussGrant
  case trussOpComplete => exact hs.execTrussOpComplete
  case engineJobStart => exact hs.execEngineJobStart
  case engineRingResume => exact hs.execEngineRingResume
  case engineJobComplete => exact hs.execEngineJobComplete
  case pageResponseDoorbell => exact hs.execPageResponseDoorbell
  case peerTimeout => exact hs.execPeerTimeout
  case peerErrorResponse => exact hs.execPeerErrorResponse
  case peerInboundAccess => exact hs.execPeerInboundAccess
  case hostCxlAccess => exact hs.execHostCxlAccess
  case linkDown => exact hs.execLinkDown
  case linkRetrained => exact hs.execLinkRetrained
  case planbase => exact hs.execPlanbase
  case configRegisterWrite => exact hs.execConfigRegisterWrite
  case qifcfg => exact hs.execQifcfg
  case framePlacement => exact hs.execFramePlacement
  case saveReq => exact hs.execSaveReq
  case frameOut => exact hs.execFrameOut
  case frameRelaunch => exact hs.execFrameRelaunch
  case tailWrite => exact hs.execTailWrite
  case bayWake => exact hs.execBayWake
  case bayPowerGate => exact hs.execBayPowerGate
  case shootdownFileWrite => exact hs.execShootdownFileWrite
  case firmwareUpdate => exact hs.execFirmwareUpdate
  case conventionalReset => exact hs.execConventionalReset
  case lockInterfaceRequest => exact hs.execLockInterfaceRequest
  case startInterfaceRequest => exact hs.execStartInterfaceRequest
  case stopInterfaceRequest => exact hs.execStopInterfaceRequest
  case tdiError => exact hs.execTdiError
  case getMeasurements => exact hs.execGetMeasurements
  case spdmSessionStart => exact hs.execSpdmSessionStart
  case memoryScrub => exact hs.execMemoryScrub
  case ftloadFlip => exact hs.execFtloadFlip
  case pageRequestSend => exact hs.execPageRequestSend
  case pageRetryDelayExpiry => exact hs.execPageRetryDelayExpiry
  case touch => exact hs.execTouch
  case scribePass => exact hs.execScribePass
  case programBuild => exact hs.execProgramBuild
  case mappingDrainComplete => exact hs.execMappingDrainComplete
  case contextDrainComplete => exact hs.execContextDrainComplete
  case queueResize => exact hs.execQueueResize
  case queueCloseDrain => exact hs.execQueueCloseDrain
  case queueMessagePlace => exact hs.execQueueMessagePlace
  case shootdownAck => exact hs.execShootdownAck
  case snapshotStep => exact hs.execSnapshotStep
  case snapshotRestore => exact hs.execSnapshotRestore
  case failover => exact hs.execFailover
  case spdmSessionExpiry => exact hs.execSpdmSessionExpiry
  case chunkClaimTakeover => exact hs.execChunkClaimTakeover
  case inControllerCopyDone => exact hs.execInControllerCopyDone
  case sadd | ssub | smul | smulhi | sdiv | smod | sand | sor | sxor | sshl | sshr | ssar | smin | smax | sbfx | spopc |
      sclz | sctz | scmp | smov =>
    exact hs.scalarInt
  case sbfi | ssel | smovi | slea | tqryFree | tqryFault | tqryPend => exact hs.scalarResult
  case vadd | vsub | vmul | vmulhi | vmad | vand | vor | vxor | vshl | vshr | vsar | vmin | vmax | vabs | vbfx | vbfi |
      vpopc | vclz =>
    exact hs.vectorInt
  case vcmp | vsel | vmov | vmovi | vlea | fcmp | qscaleCode | qlq4Nib | qlq4Qcode | qlq4Bscale | pand | por | pxor |
      pnot | pfromv | ptov | elect | s2v =>
    exact hs.laneResult
  case fdot2 | cvt | cvtpk2 | cvtpk4 | cvtup | qscaleApply | qmx => exact hs.drawing.laneResult
  case fadd | fsub | fmul | ffma | fmin | fmax => exact hs.floatExact
  case fclass | frnd => exact hs.floatCode
  case frcp | fsqrt | frsq | fexp2 | flog2 | fsin | fcos => exact hs.special
  case fact => exact hs.execFact
  case ftload => exact hs.execFtload
  case pvote | pcnt => exact hs.voteResult
  case xperm | xbcast | xrot => exact hs.crossRead
  case xscan | pfetch | yield => exact hs.withEnv fun _ => hs.finish
  case xred | v2s | gmask => exact hs.lanesToScalar
  case mfs => exact hs.execMfs
  case mts => exact hs.execMts
  case ld | ldu | ldx => exact hs.loadOp
  case st | stu | stx => exact hs.storeOp
  case atom | acas | xatom => exact hs.atomicInstr
  case fence => exact hs.execFence
  case shjoin => exact hs.execShjoin
  case shleave => exact hs.execShleave
  case cpy | cpyg | cpyw => exact hs.copyInstr
  case tagclr => exact hs.execTagclr
  case tagwall => exact hs.execTagwall
  case tagwany => exact hs.execTagwany
  case tagff => exact hs.execTagff
  case rgrsv => exact hs.execRgrsv
  case rgpub => exact hs.execRgpub
  case rgawt => exact hs.execRgawt
  case rgrel => exact hs.execRgrel
  case rgqryState => exact hs.execRgqryState
  case rgqryBind => exact hs.execRgqryBind
  case rgqryUnbind => exact hs.execRgqryUnbind
  case rgqryWaiters => exact hs.execRgqryWaiters
  case depdec => exact hs.execDepdec
  case depdecSet => exact hs.execDepdecSet
  case rlpush => exact hs.execRlpush
  case rlpop => exact hs.execRlpop
  case waitc => exact hs.execWaitc
  case uisetVec | uisetTags | uisetRing | uimask => exact hs.warpInstr
  case uiret => exact hs.execUiret
  case bra | brx | call | ret => exact hs.branch
  case join => exact hs.execJoin
  case exit => exact hs.execExit
  case nop => exact hs.execNop
  case utrap => exact hs.execUtrap
  case bkpt => exact hs.execBkpt
  case sleep => exact hs.execSleep
  case bar | bara | barw => exact hs.groupInstr hs.barrierEnd
  case grpqCount | grpqArrived | grpqGen => exact hs.groupQuery
  case grpqMem => exact hs.execGrpqMem
  case fcommit | fabort => exact hs.bufferInstr
  case barsv => exact hs.execBarsv
  case barrs => exact hs.execBarrs
  case mloop | mstep => exact hs.loopInstr
  case tld | tzero | tmask | tmaskClr => exact hs.trussInstr
  case tst => exact hs.execTst
  case trel => exact hs.execTrel
  case tqrySlots => exact hs.execTqrySlots
  case infl | xcod | tokz | dtok | sfcomp | sfscan | sfmask | sfstop => exact hs.descJob
  case mxopen => exact hs.execMxopen
  case mxapp => exact hs.execMxapp
  case mxlook => exact hs.execMxlook
  case mxstatMatch | mxstatLen | mxstatFill => exact hs.mxstat
  case mxsave => exact hs.execMxsave
  case mxload => exact hs.execMxload
  case mxdrop => exact hs.execMxdrop
  case capld => exact hs.execCapld
  case capnar => exact hs.execCapnar
  case capvw => exact hs.execCapvw
  case capdrp | capclr => exact hs.capInstr hs.finishCap
  case capqryLen | capqryBase | capqryAttr | capqryValid => exact hs.capQuery
  case capsv => exact hs.execCapsv
  case caprs => exact hs.execCaprs
  case tret | tretSkip => exact hs.tretInstr
  case tretImg => exact hs.execTretImg
  case ccsv => exact hs.execCcsv
  case ccsvDrain => exact hs.execCcsvDrain
  case fltqLanes | fltqLane | fltqIlen | fltqRpc => exact hs.faultQuery
  case fltqErr => exact hs.execFltqErr

/-! ### A step -/

theorem Numbered.readyIssue (hs : Numbered s) {c} : ReadyNumbered (readyIssue s c) := by
  unfold Machine.readyIssue
  split
  · exact hs.same
  · dsimp only
    split
    · split
      · exact hs.setWarp.stopRun
      · split
        · exact hs.setWarp.setWarp.takeTrap
        · exact hs.setWarp.takeTrap
    · exact hs.setWarp.endIssue
    · split
      · exact hs.setWarp.same
      · split
        · exact hs.setWarp.stopRun
        · exact hs.setWarp.setWarp.same

theorem Numbered.stepIssue (hs : Numbered s) {c} : NextNumbered (stepIssue s c) := by
  unfold Machine.stepIssue
  split
  · next e => exact (hs.readyIssue.stop e).next
  · next e => exact (hs.readyIssue.go e).exec

theorem Numbered.act (hs : Numbered s) {a} : NextNumbered (s.act a) := by
  cases a with
  | clk => exact hs.same.next
  | event i => exact hs.exec
  | unit w k early => exact hs.performAt.next
  | dep id => exact hs.performDep.next
  | early die j k =>
    refine (hs.getD ?_).next
    rintro t ht
    obtain ⟨x, _, rfl⟩ := Option.map_eq_some_iff.mp ht
    exact hs.jobWriteEarly
  | stray k => exact hs.performStray.next
  | fault => exact hs.corrupt.next

theorem Numbered.step (hs : Numbered s) : NextNumbered (step s) := by
  unfold Machine.step
  split
  · exact hs.stepIssue
  · split
    · split
      · exact hs.same.next
      · exact (hs.same (t := { s with agenda := _ })).exec
    · exact hs.tick.act

end

/-- Settles O59: every function of a step keeps the numbers its own. -/
theorem stepKeepsNumbers : Obligations.StepKeepsNumbers := fun _ t hs ht => Numbered.step hs t ht

end Sys2Proof.Machine
end

section
/-! O13 and O52 fail, each at a state of a form that its hypotheses leave open: a write in flight to a lane that no register
has, and an exited warp on which a `SAVE_REQ` is still noted. -/

namespace Sys2Proof.Machine

open Claims

/-- Refutes O13: `fixedLatency` bounds the lane that is read and not the lanes of the writes in flight, and lane 64 of a vector
register has the key of lane 0 of the next (`vKey`). With a write to lane 64 of v0 in flight that lands at clk 2, a write to
lane 0 of v1 that lands at clk 1 is overwritten, though no later write to lane 0 of v1 is in flight. -/
theorem not_registersAndOperands : ¬ Obligations.RegistersAndOperands := by
  rintro ⟨_, _, hlatency, _⟩
  have hother : ∀ p ∈ [(⟨2, 0, .v 0 64 5⟩ : Pend)], (∃ z, p.w = .v 1 0 z) → p.land ≤ 1 ∨ 2 < p.land := by
    simp
  obtain ⟨_, _, _, _, hlanded⟩ :=
    hlatency { idx := 0, core := 0, part := 0, slot := 0, wc := { pend := [⟨2, 0, .v 0 64 5⟩] } } 0 1 16 2 1 0 (.v 1 0 7)
      ⟨rfl, rfl, rfl, rfl, rfl⟩ (List.pairwise_singleton _ _) (by decide)
  have hread := (hlanded (by decide)).1 7 rfl hother
  exact absurd hread (by decide)

/-- A warp that has exited, with a `SAVE_REQ` still noted on it. -/
def exitedAsked : Warp := { idx := 0, core := 0, part := 0, slot := 0, gone := true, saveReq := true }

/-- Its frame, resident. -/
def frameAsked : Frame := { fid := 0, lid := 0, warps := [exitedAsked] }

/-- The launch of the PROGRAM that is both routines of its context. -/
def routineAsked : Launch := { lid := 1, prog := 1, routine := true }

/-- The frame's launch, and a context that names the routine to save and to restore. -/
def stateAsked : State :=
  { frames := [frameAsked], launches := [{ lid := 0, prog := 0 }, routineAsked]
    scribe := { ctxs := [(0, some { save := some 1, restore := some 1 })], progs := [(1, some { lid := some 1 })] } }

/-- `SAVE_REQ` takes the exited warp into the save routine. -/
theorem saveReq_stateAsked : (match exec (.saveReq 0) stateAsked with
    | .next t => ((t.frame? 0).bind fun g => g.warps[0]?).map Warp.mode
    | _ => none) = some .save := by
  decide

/-- Refutes O52: `saveRequests` says that an exited warp stays as it is, and `enterSaves` passes over every warp of the frame on
which a `SAVE_REQ` is noted, exited or not. -/
theorem not_frames : ¬ Obligations.Frames := by
  rintro ⟨_, _, _, hsave, _⟩
  have hidle : ¬∃ c, stateAsked.cur = some c ∧ c.fid = frameAsked.fid := by simp [stateAsked]
  have hfits : Fits routineAsked { lid := 0, prog := 0 } := by simp [Fits, routineAsked]
  obtain ⟨_, hresident, _⟩ := hsave stateAsked frameAsked { lid := 0, prog := 0 } rfl rfl (by decide)
  obtain ⟨_, hmoves⟩ := hresident hidle rfl (by decide) routineAsked rfl
  obtain ⟨t, g, ht, hg, _, _, _, _, _, _, _, hwarps⟩ := hmoves hfits
  have hmode := saveReq_stateAsked
  rw [show exec (.saveReq 0) stateAsked = .next t from ht] at hmode
  simp only [show t.frame? 0 = some g from hg, Option.bind_some] at hmode
  obtain ⟨w, hw, hm⟩ := Option.map_eq_some_iff.mp hmode
  obtain rfl : w = exitedAsked := (hwarps 0 w exitedAsked rfl hw).1 rfl
  exact absurd hm (by decide)

end Sys2Proof.Machine
end

section
/-! Decoding and encoding (chapter 3). A word is its fields packed, low bits first, so reading the fields of what was packed gives them
back, and packing the fields that were read gives the word (`unpack_pack`, `eq_pack_of_unpack`). Form by form, the decoder then reads
exactly the arguments whose fields those are and that the checks of R64 accept (`decodeMem_ok_iff` and its neighbours); together they say
that `decodeWords` reads an instruction exactly when it is well formed, admitted and encodes to those words (`decodeWords_ok_iff`), and
both directions of the statements about bytes are that one equivalence. -/

-- One declaration at a time: the threads of many small proofs at once pass the memory limit of the check.
set_option Elab.async false

namespace Sys2Proof

/-! ### Rows and their opcodes -/

theorem buildAlu_eq_some {op : Nat} {h : Hdr} {o : AluArgs} {i : Instr} (hb : buildAlu op h o = some i) :
    i.parts = some (op, h, .alu o) ∧ i.subOk = true := by
  unfold buildAlu at hb
  split at hb <;> (try split_ifs at hb) <;> cases hb <;> exact ⟨rfl, by simp [Instr.subOk, *]⟩

theorem buildMem_eq_some {op : Nat} {h : Hdr} {o : MemArgs} {i : Instr} (hb : buildMem op h o = some i) :
    i.parts = some (op, h, .mem o) ∧ i.subOk = true := by
  unfold buildMem at hb
  split at hb <;> cases hb <;> exact ⟨rfl, rfl⟩

theorem buildExt_eq_some {op : Nat} {h : Hdr} {e : ExtArgs} {i : Instr} (hb : buildExt op h e = some i) :
    i.parts = some (op, h, .ext e) ∧ i.subOk = true := by
  unfold buildExt at hb
  split at hb <;> (try split_ifs at hb) <;> cases hb <;> exact ⟨rfl, by simp [Instr.subOk, *]⟩

/-- Every row is built from its parts: the opcodes with several rows look at the sub-operation, the row's place among them. -/
theorem buildInstr_of_parts {i : Instr} {op : Nat} {h : Hdr} {b : Body} (hp : i.parts = some (op, h, b)) (hs : i.subOk = true) :
    buildInstr op h b = some i := by
  cases i
  case qscaleCode | qlq4Nib | uisetVec | grpqCount | capqryLen | tret | ccsv | fltqLanes | rgqryState | depdec | tmask | tqryFree |
      mxstatMatch =>
    simp only [Instr.subOk, beq_iff_eq, decide_eq_true_eq] at hs
    cases hp
    exact if_pos hs
  case qscaleApply | qlq4Qcode | uisetTags | grpqArrived | capqryBase | tretSkip | ccsvDrain | fltqLane | rgqryBind | depdecSet |
      tmaskClr | tqrySlots | mxstatLen =>
    simp only [Instr.subOk, beq_iff_eq] at hs
    cases hp
    exact (if_neg (by omega)).trans (if_pos hs)
  case qlq4Bscale | uisetRing | grpqGen | capqryAttr | tretImg | fltqIlen | rgqryUnbind | tqryFault | mxstatFill =>
    simp only [Instr.subOk, beq_iff_eq] at hs
    cases hp
    exact (if_neg (by omega)).trans ((if_neg (by omega)).trans (if_pos hs))
  case grpqMem | capqryValid | fltqErr | rgqryWaiters | tqryPend =>
    simp only [Instr.subOk, beq_iff_eq] at hs
    cases hp
    exact (if_neg (by omega)).trans ((if_neg (by omega)).trans ((if_neg (by omega)).trans (if_pos hs)))
  case fltqRpc =>
    simp only [Instr.subOk, beq_iff_eq] at hs
    cases hp
    exact (if_neg (by omega)).trans ((if_neg (by omega)).trans ((if_neg (by omega)).trans ((if_neg (by omega)).trans (if_pos hs))))
  all_goals cases hp <;> rfl

/-! ### Fields of a word -/

/-- The fields of a list of widths fit a list of values. -/
abbrev FieldsFit (fs : List (Nat × Nat)) : Prop := ∀ f ∈ fs, f.2 < 2 ^ f.1

/-- Packed fields take the bits of their widths. -/
theorem pack_lt {fs : List (Nat × Nat)} (h : FieldsFit fs) : pack fs < 2 ^ (fs.map Prod.fst).sum := by
  induction fs with
  | nil => simp [pack]
  | cons f r ih =>
    obtain ⟨w, v⟩ := f
    obtain ⟨hv, hr⟩ := List.forall_mem_cons.mp h
    have hv : v < 2 ^ w := hv
    have hlt : pack r + 1 ≤ 2 ^ (r.map Prod.fst).sum := ih hr
    calc pack ((w, v) :: r) < 2 ^ w * (pack r + 1) := by rw [pack, Nat.mul_add]; omega
      _ ≤ 2 ^ w * 2 ^ (r.map Prod.fst).sum := Nat.mul_le_mul_left _ hlt
      _ = 2 ^ (((w, v) :: r).map Prod.fst).sum := by simp [Nat.pow_add]

/-- What was packed is unpacked, and the bits above it read 0. -/
theorem unpack_pack {fs : List (Nat × Nat)} (h : FieldsFit fs) (rest : List Nat) :
    unpack (fs.map Prod.fst ++ rest) (pack fs) = fs.map Prod.snd ++ rest.map fun _ => 0 := by
  induction fs with
  | nil =>
    simp only [List.map_nil, List.nil_append, pack]
    induction rest with
    | nil => rfl
    | cons w ws ih => simp [unpack, ih]
  | cons f r ih =>
    obtain ⟨w, v⟩ := f
    obtain ⟨hv, hr⟩ := List.forall_mem_cons.mp h
    have hv : v < 2 ^ w := hv
    have hw : 0 < 2 ^ w := Nat.two_pow_pos w
    simp only [List.map_cons, List.cons_append, unpack, pack, List.cons.injEq]
    refine ⟨by rw [Nat.add_mul_mod_self_left, Nat.mod_eq_of_lt hv], ?_⟩
    rw [Nat.add_mul_div_left _ _ hw, Nat.div_eq_of_lt hv, Nat.zero_add]
    exact ih hr

/-- Packing the fields of a word gives its low bits. -/
theorem pack_unpack (ws : List Nat) (n : Nat) : pack (ws.zip (unpack ws n)) = n % 2 ^ ws.sum := by
  induction ws generalizing n with
  | nil => simp [pack, unpack, Nat.mod_one]
  | cons w ws ih => rw [unpack, List.zip_cons_cons, pack, ih, List.sum_cons, Nat.pow_add, Nat.mod_mul]

/-- The fields of a word fit. -/
theorem fits_unpack (ws : List Nat) (n : Nat) : FieldsFit (ws.zip (unpack ws n)) := by
  induction ws generalizing n with
  | nil => simp [unpack]
  | cons w ws ih =>
    rw [unpack, List.zip_cons_cons]
    exact List.forall_mem_cons.mpr ⟨Nat.mod_lt _ (Nat.two_pow_pos w), ih _⟩

/-- A word whose fields are known is those fields packed, and each fits. -/
theorem eq_pack_of_unpack {ws vs : List Nat} {n : Nat} (h : unpack ws n = vs) (hn : n < 2 ^ ws.sum) :
    n = pack (ws.zip vs) ∧ FieldsFit (ws.zip vs) := by
  subst h
  exact ⟨by rw [pack_unpack, Nat.mod_eq_of_lt hn], fits_unpack ws n⟩

/-! ### Codes -/

@[simp] theorem Ty.ofCode_code (t : Ty) : Ty.ofCode t.code = some t := by cases t <;> rfl
@[simp] theorem Rnd.ofCode_code (r : Rnd) : Rnd.ofCode r.code = some r := by cases r <;> rfl
@[simp] theorem Scope.ofCode_code (c : Scope) : Scope.ofCode c.code = some c := by cases c <;> rfl
@[simp] theorem MOrd.ofCode_code (r : MOrd) : MOrd.ofCode r.code = some r := by cases r <;> rfl

theorem Ty.code_lt (t : Ty) : t.code < 32 := by cases t <;> decide
theorem Rnd.code_lt (r : Rnd) : r.code < 8 := by cases r <;> decide
theorem Scope.code_lt (c : Scope) : c.code < 8 := by cases c <;> decide
theorem MOrd.code_lt (r : MOrd) : r.code < 8 := by cases r <;> decide

theorem Ty.code_of_ofCode {n : Nat} {t : Ty} (h : Ty.ofCode n = some t) : t.code = n := by
  unfold Ty.ofCode at h
  split at h <;> cases h <;> rfl

theorem Rnd.code_of_ofCode {n : Nat} {r : Rnd} (h : Rnd.ofCode n = some r) : r.code = n := by
  unfold Rnd.ofCode at h
  split at h <;> cases h <;> rfl

theorem Scope.code_of_ofCode {n : Nat} {c : Scope} (h : Scope.ofCode n = some c) : c.code = n := by
  unfold Scope.ofCode at h
  split at h <;> cases h <;> rfl

theorem MOrd.code_of_ofCode {n : Nat} {r : MOrd} (h : MOrd.ofCode n = some r) : r.code = n := by
  unfold MOrd.ofCode at h
  split at h <;> cases h <;> rfl

theorem natOf_le (b : Bool) : natOf b ≤ 1 := by cases b <;> decide
theorem natOf_beq_one {n : Nat} (h : n < 2) : natOf (n == 1) = n := by interval_cases n <;> rfl
@[simp] theorem natOf_eq_one (b : Bool) : (natOf b == 1) = b := by cases b <;> rfl
@[simp] theorem natOf_mod_two (b : Bool) : natOf b % 2 = natOf b := by cases b <;> rfl

/-! ### Operand fields, completion and the per-instruction part -/

/-- An operand that was read holds the number of its field. -/
theorem readOpd_raw {ng n : Nat} {m0 : Bool} {kind : Kind} {o : Opd} (h : readOpd ng m0 kind n = some o) : o.raw = n := by
  cases kind <;> simp only [readOpd] at h <;> (try split_ifs at h) <;> cases h <;> simp_all [Opd.raw]

theorem opdAdmitted_iff {c : DecCtx} {m0 : Bool} {kind : Kind} {o : Opd} :
    opdAdmitted c m0 kind o = true ↔ readOpd c.ngroups m0 kind o.raw = some o := by
  simp [opdAdmitted]

theorem opd_wf_of_lt {o : Opd} {n : Nat} (h : o.raw = n) (hn : n < 1024) : o.wf = true := by simp [Opd.wf, h, hn]

/-- The completion that was read names its fields. -/
theorem readDone_fields {op tag cc ts : Nat} {fin : Done} (h : readDone op tag cc ts = some fin) (hs : ts < 2) :
    fin.fields = (tag, cc, ts) := by
  unfold readDone at h
  obtain ⟨ctrs, tagOk⟩ := extDone op
  simp only at h
  split_ifs at h with hctrs hz hts htag hctr
  · cases h
    simp_all [Done.fields]
  · cases h
    simp_all [Done.fields]
  · cases h
    simp only [Bool.and_eq_true, decide_eq_true_eq] at hctr
    simp only [Done.fields, hctr.1, Prod.mk.injEq, true_and]
    omega

theorem Done.wf_of_fields {fin : Done} {tag cc ts : Nat} (h : fin.fields = (tag, cc, ts)) (ht : tag < 64) (hc : cc < 16) :
    fin.wf = true := by
  cases fin <;> simp_all [Done.fields, Done.wf]

theorem Done.fields_fit {fin : Done} (h : fin.wf = true) : fin.fields.1 < 64 ∧ fin.fields.2.1 < 16 ∧ fin.fields.2.2 < 2 := by
  cases fin <;> simp_all [Done.fields, Done.wf]

/-! ### The per-instruction part -/

theorem readX_copy {n : Nat} {x : XArg} (h : readX .copy n = some x) (hn : n < 2 ^ 45) : writeX x = n ∧ x.wf = true := by
  simp only [readX] at h
  split at h
  · next heq =>
    cases h
    obtain ⟨hp, hf⟩ := eq_pack_of_unpack heq hn
    simp only [List.zip_cons_cons, List.zip_nil_left, FieldsFit, List.forall_mem_cons] at hf
    obtain ⟨hdk, hsk, hdx, hsx, hcnt, hcr, hg, hdep, -⟩ := hf
    simp only [writeX, XArg.wf, natOf_beq_one hdx, natOf_beq_one hsx, natOf_beq_one hcr, natOf_beq_one hdep, Bool.and_eq_true,
      decide_eq_true_eq]
    exact ⟨by simp only [hp, List.zip_cons_cons, List.zip_nil_left, pack, Nat.mul_zero, Nat.add_zero], ⟨⟨hdk, hsk⟩, hcnt⟩, hg⟩
  · cases h

theorem readX_tst {n : Nat} {x : XArg} (h : readX .tst n = some x) (hn : n < 2 ^ 45) : writeX x = n ∧ x.wf = true := by
  simp only [readX] at h
  split at h
  · next heq =>
    obtain ⟨r', hr, rfl⟩ := Option.map_eq_some_iff.mp h
    obtain ⟨hp, hf⟩ := eq_pack_of_unpack heq hn
    simp only [List.zip_cons_cons, List.zip_nil_left, FieldsFit, List.forall_mem_cons] at hf
    obtain ⟨hg, hk, _, hsat, hrs, hcs, hmsk, hact, htbl, hst, hrel, -⟩ := hf
    simp only [writeX, XArg.wf, Rnd.code_of_ofCode hr, natOf_beq_one hsat, natOf_beq_one hrs, natOf_beq_one hcs, natOf_beq_one hmsk,
      natOf_beq_one hact, natOf_beq_one hrel, Bool.and_eq_true, decide_eq_true_eq]
    exact ⟨by simp only [hp, List.zip_cons_cons, List.zip_nil_left, pack, Nat.mul_zero, Nat.add_zero], ⟨⟨hg, hk⟩, htbl⟩, hst⟩
  · cases h

/-- The per-instruction part that was read is well formed, and is written back to the bits it was read from. -/
theorem readX_spec {sh : XShape} {n : Nat} {x : XArg} (h : readX sh n = some x) (hn : n < 2 ^ 45) : writeX x = n ∧ x.wf = true := by
  cases sh
  case copy => exact readX_copy h hn
  case tst => exact readX_tst h hn
  case none =>
    simp only [readX] at h
    split_ifs at h with h0
    cases h
    exact ⟨h0.symm, rfl⟩
  all_goals
    simp only [readX] at h
    split at h
    · next heq =>
      cases h
      obtain ⟨hp, hf⟩ := eq_pack_of_unpack heq hn
      simp only [List.zip_cons_cons, List.zip_nil_left, FieldsFit, List.forall_mem_cons] at hf
      constructor
      · simp only [writeX, hp, List.zip_cons_cons, List.zip_nil_left, pack, Nat.mul_zero, Nat.add_zero]
      · simp only [XArg.wf, Bool.and_eq_true, decide_eq_true_eq]
        omega
    · cases h

/-- Fields within the per-instruction part fit it. -/
theorem pack_lt_x {fs : List (Nat × Nat)} (hf : FieldsFit fs) (hs : (fs.map Prod.fst).sum ≤ 45) : pack fs < 2 ^ 45 :=
  (pack_lt hf).trans_le (Nat.pow_le_pow_right (by omega) hs)

theorem writeX_lt {x : XArg} (h : x.wf = true) : writeX x < 2 ^ 45 := by
  cases x <;> simp only [XArg.wf, Bool.and_eq_true, decide_eq_true_eq] at h
  case none => decide
  case tst r _ _ _ _ _ _ _ _ => exact pack_lt_x (by simp_all [FieldsFit, natOf_le, r.code_lt]) (by simp)
  all_goals exact pack_lt_x (by simp_all [FieldsFit, natOf_le]) (by simp)


/-! ### The checks of R64 -/

theorem opCheck_ok {α : Type} {b : Bool} {k : Except DecErr α} {x : α} : opCheck b k = .ok x ↔ b = true ∧ k = .ok x := by
  cases b <;> simp [opCheck]

theorem fieldCheck_ok {α : Type} {b : Bool} {k : Except DecErr α} {x : α} : fieldCheck b k = .ok x ↔ b = true ∧ k = .ok x := by
  cases b <;> simp [fieldCheck]

theorem fieldGet_ok {α β : Type} {o : Option α} {k : α → Except DecErr β} {x : β} :
    fieldGet o k = .ok x ↔ ∃ a, o = some a ∧ k a = .ok x := by
  cases o <;> simp [fieldGet]

theorem built_ok {o : Option Instr} {i : Instr} :
    (match o with | some i => Except.ok i | none => Except.error DecErr.illegalOp) = .ok i ↔ o = some i := by
  cases o <;> simp

/-! ### The forms -/

/-- What an encoding holds besides LEN, OP and the header: D, A, B and M of word 0, and the bits after word 0. -/
structure Packed where
  d : Nat
  a : Nat
  b : Nat
  m : Nat
  x : Nat

/-- The fields of the arguments of an instruction, by form (Tables 3.2, 3.5, 3.7 and 3.8). -/
def Body.packed : Body → Packed
  | .alu o => match o.form with
    | .a => ⟨o.d.raw, o.a.raw, o.b.raw, natOf o.m0, 0⟩
    | .b => ⟨o.d.raw, o.a.raw, o.b.raw, natOf o.m0,
        pack [(10, o.c.raw), (8, o.sub), (1, natOf o.sat), (3, o.rnd.code), (5, o.ty2.code), (5, o.ty.code)]⟩
    | .c => ⟨o.d.raw, o.a.raw, o.sub, 2, o.imm.toNat⟩
  | .waitc o => ⟨0, 0, writeSlot o.s3, 2, pack [(10, writeSlot o.s0), (10, writeSlot o.s1), (10, writeSlot o.s2), (2, 0)]⟩
  | .smovi o => ⟨o.d, 0, 0, if o.wide then 0 else 2, if o.wide then o.imm.toNat else o.imm.toNat % 2 ^ 32⟩
  | .mem o => ⟨o.d.raw, o.mop + 32 * o.ty.code, o.base.raw, natOf o.m0 + 2 * natOf o.scr,
      pack [(5, o.k), (4, o.cc), (3, o.sz), (3, o.ord.code), (3, o.scope.code), (14, writeDisp o.disp)]⟩
  | .ext e => ⟨e.d.raw, e.a.raw, e.b.raw, natOf e.m0,
      pack [(6, e.fin.fields.1), (4, e.fin.fields.2.1), (1, e.fin.fields.2.2), (8, e.sub), (45, writeX e.x)]⟩

/-- Word 0's operand fields fit. -/
structure Packed.Fit (p : Packed) : Prop where
  d : p.d < 1024
  a : p.a < 1024
  b : p.b < 1024
  m : p.m < 4

theorem writeDisp_readDisp {n : Nat} (h : n < 16384) : writeDisp (readDisp n) = n := by
  unfold writeDisp readDisp
  split_ifs <;> omega

theorem readDisp_writeDisp {d : Int} (hl : -8192 ≤ d) (hu : d ≤ 8191) : readDisp (writeDisp d) = d := by
  unfold writeDisp readDisp
  split_ifs <;> omega

theorem readDisp_bounds {n : Nat} (h : n < 16384) : -8192 ≤ readDisp n ∧ readDisp n ≤ 8191 := by
  unfold readDisp
  split_ifs <;> omega

theorem writeDisp_lt (d : Int) : writeDisp d < 16384 := by
  unfold writeDisp
  omega

/-- Form M reads exactly the arguments whose fields its words hold and that its opcode admits (R56). -/
theorem decodeMem_ok_iff {c : DecCtx} {op r31 : Nat} {h : Hdr} {p : Packed} {i : Instr} (hp : p.Fit) (hx : p.x < 2 ^ 32) :
    decodeMem c op h r31 p.d p.a p.b p.m p.x = .ok i ↔
      r31 = 0 ∧ ∃ o : MemArgs, o.wf = true ∧ memAdmitted c op o = true ∧ (Body.mem o).packed = p ∧ buildMem op h o = some i := by
  obtain ⟨d, a, b, m, x⟩ := p
  obtain ⟨hd, ha, hb, hm⟩ := hp
  simp only at hd ha hb hm hx ⊢
  constructor
  · intro hdec
    unfold decodeMem at hdec
    split at hdec
    · next k cc sz ord sc disp heq =>
      obtain ⟨rfl, hf⟩ := eq_pack_of_unpack heq hx
      simp only [mLayout, List.zip_cons_cons, List.zip_nil_left, FieldsFit, List.forall_mem_cons] at hf
      obtain ⟨hk, hcc, -, -, -, hdisp, -⟩ := hf
      simp only [opCheck_ok, fieldCheck_ok, fieldGet_ok, Bool.and_eq_true, beq_iff_eq, decide_eq_true_eq] at hdec
      obtain ⟨hsub, ⟨hr, hsz⟩, ty, hty, ord', hord, sc', hsc, d', hd', b', hb', hl, hi⟩ := hdec
      obtain ⟨hlo, hhi⟩ := readDisp_bounds hdisp
      refine ⟨hr, _, ?_, ?_, ?_, built_ok.mp hi⟩
      · simp only [MemArgs.wf, opd_wf_of_lt (readOpd_raw hd') hd, opd_wf_of_lt (readOpd_raw hb') hb, Bool.and_eq_true, decide_eq_true_eq, true_and]
        omega
      · simp only [memAdmitted, Bool.and_eq_true, opdAdmitted_iff, readOpd_raw hd', readOpd_raw hb']
        exact ⟨⟨⟨hsub, hd'⟩, hb'⟩, hl⟩
      · simp only [Body.packed, readOpd_raw hd', readOpd_raw hb', Ty.code_of_ofCode hty, MOrd.code_of_ofCode hord, Scope.code_of_ofCode hsc,
          writeDisp_readDisp hdisp, natOf_beq_one (show m % 2 < 2 by omega), natOf_beq_one (show m / 2 < 2 by omega), mLayout,
          List.zip_cons_cons, List.zip_nil_left, Packed.mk.injEq, and_true, true_and]
        omega
    · cases hdec
  · rintro ⟨rfl, o, hwf, hadm, hpk, hbuild⟩
    simp only [Body.packed, Packed.mk.injEq] at hpk
    obtain ⟨rfl, rfl, rfl, rfl, rfl⟩ := hpk
    simp only [MemArgs.wf, Bool.and_eq_true, decide_eq_true_eq] at hwf
    obtain ⟨⟨⟨⟨⟨⟨⟨-, -⟩, hmop⟩, hk⟩, hcc⟩, hsz⟩, hlo⟩, hhi⟩ := hwf
    simp only [memAdmitted, Bool.and_eq_true, opdAdmitted_iff] at hadm
    obtain ⟨⟨⟨hsub, hod⟩, hob⟩, hl⟩ := hadm
    have hfields := unpack_pack (fs := [(5, o.k), (4, o.cc), (3, o.sz), (3, o.ord.code), (3, o.scope.code), (14, writeDisp o.disp)])
      (by simp [FieldsFit, hk, hcc, o.ord.code_lt, o.scope.code_lt, writeDisp_lt]; omega) []
    simp only [List.map_cons, List.map_nil, List.append_nil] at hfields
    have hmod : (o.mop + 32 * o.ty.code) % 32 = o.mop := by omega
    have hdiv : (o.mop + 32 * o.ty.code) / 32 = o.ty.code := by omega
    have hm0 : (natOf o.m0 + 2 * natOf o.scr) % 2 = natOf o.m0 := by have := natOf_le o.m0; omega
    have hscr : (natOf o.m0 + 2 * natOf o.scr) / 2 = natOf o.scr := by have := natOf_le o.m0; omega
    simp only [decodeMem, mLayout, hfields, opCheck_ok, fieldCheck_ok, fieldGet_ok, Bool.and_eq_true, beq_iff_eq, decide_eq_true_eq,
      hmod, hdiv, hm0, hscr, natOf_eq_one, readDisp_writeDisp hlo hhi]
    exact ⟨hsub, ⟨trivial, hsz⟩, _, Ty.ofCode_code _, _, MOrd.ofCode_code _, _, Scope.ofCode_code _, _, hod, _, hob, hl, built_ok.mpr hbuild⟩

theorem readSlot_spec {n : Nat} {s : Option WaitSlot} (h : readSlot n = some s) (hn : n < 1024) :
    writeSlot s = n ∧ s.all WaitSlot.wf = true := by
  unfold readSlot at h
  split_ifs at h with hc hu
  · cases h
    simp only [writeSlot, Option.all_some, WaitSlot.wf, Bool.and_eq_true, decide_eq_true_eq]
    omega
  · cases h
    exact ⟨hu.symm, rfl⟩

theorem writeSlot_lt {s : Option WaitSlot} (h : s.all WaitSlot.wf = true) : writeSlot s < 1024 := by
  cases s with
  | none => decide
  | some s =>
    simp only [Option.all_some, WaitSlot.wf, Bool.and_eq_true, decide_eq_true_eq] at h
    simp only [writeSlot]
    omega

theorem readSlot_writeSlot {s : Option WaitSlot} (h : s.all WaitSlot.wf = true) : readSlot (writeSlot s) = some s := by
  cases s with
  | none => decide
  | some s =>
    simp only [Option.all_some, WaitSlot.wf, Bool.and_eq_true, decide_eq_true_eq] at h
    have hm : (s.ctr + 16 * s.threshold) % 16 = s.ctr := by omega
    have hd : (s.ctr + 16 * s.threshold) / 16 = s.threshold := by omega
    simp [readSlot, writeSlot, hm, hd, h.1]

/-- WAITC reads exactly the slots whose fields its words hold (R55). -/
theorem decodeWaitc_ok_iff {r31 : Nat} {h : Hdr} {p : Packed} {i : Instr} (hp : p.Fit) (hx : p.x < 2 ^ 32) :
    decodeWaitc h r31 p.d p.a p.b p.m p.x = .ok i ↔
      r31 = 0 ∧ ∃ o : WaitcArgs, o.wf = true ∧ (Body.waitc o).packed = p ∧ .waitc h o = i := by
  obtain ⟨d, a, b, m, x⟩ := p
  obtain ⟨hd, ha, hb, hm⟩ := hp
  simp only at hd ha hb hm hx ⊢
  constructor
  · intro hdec
    unfold decodeWaitc at hdec
    split at hdec
    · next n0 n1 n2 r heq =>
      obtain ⟨rfl, hf⟩ := eq_pack_of_unpack heq hx
      simp only [List.zip_cons_cons, List.zip_nil_left, FieldsFit, List.forall_mem_cons] at hf
      obtain ⟨h0, h1, h2, -⟩ := hf
      simp only [fieldCheck_ok, fieldGet_ok, Bool.and_eq_true, beq_iff_eq] at hdec
      obtain ⟨⟨⟨⟨⟨hr, rfl⟩, rfl⟩, rfl⟩, rfl⟩, s0, hs0, s1, hs1, s2, hs2, s3, hs3, hi⟩ := hdec
      cases hi
      obtain ⟨e0, w0⟩ := readSlot_spec hs0 h0
      obtain ⟨e1, w1⟩ := readSlot_spec hs1 h1
      obtain ⟨e2, w2⟩ := readSlot_spec hs2 h2
      obtain ⟨e3, w3⟩ := readSlot_spec hs3 hb
      exact ⟨hr, _, by simp [WaitcArgs.wf, w0, w1, w2, w3], by simp [Body.packed, e0, e1, e2, e3], rfl⟩
    · cases hdec
  · rintro ⟨rfl, o, hwf, hpk, rfl⟩
    simp only [Body.packed, Packed.mk.injEq] at hpk
    obtain ⟨rfl, rfl, rfl, rfl, rfl⟩ := hpk
    simp only [WaitcArgs.wf, Bool.and_eq_true] at hwf
    obtain ⟨⟨⟨w0, w1⟩, w2⟩, w3⟩ := hwf
    have hfields := unpack_pack (fs := [(10, writeSlot o.s0), (10, writeSlot o.s1), (10, writeSlot o.s2), (2, 0)])
      (by simp [FieldsFit, writeSlot_lt w0, writeSlot_lt w1, writeSlot_lt w2]) []
    simp only [List.map_cons, List.map_nil, List.append_nil] at hfields
    simp [decodeWaitc, hfields, fieldCheck_ok, fieldGet_ok, readSlot_writeSlot, w0, w1, w2, w3]

/-- The low half of a sign-extended immediate is the immediate. -/
theorem setWidth_signExtend (v : BitVec 32) : (v.signExtend 64).setWidth 32 = v := by
  ext j hj
  rw [BitVec.getElem_setWidth, BitVec.getLsbD_signExtend]
  simp [hj, show j < 64 by omega]

/-- Word 1 is the low half of the immediate. -/
theorem toNat_signExtend_mod {n : Nat} (h : n < 2 ^ 32) : ((BitVec.ofNat 32 n).signExtend 64).toNat % 2 ^ 32 = n := by
  rw [← BitVec.toNat_setWidth, setWidth_signExtend, BitVec.toNat_ofNat, Nat.mod_eq_of_lt h]

theorem ofNat_toNat_mod (v : BitVec 64) : BitVec.ofNat 32 (v.toNat % 2 ^ 32) = v.setWidth 32 := by
  apply BitVec.eq_of_toNat_eq
  simp

/-- SMOVI reads exactly the register and the immediate that its words hold (R53, R54). -/
theorem decodeSmovi_ok_iff {r31 w1 w2 : Nat} {h : Hdr} {p : Packed} {wide : Bool} {i : Instr} (hp : p.Fit) (h1 : w1 < 2 ^ 32)
    (h2 : w2 < 2 ^ 32) (hn : wide = false → w2 = 0) (hx : p.x = w1 + 2 ^ 32 * w2) :
    decodeSmovi h r31 p.d p.a p.b p.m wide w1 w2 = .ok i ↔
      r31 = 0 ∧ ∃ o : SmoviArgs, o.wide = wide ∧ o.wf = true ∧ (Body.smovi o).packed = p ∧ .smovi h o = i := by
  obtain ⟨d, a, b, m, x⟩ := p
  obtain ⟨hd, ha, hb, hm⟩ := hp
  simp only at hd ha hb hm hx ⊢
  subst hx
  simp only [decodeSmovi, opCheck_ok, fieldCheck_ok, Bool.and_eq_true, Bool.or_eq_true, beq_iff_eq, decide_eq_true_eq]
  constructor
  · rintro ⟨-, ⟨⟨⟨⟨hr, hd'⟩, rfl⟩, rfl⟩, rfl⟩, hi⟩
    cases hi
    refine ⟨hr, _, rfl, ?_, ?_, rfl⟩
    · cases wide <;> simp [SmoviArgs.wf, hd', setWidth_signExtend]
    · cases wide
      · simp only [Body.packed, Bool.false_eq_true, if_false, toNat_signExtend_mod h1, hn rfl, Nat.mul_zero, Nat.add_zero]
      · simp only [Body.packed, if_true, BitVec.toNat_ofNat, Packed.mk.injEq, true_and]
        omega
  · rintro ⟨rfl, o, rfl, hwf, hpk, rfl⟩
    simp only [Body.packed, Packed.mk.injEq] at hpk
    obtain ⟨rfl, rfl, rfl, rfl, hx⟩ := hpk
    obtain ⟨od, wide, imm⟩ := o
    simp only [SmoviArgs.wf, Bool.and_eq_true, Bool.or_eq_true, beq_iff_eq, decide_eq_true_eq] at hwf
    cases wide
    · simp only [hn rfl, Bool.false_eq_true, if_false, false_or, Nat.mul_zero, Nat.add_zero] at hx hwf
      subst hx
      have himm := ofNat_toNat_mod imm
      simp_all
    · simp only [if_true] at hx
      have himm : BitVec.ofNat 64 (w1 + 2 ^ 32 * w2) = imm := by rw [← hx, BitVec.ofNat_toNat, BitVec.setWidth_eq]
      simp_all

/-- Form E reads exactly the arguments whose fields its words hold and that its opcode admits (R57, R58). -/
theorem decodeExt_ok_iff {c : DecCtx} {op r31 : Nat} {h : Hdr} {p : Packed} {i : Instr} (hp : p.Fit) (hx : p.x < 2 ^ 64) :
    decodeExt c op h r31 p.d p.a p.b p.m p.x = .ok i ↔
      r31 = 0 ∧ ∃ e : ExtArgs, e.wf = true ∧ extAdmitted c op e = true ∧ (Body.ext e).packed = p ∧ buildExt op h e = some i := by
  obtain ⟨d, a, b, m, x⟩ := p
  obtain ⟨hd, ha, hb, hm⟩ := hp
  simp only at hd ha hb hm hx ⊢
  constructor
  · intro hdec
    unfold decodeExt at hdec
    split at hdec
    · next tag cc ts sub per heq =>
      obtain ⟨rfl, hf⟩ := eq_pack_of_unpack heq hx
      simp only [xLayout, List.zip_cons_cons, List.zip_nil_left, FieldsFit, List.forall_mem_cons] at hf
      obtain ⟨htag, hcc, hts, hsubw, hper, -⟩ := hf
      simp only [opCheck_ok, fieldCheck_ok, fieldGet_ok, Bool.and_eq_true, beq_iff_eq, decide_eq_true_eq] at hdec
      obtain ⟨hsub, ⟨hr, hm⟩, fin, hfin, x', hx', d', hd', a', ha', b', hb', hl, hi⟩ := hdec
      obtain ⟨hwx, hxwf⟩ := readX_spec hx' hper
      have hff := readDone_fields hfin hts
      refine ⟨hr, _, ?_, ?_, ?_, built_ok.mp hi⟩
      · simp only [ExtArgs.wf, opd_wf_of_lt (readOpd_raw hd') hd, opd_wf_of_lt (readOpd_raw ha') ha, opd_wf_of_lt (readOpd_raw hb') hb,
          hxwf, Done.wf_of_fields hff htag hcc, Bool.and_eq_true, decide_eq_true_eq]
        exact ⟨⟨⟨⟨⟨trivial, trivial⟩, trivial⟩, hsubw⟩, trivial⟩, trivial⟩
      · simp only [extAdmitted, Bool.and_eq_true, opdAdmitted_iff, readOpd_raw hd', readOpd_raw ha', readOpd_raw hb', hff, hwx, hfin, hx',
          beq_self_eq_true]
        exact ⟨⟨⟨⟨⟨⟨hsub, trivial⟩, trivial⟩, hd'⟩, ha'⟩, hb'⟩, hl⟩
      · simp only [Body.packed, readOpd_raw hd', readOpd_raw ha', readOpd_raw hb', hff, hwx, xLayout, List.zip_cons_cons, List.zip_nil_left,
          Nat.mod_eq_of_lt hm, natOf_beq_one hm]
    · cases hdec
  · rintro ⟨rfl, e, hwf, hadm, hpk, hbuild⟩
    simp only [Body.packed, Packed.mk.injEq] at hpk
    obtain ⟨rfl, rfl, rfl, rfl, rfl⟩ := hpk
    simp only [ExtArgs.wf, Bool.and_eq_true, decide_eq_true_eq] at hwf
    obtain ⟨⟨⟨-, hsubw⟩, hfin⟩, hxwf⟩ := hwf
    obtain ⟨htag, hcc, hts⟩ := Done.fields_fit hfin
    simp only [extAdmitted, Bool.and_eq_true, opdAdmitted_iff, beq_iff_eq] at hadm
    obtain ⟨⟨⟨⟨⟨⟨hsub, hdone⟩, hreadX⟩, hod⟩, hoa⟩, hob⟩, hl⟩ := hadm
    have hfields := unpack_pack (fs := [(6, e.fin.fields.1), (4, e.fin.fields.2.1), (1, e.fin.fields.2.2), (8, e.sub), (45, writeX e.x)])
      (by simp only [FieldsFit, List.forall_mem_cons]; exact ⟨htag, hcc, hts, hsubw, writeX_lt hxwf, by simp⟩) []
    simp only [List.map_cons, List.map_nil, List.append_nil] at hfields
    simp only [decodeExt, xLayout, hfields, opCheck_ok, fieldCheck_ok, fieldGet_ok, Bool.and_eq_true, beq_iff_eq, decide_eq_true_eq,
      natOf_mod_two, natOf_eq_one]
    exact ⟨hsub, ⟨trivial, Nat.lt_succ_of_le (natOf_le _)⟩, _, hdone, _, hreadX, _, hod, _, hoa, _, hob, hl, built_ok.mpr hbuild⟩

theorem Opd.wf_none : Opd.none.wf = true := rfl

/-- Form C: the sub-operation stands in B and the immediate in word 1 (R53). -/
theorem decodeAlu_c_ok_iff {c : DecCtx} {op r31 : Nat} {h : Hdr} {p : Packed} {i : Instr} {fa fb fc : Bool} (hp : p.Fit)
    (hx : p.x < 2 ^ 32) (hcls : opClass op = some (.alu fa fb fc)) (hform : fc = true) (hm : p.m / 2 = 1) :
    decodeAlu c op h r31 p.d p.a p.b p.m .c p.x = .ok i ↔
      r31 = 0 ∧ ∃ o : AluArgs, o.form = .c ∧ o.wf = true ∧ aluAdmitted c op o = true ∧ (Body.alu o).packed = p ∧
        buildAlu op h o = some i := by
  obtain ⟨d, a, b, m, x⟩ := p
  obtain ⟨hd, ha, hb, -⟩ := hp
  simp only at hd ha hb hm hx ⊢
  simp only [decodeAlu, opCheck_ok, fieldCheck_ok, fieldGet_ok, Bool.and_eq_true, Bool.not_eq_true', beq_iff_eq, beq_eq_false_iff_ne]
  constructor
  · rintro ⟨hsub, ⟨⟨hr, hb0⟩, hm0⟩, d', hd', a', ha', hl, hi⟩
    refine ⟨hr, _, rfl, ?_, ?_, ?_, built_ok.mp hi⟩
    · simp [AluArgs.wf, AluArgs.formWf, opd_wf_of_lt (readOpd_raw hd') hd, opd_wf_of_lt (readOpd_raw ha') ha, Opd.wf_none,
        Nat.mod_lt b (show 0 < 256 by decide)]
    · simp only [aluAdmitted, hcls, hform, Bool.and_eq_true, opdAdmitted_iff, readOpd_raw hd', readOpd_raw ha']
      exact ⟨⟨⟨⟨⟨⟨trivial, hsub⟩, hd'⟩, ha'⟩, rfl⟩, rfl⟩, hl⟩
    · simp only [Body.packed, readOpd_raw hd', readOpd_raw ha', BitVec.toNat_ofNat, Packed.mk.injEq, true_and]
      omega
  · rintro ⟨rfl, o, hof, hwf, hadm, hpk, hbuild⟩
    obtain ⟨f, od, oa, ob, oc, om0, oty, oty2, ornd, osat, osub, oimm⟩ := o
    simp only at hof
    subst hof
    simp only [AluArgs.wf, AluArgs.formWf, Bool.and_eq_true, decide_eq_true_eq, beq_iff_eq, Bool.not_eq_true'] at hwf
    obtain ⟨⟨-, hsubw⟩, ⟨⟨⟨⟨⟨rfl, rfl⟩, rfl⟩, rfl⟩, rfl⟩, rfl⟩, rfl⟩ := hwf
    simp only [Body.packed, Packed.mk.injEq] at hpk
    obtain ⟨rfl, rfl, rfl, rfl, rfl⟩ := hpk
    simp only [aluAdmitted, Bool.and_eq_true, opdAdmitted_iff] at hadm
    obtain ⟨⟨⟨⟨⟨⟨-, hsub⟩, hod⟩, hoa⟩, -⟩, -⟩, hl⟩ := hadm
    simp only [Nat.mod_eq_of_lt hsubw, Nat.div_eq_of_lt hsubw, BitVec.ofNat_toNat, BitVec.setWidth_eq]
    exact ⟨hsub, by decide, _, hod, _, hoa, hl, built_ok.mpr hbuild⟩

/-- Form A: everything after word 0 has its default (R51). -/
theorem decodeAlu_a_ok_iff {c : DecCtx} {op r31 w1 : Nat} {h : Hdr} {p : Packed} {i : Instr} {fa fb fc : Bool} (hp : p.Fit)
    (hx : p.x = 0) (hcls : opClass op = some (.alu fa fb fc)) (hform : fa = true) :
    decodeAlu c op h r31 p.d p.a p.b p.m .a w1 = .ok i ↔
      r31 = 0 ∧ ∃ o : AluArgs, o.form = .a ∧ o.wf = true ∧ aluAdmitted c op o = true ∧ (Body.alu o).packed = p ∧
        buildAlu op h o = some i := by
  obtain ⟨d, a, b, m, x⟩ := p
  obtain ⟨hd, ha, hb, -⟩ := hp
  simp only at hd ha hb hx ⊢
  subst hx
  have hzero : unpack bLayout 0 = [0, 0, 0, 0, 0, 0] := rfl
  simp only [decodeAlu, if_true, hzero, opCheck_ok, fieldCheck_ok, fieldGet_ok, Bool.and_eq_true, beq_iff_eq, decide_eq_true_eq]
  constructor
  · rintro ⟨hsub, ⟨hr, hm⟩, ty, hty, ty2, hty2, rnd, hrnd, d', hd', a', ha', b', hb', c', hc', hl, hi⟩
    cases hty
    cases hty2
    cases hrnd
    refine ⟨hr, _, rfl, ?_, ?_, ?_, built_ok.mp hi⟩
    · simp [AluArgs.wf, AluArgs.formWf, opd_wf_of_lt (readOpd_raw hd') hd, opd_wf_of_lt (readOpd_raw ha') ha,
        opd_wf_of_lt (readOpd_raw hb') hb, opd_wf_of_lt (readOpd_raw hc') (by decide), readOpd_raw hc']
    · simp only [aluAdmitted, hcls, hform, Bool.and_eq_true, opdAdmitted_iff, readOpd_raw hd', readOpd_raw ha', readOpd_raw hb',
        readOpd_raw hc']
      exact ⟨⟨⟨⟨⟨⟨trivial, hsub⟩, hd'⟩, ha'⟩, hb'⟩, hc'⟩, hl⟩
    · simp only [Body.packed, readOpd_raw hd', readOpd_raw ha', readOpd_raw hb', Nat.mod_eq_of_lt hm, natOf_beq_one hm]
  · rintro ⟨rfl, o, hof, hwf, hadm, hpk, hbuild⟩
    obtain ⟨f, od, oa, ob, oc, om0, oty, oty2, ornd, osat, osub, oimm⟩ := o
    simp only at hof
    subst hof
    simp only [AluArgs.wf, AluArgs.formWf, Bool.and_eq_true, decide_eq_true_eq, beq_iff_eq, Bool.not_eq_true'] at hwf
    obtain ⟨-, ⟨⟨⟨⟨⟨rfl, rfl⟩, rfl⟩, rfl⟩, rfl⟩, hraw⟩, rfl⟩ := hwf
    simp only [Body.packed, Packed.mk.injEq, and_true] at hpk
    obtain ⟨rfl, rfl, rfl, rfl⟩ := hpk
    simp only [aluAdmitted, Bool.and_eq_true, opdAdmitted_iff, hraw] at hadm
    obtain ⟨⟨⟨⟨⟨⟨-, hsub⟩, hod⟩, hoa⟩, hob⟩, hoc⟩, hl⟩ := hadm
    simp only [natOf_mod_two, natOf_eq_one]
    exact ⟨hsub, ⟨trivial, Nat.lt_succ_of_le (natOf_le _)⟩, _, rfl, _, rfl, _, rfl, _, hod, _, hoa, _, hob, _, hoc, hl, built_ok.mpr hbuild⟩

/-- Form B: the suffix fields stand in word 1 (R51). -/
theorem decodeAlu_b_ok_iff {c : DecCtx} {op r31 : Nat} {h : Hdr} {p : Packed} {i : Instr} {fa fb fc : Bool} (hp : p.Fit)
    (hx : p.x < 2 ^ 32) (hcls : opClass op = some (.alu fa fb fc)) (hform : fb = true) :
    decodeAlu c op h r31 p.d p.a p.b p.m .b p.x = .ok i ↔
      r31 = 0 ∧ ∃ o : AluArgs, o.form = .b ∧ o.wf = true ∧ aluAdmitted c op o = true ∧ (Body.alu o).packed = p ∧
        buildAlu op h o = some i := by
  obtain ⟨d, a, b, m, x⟩ := p
  obtain ⟨hd, ha, hb, -⟩ := hp
  simp only at hd ha hb hx ⊢
  simp only [decodeAlu, reduceCtorEq, if_false]
  constructor
  · intro hdec
    split at hdec
    · next cc sub s rnd t2 t heq =>
      obtain ⟨rfl, hf⟩ := eq_pack_of_unpack heq hx
      simp only [bLayout, List.zip_cons_cons, List.zip_nil_left, FieldsFit, List.forall_mem_cons] at hf
      obtain ⟨hc, hsubw, hs, -⟩ := hf
      simp only [opCheck_ok, fieldCheck_ok, fieldGet_ok, Bool.and_eq_true, beq_iff_eq, decide_eq_true_eq] at hdec
      obtain ⟨hsub, ⟨hr, hm⟩, ty, hty, ty2, hty2, rnd, hrnd, d', hd', a', ha', b', hb', c', hc', hl, hi⟩ := hdec
      refine ⟨hr, _, rfl, ?_, ?_, ?_, built_ok.mp hi⟩
      · simp only [AluArgs.wf, AluArgs.formWf, opd_wf_of_lt (readOpd_raw hd') hd, opd_wf_of_lt (readOpd_raw ha') ha,
          opd_wf_of_lt (readOpd_raw hb') hb, opd_wf_of_lt (readOpd_raw hc') hc, Bool.and_eq_true, decide_eq_true_eq]
        exact ⟨⟨⟨⟨⟨trivial, trivial⟩, trivial⟩, trivial⟩, hsubw⟩, rfl⟩
      · simp only [aluAdmitted, hcls, hform, Bool.and_eq_true, opdAdmitted_iff, readOpd_raw hd', readOpd_raw ha', readOpd_raw hb',
          readOpd_raw hc']
        exact ⟨⟨⟨⟨⟨⟨trivial, hsub⟩, hd'⟩, ha'⟩, hb'⟩, hc'⟩, hl⟩
      · simp only [Body.packed, readOpd_raw hd', readOpd_raw ha', readOpd_raw hb', readOpd_raw hc', Nat.mod_eq_of_lt hm,
          natOf_beq_one hm, natOf_beq_one hs, Ty.code_of_ofCode hty, Ty.code_of_ofCode hty2, Rnd.code_of_ofCode hrnd, bLayout,
          List.zip_cons_cons, List.zip_nil_left]
    · cases hdec
  · rintro ⟨rfl, o, hof, hwf, hadm, hpk, hbuild⟩
    obtain ⟨f, od, oa, ob, oc, om0, oty, oty2, ornd, osat, osub, oimm⟩ := o
    simp only at hof
    subst hof
    simp only [AluArgs.wf, AluArgs.formWf, Bool.and_eq_true, decide_eq_true_eq, beq_iff_eq] at hwf
    obtain ⟨⟨⟨-, hcw⟩, hsubw⟩, rfl⟩ := hwf
    simp only [Body.packed, Packed.mk.injEq] at hpk
    obtain ⟨rfl, rfl, rfl, rfl, rfl⟩ := hpk
    simp only [aluAdmitted, Bool.and_eq_true, opdAdmitted_iff] at hadm
    obtain ⟨⟨⟨⟨⟨⟨-, hsub⟩, hod⟩, hoa⟩, hob⟩, hoc⟩, hl⟩ := hadm
    have hfields := unpack_pack (fs := [(10, oc.raw), (8, osub), (1, natOf osat), (3, ornd.code), (5, oty2.code), (5, oty.code)])
      (by simpa [FieldsFit, hsubw, ornd.code_lt, oty.code_lt, oty2.code_lt, natOf_le] using of_decide_eq_true hcw) []
    simp only [List.map_cons, List.map_nil, List.append_nil] at hfields
    simp only [bLayout, hfields, opCheck_ok, fieldCheck_ok, fieldGet_ok, Bool.and_eq_true, beq_iff_eq, decide_eq_true_eq,
      natOf_mod_two, natOf_eq_one]
    exact ⟨hsub, ⟨trivial, Nat.lt_succ_of_le (natOf_le _)⟩, _, Ty.ofCode_code _, _, Ty.ofCode_code _, _, Rnd.ofCode_code _, _, hod, _, hoa,
      _, hob, _, hoc, hl, built_ok.mpr hbuild⟩

/-! ### Bodies -/

theorem buildInstr_eq_some {op : Nat} {h : Hdr} {b : Body} {i : Instr} (hb : buildInstr op h b = some i) :
    i.parts = some (op, h, b) ∧ i.subOk = true := by
  cases b with
  | alu o => exact buildAlu_eq_some hb
  | mem o => exact buildMem_eq_some hb
  | ext e => exact buildExt_eq_some hb
  | waitc o =>
    obtain ⟨rfl, hi⟩ : op = 0xA0 ∧ some (Instr.waitc h o) = some i := by simpa [buildInstr] using hb
    cases hi
    exact ⟨rfl, rfl⟩
  | smovi o =>
    obtain ⟨rfl, hi⟩ : op = 0x16 ∧ some (Instr.smovi h o) = some i := by simpa [buildInstr] using hb
    cases hi
    exact ⟨rfl, rfl⟩

/-- Arguments of the forms of a class. -/
def Body.ofClass (b : Body) : OpClass → Prop
  | .alu _ _ _ => ∃ o, b = .alu o
  | .waitc => ∃ o, b = .waitc o
  | .smovi => ∃ o, b = .smovi o
  | .mem => ∃ o, b = .mem o
  | .ext => ∃ e, b = .ext e

/-- A row's arguments are of the forms of its opcode. -/
theorem ofClass_of_parts {i : Instr} {op : Nat} {h : Hdr} {b : Body} (hp : i.parts = some (op, h, b)) :
    ∃ cls, opClass op = some cls ∧ b.ofClass cls := by
  cases i <;> cases hp <;> exact ⟨_, rfl, _, rfl⟩

theorem op_of_waitc : ∀ op < 256, opClass op = some .waitc → op = 0xA0 := by decide +kernel

theorem op_of_smovi : ∀ op < 256, opClass op = some .smovi → op = 0x16 := by decide +kernel

/-- Only the forms A, B and C hold privileged opcodes (R61). -/
theorem class_of_privileged {op : Nat} (h : privilegedOp op = true) : ∃ fa fb fc, opClass op = some (.alu fa fb fc) := by
  simp only [privilegedOp, Bool.or_eq_true, Bool.and_eq_true, beq_iff_eq, decide_eq_true_eq] at h
  obtain (rfl | rfl) | ⟨hl, hu⟩ := h
  · exact ⟨_, _, _, rfl⟩
  · exact ⟨_, _, _, rfl⟩
  · interval_cases op <;> exact ⟨_, _, _, rfl⟩

/-- What the checks of R64 accept of the arguments of an opcode. -/
def Body.admitted (c : DecCtx) (op : Nat) : Body → Bool
  | .alu o => aluAdmitted c op o
  | .waitc _ => true
  | .smovi _ => true
  | .mem o => memAdmitted c op o
  | .ext e => extAdmitted c op e

theorem admitted_of_parts {c : DecCtx} {i : Instr} {op : Nat} {h : Hdr} {b : Body} (hp : i.parts = some (op, h, b)) :
    i.admitted c = (assignedIn c.encver op && (!privilegedOp op || c.priv) && b.admitted c op) := by
  unfold Instr.admitted
  rw [hp]
  cases b <;> rfl

theorem wf_of_parts {i : Instr} {op : Nat} {h : Hdr} {b : Body} (hp : i.parts = some (op, h, b)) :
    i.wf = (h.wf && b.wf && i.subOk) := by
  simp only [Instr.wf, hp]

/-- Arguments that fit hold operand fields that fit. -/
theorem Body.fit_packed {b : Body} (h : b.wf = true) : b.packed.Fit := by
  cases b with
  | alu o =>
    obtain ⟨f, od, oa, ob, oc, om0, oty, oty2, ornd, osat, osub, oimm⟩ := o
    have hm := natOf_le om0
    simp only [Body.wf, AluArgs.wf, Opd.wf, Bool.and_eq_true, decide_eq_true_eq] at h
    obtain ⟨⟨⟨⟨⟨hd, ha⟩, hb⟩, -⟩, hs⟩, -⟩ := h
    cases f
    · exact ⟨hd, ha, hb, by simp only [Body.packed]; omega⟩
    · exact ⟨hd, ha, hb, by simp only [Body.packed]; omega⟩
    · exact ⟨hd, ha, by simp only [Body.packed]; omega, by simp only [Body.packed]; omega⟩
  | waitc o =>
    simp only [Body.wf, WaitcArgs.wf, Bool.and_eq_true] at h
    exact ⟨by simp [Body.packed], by simp [Body.packed], writeSlot_lt h.2, by simp [Body.packed]⟩
  | smovi o =>
    simp only [Body.wf, SmoviArgs.wf, Bool.and_eq_true, decide_eq_true_eq] at h
    exact ⟨by simp only [Body.packed]; omega, by simp [Body.packed], by simp [Body.packed], by simp only [Body.packed]; split_ifs <;> omega⟩
  | mem o =>
    simp only [Body.wf, MemArgs.wf, Opd.wf, Bool.and_eq_true, decide_eq_true_eq] at h
    have hty := o.ty.code_lt
    have hm := natOf_le o.m0
    have hs := natOf_le o.scr
    exact ⟨by simp only [Body.packed]; omega, by simp only [Body.packed]; omega, by simp only [Body.packed]; omega,
      by simp only [Body.packed]; omega⟩
  | ext e =>
    have hm := natOf_le e.m0
    simp only [Body.wf, ExtArgs.wf, Opd.wf, Bool.and_eq_true, decide_eq_true_eq] at h
    obtain ⟨⟨⟨⟨⟨hd, ha⟩, hb⟩, -⟩, -⟩, -⟩ := h
    exact ⟨hd, ha, hb, by simp only [Body.packed]; omega⟩

/-- Arguments that fit hold no bits where their length has no word. -/
theorem Body.packed_x_lt {b : Body} (h : b.wf = true) :
    b.packed.x < 2 ^ 64 ∧ (b.len ≠ 2 → b.packed.x < 2 ^ 32) ∧ (b.len = 0 → b.packed.x = 0) := by
  have short {p : Packed} {l : Nat} (hx : p.x < 2 ^ 32) (hl : l = 1) : p.x < 2 ^ 64 ∧ (l ≠ 2 → p.x < 2 ^ 32) ∧ (l = 0 → p.x = 0) :=
    ⟨hx.trans (by decide), fun _ => hx, by omega⟩
  cases b with
  | alu o =>
    obtain ⟨f, od, oa, ob, oc, om0, oty, oty2, ornd, osat, osub, oimm⟩ := o
    cases f with
    | a => simp [Body.packed, Body.len]
    | b =>
      simp only [Body.wf, AluArgs.wf, Opd.wf, Bool.and_eq_true, decide_eq_true_eq] at h
      obtain ⟨⟨⟨-, hc⟩, hs⟩, -⟩ := h
      exact short (pack_lt (by simp [FieldsFit, hc, hs, natOf_le, ornd.code_lt, oty.code_lt, oty2.code_lt])) rfl
    | c => exact short oimm.isLt rfl
  | waitc o =>
    simp only [Body.wf, WaitcArgs.wf, Bool.and_eq_true] at h
    obtain ⟨⟨⟨h0, h1⟩, h2⟩, -⟩ := h
    exact short (pack_lt (by simp [FieldsFit, writeSlot_lt h0, writeSlot_lt h1, writeSlot_lt h2])) rfl
  | smovi o =>
    obtain ⟨od, wide, imm⟩ := o
    have himm := imm.isLt
    cases wide with
    | false => exact short (Nat.mod_lt _ (by decide)) rfl
    | true => exact ⟨himm, by simp [Body.len], by simp [Body.len]⟩
  | mem o =>
    simp only [Body.wf, MemArgs.wf, Bool.and_eq_true, decide_eq_true_eq] at h
    obtain ⟨⟨⟨⟨⟨-, hk⟩, hcc⟩, hsz⟩, -⟩, -⟩ := h
    exact short (pack_lt (by simp [FieldsFit, hk, hcc, o.ord.code_lt, o.scope.code_lt, writeDisp_lt]; omega)) rfl
  | ext e =>
    simp only [Body.wf, ExtArgs.wf, Bool.and_eq_true, decide_eq_true_eq] at h
    obtain ⟨⟨⟨-, hs⟩, hfin⟩, hx⟩ := h
    obtain ⟨htag, hcc, hts⟩ := Done.fields_fit hfin
    exact ⟨pack_lt (by simp only [FieldsFit, List.forall_mem_cons]; exact ⟨htag, hcc, hts, hs, writeX_lt hx, by simp⟩),
      by simp [Body.len], by simp [Body.len]⟩

/-- An encoding is its length, word 0 and the bits after it. -/
theorem encodeBody_eq (op : Nat) (h : Hdr) {b : Body} (hwf : b.wf = true) :
    encodeBody op h b =
      ⟨b.len, packW0 b.len op h b.packed.d b.packed.a b.packed.b b.packed.m, b.packed.x % 2 ^ 32, b.packed.x / 2 ^ 32⟩ := by
  obtain ⟨-, hlow, -⟩ := Body.packed_x_lt hwf
  cases b with
  | alu o =>
    obtain ⟨f, od, oa, ob, oc, om0, oty, oty2, ornd, osat, osub, oimm⟩ := o
    cases f <;> simp_all [encodeBody, Body.len, Body.packed, Nat.mod_eq_of_lt, Nat.div_eq_of_lt]
  | waitc o => simp_all [encodeBody, Body.len, Body.packed, Nat.mod_eq_of_lt, Nat.div_eq_of_lt]
  | smovi o =>
    obtain ⟨od, wide, imm⟩ := o
    cases wide <;> simp [encodeBody, Body.len, Body.packed]
  | mem o => simp_all [encodeBody, Body.len, Body.packed, Nat.mod_eq_of_lt, Nat.div_eq_of_lt]
  | ext e => simp [encodeBody, Body.len, Body.packed]

theorem Body.len_lt (b : Body) : b.len < 3 := by
  cases b <;> simp only [Body.len] <;> (try split_ifs) <;> decide

theorem op_lt_of_parts {i : Instr} {op : Nat} {h : Hdr} {b : Body} (hp : i.parts = some (op, h, b)) : op < 256 := by
  cases i <;> cases hp <;> decide

/-! ### Words -/

/-- The arguments that the fields of word 0 and the bits after it hold, and their instruction. -/
def Reads (c : DecCtx) (op : Nat) (h : Hdr) (len : Nat) (p : Packed) (i : Instr) : Prop :=
  ∃ b : Body, b.wf = true ∧ b.len = len ∧ b.packed = p ∧ b.admitted c op = true ∧ buildInstr op h b = some i

theorem reads_iff_of_class {c : DecCtx} {op len : Nat} {h : Hdr} {p : Packed} {i : Instr} {cls : OpClass} (hcls : opClass op = some cls) :
    Reads c op h len p i ↔
      ∃ b : Body, b.ofClass cls ∧ b.wf = true ∧ b.len = len ∧ b.packed = p ∧ b.admitted c op = true ∧ buildInstr op h b = some i := by
  constructor
  · rintro ⟨b, hwf, hlen, hp, hadm, hb⟩
    obtain ⟨cls', hcls', hof⟩ := ofClass_of_parts (buildInstr_eq_some hb).1
    cases hcls.symm.trans hcls'
    exact ⟨b, hof, hwf, hlen, hp, hadm, hb⟩
  · rintro ⟨b, -, hread⟩
    exact ⟨b, hread⟩

section
variable {c : DecCtx} {op r31 len w1 w2 : Nat} {h : Hdr} {d a b m : Nat} {i : Instr}

theorem waitc_reads_iff (hop : op < 256) (hp : Packed.Fit ⟨d, a, b, m, w1 + 2 ^ 32 * w2⟩) (h1 : w1 < 2 ^ 32) (hn : len ≠ 2 → w2 = 0)
    (hcls : opClass op = some .waitc) :
    opCheck (len == 1 && m / 2 == 1) (decodeWaitc h r31 d a b m w1) = .ok i ↔
      r31 = 0 ∧ Reads c op h len ⟨d, a, b, m, w1 + 2 ^ 32 * w2⟩ i := by
  cases op_of_waitc op hop hcls
  simp only [opCheck_ok, Bool.and_eq_true, beq_iff_eq, reads_iff_of_class hcls, Body.ofClass]
  constructor
  · rintro ⟨⟨rfl, hm⟩, hdec⟩
    obtain ⟨hr, o, hwf, hpk, rfl⟩ := (decodeWaitc_ok_iff (p := ⟨d, a, b, m, w1⟩) ⟨hp.d, hp.a, hp.b, hp.m⟩ h1).mp hdec
    exact ⟨hr, _, ⟨o, rfl⟩, hwf, rfl, by simp [hpk, hn], rfl, rfl⟩
  · rintro ⟨hr, _, ⟨o, rfl⟩, hwf, rfl, hpk, -, hb⟩
    cases hb
    simp only [hn (by simp [Body.len]), Nat.mul_zero, Nat.add_zero] at hpk
    refine ⟨⟨rfl, ?_⟩, (decodeWaitc_ok_iff (p := ⟨d, a, b, m, w1⟩) ⟨hp.d, hp.a, hp.b, hp.m⟩ h1).mpr ⟨hr, o, hwf, hpk, rfl⟩⟩
    cases hpk
    rfl

theorem smovi_reads_iff (hop : op < 256) (hp : Packed.Fit ⟨d, a, b, m, w1 + 2 ^ 32 * w2⟩) (h1 : w1 < 2 ^ 32) (h2 : w2 < 2 ^ 32)
    (hn : len ≠ 2 → w2 = 0) (hcls : opClass op = some .smovi) :
    opCheck (len == 2 || len == 1 && m / 2 == 1) (decodeSmovi h r31 d a b m (len == 2) w1 w2) = .ok i ↔
      r31 = 0 ∧ Reads c op h len ⟨d, a, b, m, w1 + 2 ^ 32 * w2⟩ i := by
  cases op_of_smovi op hop hcls
  have hdec := decodeSmovi_ok_iff (r31 := r31) (h := h) (wide := len == 2) (i := i) hp h1 h2 (by simpa using hn) rfl
  simp only at hdec
  simp only [opCheck_ok, Bool.or_eq_true, Bool.and_eq_true, beq_iff_eq, reads_iff_of_class hcls, Body.ofClass, hdec]
  constructor
  · rintro ⟨hlen, hr, o, hwide, hwf, hpk, rfl⟩
    refine ⟨hr, _, ⟨o, rfl⟩, hwf, ?_, hpk, rfl, rfl⟩
    simp only [Body.len, hwide, beq_iff_eq]
    split_ifs <;> omega
  · rintro ⟨hr, _, ⟨o, rfl⟩, hwf, rfl, hpk, -, hb⟩
    cases hb
    obtain ⟨od, wide, imm⟩ := o
    cases wide with
    | false =>
      have hm : 2 = m := congrArg Packed.m hpk
      exact ⟨.inr ⟨rfl, by rw [← hm]⟩, hr, _, rfl, hwf, hpk, rfl⟩
    | true => exact ⟨.inl rfl, hr, _, rfl, hwf, hpk, rfl⟩

theorem mem_reads_iff (hp : Packed.Fit ⟨d, a, b, m, w1 + 2 ^ 32 * w2⟩) (h1 : w1 < 2 ^ 32) (hn : len ≠ 2 → w2 = 0)
    (hcls : opClass op = some .mem) :
    opCheck (len == 1) (decodeMem c op h r31 d a b m w1) = .ok i ↔ r31 = 0 ∧ Reads c op h len ⟨d, a, b, m, w1 + 2 ^ 32 * w2⟩ i := by
  have hdec := decodeMem_ok_iff (c := c) (op := op) (r31 := r31) (h := h) (i := i) (p := ⟨d, a, b, m, w1⟩) ⟨hp.d, hp.a, hp.b, hp.m⟩ h1
  simp only at hdec
  simp only [opCheck_ok, beq_iff_eq, reads_iff_of_class hcls, Body.ofClass, hdec]
  constructor
  · rintro ⟨rfl, hr, o, hwf, hadm, hpk, hb⟩
    exact ⟨hr, _, ⟨o, rfl⟩, hwf, rfl, by simp [hpk, hn], hadm, hb⟩
  · rintro ⟨hr, _, ⟨o, rfl⟩, hwf, rfl, hpk, hadm, hb⟩
    simp only [hn (by simp [Body.len]), Nat.mul_zero, Nat.add_zero] at hpk
    exact ⟨rfl, hr, o, hwf, hadm, hpk, hb⟩

theorem ext_reads_iff (hp : Packed.Fit ⟨d, a, b, m, w1 + 2 ^ 32 * w2⟩) (h1 : w1 < 2 ^ 32) (h2 : w2 < 2 ^ 32)
    (hcls : opClass op = some .ext) :
    opCheck (len == 2) (decodeExt c op h r31 d a b m (w1 + 2 ^ 32 * w2)) = .ok i ↔
      r31 = 0 ∧ Reads c op h len ⟨d, a, b, m, w1 + 2 ^ 32 * w2⟩ i := by
  have hdec := decodeExt_ok_iff (c := c) (op := op) (r31 := r31) (h := h) (i := i) hp (by simp only; omega)
  simp only at hdec
  simp only [opCheck_ok, beq_iff_eq, reads_iff_of_class hcls, Body.ofClass, hdec]
  constructor
  · rintro ⟨rfl, hr, e, hwf, hadm, hpk, hb⟩
    exact ⟨hr, _, ⟨e, rfl⟩, hwf, rfl, hpk, hadm, hb⟩
  · rintro ⟨hr, _, ⟨e, rfl⟩, hwf, rfl, hpk, hadm, hb⟩
    exact ⟨rfl, hr, e, hwf, hadm, hpk, hb⟩

/-- The form that LEN and M[1] tell (Table 3.1, R50). -/
theorem alu_reads_iff {fa fb fc : Bool} (hp : Packed.Fit ⟨d, a, b, m, w1 + 2 ^ 32 * w2⟩) (h1 : w1 < 2 ^ 32) (hz : len = 0 → w1 = 0)
    (hn : len ≠ 2 → w2 = 0) (hcls : opClass op = some (.alu fa fb fc)) :
    opCheck (len == 0 && fa || len == 1 && m / 2 == 0 && fb || len == 1 && m / 2 == 1 && fc)
        (decodeAlu c op h r31 d a b m (if len = 0 then .a else if m / 2 = 1 then .c else .b) w1) = .ok i ↔
      r31 = 0 ∧ Reads c op h len ⟨d, a, b, m, w1 + 2 ^ 32 * w2⟩ i := by
  have hfit : Packed.Fit ⟨d, a, b, m, w1⟩ := ⟨hp.d, hp.a, hp.b, hp.m⟩
  have hm := hp.m
  simp only at hm
  simp only [opCheck_ok, Bool.or_eq_true, Bool.and_eq_true, beq_iff_eq, reads_iff_of_class hcls, Body.ofClass]
  constructor
  · rintro ⟨(⟨rfl, hf⟩ | ⟨⟨rfl, hm2⟩, hf⟩) | ⟨⟨rfl, hm2⟩, hf⟩, hdec⟩
    · rw [if_pos rfl] at hdec
      obtain ⟨hr, o, hof, hwf, hadm, hpk, hb⟩ := (decodeAlu_a_ok_iff hfit (hz rfl) hcls hf).mp hdec
      exact ⟨hr, _, ⟨o, rfl⟩, hwf, by simp [Body.len, hof], by simp [hpk, hn], hadm, hb⟩
    · rw [if_neg (by decide), if_neg (by omega)] at hdec
      obtain ⟨hr, o, hof, hwf, hadm, hpk, hb⟩ := (decodeAlu_b_ok_iff hfit h1 hcls hf).mp hdec
      exact ⟨hr, _, ⟨o, rfl⟩, hwf, by simp [Body.len, hof], by simp [hpk, hn], hadm, hb⟩
    · rw [if_neg (by decide), if_pos hm2] at hdec
      obtain ⟨hr, o, hof, hwf, hadm, hpk, hb⟩ := (decodeAlu_c_ok_iff hfit h1 hcls hf hm2).mp hdec
      exact ⟨hr, _, ⟨o, rfl⟩, hwf, by simp [Body.len, hof], by simp [hpk, hn], hadm, hb⟩
  · rintro ⟨hr, _, ⟨o, rfl⟩, hwf, rfl, hpk, hadm, hb⟩
    have hlen : (Body.alu o).len ≠ 2 := by
      simp only [Body.len]
      split_ifs <;> decide
    simp only [hn hlen, Nat.mul_zero, Nat.add_zero] at hpk
    have hform := hadm
    simp only [Body.admitted, aluAdmitted, hcls, Bool.and_eq_true] at hform
    obtain ⟨⟨⟨⟨⟨⟨hform, -⟩, -⟩, -⟩, -⟩, -⟩, -⟩ := hform
    have hmm := natOf_le o.m0
    cases hof : o.form with
    | a =>
      simp only [hof] at hform
      have hl : (Body.alu o).len = 0 := by simp [Body.len, hof]
      simp only [hl, if_true, hform]
      exact ⟨.inl (.inl ⟨trivial, trivial⟩), (decodeAlu_a_ok_iff hfit (hz hl) hcls hform).mpr ⟨hr, o, hof, hwf, hadm, hpk, hb⟩⟩
    | b =>
      simp only [hof] at hform
      have hl : (Body.alu o).len = 1 := by simp [Body.len, hof]
      have hm2 : m / 2 = 0 := by
        simp only [Body.packed, hof, Packed.mk.injEq] at hpk
        omega
      simp only [hl, hm2, hform]
      exact ⟨.inl (.inr ⟨⟨trivial, trivial⟩, trivial⟩), (decodeAlu_b_ok_iff hfit h1 hcls hform).mpr ⟨hr, o, hof, hwf, hadm, hpk, hb⟩⟩
    | c =>
      simp only [hof] at hform
      have hl : (Body.alu o).len = 1 := by simp [Body.len, hof]
      have hm2 : m / 2 = 1 := by
        simp only [Body.packed, hof, Packed.mk.injEq] at hpk
        omega
      simp only [hl, hm2, hform]
      exact ⟨.inr ⟨⟨trivial, trivial⟩, trivial⟩, (decodeAlu_c_ok_iff hfit h1 hcls hform hm2).mpr ⟨hr, o, hof, hwf, hadm, hpk, hb⟩⟩
end

theorem fits_w0 {len op : Nat} {h : Hdr} {p : Packed} (hl : len < 4) (hop : op < 256) (hh : h.wf = true) (hp : p.Fit) :
    FieldsFit [(2, len), (8, op), (3, h.stall), (12, h.wait), (4, h.pg), (1, natOf h.pn), (1, natOf h.y), (1, 0), (10, p.d), (10, p.a),
      (10, p.b), (2, p.m)] := by
  simp only [Hdr.wf, Bool.and_eq_true, decide_eq_true_eq] at hh
  obtain ⟨⟨hst, hwt⟩, hpg⟩ := hh
  simp only [FieldsFit, List.forall_mem_cons]
  exact ⟨hl, hop, hst, hwt, hpg, Nat.lt_succ_of_le (natOf_le _), Nat.lt_succ_of_le (natOf_le _), by decide, hp.d, hp.a, hp.b, hp.m, by simp⟩

/-- Words of the lengths that LEN tells, with nothing after them. -/
structure Words.Sized (w : Words) : Prop where
  len : w.len = w.w0 % 4
  w0 : w.w0 < 2 ^ 64
  w1 : w.w1 < 2 ^ 32
  w2 : w.w2 < 2 ^ 32
  noW1 : w.len = 0 → w.w1 = 0
  noW2 : w.len ≠ 2 → w.w2 = 0

/-- The checks of R64 on the fields of words: the opcode is assigned and, outside a privileged routine, not privileged, and the fields
are those of arguments it admits. -/
theorem decodeWords_ok_of_fields {c : DecCtx} {w0 w1 w2 len op stall wait pg pn y r31 d a b m : Nat} {i : Instr}
    (hf : unpack w0Layout w0 = [len, op, stall, wait, pg, pn, y, r31, d, a, b, m]) (hop : op < 256)
    (hp : Packed.Fit ⟨d, a, b, m, w1 + 2 ^ 32 * w2⟩) (h1 : w1 < 2 ^ 32) (h2 : w2 < 2 ^ 32) (hz : len = 0 → w1 = 0)
    (hn : len ≠ 2 → w2 = 0) :
    decodeWords c w0 w1 w2 = .ok i ↔
      r31 = 0 ∧ assignedIn c.encver op = true ∧ (!privilegedOp op || c.priv) = true ∧
        Reads c op { stall := stall, wait := wait, pg := pg, pn := pn == 1, y := y == 1 } len ⟨d, a, b, m, w1 + 2 ^ 32 * w2⟩ i := by
  have unprivileged {cls : OpClass} (hcls : opClass op = some cls) (hne : ∀ fa fb fc, cls ≠ .alu fa fb fc) :
      (!privilegedOp op || c.priv) = true := by
    cases hpr : privilegedOp op with
    | false => rfl
    | true =>
      obtain ⟨fa, fb, fc, halu⟩ := class_of_privileged hpr
      exact absurd (Option.some.inj (hcls.symm.trans halu)) (hne fa fb fc)
  simp only [decodeWords, hf, opCheck_ok (b := assignedIn c.encver op)]
  cases hcls : opClass op with
  | none => simp [assignedIn, hcls]
  | some cls =>
    cases cls with
    | alu fa fb fc =>
      have hiff := alu_reads_iff (c := c) (r31 := r31) (h := { stall := stall, wait := wait, pg := pg, pn := pn == 1, y := y == 1 }) (i := i)
        hp h1 hz hn hcls
      rw [opCheck_ok] at hiff
      simp only [opCheck_ok]
      tauto
    | waitc =>
      have hpr := unprivileged hcls (by simp)
      simp only [waitc_reads_iff (c := c) hop hp h1 hn hcls]
      tauto
    | smovi =>
      have hpr := unprivileged hcls (by simp)
      simp only [smovi_reads_iff (c := c) hop hp h1 h2 hn hcls]
      tauto
    | mem =>
      have hpr := unprivileged hcls (by simp)
      simp only [mem_reads_iff hp h1 hn hcls]
      tauto
    | ext =>
      have hpr := unprivileged hcls (by simp)
      simp only [ext_reads_iff hp h1 h2 hcls]
      tauto

/-- The decoder reads an instruction from words exactly when it is well formed, the checks of R64 let it through, and it encodes to
those words. -/
theorem decodeWords_ok_iff {c : DecCtx} {w : Words} {i : Instr} (hw : w.Sized) :
    decodeWords c w.w0 w.w1 w.w2 = .ok i ↔ i.wf = true ∧ i.admitted c = true ∧ encode i = some w := by
  obtain ⟨wlen, w0, w1, w2⟩ := w
  obtain ⟨hlen, h0, h1, h2, hz, hn⟩ := hw
  simp only at hlen h0 h1 h2 hz hn ⊢
  have hx1 : (w1 + 2 ^ 32 * w2) % 2 ^ 32 = w1 := by omega
  have hx2 : (w1 + 2 ^ 32 * w2) / 2 ^ 32 = w2 := by omega
  constructor
  · intro hdec
    obtain ⟨len, op, stall, wait, pg, pn, y, r31, d, a, b, m, hf⟩ :
        ∃ len op stall wait pg pn y r31 d a b m, unpack w0Layout w0 = [len, op, stall, wait, pg, pn, y, r31, d, a, b, m] :=
      ⟨_, _, _, _, _, _, _, _, _, _, _, _, rfl⟩
    obtain rfl : wlen = len := hlen.trans (List.cons.inj hf).1
    obtain ⟨hpack, hfit⟩ := eq_pack_of_unpack hf h0
    simp only [w0Layout, List.zip_cons_cons, List.zip_nil_left, FieldsFit, List.forall_mem_cons] at hpack hfit
    obtain ⟨-, hop, hst, hwt, hpg, hpn, hy, -, hd, ha, hb, hm, -⟩ := hfit
    obtain ⟨rfl, hassigned, hpriv, body, hbwf, hblen, hbp, hbadm, hbuild⟩ :=
      (decodeWords_ok_of_fields hf hop ⟨hd, ha, hb, hm⟩ h1 h2 hz hn).mp hdec
    obtain ⟨hparts, hsub⟩ := buildInstr_eq_some hbuild
    refine ⟨?_, ?_, ?_⟩
    · rw [wf_of_parts hparts, hbwf, hsub, Bool.and_true, Bool.and_true]
      simp only [Hdr.wf, Bool.and_eq_true, decide_eq_true_eq]
      exact ⟨⟨hst, hwt⟩, hpg⟩
    · rw [admitted_of_parts hparts, hassigned, hpriv, hbadm]
      rfl
    · simp only [encode, hparts, Option.map_some, encodeBody_eq _ _ hbwf, hblen, hbp, hx1, hx2, packW0, natOf_beq_one hpn,
        natOf_beq_one hy, ← hpack]
  · rintro ⟨hwf, hadm, henc⟩
    simp only [encode, Option.map_eq_some_iff, Prod.exists] at henc
    obtain ⟨op, h, b, hparts, henc⟩ := henc
    rw [wf_of_parts hparts, Bool.and_eq_true, Bool.and_eq_true] at hwf
    rw [admitted_of_parts hparts, Bool.and_eq_true, Bool.and_eq_true] at hadm
    obtain ⟨⟨hhwf, hbwf⟩, hsub⟩ := hwf
    obtain ⟨⟨hassigned, hpriv⟩, hbadm⟩ := hadm
    have hfit := Body.fit_packed hbwf
    rw [encodeBody_eq op h hbwf, Words.mk.injEq] at henc
    obtain ⟨hl, rfl, rfl, rfl⟩ := henc
    have hop : op < 256 := op_lt_of_parts hparts
    have hf : unpack w0Layout (packW0 b.len op h b.packed.d b.packed.a b.packed.b b.packed.m) =
        [b.len, op, h.stall, h.wait, h.pg, natOf h.pn, natOf h.y, 0, b.packed.d, b.packed.a, b.packed.b, b.packed.m] :=
      unpack_pack (fits_w0 (b.len_lt.trans (by decide)) hop hhwf hfit) []
    have hjoin : b.packed.x % 2 ^ 32 + 2 ^ 32 * (b.packed.x / 2 ^ 32) = b.packed.x := Nat.mod_add_div _ _
    refine (decodeWords_ok_of_fields hf hop ⟨hfit.d, hfit.a, hfit.b, hfit.m⟩ h1 h2 (by rw [hl]; exact hz) (by rw [hl]; exact hn)).mpr
      ⟨rfl, hassigned, hpriv, b, hbwf, rfl, ?_, hbadm, ?_⟩
    · rw [hjoin]
    · rw [natOf_eq_one, natOf_eq_one]
      exact buildInstr_of_parts hparts hsub

/-! ### Bytes -/

theorem leBytes_ofLe (l : List Byte) : leBytes l.length (ofLe l) = l := by
  induction l with
  | nil => rfl
  | cons b l ih =>
    have hb : b.toNat < 256 := b.isLt
    have hmod : BitVec.ofNat 8 (b.toNat + 256 * ofLe l) = b := by
      apply BitVec.eq_of_toNat_eq
      rw [BitVec.toNat_ofNat]
      omega
    have hdiv : (b.toNat + 256 * ofLe l) / 256 = ofLe l := by omega
    simp only [List.length_cons, leBytes, ofLe, hmod, hdiv, ih]

theorem leBytes_ofLe_take {l : List Byte} {n : Nat} (h : n ≤ l.length) : leBytes n (ofLe (l.take n)) = l.take n := by
  have hl := leBytes_ofLe (l.take n)
  rwa [List.length_take_of_le h] at hl

theorem ofLe_lt (l : List Byte) : ofLe l < 256 ^ l.length := by
  induction l with
  | nil => decide
  | cons b l ih =>
    have hb : b.toNat < 256 := b.isLt
    rw [ofLe, List.length_cons, Nat.pow_succ]
    omega

theorem ofLe_take_lt (l : List Byte) (n : Nat) : ofLe (l.take n) < 256 ^ n :=
  (ofLe_lt _).trans_le (Nat.pow_le_pow_right (by decide) (List.length_take_le n l))

/-- The words at the head of a list of bytes, with the length that LEN tells; the words beyond it are 0. -/
def headWords (bs : List Byte) : Words where
  len := ofLe (bs.take 8) % 4
  w0 := ofLe (bs.take 8)
  w1 := if ofLe (bs.take 8) % 4 = 0 then 0 else ofLe ((bs.drop 8).take 4)
  w2 := if ofLe (bs.take 8) % 4 = 2 then ofLe ((bs.drop 12).take 4) else 0

/-- LEN is told by the first byte (Table 3.1). -/
theorem headWords_len (bs : List Byte) : (headWords bs).len = (bs.headD 0).toNat % 4 := by
  cases bs with
  | nil => rfl
  | cons b r =>
    simp only [headWords, List.take_succ_cons, ofLe, List.headD_cons]
    omega

theorem headWords_w1 {bs : List Byte} (h : (headWords bs).len ≠ 0) : (headWords bs).w1 = ofLe ((bs.drop 8).take 4) := if_neg h

theorem headWords_w2 {bs : List Byte} (h : (headWords bs).len = 2) : (headWords bs).w2 = ofLe ((bs.drop 12).take 4) := if_pos h

theorem headWords_sized (bs : List Byte) : (headWords bs).Sized := by
  have h1 := ofLe_take_lt (bs.drop 8) 4
  have h2 := ofLe_take_lt (bs.drop 12) 4
  refine ⟨rfl, ofLe_take_lt bs 8, ?_, ?_, fun h => if_pos h, fun h => if_neg h⟩
  · simp only [headWords]
    split_ifs <;> omega
  · simp only [headWords]
    split_ifs <;> omega

/-- The decoder reads an instruction from bytes that hold all of its words. -/
theorem decodeBytes_ok_iff {c : DecCtx} {bs : List Byte} {i : Instr} {n : Nat} :
    decodeBytes c bs = .ok (i, n) ↔
      (headWords bs).len < 3 ∧ lenBytes (headWords bs).len ≤ bs.length ∧ n = lenBytes (headWords bs).len ∧
        decodeWords c (headWords bs).w0 (headWords bs).w1 (headWords bs).w2 = .ok i := by
  cases bs with
  | nil => simp [decodeBytes, headWords, ofLe, lenBytes]
  | cons b r =>
    have hlen : b.toNat % 4 = (headWords (b :: r)).len := (headWords_len (b :: r)).symm
    have hw1 : (if b.toNat % 4 = 0 then 0 else ofLe (((b :: r).drop 8).take 4)) = (headWords (b :: r)).w1 := by rw [hlen]; rfl
    have hw2 : (if b.toNat % 4 = 2 then ofLe (((b :: r).drop 12).take 4) else 0) = (headWords (b :: r)).w2 := by rw [hlen]; rfl
    simp only [decodeBytes]
    rw [hw1, hw2, hlen, show ofLe ((b :: r).take 8) = (headWords (b :: r)).w0 from rfl]
    have h4 : (headWords (b :: r)).len < 4 := Nat.mod_lt _ (by decide)
    split_ifs with h3 hs
    · simp [h3]
    · simp only [false_iff]
      omega
    · have hle : lenBytes (headWords (b :: r)).len ≤ (b :: r).length := Nat.le_of_not_lt hs
      cases decodeWords c (headWords (b :: r)).w0 (headWords (b :: r)).w1 (headWords (b :: r)).w2 with
      | error e => simp
      | ok j => simp only [Except.ok.injEq, Prod.mk.injEq, show (headWords (b :: r)).len < 3 by omega, hle, true_and, and_comm, eq_comm]

/-- The bytes of words are those of the words that their length has. -/
theorem toBytes_eq {w : Words} (h3 : w.len < 3) :
    w.toBytes = leBytes 8 w.w0 ++ (if w.len = 0 then [] else leBytes 4 w.w1) ++ (if w.len = 2 then leBytes 4 w.w2 else []) := by
  unfold Words.toBytes
  obtain h | h | h : w.len = 0 ∨ w.len = 1 ∨ w.len = 2 := by omega
  · rw [h, List.append_assoc, show lenBytes 0 = (leBytes 8 w.w0).length by rw [Machine.length_leBytes]; rfl, List.take_left]
    simp
  · rw [h, show lenBytes 1 = (leBytes 8 w.w0 ++ leBytes 4 w.w1).length by simp [Machine.length_leBytes, lenBytes], List.take_left]
    simp
  · rw [h, List.take_of_length_le (by simp [Machine.length_leBytes, lenBytes])]
    simp

theorem length_toBytes {w : Words} (h3 : w.len < 3) : w.toBytes.length = lenBytes w.len := by
  obtain h | h | h : w.len = 0 ∨ w.len = 1 ∨ w.len = 2 := by omega
  all_goals simp [toBytes_eq h3, h, Machine.length_leBytes, lenBytes]

/-- The words read from bytes are written back as those bytes. -/
theorem toBytes_headWords {bs : List Byte} (h3 : (headWords bs).len < 3) (hs : lenBytes (headWords bs).len ≤ bs.length) :
    (headWords bs).toBytes = bs.take (lenBytes (headWords bs).len) := by
  rw [toBytes_eq h3, show (headWords bs).w0 = ofLe (bs.take 8) from rfl]
  have hdrop (k : Nat) : (bs.drop k).length = bs.length - k := List.length_drop
  obtain h | h | h : (headWords bs).len = 0 ∨ (headWords bs).len = 1 ∨ (headWords bs).len = 2 := by omega
  · rw [h] at hs
    rw [if_pos h, if_neg (by omega), h, List.append_nil, List.append_nil]
    exact leBytes_ofLe_take hs
  · rw [h] at hs
    have hs : 12 ≤ bs.length := hs
    rw [if_neg (by omega), if_neg (by omega), headWords_w1 (by omega), h, List.append_nil, leBytes_ofLe_take (by omega),
      leBytes_ofLe_take (by rw [hdrop]; omega), ← List.take_add]
    rfl
  · rw [h] at hs
    have hs : 16 ≤ bs.length := hs
    rw [if_neg (by omega), if_pos h, headWords_w1 (by omega), headWords_w2 h, h, leBytes_ofLe_take (by omega),
      leBytes_ofLe_take (by rw [hdrop]; omega), leBytes_ofLe_take (by rw [hdrop]; omega), ← List.take_add, ← List.take_add]
    rfl

/-- The words of an instruction are read back from their bytes, whatever follows. -/
theorem headWords_toBytes {w : Words} (hw : w.Sized) (h3 : w.len < 3) (rest : List Byte) : headWords (w.toBytes ++ rest) = w := by
  obtain ⟨len, w0, w1, w2⟩ := w
  obtain ⟨hlen, h0, h1, h2, hz, hn⟩ := hw
  simp only at hlen h0 h1 h2 hz hn h3
  have e0 : ofLe (((Words.mk len w0 w1 w2).toBytes ++ rest).take 8) = w0 := by
    rw [toBytes_eq h3, List.append_assoc, List.append_assoc, List.take_left' (Machine.length_leBytes 8 w0), Machine.ofLe_leBytes]
    exact Nat.mod_eq_of_lt h0
  have e1 (h : len ≠ 0) : ofLe ((((Words.mk len w0 w1 w2).toBytes ++ rest).drop 8).take 4) = w1 := by
    rw [toBytes_eq h3, List.append_assoc, List.append_assoc, List.drop_left' (Machine.length_leBytes 8 w0), if_neg h,
      List.take_left' (Machine.length_leBytes 4 w1), Machine.ofLe_leBytes]
    exact Nat.mod_eq_of_lt h1
  have e2 (h : len = 2) : ofLe ((((Words.mk len w0 w1 w2).toBytes ++ rest).drop 12).take 4) = w2 := by
    have hl : (leBytes 8 w0 ++ leBytes 4 w1).length = 12 := by simp [Machine.length_leBytes]
    rw [toBytes_eq h3, List.append_assoc, if_neg (show len ≠ 0 by omega), if_pos h, List.drop_left' hl,
      List.take_left' (Machine.length_leBytes 4 w2), Machine.ofLe_leBytes]
    exact Nat.mod_eq_of_lt h2
  simp only [headWords, e0, ← hlen, Words.mk.injEq, true_and]
  constructor
  · split_ifs with h
    · exact (hz h).symm
    · exact e1 h
  · split_ifs with h
    · exact e2 h
    · exact (hn h).symm

/-- What the encoder writes are words of the instruction's length. -/
theorem encode_sized {i : Instr} {w : Words} (hwf : i.wf = true) (he : encode i = some w) : w.Sized ∧ w.len < 3 ∧ i.bytes = lenBytes w.len := by
  simp only [encode, Option.map_eq_some_iff, Prod.exists] at he
  obtain ⟨op, h, b, hparts, rfl⟩ := he
  rw [wf_of_parts hparts, Bool.and_eq_true, Bool.and_eq_true] at hwf
  obtain ⟨⟨hhwf, hbwf⟩, -⟩ := hwf
  obtain ⟨hx, hlow, hzero⟩ := Body.packed_x_lt hbwf
  have hlen := b.len_lt
  rw [encodeBody_eq op h hbwf]
  refine ⟨⟨?_, ?_, Nat.mod_lt _ (by decide), by simp only; omega, ?_, ?_⟩, hlen, by simp only [Instr.bytes, hparts]⟩
  · simp only [packW0, pack]
    omega
  · exact pack_lt (fits_w0 (hlen.trans (by decide)) (op_lt_of_parts hparts) hhwf (Body.fit_packed hbwf))
  · intro h0
    simp only at h0 ⊢
    rw [hzero h0, Nat.zero_mod]
  · intro h2
    exact Nat.div_eq_of_lt (hlow h2)

/-- Settles O1: the bytes of the encoding hold its words, and those words are read as the instruction (`decodeWords_ok_iff`). -/
theorem decodeEncode : Obligations.DecodeEncode := by
  intro c i w rest hwf hadm henc
  obtain ⟨hw, h3, hbytes⟩ := encode_sized hwf henc
  have hhead := headWords_toBytes hw h3 rest
  refine decodeBytes_ok_iff.mpr ?_
  rw [hhead, hbytes, List.length_append, length_toBytes h3]
  exact ⟨h3, Nat.le_add_right _ _, rfl, (decodeWords_ok_iff hw).mpr ⟨hwf, hadm, henc⟩⟩

/-- Settles O2: the words at the head of the bytes are those of the encoding, by `decodeWords_ok_iff` the other way. -/
theorem encodeDecode : Obligations.EncodeDecode := by
  intro c i n bs hdec
  obtain ⟨h3, hs, rfl, hwords⟩ := decodeBytes_ok_iff.mp hdec
  obtain ⟨hwf, hadm, henc⟩ := (decodeWords_ok_iff (headWords_sized bs)).mp hwords
  exact ⟨hwf, hadm, (encode_sized hwf henc).2.2.symm, by rw [henc, Option.map_some, toBytes_headWords h3 hs]⟩

/-! ### Opcodes that are refused -/

/-- The opcodes without a row in Table 3.11. -/
theorem opClass_unassigned : ∀ op < 256,
    (0x18 ≤ op ∧ op ≤ 0x1F ∨ 0x37 ≤ op ∧ op ≤ 0x3F ∨ 0x53 ≤ op ∧ op ≤ 0x5F ∨ op = 0x67 ∨ 0x7B ≤ op ∧ op ≤ 0x7F ∨ 0x8D ≤ op ∧ op ≤ 0x8F ∨
      op = 0x9F ∨ op = 0xAF ∨ 0xB8 ≤ op ∧ op ≤ 0xBF ∨ 0xC8 ≤ op ∧ op ≤ 0xCF ∨ op = 0xDF ∨ 0xEB ≤ op) → opClass op = none := by
  decide +kernel

/-- The OP field of word 0 (Table 3.2). -/
theorem unpack_w0 (w0 : Nat) : ∃ len stall wait pg pn y r31 d a b m,
    unpack w0Layout w0 = [len, bits w0 9 2, stall, wait, pg, pn, y, r31, d, a, b, m] :=
  ⟨_, _, _, _, _, _, _, _, _, _, _, rfl⟩

/-- The opcodes that version 4 lacks (Table 3.13). -/
theorem assignedIn_four {v op : Nat} (hv : v ≤ 4) (h : op = 0x66 ∨ 0xD4 ≤ op ∧ op ≤ 0xDE) : assignedIn v op = false := by
  have hnew : (decide (v ≤ 4) && (op == 0x66 || decide (0xD4 ≤ op) && decide (op ≤ 0xDE))) = true := by simpa [hv] using h
  rw [assignedIn, hnew, Bool.not_true, Bool.and_false, Bool.false_and]

/-- The opcodes that version 3 lacks beside those (Table 3.13). -/
theorem assignedIn_three {v op : Nat} (hv : v ≤ 3) (h : op = 0x91 ∨ op = 0xB4 ∨ op = 0xB5) : assignedIn v op = false := by
  have hnew : (decide (v ≤ 3) && (op == 0x91 || op == 0xB4 || op == 0xB5)) = true := by simpa [hv, or_assoc] using h
  rw [assignedIn, hnew, Bool.not_true, Bool.and_false]

/-- An opcode that the launch's decoder table does not assign is refused before any other field is looked at. -/
theorem decodeWords_of_not_assigned {c : DecCtx} {w0 w1 w2 : Nat} (h : assignedIn c.encver (bits w0 9 2) = false) :
    decodeWords c w0 w1 w2 = .error .illegalOp := by
  obtain ⟨len, stall, wait, pg, pn, y, r31, d, a, b, m, hf⟩ := unpack_w0 w0
  simp only [decodeWords, hf, h, opCheck, Bool.false_eq_true, if_false]

/-- Outside a privileged routine a privileged opcode is refused: by its form, or by R61. -/
theorem decodeWords_of_not_privileged {c : DecCtx} {w0 w1 w2 : Nat} (hp : c.priv = false) (h : privilegedOp (bits w0 9 2) = true) :
    decodeWords c w0 w1 w2 = .error .illegalOp := by
  obtain ⟨len, stall, wait, pg, pn, y, r31, d, a, b, m, hf⟩ := unpack_w0 w0
  obtain ⟨fa, fb, fc, hcls⟩ := class_of_privileged h
  simp [decodeWords, hf, hcls, hp, h, opCheck]

/-- Settles O3: each of the four groups is unassigned in the launch's decoder table, or privileged. -/
theorem unassignedOpcodes : Obligations.UnassignedOpcodes := by
  intro c w0 w1 w2 op hop
  have hlt : op < 256 := Nat.mod_lt _ (by decide)
  obtain hnone | ⟨hpriv, hop⟩ | ⟨hver, hop⟩ | ⟨hver, hop⟩ := hop
  · exact decodeWords_of_not_assigned (by rw [assignedIn, opClass_unassigned op hlt hnone]; rfl)
  · exact decodeWords_of_not_privileged hpriv (by simpa [privilegedOp, or_assoc] using hop)
  · exact decodeWords_of_not_assigned (assignedIn_four hver hop)
  · exact decodeWords_of_not_assigned (assignedIn_three hver hop)

end Sys2Proof
end

section
/-! What a step does with an issue in progress (R64). Its warp is found once, in the state where the writes due have landed
(`setWarp_landed`), and what `Env.fetch` finds there decides the step: a trap, a hold on counters, or the instruction. The checks are then
one lemma each, in their order. -/

-- One declaration at a time: the threads of many small proofs at once pass the memory limit of the check.
set_option Elab.async false

namespace Sys2Proof.Machine

open Claims

/-! ### The warp that an issue found -/

/-- What replaces the first element that satisfies the test matters on that element only. -/
theorem modifyFirst_congr {α : Type} {p : α → Bool} {f g : α → α} {l : List α} {x : α} (h : l.find? p = some x) (hfg : f x = g x) :
    modifyFirst p f l = modifyFirst p g l := by
  induction l with
  | nil => rfl
  | cons y r ih =>
    rw [List.find?_cons] at h
    cases hp : p y with
    | true =>
      rw [hp] at h
      cases h
      rw [modifyFirst, modifyFirst, if_pos hp, if_pos hp, hfg]
    | false =>
      rw [hp] at h
      rw [modifyFirst, modifyFirst, if_neg (by simp [hp]), if_neg (by simp [hp]), ih h]

/-- What the search finds after a replacement that keeps the test is the element replaced. -/
theorem find_modifyFirst_same {α : Type} {p : α → Bool} {f : α → α} {l : List α} {y : α} (hf : ∀ x, p (f x) = p x)
    (h : (modifyFirst p f l).find? p = some y) : ∃ x, l.find? p = some x ∧ y = f x := by
  obtain ⟨x, hx, -⟩ := find_of_modifyFirst hf h
  have hpx : p x = true := List.find?_some (p := p) hx
  exact ⟨x, hx, Option.some.inj (h.symm.trans (find_modifyFirst hx ((hf x).trans hpx)))⟩

/-- A frame once the writes due at one of its warps have landed (R85). -/
def Frame.land (f : Frame) (widx now : Nat) : Frame :=
  { f with warps := modifyFirst (fun w => w.idx == widx) (fun w => w.landDue now) f.warps }

theorem landed_eq (s : State) (c : Issue) :
    landed s c = { s with frames := modifyFirst (fun f => f.fid == c.fid) (fun f => f.land c.widx s.now) s.frames } := rfl

/-- The warp that the issue finds once its writes have landed is the one that its issue puts in the state. -/
theorem setWarp_landed {s : State} {c : Issue} {e : Env} (hc : e.c = c) (he : (landed s c).env = some e) :
    s.setWarp c.fid e.w = landed s c := by
  subst hc
  obtain ⟨-, hframe, hwarp, -, -⟩ := env_spec he
  obtain ⟨f, hf, hef⟩ :=
    find_modifyFirst_same (p := fun f : Frame => f.fid == e.c.fid) (f := fun f => f.land e.c.widx s.now) (fun _ => rfl) hframe
  have hidx : e.w.idx = e.c.widx := warp_idx hwarp
  rw [hef] at hwarp
  obtain ⟨w, hw, hew⟩ := find_modifyFirst_same (p := fun w : Warp => w.idx == e.c.widx) (f := fun w => w.landDue s.now)
    (fun w => by rw [Warp.landDue_idx]) hwarp
  have hsame : f.setWarp e.w = f.land e.c.widx s.now := by
    unfold Frame.setWarp Frame.land
    rw [hidx, modifyFirst_congr (f := fun _ => e.w) (g := fun w => w.landDue s.now) hw hew]
  rw [landed_eq, State.setWarp, modifyFirst_congr (f := fun f => f.setWarp e.w) (g := fun f => f.land e.c.widx s.now) hf hsame]

/-! ### What an issue does with what its fetch finds -/

section
variable {s : State} {c : Issue} {e : Env}

theorem issue_of_landed (hcur : s.cur = some c) (he : (landed s c).env = some e) : e.c = c := by
  obtain ⟨hc, -⟩ := env_spec he
  exact Option.some.inj (hc.symm.trans hcur)

theorem readyIssue_eq (hcur : s.cur = some c) (he : (landed s c).env = some e) (hrun : e.w.run = none) :
    readyIssue s c = match e.fetch (landed s c) with
      | .trap cause val pc ilen late clears =>
        .stop (takeTrap (clears.elim (landed s c) fun k => (landed s c).setWarp c.fid (e.w.clearErr k)) c.fid c.widx c.lanes pc ilen cause val
          none late)
      | .wait pc cs => .stop ((landed s c).endIssue c.fid { e.w with hold := some { why := .counters cs, pc := pc, lanes := c.lanes } })
      | .instr i pc len => .go i { landed s c with cur := some { c with pc := pc, len := len } } := by
  have hset := setWarp_landed (issue_of_landed hcur he) he
  unfold readyIssue
  rw [show (s.modWarp ⟨c.fid, c.widx⟩ fun w => w.landDue s.now) = landed s c from rfl, he]
  simp only [hset, hrun, Option.isSome_none, Bool.false_eq_true, if_false]
  cases e.fetch (landed s c) with
  | trap cause val pc ilen late clears => cases clears <;> rfl
  | wait pc cs => rfl
  | instr i pc len => rfl

theorem step_of_cur (hcur : s.cur = some c) : step s = match readyIssue s c with | .stop t => .next t | .go i t => exec i t := by
  unfold step
  rw [hcur]
  rfl

/-- Outside runahead a check that fails traps with its cause, its TRAPVAL and its ILen (R64). -/
theorem step_of_fetch_trap (hcur : s.cur = some c) (he : (landed s c).env = some e) (hrun : e.w.run = none) {cause : Cause}
    {val pc ilen : Nat} {late : Bool} {clears : Option Nat} (hf : e.fetch (landed s c) = .trap cause val pc ilen late clears) :
    step s = .next (takeTrap (clears.elim (landed s c) fun k => (landed s c).setWarp c.fid (e.w.clearErr k)) c.fid c.widx c.lanes pc ilen
      cause val none late) := by
  rw [step_of_cur hcur, readyIssue_eq hcur he hrun, hf]

theorem step_of_fetch_wait (hcur : s.cur = some c) (he : (landed s c).env = some e) (hrun : e.w.run = none) {pc : Nat} {cs : List (Nat × Nat)}
    (hf : e.fetch (landed s c) = .wait pc cs) :
    step s = .next ((landed s c).endIssue c.fid { e.w with hold := some { why := .counters cs, pc := pc, lanes := c.lanes } }) := by
  rw [step_of_cur hcur, readyIssue_eq hcur he hrun, hf]

theorem step_of_fetch_instr (hcur : s.cur = some c) (he : (landed s c).env = some e) (hrun : e.w.run = none) {pc len : Nat} {i : Instr}
    (hf : e.fetch (landed s c) = .instr i pc len) : step s = exec i { landed s c with cur := some { c with pc := pc, len := len } } := by
  rw [step_of_cur hcur, readyIssue_eq hcur he hrun, hf]
end

/-! ### The checks of R64 -/

section
variable {s : State} {e : Env} {pc : Nat}

theorem fetch_misaligned (h : e.c.pc % 4 ≠ 0) : e.fetch s = .trap .illegalPad (textWord s e e.c.pc) e.c.pc 0 := if_pos h

theorem fetch_outside (h : e.c.pc % 4 = 0) (ho : e.c.pc < Config.textStart ∨ e.t.textEnd ≤ e.c.pc) :
    e.fetch s = .trap .capBounds e.c.pc e.c.pc 0 := by
  simp only [Env.fetch]
  rw [if_neg (by omega), if_pos (by simpa using ho)]

theorem fetch_inside (h : e.c.pc % 4 = 0) (hl : Config.textStart ≤ e.c.pc) (hu : e.c.pc < e.t.textEnd) :
    e.fetch s =
      if textWord s e e.c.pc % 4 = 3 then
        if (e.c.pc + 4) % 32 ≠ 0 then .trap .illegalPad (textWord s e e.c.pc) e.c.pc 0
        else if e.t.textEnd ≤ e.c.pc + 4 then .trap .capBounds (e.c.pc + 4) (e.c.pc + 4) 0
        else if textWord s e (e.c.pc + 4) % 4 = 3 then .trap .illegalPad (textWord s e (e.c.pc + 4)) (e.c.pc + 4) 0
        else e.checkAt s (e.c.pc + 4)
      else e.checkAt s e.c.pc := by
  simp only [Env.fetch]
  rw [if_neg (by omega), if_neg (by simp; omega)]
  rfl

/-- Where the instruction starts, the checks from the block boundary on are what is left (R43). -/
theorem fetch_startsAt (h : StartsAt s e pc) : e.fetch s = e.checkAt s pc := by
  obtain ⟨ha, hl, hu, ⟨hw, rfl⟩ | ⟨hw, rfl, hb, hu', hw'⟩⟩ := h
  · rw [fetch_inside ha hl hu, if_neg hw]
  · rw [fetch_inside ha hl hu, if_pos hw, if_neg (by omega), if_neg (by omega), if_neg hw']

theorem checkAt_crosses (h : 32 < pc % 32 + textLen s e pc) :
    e.checkAt s pc = .trap .illegalPad (ofLe ((textBytes s e pc).take 8) % 2 ^ 32) pc 0 := if_pos h

/-- In a block: the wait of R47, a pending error (R181), then the bytes and their registers. -/
theorem checkAt_inBlock (h : pc % 32 + textLen s e pc ≤ 32) :
    e.checkAt s pc =
      if e.w.waitsOn ((waitsFor s e pc).map fun k => (k, 0)) ≠ [] then .wait pc ((waitsFor s e pc).map fun k => (k, 0))
      else match if e.w.mode = .trap then none else e.w.firstErr (waitsFor s e pc) with
        | some (k, cause, val) => .trap (Cause.ofCode cause) val pc (textLen s e pc) true (some k)
        | none => match decodeBytes e.decCtx (textBytes s e pc) with
          | .error .illegalField => .trap .illegalField (ofLe ((textBytes s e pc).take 8)) pc (textLen s e pc)
          | .error _ => .trap .illegalOp (ofLe ((textBytes s e pc).take 8)) pc (textLen s e pc)
          | .ok (i, _) => match regRange e.l.vregs e.l.sregs e.w.priv i with
            | some v => .trap .regRange v pc (textLen s e pc)
            | none => .instr i pc (textLen s e pc) := by
  have hb : e.fetchBytes s pc = textBytes s e pc := rfl
  have hn : lenBytes (((textBytes s e pc).headD 0).toNat % 4) = textLen s e pc := rfl
  have hw : waitCounters (bits (ofLe ((textBytes s e pc).take 8)) 24 13) = waitsFor s e pc := rfl
  simp only [Env.checkAt, hb, hn, hw]
  refine (if_neg (Nat.not_lt.mpr h)).trans (ite_congr rfl (fun _ => rfl) fun _ => ?_)
  generalize (if e.w.mode = .trap then none else e.w.firstErr (waitsFor s e pc)) = err
  cases err with
  | some err => rfl
  | none =>
    generalize decodeBytes e.decCtx (textBytes s e pc) = dec
    cases dec with
    | error d => cases d <;> rfl
    | ok im => rfl

theorem waitsOn_eq_nil {w : Warp} {ks : List Nat} (h : ∀ k ∈ ks, w.outstanding k = 0) : w.waitsOn (ks.map fun k => (k, 0)) = [] := by
  unfold Warp.waitsOn
  split_ifs
  · rfl
  · simpa [List.filter_eq_nil_iff] using h

theorem waitsOn_ne_nil {w : Warp} {ks : List Nat} (hrun : w.run = none) (h : ∃ k ∈ ks, 0 < w.outstanding k) :
    w.waitsOn (ks.map fun k => (k, 0)) ≠ [] := by
  obtain ⟨k, hk, hn⟩ := h
  unfold Warp.waitsOn
  rw [hrun, Option.isSome_none, if_neg (by decide)]
  exact List.ne_nil_of_mem (List.mem_filter.mpr ⟨List.mem_map_of_mem hk, by simpa using hn⟩)

theorem firstErr_eq_none {w : Warp} {ks : List Nat} (h : ∀ k ∈ ks, sget none w.errs k = none) : w.firstErr ks = none := by
  have hfind : ks.find? (fun k => (sget none w.errs k).isSome) = none := List.find?_eq_none.mpr fun k hk => by simp [h k hk]
  simp [Warp.firstErr, hfind]

theorem firstErr_eq_some {w : Warp} {ks : List Nat} {k cause val : Nat} (hf : ks.find? (fun k => (sget none w.errs k).isSome) = some k)
    (hk : sget none w.errs k = some (cause, val)) : w.firstErr ks = some (k, cause, val) := by
  simp [Warp.firstErr, hf, hk]

/-- The length that the decoder answers is the one that the first byte gives. -/
theorem textLen_of_decode {c : DecCtx} {i : Instr} {n : Nat} (h : decodeBytes c (textBytes s e pc) = .ok (i, n)) : textLen s e pc = n := by
  obtain ⟨-, -, hn, -⟩ := decodeBytes_ok_iff.mp h
  rw [hn, headWords_len]
  rfl

end

/-- Settles O5: the checks of `Env.fetch` pass one by one. -/
theorem stepRunsInstruction : Obligations.StepRunsInstruction := by
  intro s c e pc n i hcur he hrun hstart hblock hwait hdec hreg
  have hlen : textLen (landed s c) e pc = n := textLen_of_decode hdec
  refine step_of_fetch_instr hcur he hrun ?_
  rw [fetch_startsAt hstart, checkAt_inBlock (by rw [hlen]; exact hblock), waitsOn_eq_nil fun k hk => (hwait k hk).1,
    firstErr_eq_none fun k hk => (hwait k hk).2, hdec]
  simp [hreg, hlen]

/-- Settles O7: each check of `Env.fetch` that fails, in the order of R64. -/
theorem fetchTraps : Obligations.FetchTraps := by
  intro s c e hcur he hrun u trapAt
  obtain rfl : e.c = c := issue_of_landed hcur he
  have traps {cause : Cause} {val pc ilen : Nat} (hf : e.fetch u = .trap cause val pc ilen) : step s = trapAt pc cause val ilen :=
    step_of_fetch_trap hcur he hrun hf
  refine ⟨fun h => traps (fetch_misaligned h), fun h ho => traps (fetch_outside h ho), fun h hl hu hpad => ?_, fun pc hstart => ?_⟩
  · have hin := fetch_inside (s := u) h hl hu
    rw [if_pos hpad] at hin
    refine ⟨fun hb => traps ?_, fun hb hend => traps ?_, fun hb hend hpad' => traps ?_⟩
    · rw [hin, if_pos hb]
    · rw [hin, if_neg (by omega), if_pos hend]
    · rw [hin, if_neg (by omega), if_neg (by omega), if_pos hpad']
  · intro n w0 waits
    have hfetch := fetch_startsAt hstart
    refine ⟨fun hcross => traps (hfetch.trans (checkAt_crosses hcross)), fun hblock => ⟨fun hheld => ?_, fun hzero => ⟨?_, fun herr => ?_⟩⟩⟩
    · refine step_of_fetch_wait hcur he hrun ?_
      rw [hfetch, checkAt_inBlock hblock, if_pos (waitsOn_ne_nil hrun hheld)]
    · intro hmode k cause val hfind hk
      refine step_of_fetch_trap hcur he hrun (clears := some k) ?_
      rw [hfetch, checkAt_inBlock hblock, waitsOn_eq_nil hzero, firstErr_eq_some hfind hk, if_neg (by simp), if_neg hmode]
    · have hnone : (if e.w.mode = .trap then none else e.w.firstErr (waitsFor u e pc)) = none := by
        split_ifs with hmode
        · rfl
        · exact firstErr_eq_none (herr.resolve_left hmode)
      have hcheck := checkAt_inBlock hblock
      rw [waitsOn_eq_nil hzero, if_neg (by simp), hnone] at hcheck
      refine ⟨fun hdec => traps ?_, fun hdec => traps ?_, fun i m v hdec hreg => traps ?_⟩
      · rw [hfetch, hcheck, hdec]
      · rw [hfetch, hcheck, hdec]
      · rw [hfetch, hcheck, hdec]
        simp only [hreg]
        rfl

end Sys2Proof.Machine
end

section
/-! O14 fails, at an instruction term that no bytes decode to. -/

-- One declaration at a time: the threads of many small proofs at once pass the memory limit of the check.
set_option Elab.async false

namespace Sys2Proof.Machine

open Claims

/-- An issue group with no lane, at a warp of a resident frame. -/
def emptyIssue : Env where
  c := { fid := 0, widx := 0, pc := 0x100, len := 16, lanes := [] }
  f := { fid := 0, lid := 0, warps := [{ idx := 0, core := 0, part := 0, slot := 0 }] }
  w := { idx := 0, core := 0, part := 0, slot := 0 }
  l := { lid := 0, prog := 0 }
  t := { lid := 0, prog := 0 }

/-- The state of that issue. -/
def stateEmptyIssue : State := { frames := [emptyIssue.f], launches := [emptyIssue.l], cur := some emptyIssue.c }

/-- A `DEPDEC` that names a tag, which Table 3.9 does not permit, with every field in its bits. -/
def depdecOnTag : ExtArgs := { a := .s 0, b := .s 1, m0 := true, fin := .tag 0, x := .cap 1 }

/-- It enrols an operation on counter 4 all the same. -/
theorem depdecOnTag_enrols : (match exec (.depdec {} depdecOnTag) stateEmptyIssue with
    | .next t => (t.warp? emptyIssue.id).map fun w => w.ops.length
    | _ => none) = some 1 := by
  decide

/-- Refutes O14: `guardFalseEnrols` speaks of every instruction term and not of those that R64 lets through. A `DEPDEC` whose completion
is a tag completes on counter 4, the one it takes where it names none (`depInstr`), and leaves an operation on it. -/
theorem not_falseGuard : ¬ Obligations.FalseGuard := by
  rintro ⟨-, henrols⟩
  obtain ⟨-, htag⟩ := henrols stateEmptyIssue emptyIssue (.depdec {} depdecOnTag) 0x9C {} (.ext depdecOnTag) (.tag 0) ⟨rfl, rfl⟩ rfl rfl rfl
  obtain ⟨n, t, ht, hends⟩ := htag 0 rfl (by decide)
  have hops := depdecOnTag_enrols
  simp only [ht, hends.warp, Option.map_some] at hops
  exact absurd (Option.some.inj hops) (show (0 : Nat) ≠ 1 by decide)

end Sys2Proof.Machine
end

section
/-! The instructions that only complete, and the share circles (R175 to R178). A join and a leave are a search for the lowest slot of a
circle (`Circle.find_eq_some`, `Circle.find_eq_none`), and a circle that was stored is the one found again (`circle_setCircle`). -/

-- One declaration at a time: the threads of many small proofs at once pass the memory limit of the check.
set_option Elab.async false

namespace Sys2Proof.Machine

open Claims

/-! ### Instructions that only complete -/

/-- NOP, PFETCH, FENCE and YIELD: each meaning is one `finish`. -/
theorem quiet_completes : Sys2Proof.Claims.quietInstructions := by
  rintro s e h o m ⟨he, -⟩
  refine ⟨?_, ?_, fun hnone => ?_, fun hex hacc => ?_, ?_⟩
  · exact completes_of_finish he (withEnv_env he _) rfl rfl
  · exact completes_of_finish he (withEnv_env he _) rfl rfl
  · refine completes_of_finish he ((withEnv_env he _).trans ?_) rfl rfl
    rw [if_pos (by simpa using hnone)]
  · refine completes_of_finish he ((withEnv_env he _).trans ?_) rfl rfl
    rw [if_neg (by simp [hex, hacc])]
    rfl
  · exact completes_of_finish he (withEnv_env he _) rfl rfl

/-! ### Share circles -/

/-- The lowest slot that satisfies a test. -/
theorem Circle.find_eq_some {c : Circle} {p : CircSlot → Bool} {i : Nat} :
    c.find p = some i ↔ p (c.slots.getD i {}) = true ∧ i < 8 ∧ ∀ j < i, p (c.slots.getD j {}) = false := by
  simp [Circle.find, List.find?_range_eq_some]

theorem Circle.find_eq_none {c : Circle} {p : CircSlot → Bool} : c.find p = none ↔ ∀ j < 8, p (c.slots.getD j {}) = false := by
  simp [Circle.find]

/-- The circle of a context and a number is theirs. -/
theorem circle_named (s : State) (ctx num : Nat) : (s.circle ctx num).ctx = ctx ∧ (s.circle ctx num).num = num := by
  unfold State.circle
  cases hf : s.circles.find? fun c => c.ctx == ctx && c.num == num with
  | none => exact ⟨rfl, rfl⟩
  | some c => simpa using List.find?_some hf

/-- A circle that was stored is the one found under its names. -/
theorem circle_setCircle (s : State) (c : Circle) : (s.setCircle c).circle c.ctx c.num = c := by
  simp [State.setCircle, State.circle]

/-- A slot whose member left counts one join and no member. -/
theorem Circle.leave_slot {c : Circle} {fid i : Nat} (h : (c.slots.getD i {}).member = some fid) :
    (c.leave fid).slots.getD i {} = { c.slots.getD i {} with member := none } := by
  have hi : i < c.slots.length := by
    by_contra hge
    rw [List.getD_eq_default _ _ (Nat.not_lt.mp hge)] at h
    cases h
  simp only [List.getD_eq_getElem _ _ hi] at h ⊢
  simp only [Circle.leave]
  rw [List.getD_eq_getElem _ _ (by simpa using hi), List.getElem_map, if_pos h]

section
variable {s : State} {e : Env} {h : Hdr} {o : MemArgs}

theorem execShjoin_eq (ha : Acts s e h) :
    exec (.shjoin h o) s =
      if 255 < (e.rdScalar o.base).toNat then trap s e .capBounds (e.rdScalar o.base).toNat
      else match (s.circle e.l.ctx (e.rdScalar o.base).toNat).join e.c.fid with
        | none => finish s e h (e.w.put (e.w.sWrite o.d.raw allOnes64))
        | some (c, i) => finish (s.setCircle c) e h ((e.w.put (e.w.sWrite o.d.raw (BitVec.ofNat 64 i))).put (e.w.kWrite o.k (circleCap c i))) := by
  obtain ⟨⟨he, -⟩, hex⟩ := ha
  refine (withEnv_env he _).trans ((if_neg hex).trans ?_)
  refine ite_congr rfl (fun _ => rfl) fun _ => ?_
  simp only [Env.natS]
  cases (s.circle e.l.ctx (e.rdScalar o.base).toNat).join e.c.fid <;> rfl

theorem execShleave_eq (ha : Acts s e h) :
    exec (.shleave h o) s =
      if ((s.circle e.l.ctx (e.rdScalar o.base).toNat).find fun x => x.member == some e.c.fid).isNone then finish s e h e.w
      else finish (s.setCircle ((s.circle e.l.ctx (e.rdScalar o.base).toNat).leave e.c.fid)) e h e.w := by
  obtain ⟨⟨he, -⟩, hex⟩ := ha
  exact (withEnv_env he _).trans (if_neg hex)
end

/-- An access through a window granted while the slot had its member is revoked once that member has left (R178, R279). -/
theorem page_left_slot {s : State} {ctx num : Nat} {w : Warp} {who : Who} {acc : Acc} {a n i joins : Nat} {grant : List (Nat × Bool)}
    (hslot : (s.circle ctx num).slots.getD i {} = { joins := joins, member := none }) (ha : a / (4 * 2 ^ 20) = i)
    (hg : grant.getD i (0, false) = (joins, true)) :
    ((Xst.mk s w).page who (.circ ctx num grant) acc a n).2 = .trap .capRevoked 0 := by
  unfold Xst.page
  simp only [ha, hslot, hg]
  simp [natOf]

theorem share_circles : Sys2Proof.Claims.shareCircles := by
  intro s e h o d hd ha b c isMember free grant others
  obtain ⟨⟨he, hrun⟩, -⟩ := id ha
  obtain ⟨hctx, hnum⟩ : c.ctx = e.l.ctx ∧ c.num = b := circle_named s e.l.ctx b
  have hjoin := execShjoin_eq (o := o) ha
  have hleave := execShleave_eq (o := o) ha
  have hidx (x y : RegWrite) : ((e.w.put x).put y).idx = e.w.idx := by rw [Warp.put_idx, Warp.put_idx]
  have hmember (i : Nat) (p : isMember i) : ((c.slots.getD i {}).member == some e.c.fid) = true := beq_iff_eq.mpr p
  have hother (i : Nat) (p : ¬isMember i) : ((c.slots.getD i {}).member == some e.c.fid) = false := beq_eq_false_iff_ne.mpr p
  have hfree (i : Nat) (p : free i) : ((c.slots.getD i {}).member == none) = true := beq_iff_eq.mpr p
  have htaken (i : Nat) (p : ¬free i) : ((c.slots.getD i {}).member == none) = false := beq_eq_false_iff_ne.mpr p
  rw [hd] at hjoin
  refine ⟨fun hb => ?_, fun hb => ⟨fun i hi hm hlow => ?_, fun hnone i hi hf hlow => ?_, fun hfull => ?_⟩, fun hnone => ?_, fun i hi hm => ?_⟩
  · exact hjoin.trans ((if_pos hb).trans (trap_eq hrun _ _ _))
  · have hj : c.join e.c.fid = some (c, i) := by
      unfold Circle.join
      rw [Circle.find_eq_some.mpr ⟨hmember i hm, hi, fun j hji => hother j (hlow j hji)⟩]
    rw [if_neg (Nat.not_lt.mpr hb), hj] at hjoin
    exact completes_of_finish he hjoin rfl (hidx _ _)
  · have hj : c.join e.c.fid = some ({ c with slots := modifyAt (fun x => ⟨x.joins + 1, some e.c.fid⟩) i c.slots }, i) := by
      unfold Circle.join
      rw [Circle.find_eq_none.mpr fun j hj => hother j (hnone j hj),
        Circle.find_eq_some.mpr ⟨hfree i hf, hi, fun j hji => htaken j (hlow j hji)⟩]
    rw [if_neg (Nat.not_lt.mpr hb), hj] at hjoin
    exact completes_of_finish he hjoin rfl (hidx _ _)
  · have hj : c.join e.c.fid = none := by
      unfold Circle.join
      rw [Circle.find_eq_none.mpr fun j hj => hother j (hfull j hj).1, Circle.find_eq_none.mpr fun j hj => htaken j (hfull j hj).2]
    rw [if_neg (Nat.not_lt.mpr hb), hj] at hjoin
    exact completes_of_finish he hjoin rfl (Warp.put_idx _ _)
  · rw [if_pos (by rw [Circle.find_eq_none.mpr fun j hj => hother j (hnone j hj)]; rfl)] at hleave
    exact completes_of_finish he hleave rfl rfl
  · intro c' t
    have hfound : ¬(c.find fun x => x.member == some e.c.fid).isNone = true := by
      rw [Option.isNone_iff_eq_none, Circle.find_eq_none]
      intro hall
      have := hall i hi
      rw [hmember i hm] at this
      cases this
    rw [if_neg hfound] at hleave
    refine ⟨completes_of_finish he hleave rfl rfl, fun w who acc a n g hpage hg => ?_⟩
    have hslot : (t.circle e.l.ctx b).slots.getD i {} = { joins := (c.slots.getD i {}).joins, member := none } := by
      have hstored : t.circle c.ctx c.num = c.leave e.c.fid := circle_setCircle s (c.leave e.c.fid)
      rw [hctx, hnum] at hstored
      rw [hstored, Circle.leave_slot hm]
    exact page_left_slot hslot hpage hg

/-- Settles O34: every meaning is one `finish`, and a window's slot that was left no longer counts the joins it was granted at. -/
theorem quietInstructions : Obligations.QuietInstructions := ⟨quiet_completes, share_circles⟩

end Sys2Proof.Machine
end

section
/-! How a warp issues (R218 to R225, R230). A choice is one of two: the next PC of a burst (`burstIssue_eq_some`) or the lowest PC of the
candidates (`freshChoice_of_not_starved`), and the miss counts follow from which. A partition first holds the warps that met a full queue
(`Noted`), then picks one (`firstAt_spec`), then takes the Y hints away (`Unhinted`); each of the three changes one field of warps found
by their ids (`warp_modWarp`), so what is picked is what the state before would have issued. -/

-- One declaration at a time: the threads of many small proofs at once pass the memory limit of the check.
set_option Elab.async false

namespace Sys2Proof.Machine

open Claims

/-! ### Lanes -/

/-- A lane of the warp is runnable (R220). -/
def Warp.Runs (w : Warp) (k : Nat) : Prop :=
  k < w.wc.lanes.length ∧ (w.lane k).st = .live ∧ (w.lane k).waitJoin = none ∧ (w.lane k).waitBar = none

theorem mem_liveLanes {w : Warp} {k : Nat} : k ∈ w.liveLanes ↔ k < w.wc.lanes.length ∧ (w.lane k).st = .live := by
  simp [Warp.liveLanes]

theorem mem_runnable {w : Warp} {k : Nat} : k ∈ w.runnable ↔ w.Runs k := by
  simp [Warp.runnable, mem_liveLanes, Lane.waiting, Warp.Runs, and_assoc]

theorem lane_eq_getElem {w : Warp} {k : Nat} (h : k < w.wc.lanes.length) : w.lane k = w.wc.lanes[k] := by
  simp [Warp.lane, h]

/-- Lanes equal under their indices are equal. -/
theorem mapIdx_congr_lanes {w : Warp} {f g : Nat → Lane → Lane} (h : ∀ k < w.wc.lanes.length, f k (w.lane k) = g k (w.lane k)) :
    w.wc.lanes.mapIdx f = w.wc.lanes.mapIdx g := by
  apply List.ext_getElem (by simp)
  intro k h1 _
  have hk : k < w.wc.lanes.length := by simpa using h1
  simpa [lane_eq_getElem hk] using h k hk

/-- The warp with no lane deferred. -/
def Warp.undeferred (w : Warp) : Warp := w.setLanes (w.wc.lanes.map fun l => { l with deferred := false })

theorem lane_undeferred (w : Warp) (k : Nat) : w.undeferred.lane k = { w.lane k with deferred := false } := by
  by_cases hk : k < w.wc.lanes.length
  · simp [Warp.undeferred, Warp.setLanes, Warp.lane, hk]
  · simp [Warp.undeferred, Warp.setLanes, Warp.lane, hk]

theorem undeferred_length (w : Warp) : w.undeferred.wc.lanes.length = w.wc.lanes.length := List.length_map _

theorem undeferred_runs {w : Warp} {k : Nat} : w.undeferred.Runs k ↔ w.Runs k := by
  simp only [Warp.Runs, lane_undeferred, undeferred_length]

theorem undeferred_runnable (w : Warp) : w.undeferred.runnable = w.runnable := by
  simp only [Warp.runnable, Warp.liveLanes, lane_undeferred, undeferred_length, Lane.waiting]

/-! ### PCs of lanes -/

theorem mem_insertPc {x y : Nat} {l : List Nat} : y ∈ insertPc x l ↔ y = x ∨ y ∈ l := by
  induction l with
  | nil => simp [insertPc]
  | cons z r ih =>
    unfold insertPc
    split_ifs with hlt heq
    · simp
    · subst heq
      simp
    · simp only [List.mem_cons, ih]
      tauto

theorem pairwise_insertPc {x : Nat} {l : List Nat} (h : l.Pairwise (· < ·)) : (insertPc x l).Pairwise (· < ·) := by
  induction l with
  | nil => simp [insertPc]
  | cons z r ih =>
    obtain ⟨hz, hr⟩ := List.pairwise_cons.mp h
    unfold insertPc
    split_ifs with hlt heq
    · exact List.pairwise_cons.mpr ⟨fun y hy => (List.mem_cons.mp hy).elim (fun e => e ▸ hlt) fun hy => hlt.trans (hz y hy), h⟩
    · exact h
    · refine List.pairwise_cons.mpr ⟨fun y hy => ?_, ih hr⟩
      obtain rfl | hy := mem_insertPc.mp hy
      · omega
      · exact hz y hy

/-- The PCs of some lanes stand in ascending order, each once. -/
theorem pcs_spec (w : Warp) (ls : List Nat) :
    (w.pcs ls).Pairwise (· < ·) ∧ ∀ x, x ∈ w.pcs ls ↔ ∃ k ∈ ls, (w.lane k).pc = x := by
  have fold (ps : List Nat) (hps : ps.Pairwise (· < ·)) :
      (ls.foldl (fun ps l => insertPc (w.lane l).pc ps) ps).Pairwise (· < ·) ∧
        ∀ x, x ∈ ls.foldl (fun ps l => insertPc (w.lane l).pc ps) ps ↔ x ∈ ps ∨ ∃ k ∈ ls, (w.lane k).pc = x := by
    induction ls generalizing ps with
    | nil => simpa using hps
    | cons l r ih =>
      obtain ⟨hsorted, hmem⟩ := ih (insertPc (w.lane l).pc ps) (pairwise_insertPc hps)
      refine ⟨hsorted, fun x => ?_⟩
      rw [List.foldl_cons, hmem, mem_insertPc]
      simp only [List.mem_cons, exists_eq_or_imp]
      tauto
  obtain ⟨hsorted, hmem⟩ := fold [] List.Pairwise.nil
  exact ⟨hsorted, fun x => (hmem x).trans (by simp)⟩

theorem undeferred_pcs (w : Warp) (ls : List Nat) : w.undeferred.pcs ls = w.pcs ls := by
  simp only [Warp.pcs, lane_undeferred]

/-- The first of the ascending PCs of some lanes is the lowest. -/
theorem pcs_eq_cons {w : Warp} {ls q : List Nat} {pc : Nat} (h : w.pcs ls = pc :: q) :
    (∃ k ∈ ls, (w.lane k).pc = pc) ∧ (∀ k ∈ ls, pc ≤ (w.lane k).pc) ∧ q.Pairwise (· < ·) ∧
      ∀ x, x ∈ q ↔ x ≠ pc ∧ ∃ k ∈ ls, (w.lane k).pc = x := by
  obtain ⟨hsorted, hmem⟩ := pcs_spec w ls
  rw [h] at hsorted hmem
  obtain ⟨hlow, hq⟩ := List.pairwise_cons.mp hsorted
  refine ⟨(hmem pc).mp (by simp), fun k hk => ?_, hq, fun x => ⟨fun hx => ⟨(hlow x hx).ne', (hmem x).mp (by simp [hx])⟩, fun ⟨hne, hx⟩ => ?_⟩⟩
  · obtain heq | hq := List.mem_cons.mp ((hmem _).mpr ⟨k, hk, rfl⟩)
    · exact heq.ge
    · exact (hlow _ hq).le
  · exact (List.mem_cons.mp ((hmem x).mpr hx)).resolve_left hne

/-! ### Bursts -/

/-- The lanes that a burst issues at one of its PCs. -/
def Warp.burstAt (w : Warp) (b : Burst) (pc : Nat) : List Nat :=
  b.run.filter fun i => w.runnable.contains i && (w.lane i).pc == pc && !b.done.contains i

theorem mem_burstAt {w : Warp} {b : Burst} {pc k : Nat} : k ∈ w.burstAt b pc ↔ k ∈ b.run ∧ k ∉ b.done ∧ w.Runs k ∧ (w.lane k).pc = pc := by
  simp only [Warp.burstAt, List.mem_filter, Bool.and_eq_true, List.contains_iff_mem, mem_runnable, beq_iff_eq, Bool.not_eq_true',
    ← Bool.not_eq_true]
  tauto

theorem burstAt_eq_nil {w : Warp} {b : Burst} {pc : Nat} (h : ∀ k, ¬(k ∈ b.run ∧ k ∉ b.done ∧ w.Runs k ∧ (w.lane k).pc = pc)) :
    w.burstAt b pc = [] :=
  List.eq_nil_iff_forall_not_mem.mpr fun k hk => h k (mem_burstAt.mp hk)

theorem burstNext_eq_none {w : Warp} {b : Burst} {pcs : List Nat} (h : ∀ pc ∈ pcs, w.burstAt b pc = []) : w.burstNext b pcs = none := by
  induction pcs with
  | nil => rfl
  | cons pc r ih =>
    obtain ⟨hpc, hr⟩ := List.forall_mem_cons.mp h
    exact (if_pos hpc).trans (ih hr)

/-- A burst passes over the PCs at which no lane is left. -/
theorem burstNext_eq_some {w : Warp} {b : Burst} {p q : List Nat} {pc : Nat} (hp : ∀ x ∈ p, w.burstAt b x = []) (hpc : w.burstAt b pc ≠ []) :
    w.burstNext b (p ++ pc :: q) = some (pc, w.burstAt b pc, q) := by
  induction p with
  | nil => exact if_neg hpc
  | cons x r ih =>
    obtain ⟨hx, hr⟩ := List.forall_mem_cons.mp hp
    exact (if_pos hx).trans (ih hr)

/-- An issue of a burst, at the first of its PCs that has a lane left. -/
theorem burstIssue_eq_some {w : Warp} {b : Burst} {p q : List Nat} {pc : Nat} (hb : b.pcs = p ++ pc :: q) (hp : ∀ x ∈ p, w.burstAt b x = [])
    (hpc : w.burstAt b pc ≠ []) :
    w.burstIssue b = some (if q = [] then (pc, w.burstAt b pc, w.burstEnd { b with pcs := q, done := b.done ++ w.burstAt b pc })
      else (pc, w.burstAt b pc, { w.mapLanes (w.burstAt b pc) (fun _ l => { l with miss := 0 }) with
        burst := some { b with pcs := q, done := b.done ++ w.burstAt b pc } })) := by
  rw [Warp.burstIssue, hb, burstNext_eq_some hp hpc]
  rfl

theorem burstIssue_eq_none {w : Warp} {b : Burst} (h : ∀ pc ∈ b.pcs, w.burstAt b pc = []) : w.burstIssue b = none := by
  rw [Warp.burstIssue, burstNext_eq_none h]
  rfl

/-! ### The choice -/

/-- The runnable lanes that have missed 32 issues (R221). -/
def Warp.starved (w : Warp) : List Nat := w.runnable.filter fun i => (w.lane i).miss == 32

theorem mem_starved {w : Warp} {k : Nat} : k ∈ w.starved ↔ w.Runs k ∧ (w.lane k).miss = 32 := by
  simp [Warp.starved, mem_runnable]

/-- The burst that starved lanes start. -/
def Warp.guardBurst (w : Warp) : Burst := { pcs := w.pcs w.starved, run := w.runnable, done := [] }

theorem freshIssue_eq (w : Warp) : w.freshIssue = if w.starved ≠ [] then w.undeferred.burstIssue w.guardBurst else none := by
  have hstarved : (w.runnable.filter fun i => (w.undeferred.lane i).miss == 32) = w.starved := by simp only [lane_undeferred, Warp.starved]
  have hfresh : w.freshIssue = if (w.runnable.filter fun i => (w.undeferred.lane i).miss == 32) ≠ [] then
      w.undeferred.burstIssue ⟨w.undeferred.pcs (w.runnable.filter fun i => (w.undeferred.lane i).miss == 32), w.runnable, []⟩ else none := rfl
  rw [hfresh, hstarved, undeferred_pcs]
  rfl

/-- The lanes whose PCs are looked at: those not deferred, or all when every one is. -/
def Warp.candidates (w : Warp) : List Nat :=
  if (w.runnable.filter fun i => !(w.lane i).deferred) = [] then w.runnable else w.runnable.filter fun i => !(w.lane i).deferred

theorem mem_candidates {w : Warp} {k : Nat} :
    k ∈ w.candidates ↔ w.Runs k ∧ ((w.lane k).deferred = false ∨ ∀ j, w.Runs j → (w.lane j).deferred = true) := by
  unfold Warp.candidates
  split_ifs with h
  · have hall : ∀ j, w.Runs j → (w.lane j).deferred = true := by
      simpa [List.filter_eq_nil_iff, mem_runnable] using h
    rw [mem_runnable]
    exact ⟨fun hk => ⟨hk, .inr hall⟩, fun hk => hk.1⟩
  · obtain ⟨j, hj⟩ := List.exists_mem_of_ne_nil _ h
    simp only [List.mem_filter, mem_runnable, Bool.not_eq_true'] at hj ⊢
    refine and_congr_right fun _ => ⟨.inl, fun hk => hk.resolve_right fun hall => ?_⟩
    rw [hall j hj.1] at hj
    cases hj.2

/-- An issue of every runnable lane at a PC (R220). -/
def Warp.issueAt (w : Warp) (pc : Nat) : Nat × List Nat × Warp :=
  let ls := w.runnable.filter fun i => (w.lane i).pc == pc
  (pc, ls, w.undeferred.missed w.runnable ls)

/-- A choice with no burst under way. -/
def Warp.freshChoice (w : Warp) : Option (Nat × List Nat × Warp) :=
  match w.freshIssue with
  | some x => some x
  | none => (w.pcs w.candidates).head?.map w.issueAt

theorem chooseIssue_of_no_burst {w : Warp} (hb : w.burst = none) : w.chooseIssue = w.freshChoice := by
  simp only [Warp.chooseIssue, hb, Warp.freshChoice]
  cases w.freshIssue with
  | some x => rfl
  | none =>
    change (match w.pcs w.candidates with | [] => none | pc :: _ => some (w.issueAt pc)) = (w.pcs w.candidates).head?.map w.issueAt
    cases w.pcs w.candidates <;> rfl

/-- A burst under way issues, or ends before a new choice. -/
theorem chooseIssue_of_burst {w : Warp} {b : Burst} (hb : w.burst = some b) :
    w.chooseIssue = match w.burstIssue b with | some x => some x | none => (w.burstEnd b).chooseIssue := by
  rw [chooseIssue_of_no_burst (w := w.burstEnd b) rfl]
  simp only [Warp.chooseIssue, hb, Warp.freshChoice]
  cases w.burstIssue b with
  | some x => rfl
  | none =>
    cases (w.burstEnd b).freshIssue with
    | some x => rfl
    | none =>
      change (match (w.burstEnd b).pcs (w.burstEnd b).candidates with | [] => none | pc :: _ => some ((w.burstEnd b).issueAt pc)) = _
      cases (w.burstEnd b).pcs (w.burstEnd b).candidates <;> rfl

/-! ### Choices with and without starved lanes -/

theorem mem_guardBurst {w : Warp} {pc k : Nat} : k ∈ w.undeferred.burstAt w.guardBurst pc ↔ w.Runs k ∧ (w.lane k).pc = pc := by
  simp [mem_burstAt, Warp.guardBurst, mem_runnable, undeferred_runs, lane_undeferred]

/-- Starved lanes make the lowest of their PCs the first of a burst (R221). -/
theorem freshChoice_of_starved {w : Warp} {pc : Nat} {q : List Nat} (h : w.pcs w.starved = pc :: q) :
    w.freshChoice = some (if q = [] then (pc, w.undeferred.burstAt w.guardBurst pc,
        w.undeferred.burstEnd { w.guardBurst with pcs := q, done := w.undeferred.burstAt w.guardBurst pc })
      else (pc, w.undeferred.burstAt w.guardBurst pc, { w.undeferred.mapLanes (w.undeferred.burstAt w.guardBurst pc) (fun _ l => { l with miss := 0 }) with
        burst := some { w.guardBurst with pcs := q, done := w.undeferred.burstAt w.guardBurst pc } })) := by
  obtain ⟨⟨k, hk, hpc⟩, -⟩ := pcs_eq_cons h
  have hlanes : w.undeferred.burstAt w.guardBurst pc ≠ [] := List.ne_nil_of_mem (mem_guardBurst.mpr ⟨(mem_starved.mp hk).1, hpc⟩)
  have hissue := burstIssue_eq_some (b := w.guardBurst) (p := []) h (by simp) hlanes
  rw [Warp.freshChoice, freshIssue_eq, if_pos (List.ne_nil_of_mem hk), hissue]
  rfl

/-- With no lane starved every runnable lane at the lowest PC of the candidates issues (R220). -/
theorem freshChoice_of_not_starved {w : Warp} (h : ∀ k, ¬(w.Runs k ∧ (w.lane k).miss = 32)) :
    w.freshChoice = (w.pcs w.candidates).head?.map w.issueAt := by
  have hnil : w.starved = [] := List.eq_nil_iff_forall_not_mem.mpr fun k hk => h k (mem_starved.mp hk)
  rw [Warp.freshChoice, freshIssue_eq, if_neg (by simp [hnil])]

/-- Miss counts after the issue of every runnable lane at a PC. -/
theorem issueAt_warp (w : Warp) (pc : Nat) :
    (w.issueAt pc).2.2 = { w with wc := { w.wc with lanes := w.wc.lanes.map fun y =>
      { y with deferred := false, miss := if (y.st = .live ∧ y.waitJoin = none ∧ y.waitBar = none) ∧ y.pc ≠ pc then min 32 (y.miss + 1) else 0 } } } := by
  have hlanes : (w.undeferred.wc.lanes.mapIdx fun i l =>
      { l with miss := if w.runnable.contains i && !(w.runnable.filter fun i => (w.lane i).pc == pc).contains i then min 32 (l.miss + 1) else 0 }) =
      w.wc.lanes.map fun y => { y with deferred := false, miss :=
        if (y.st = .live ∧ y.waitJoin = none ∧ y.waitBar = none) ∧ y.pc ≠ pc then min 32 (y.miss + 1) else 0 } := by
    apply List.ext_getElem (by simp [Warp.undeferred, Warp.setLanes])
    intro k _ h2
    have hk : k < w.wc.lanes.length := by simpa using h2
    have hcond : (w.runnable.contains k && !(w.runnable.filter fun i => (w.lane i).pc == pc).contains k) = true ↔
        ((w.lane k).st = .live ∧ (w.lane k).waitJoin = none ∧ (w.lane k).waitBar = none) ∧ (w.lane k).pc ≠ pc := by
      simp only [Bool.and_eq_true, List.contains_iff_mem, mem_runnable, Bool.not_eq_true', ← Bool.not_eq_true, List.mem_filter, beq_iff_eq,
        Warp.Runs, hk, true_and]
      tauto
    have hlane := lane_eq_getElem hk
    simp only [List.getElem_mapIdx, List.getElem_map, Warp.undeferred, Warp.setLanes, ← hlane, if_congr hcond rfl rfl]
  rw [← hlanes]
  rfl

theorem candidates_ne_nil {w : Warp} {k : Nat} (h : w.Runs k) : w.candidates ≠ [] := by
  unfold Warp.candidates
  split_ifs with hall
  · exact List.ne_nil_of_mem (mem_runnable.mpr h)
  · exact hall

theorem pcs_ne_nil {w : Warp} {ls : List Nat} (h : ls ≠ []) : w.pcs ls ≠ [] := by
  obtain ⟨k, hk⟩ := List.exists_mem_of_ne_nil _ h
  exact List.ne_nil_of_mem (((pcs_spec w ls).2 _).mpr ⟨k, hk, rfl⟩)

theorem exists_runs_iff_freshChoice {w : Warp} : (∃ k, w.Runs k) ↔ w.freshChoice ≠ none := by
  constructor
  · rintro ⟨k, hk⟩
    by_cases hs : ∃ j, w.Runs j ∧ (w.lane j).miss = 32
    · obtain ⟨j, hj⟩ := hs
      obtain ⟨pc, q, hpcs⟩ := List.exists_cons_of_ne_nil (pcs_ne_nil (w := w) (List.ne_nil_of_mem (mem_starved.mpr hj)))
      rw [freshChoice_of_starved hpcs]
      exact Option.some_ne_none _
    · obtain ⟨pc, q, hpcs⟩ := List.exists_cons_of_ne_nil (pcs_ne_nil (candidates_ne_nil hk))
      rw [freshChoice_of_not_starved (not_exists.mp hs), hpcs]
      exact Option.some_ne_none _
  · intro hne
    by_contra hnone
    have hcand : w.candidates = [] := List.eq_nil_iff_forall_not_mem.mpr fun k hk => hnone ⟨k, (mem_candidates.mp hk).1⟩
    apply hne
    rw [freshChoice_of_not_starved fun k hk => hnone ⟨k, hk.1⟩, hcand]
    rfl

theorem issue_groups : issueGroups := by
  intro w hb run starved
  rw [chooseIssue_of_no_burst hb]
  refine ⟨exists_runs_iff_freshChoice, fun pc ls w' hchoice => ?_⟩
  by_cases hs : ∃ k, starved k
  · obtain ⟨j, hj⟩ := hs
    obtain ⟨pc₀, q, hpcs⟩ := List.exists_cons_of_ne_nil (pcs_ne_nil (w := w) (List.ne_nil_of_mem (mem_starved.mpr hj)))
    obtain ⟨⟨k, hk, hkpc⟩, hlow, hsorted, hmem⟩ := pcs_eq_cons hpcs
    rw [freshChoice_of_starved hpcs] at hchoice
    obtain ⟨rfl, rfl⟩ : pc₀ = pc ∧ w.undeferred.burstAt w.guardBurst pc₀ = ls := by
      split_ifs at hchoice <;> cases hchoice <;> exact ⟨rfl, rfl⟩
    have hkls := mem_guardBurst.mpr ⟨(mem_starved.mp hk).1, hkpc⟩
    refine ⟨List.ne_nil_of_mem hkls, fun i hi => mem_guardBurst.mp hi, fun _ => ⟨⟨k, hkls, (mem_starved.mp hk).2⟩,
      fun i hi => hlow i (mem_starved.mpr hi), fun i hi hpc => mem_guardBurst.mpr ⟨hi, hpc⟩, ?_⟩, fun hno => absurd hj (hno j)⟩
    rintro ⟨i, hi, hne⟩
    have hq : q ≠ [] := List.ne_nil_of_mem ((hmem _).mpr ⟨hne, i, mem_starved.mpr hi, rfl⟩)
    rw [if_neg hq] at hchoice
    cases hchoice
    exact ⟨_, rfl, rfl, fun i => mem_runnable, hsorted, fun x => by simp only [hmem, mem_starved]; rfl⟩
  · rw [freshChoice_of_not_starved (not_exists.mp hs)] at hchoice
    cases hpcs : w.pcs w.candidates with
    | nil =>
      rw [hpcs] at hchoice
      cases hchoice
    | cons pc₀ q =>
      rw [hpcs] at hchoice
      cases hchoice
      obtain ⟨⟨k, hk, hkpc⟩, hlow, -⟩ := pcs_eq_cons hpcs
      have hmem (i : Nat) : i ∈ w.runnable.filter (fun i => (w.lane i).pc == pc) ↔ w.Runs i ∧ (w.lane i).pc = pc := by
        simp [mem_runnable]
      have hkls := (hmem k).mpr ⟨(mem_candidates.mp hk).1, hkpc⟩
      exact ⟨List.ne_nil_of_mem hkls, fun i hi => (hmem i).mp hi, fun h => absurd h hs, fun _ =>
        ⟨⟨k, hkls, mem_candidates.mp hk⟩, fun i hi => hlow i (mem_candidates.mpr hi), fun i hi hpc => (hmem i).mpr ⟨hi, hpc⟩, issueAt_warp w pc⟩⟩

/-! ### Bursts -/

theorem burstEnd_eq (w : Warp) (b : Burst) :
    w.burstEnd b = { w with burst := none, wc := { w.wc with lanes := w.wc.lanes.mapIdx fun k y =>
      { y with miss := if k ∈ b.run ∧ (y.st = .live ∧ y.waitJoin = none ∧ y.waitBar = none) ∧ k ∉ b.done then min 32 (y.miss + 1) else 0 } } } := by
  have hlanes : (w.wc.lanes.mapIdx fun i l =>
      { l with miss := if (b.run.filter w.runnable.contains).contains i && !b.done.contains i then min 32 (l.miss + 1) else 0 }) =
      w.wc.lanes.mapIdx fun k y => { y with miss :=
        if k ∈ b.run ∧ (y.st = .live ∧ y.waitJoin = none ∧ y.waitBar = none) ∧ k ∉ b.done then min 32 (y.miss + 1) else 0 } := by
    refine mapIdx_congr_lanes fun k hk => ?_
    have hcond : ((b.run.filter w.runnable.contains).contains k && !b.done.contains k) = true ↔
        k ∈ b.run ∧ ((w.lane k).st = .live ∧ (w.lane k).waitJoin = none ∧ (w.lane k).waitBar = none) ∧ k ∉ b.done := by
      simp only [Bool.and_eq_true, List.contains_iff_mem, mem_runnable, Bool.not_eq_true', ← Bool.not_eq_true, List.mem_filter,
        Warp.Runs, hk, true_and, and_assoc]
    rw [if_congr hcond rfl rfl]
  rw [← hlanes]
  rfl

theorem lane_mapLanes {w : Warp} {set : List Nat} {g : Nat → Lane → Lane} {k : Nat} :
    (w.mapLanes set g).lane k = if k < w.wc.lanes.length ∧ k ∈ set then g k (w.lane k) else w.lane k := by
  by_cases hk : k < w.wc.lanes.length
  · by_cases hs : k ∈ set <;> simp [Warp.mapLanes, Warp.setLanes, Warp.lane, hk, hs]
  · simp [Warp.mapLanes, Warp.setLanes, Warp.lane, hk]

theorem burst_issues : bursts := by
  intro w b hb run at_ ended
  rw [chooseIssue_of_burst hb]
  have hended (b' : Burst) (h : b'.run = b.run) : w.burstEnd b' = ended w b'.done := by
    rw [burstEnd_eq, h]
  refine ⟨fun hnone => ?_, fun p pc q hpcs hp hpc => ?_⟩
  · rw [burstIssue_eq_none fun pc hpc => burstAt_eq_nil (hnone pc hpc), ← hended b rfl]
  · obtain ⟨k, hk⟩ := hpc
    have hlanes := List.ne_nil_of_mem (mem_burstAt.mpr hk)
    rw [burstIssue_eq_some hpcs (fun x hx => burstAt_eq_nil (hp x hx)) hlanes]
    split_ifs with hq
    · exact ⟨_, _, rfl, fun k => mem_burstAt, fun _ => hended _ rfl, fun hne => absurd hq hne⟩
    · exact ⟨_, _, rfl, fun k => mem_burstAt, fun h => absurd h hq, fun _ => ⟨rfl, fun k => lane_mapLanes⟩⟩

/-! ### The order of a full queue (R230) -/

/-- A warp's turn has come when the free entries exceed the warps ahead of it: all that are held, or those held before it. -/
theorem queueTurn_iff {s : State} {f : Frame} {w : Warp} {ahead : List (WarpId × Nat)}
    (h : (match (s.queueHeld (dieOf f.bay)).find? fun x => x.1 == ⟨f.fid, w.idx⟩ with
      | some (_, t) => (s.queueHeld (dieOf f.bay)).filter fun y => decide (y.2 < t)
      | none => s.queueHeld (dieOf f.bay)) = ahead) :
    s.queueTurn f w = true ↔ (ahead.length : Int) < 64 - (s.die (dieOf f.bay)).jobs.length := by
  have hturn : s.queueTurn f w = decide (ahead.length + (s.die (dieOf f.bay)).jobs.length < jobQueueSize) := by
    rw [← h]
    rfl
  rw [hturn, decide_eq_true_eq, show jobQueueSize = 64 from rfl]
  omega

theorem queue_order : queueOrder := by
  intro s f w held free
  refine ⟨fun t ht hin => queueTurn_iff ?_, fun hout => queueTurn_iff ?_⟩
  · have hsome : (held.find? fun x => x.1 == ⟨f.fid, w.idx⟩).isSome = true := List.find?_isSome.mpr ⟨_, hin, by simp⟩
    obtain ⟨x, hx⟩ := Option.isSome_iff_exists.mp hsome
    have hxt : x.2 = t := ht x (List.mem_of_find?_eq_some hx) (by simpa using List.find?_some hx)
    rw [hx]
    simp only [hxt]
    rfl
  · have hnone : (held.find? fun x => x.1 == ⟨f.fid, w.idx⟩) = none := List.find?_eq_none.mpr fun x hx => by simpa using hout x hx
    rw [hnone]

/-! ### What holds an instruction before its issue (R85, R218) -/

theorem doneRoom_ctr (s : State) (e : Env) (c n : Nat) :
    s.doneRoom e (.ctr c) n = if 63 ≤ e.w.outstanding c then some (.ctrRoom c) else none := by
  simp only [State.doneRoom, Warp.ctrFull, decide_eq_true_eq]

section
variable {s : State} {e : Env} {i : Instr} {op : Nat} {h : Hdr}

theorem issueHold_mem {o : MemArgs} (hrun : e.w.run = none) (hp : i.parts = some (op, h, .mem o)) (hl : 0x80 ≤ op) (hu : op ≤ 0x88) :
    s.issueHold e i = if 63 ≤ e.w.outstanding o.cc then some (.ctrRoom o.cc) else none := by
  simp only [State.issueHold, hrun, hp, Option.isSome_none, Bool.false_eq_true, if_false, if_pos (And.intro hl hu), doneRoom_ctr]

theorem issueHold_sfu {o : AluArgs} (hrun : e.w.run = none) (hp : i.parts = some (op, h, .alu o)) (hl : 0x4A ≤ op) (hu : op ≤ 0x50) :
    s.issueHold e i = if Config.sfuBusy s.now e.w.core then some .sfu else none := by
  simp only [State.issueHold, hrun, hp, Option.isSome_none, Bool.false_eq_true, if_false, hl, hu, true_and, if_neg (show op ≠ 0x52 by omega)]

theorem issueHold_copy {x : ExtArgs} (hrun : e.w.run = none) (hp : i.parts = some (op, h, .ext x)) (hl : 0x90 ≤ op) (hu : op ≤ 0x92) :
    s.issueHold e i = s.doneRoom e x.fin (e.visible (e.exec h)).length := by
  simp only [State.issueHold, hrun, hp, Option.isSome_none, Bool.false_eq_true, if_false, if_pos (And.intro hl hu)]

theorem issueHold_truss {x : ExtArgs} (hrun : e.w.run = none) (hp : i.parts = some (op, h, .ext x)) (hop : 0xC0 ≤ op ∧ op ≤ 0xC6 ∧ op ≠ 0xC5) :
    s.issueHold e i = s.trussHold e h x := by
  simp only [State.issueHold, hrun, hp, Option.isSome_none, Bool.false_eq_true, if_false, if_pos hop,
    if_neg (show ¬(0x90 ≤ op ∧ op ≤ 0x92) by omega), if_neg (show op ≠ 0x9C by omega)]

theorem issueHold_job {x : ExtArgs} (hrun : e.w.run = none) (hp : i.parts = some (op, h, .ext x)) (hop : 0xD0 ≤ op ∧ op ≤ 0xDE ∧ op ≠ 0xD7) :
    s.issueHold e i = s.jobHold e h x.fin := by
  simp only [State.issueHold, hrun, hp, Option.isSome_none, Bool.false_eq_true, if_false, if_pos hop,
    if_neg (show ¬(0x90 ≤ op ∧ op ≤ 0x92) by omega), if_neg (show op ≠ 0x9C by omega), if_neg (show ¬(0xC0 ≤ op ∧ op ≤ 0xC6 ∧ op ≠ 0xC5) by omega)]
end

section
variable {s : State} {f : Frame} {w : Warp}

/-- What an eligible warp meets. -/
theorem eligible_iff : s.eligible f w = true ↔ s.mayIssue f w = true ∧ (∃ e x, s.upNext f w = some (e, x) ∧ ∀ pc cs, x ≠ .wait pc cs) ∧
    s.nextHold f w = none := by
  unfold State.eligible
  cases hup : s.upNext f w with
  | none => simp
  | some ex =>
    obtain ⟨e, x⟩ := ex
    cases x <;> simp

theorem mayIssue_iff : s.mayIssue f w = true ↔ s.warpRuns f w = true ∧ w.nextIssue ≤ s.now ∧ ∀ h, w.hold = some h → h.why = .queueRoom := by
  unfold State.mayIssue Warp.unheld
  cases w.hold <;> simp [and_assoc]

theorem chooseIssue_of_upNext {ex : Env × Fetched} (h : s.upNext f w = some ex) : (s.atIssue f w).chooseIssue ≠ none := by
  intro hnone
  simp [State.upNext, hnone] at h
end

theorem eligibility_holds : eligibility := by
  refine ⟨fun s e i op h hrun => ⟨fun o hp hl hu => issueHold_mem hrun hp hl hu, fun o hp hl hu => issueHold_sfu hrun hp hl hu,
    fun x hp => ⟨fun hl hu => ⟨fun c hc => ?_, fun t ht => ?_⟩, fun hl hu hne c hc hroom hex => ?_, fun hl hu hne hex hturn => ?_⟩⟩,
    fun s f w e => ⟨fun pc cs hup => ?_, fun i pc n hup hheld => ?_, fun hel => ?_⟩⟩
  · rw [issueHold_copy hrun hp hl hu, hc, doneRoom_ctr]
  · rw [issueHold_copy hrun hp hl hu, ht]
    rfl
  · rw [issueHold_truss hrun hp ⟨hl, hu, hne⟩, State.trussHold, hc, doneRoom_ctr, if_neg (by omega)]
    simp [hex]
  · rw [issueHold_job hrun hp ⟨hl, hu, hne⟩]
    unfold State.jobHold
    rw [if_neg hex, hturn]
    rfl
  · rw [← Bool.not_eq_true, eligible_iff]
    rintro ⟨-, ⟨e', x, hx, hne⟩, -⟩
    cases hup.symm.trans hx
    exact hne _ _ rfl
  · rw [← Bool.not_eq_true, eligible_iff]
    rintro ⟨-, -, hnone⟩
    simp only [State.nextHold, hup, Option.map_eq_none_iff] at hnone
    exact hheld hnone
  · obtain ⟨hmay, ⟨e', x, hx, -⟩, -⟩ := eligible_iff.mp hel
    obtain ⟨hruns, hnext, hhold⟩ := mayIssue_iff.mp hmay
    exact ⟨hruns, hnext, hhold, chooseIssue_of_upNext hx⟩

/-! ### The condition of a hold (Table 11.4) -/

theorem mem_maskTags_ofNat {m n : Nat} : n ∈ maskTags (BitVec.ofNat 64 m) ↔ n < 64 ∧ m.testBit n = true := by
  simp only [maskTags, List.mem_filter, List.mem_range, BitVec.getLsbD_ofNat, Bool.and_eq_true, decide_eq_true_eq]
  tauto

theorem ready_iff {t : Tag} : t.ready = true ↔ t.count = 0 ∧ t.issued = true := by simp [Tag.ready]

theorem not_any_iff {α : Type} {o : Option α} {p : α → Bool} : (!o.any p) = true ↔ ∀ x, o = some x → p x = false := by
  cases o <;> simp

theorem full_eq_false_iff {r : Ring} : r.full = false ↔ seqSub r.rsv r.rd ≠ 2 ^ r.logn := by
  unfold Ring.full
  exact beq_eq_false_iff_ne

theorem empty_eq_false_iff {r : Ring} : r.empty = false ↔ r.tk ≠ r.wr := by
  unfold Ring.empty
  exact beq_eq_false_iff_ne

/-- Every hold but the one on a full queue. -/
theorem released_iff_of_ne {s : State} {f : Frame} {w : Warp} {why : HoldWhy} (hne : why ≠ .queueRoom) :
    s.released f w why = true ↔ HoldEnds s f w why := by
  cases why with
  | counters cs =>
    simp only [State.released, Warp.waitsOn, HoldEnds]
    cases hrun : w.run <;> simp [List.isEmpty_iff, List.filter_eq_nil_iff]
  | tagsAll m => simp [State.released, HoldEnds, List.all_eq_true, mem_maskTags_ofNat, ready_iff]
  | tagsAny m => simp [State.released, HoldEnds, State.firstReady, List.find?_isSome, mem_maskTags_ofNat, ready_iff, and_assoc]
  | ringRoom c => exact not_any_iff.trans (forall_congr' fun _ => imp_congr_right fun _ => full_eq_false_iff)
  | ringItem c => exact not_any_iff.trans (forall_congr' fun _ => imp_congr_right fun _ => empty_eq_false_iff)
  | listRoom d i =>
    simp only [State.released, HoldEnds, ReadyList.full, show listEntries = 1024 from rfl, Bool.not_eq_true', Bool.and_eq_false_iff,
      decide_eq_false_iff_not, Nat.not_le]
  | ctrRoom c => simp [State.released, HoldEnds, Warp.ctrFull]
  | tagRoom t n => simp [State.released, HoldEnds]
  | queueRoom => exact absurd rfl hne
  | trussRoom g => rfl
  | sfu => simp [State.released, HoldEnds]
  | sleep t => simp [State.released, HoldEnds]
  | barrs => rfl
  | drain => simp [State.released, HoldEnds, Warp.drained, List.isEmpty_iff]
  | window p i =>
    simp only [State.released, HoldEnds]
    cases s.frameNamed p i <;> simp [Frame.resident]
  | page n => simp [State.released, HoldEnds]
  | undo => simp [State.released, HoldEnds, Warp.partNo, show Config.partsPerCore = 8 from rfl, Option.isSome_iff_ne_none]
  | buffer ids => simp [State.released, HoldEnds, State.copiesOpen]

/-- A hold is over when its condition is true; the one on a full queue ends at an issue. -/
theorem released_iff {s : State} {f : Frame} {w : Warp} {why : HoldWhy} :
    (why ≠ .queueRoom ∧ s.released f w why = true) ↔ HoldEnds s f w why := by
  by_cases hne : why = .queueRoom
  · subst hne
    simp [HoldEnds]
  · simp only [ne_eq, hne, not_false_eq_true, true_and, released_iff_of_ne hne]

theorem beforeIssue_iff {why : HoldWhy} : why.beforeIssue = true ↔ notIssued why := by
  cases why <;> simp [HoldWhy.beforeIssue, notIssued]

/-! ### Lanes at a JOIN (R222) -/

/-- A lane that stands at a `JOIN` of a predicate. -/
def Lane.atJoin (p pc : Nat) (y : Lane) : Prop := y.waitJoin = some p ∧ y.pc = pc

theorem joined_iff {w : Warp} {pc p : Nat} :
    w.joined pc p = true ↔ ∀ k, (w.lane k).st = .live → (w.rdP p k).getLsbD 0 = true → (w.lane k).atJoin p pc := by
  simp only [Warp.joined, List.all_eq_true, mem_liveLanes, Bool.or_eq_true, Bool.not_eq_true', Bool.and_eq_true, beq_iff_eq, Lane.atJoin]
  constructor
  · intro h k hlive hbit
    by_cases hk : k < w.wc.lanes.length
    · exact (h k ⟨hk, hlive⟩).resolve_left (by simp [hbit])
    · simp [Warp.lane, hk] at hlive
  · intro h k hk
    cases hbit : (w.rdP p k).getLsbD 0 with
    | false => exact .inl rfl
    | true => exact .inr (h k hk.2 hbit)

theorem mem_lanes_iff {w : Warp} {y : Lane} : y ∈ w.wc.lanes ↔ ∃ k < w.wc.lanes.length, w.lane k = y := by
  rw [List.mem_iff_getElem]
  exact ⟨fun ⟨k, hk, h⟩ => ⟨k, hk, (lane_eq_getElem hk).trans h⟩, fun ⟨k, hk, h⟩ => ⟨k, hk, (lane_eq_getElem hk).symm.trans h⟩⟩

theorem joinDue_eq_none {w : Warp} (h : ∀ y ∈ w.wc.lanes, y.st = .live → ∀ p, y.waitJoin = some p → ¬w.joined y.pc p = true) :
    w.joinDue = none := by
  unfold Warp.joinDue
  rw [List.findSome?_eq_none_iff]
  intro k hk
  obtain ⟨hlt, hlive⟩ := mem_liveLanes.mp hk
  cases hj : (w.lane k).waitJoin with
  | none => rfl
  | some p => exact if_neg (h _ (mem_lanes_iff.mpr ⟨k, hlt, rfl⟩) hlive p hj)

/-- The `JOIN` found is one that a live lane waits at and that is complete. -/
theorem joinDue_spec {w : Warp} {pc p : Nat} (h : w.joinDue = some (pc, p)) :
    ∃ y ∈ w.wc.lanes, y.st = .live ∧ y.waitJoin = some p ∧ y.pc = pc ∧ w.joined pc p = true := by
  obtain ⟨k, hk, hf⟩ := List.exists_of_findSome?_eq_some h
  obtain ⟨hlt, hlive⟩ := mem_liveLanes.mp hk
  obtain ⟨r, hr, hf⟩ := Option.bind_eq_some_iff.mp hf
  split_ifs at hf with hjoined
  cases hf
  exact ⟨_, mem_lanes_iff.mpr ⟨k, hlt, rfl⟩, hlive, hr, rfl, hjoined⟩

/-- Where one `JOIN` only is complete it is the one found. -/
theorem joinDue_eq_some {w : Warp} {y : Lane} {p : Nat} (hy : y ∈ w.wc.lanes) (hlive : y.st = .live) (hp : y.waitJoin = some p)
    (hjoined : w.joined y.pc p = true)
    (honly : ∀ z ∈ w.wc.lanes, z.st = .live → ∀ r, z.waitJoin = some r → w.joined z.pc r = true → r = p ∧ z.pc = y.pc) :
    w.joinDue = some (y.pc, p) := by
  obtain ⟨k, hk, rfl⟩ := mem_lanes_iff.mp hy
  have hsome : w.joinDue.isSome = true := by
    unfold Warp.joinDue
    rw [List.findSome?_isSome_iff]
    exact ⟨k, mem_liveLanes.mpr ⟨hk, hlive⟩, by simp [hp, hjoined]⟩
  obtain ⟨⟨pc, r⟩, hdue⟩ := Option.isSome_iff_exists.mp hsome
  obtain ⟨z, hz, hzlive, hzr, rfl, hzj⟩ := joinDue_spec hdue
  obtain ⟨rfl, hpc⟩ := honly z hz hzlive r hzr hzj
  rw [hdue, hpc]

theorem passJoin_eq (w : Warp) (pc p after : Nat) :
    w.passJoin pc p after = { w with wc := { w.wc with lanes := w.wc.lanes.map fun z =>
      if (z.st = .live ∧ z.waitJoin = some p ∧ z.pc = pc) then { z with waitJoin := none, pc := after } else z } } := by
  unfold Warp.passJoin Warp.mapLive Warp.setLanes
  simp only [Bool.and_eq_true, decide_eq_true_eq, ← ite_and]

/-! ### The events that end holds -/

section
variable {s : State} {f : Frame} {w : Warp} {l : Launch}

theorem holdRelease_held {h : Hold} (hf : s.frame? f.fid = some f) (hw : f.warp? w.idx = some w) (hl : s.launch? f.lid = some l)
    (hh : w.hold = some h) :
    exec (.warpHoldRelease ⟨f.fid, w.idx⟩) s =
      if h.why = .queueRoom || !s.released f w h.why then .next s
      else if h.why.beforeIssue then .next (s.setWarp f.fid { w with hold := none })
      else if s.cur.isNone && s.warpRuns f w then
        .next { s.setWarp f.fid { w with hold := none } with
          cur := some { fid := f.fid, widx := w.idx, pc := h.pc, len := 0, lanes := h.lanes, after := some h.why } }
      else .next s := by
  show execWarpHoldRelease _ s = _
  simp only [execWarpHoldRelease, hf, hw, hl, hh]

theorem holdRelease_join (hf : s.frame? f.fid = some f) (hw : f.warp? w.idx = some w) (hl : s.launch? f.lid = some l) (hh : w.hold = none) :
    exec (.warpHoldRelease ⟨f.fid, w.idx⟩) s = .next (match (w.landDue s.now).joinDue with
      | none => s
      | some (pc, p) => s.setWarp f.fid ((w.landDue s.now).passJoin pc p (s.pcAfter (s.textLaunch l w).lid pc))) := by
  show execWarpHoldRelease _ s = _
  simp only [execWarpHoldRelease, hf, hw, hl, hh]
  cases (w.landDue s.now).joinDue <;> rfl

theorem sleepExpiry_eq {h : Hold} {t : Nat} (hf : s.frame? f.fid = some f) (hw : f.warp? w.idx = some w) (hh : w.hold = some h)
    (hs : h.why = .sleep t) :
    exec (.sleepExpiry ⟨f.fid, w.idx⟩) s =
      if t ≤ s.now then .next (s.setWarp f.fid ({ w with hold := none }.mapLanes h.lanes fun _ l => { l with pc := h.pc + 12 })) else .next s := by
  have hwarp : s.warp? ⟨f.fid, w.idx⟩ = some w := by rw [State.warp?, hf, Option.bind_some, hw]
  show execSleepExpiry _ s = _
  simp only [execSleepExpiry, hwarp, hh, hs]
end

theorem holds_end : holdsEnd := by
  intro s f w l hf hw hl i
  refine ⟨?_, ?_, ?_⟩
  · intro h hh t
    have hcond : ((h.why = .queueRoom || !s.released f w h.why) = true) ↔ ¬HoldEnds s f w h.why := by
      rw [← released_iff]
      cases s.released f w h.why <;> simp
    rw [holdRelease_held hf hw hl hh]
    refine ⟨fun hno => if_pos (hcond.mpr hno), fun hends => ?_⟩
    rw [if_neg fun hc => hcond.mp hc hends]
    refine ⟨fun hbefore => if_pos (beforeIssue_iff.mpr hbefore), fun hafter hcur hruns => ?_, fun hafter hno => ?_⟩
    · rw [if_neg fun hb => hafter (beforeIssue_iff.mp hb), hcur, hruns]
      rfl
    · rw [if_neg fun hb => hafter (beforeIssue_iff.mp hb), if_neg]
      rw [Bool.and_eq_true, Option.isNone_iff_eq_none]
      rintro ⟨hcur, hruns⟩
      exact hno.elim (fun h => h hcur) fun h => by simp [hruns] at h
  · intro hh v waits whole
    have hwhole (p pc : Nat) : v.joined pc p = true ↔ whole p pc := joined_iff
    rw [holdRelease_join hf hw hl hh]
    refine ⟨fun hnone => ?_, ?_⟩
    · rw [joinDue_eq_none fun y hy hlive p hp hj => hnone y hy hlive p hp ((hwhole _ _).mp hj)]
    · intro y hy hlive p hp hall honly next pass
      rw [joinDue_eq_some hy hlive hp ((hwhole _ _).mpr hall) fun z hz hzl r hr hj => honly z hz hzl r hr ((hwhole _ _).mp hj)]
      simp only [passJoin_eq]
      rfl
  · intro t h hh hs
    rw [sleepExpiry_eq hf hw hh hs]
    refine ⟨fun hlt => if_neg (Nat.not_le.mpr hlt), fun hle => (if_pos hle).trans ?_⟩
    simp only [Warp.mapLanes, Warp.setLanes, List.contains_iff_mem]

/-! ### Warps found by their ids -/

/-- No two frames share an id, and no two warps of a frame an index. -/
structure Distinct (s : State) : Prop where
  frames : (s.frames.map Frame.fid).Nodup
  warps : ∀ f ∈ s.frames, WarpsOwn f

/-- A search by a key that the replacement keeps finds the replaced element. -/
theorem find_modifyFirst_map {α : Type} {p : α → Bool} {f : α → α} {l : List α} (hf : ∀ x, p (f x) = p x) :
    (modifyFirst p f l).find? p = (l.find? p).map f := by
  cases h : l.find? p with
  | some x => exact find_modifyFirst h ((hf x).trans (List.find?_some (p := p) h))
  | none =>
    refine List.find?_eq_none.mpr fun y hy => ?_
    obtain hy | ⟨x, hx, hp, -⟩ := mem_modifyFirst hy
    · exact List.find?_eq_none.mp h y hy
    · exact absurd hp (List.find?_eq_none.mp h x hx)

/-- The warp that was changed is found changed, and every other warp as it was. -/
theorem warp_modWarp {s : State} {i : WarpId} {g : Warp → Warp} (hg : ∀ w, (g w).idx = w.idx) (j : WarpId) :
    (s.modWarp i g).warp? j = if j = i then (s.warp? i).map g else s.warp? j := by
  have hframe : (s.modWarp i g).frame? i.fid = (s.frame? i.fid).map fun f => { f with warps := modifyFirst (fun w => w.idx == i.idx) g f.warps } :=
    find_modifyFirst_map (p := fun f : Frame => f.fid == i.fid) fun _ => rfl
  have hwarp (f : Frame) : ({ f with warps := modifyFirst (fun w => w.idx == i.idx) g f.warps } : Frame).warp? i.idx = (f.warp? i.idx).map g :=
    find_modifyFirst_map (p := fun w : Warp => w.idx == i.idx) fun w => by rw [hg]
  split_ifs with hji
  · subst hji
    rw [State.warp?, State.warp?, hframe]
    cases s.frame? j.fid with
    | none => rfl
    | some f => exact hwarp f
  · rw [State.warp?, State.warp?]
    by_cases hfid : j.fid = i.fid
    · have hidx : j.idx ≠ i.idx := fun h => hji (by cases j; cases i; simp_all)
      rw [hfid, hframe]
      cases s.frame? i.fid with
      | none => rfl
      | some f =>
        refine find_modifyFirst_other (p := fun w : Warp => w.idx == i.idx) (q := fun w => w.idx == j.idx) fun w hw => ?_
        simp only [beq_iff_eq] at hw
        simp [hg, hw, hidx.symm]
    · rw [show (s.modWarp i g).frame? j.fid = s.frame? j.fid from
        find_modifyFirst_other (p := fun f : Frame => f.fid == i.fid) (q := fun f => f.fid == j.fid) fun f hf => by
          simp only [beq_iff_eq] at hf
          simp [hf, Ne.symm hfid]]

theorem Distinct.modWarp {s : State} {i : WarpId} {g : Warp → Warp} (hs : Distinct s) (hg : ∀ w, (g w).idx = w.idx) : Distinct (s.modWarp i g) where
  frames := by
    rw [show (s.modWarp i g).frames.map Frame.fid = s.frames.map Frame.fid from map_modifyFirst_eq fun _ _ _ => rfl]
    exact hs.frames
  warps f hf := by
    obtain hf | ⟨k, hk, -, rfl⟩ := mem_modifyFirst hf
    · exact hs.warps f hf
    · exact (hs.warps k hk).modifyFirst fun w _ => hg w

/-- An element is found by its key where no other has it. -/
theorem find_of_nodup {α : Type} {key : α → Nat} {l : List α} {x : α} (hn : (l.map key).Nodup) (hx : x ∈ l) :
    l.find? (fun y => key y == key x) = some x := by
  induction l with
  | nil => simp at hx
  | cons y r ih =>
    obtain ⟨hy, hr⟩ := List.nodup_cons.mp hn
    obtain rfl | hx := List.mem_cons.mp hx
    · simp
    · have hne : key y ≠ key x := fun h => hy (h ▸ List.mem_map_of_mem hx)
      rw [List.find?_cons, show (key y == key x) = false by simpa using hne]
      exact ih hr hx

theorem mem_partWarps {s : State} {p : Nat} {f : Frame} {w : Warp} :
    (f, w) ∈ s.partWarps p ↔ f ∈ s.frames ∧ w ∈ f.warps ∧ w.partNo = p ∧ w.gone = false := by
  simp only [State.partWarps, List.mem_flatMap, List.mem_map, List.mem_filter, Bool.and_eq_true, beq_iff_eq, Bool.not_eq_true', Prod.mk.injEq]
  constructor
  · rintro ⟨g, hg, v, hv, rfl, rfl⟩
    exact ⟨hg, hv⟩
  · rintro ⟨hf, hw⟩
    exact ⟨f, hf, w, hw, rfl, rfl⟩

/-- A warp of a partition is the one found under its id. -/
theorem Distinct.find_partWarps {s : State} {p : Nat} {f : Frame} {w : Warp} (hs : Distinct s) (h : (f, w) ∈ s.partWarps p) :
    s.frame? f.fid = some f ∧ f.warp? w.idx = some w ∧ s.warp? ⟨f.fid, w.idx⟩ = some w := by
  obtain ⟨hf, hw, -⟩ := mem_partWarps.mp h
  have hframe : s.frame? f.fid = some f := find_of_nodup hs.frames hf
  have hwarp : f.warp? w.idx = some w := find_of_nodup (hs.warps f hf) hw
  exact ⟨hframe, hwarp, by rw [State.warp?, hframe, Option.bind_some, hwarp]⟩

/-! ### Warps that meet a full queue (R230) -/

/-- What noting a warp does: nothing, or it is held on the queue from now on. -/
theorem noteHeld_spec (s : State) (f : Frame) (w : Warp) :
    s.noteHeld (f, w) = s ∨ w.hold = none ∧ ∃ h : Hold, h.why = .queueRoom ∧
      s.noteHeld (f, w) = s.tick.modWarp ⟨f.fid, w.idx⟩ fun v => { v with hold := some h } := by
  simp only [State.noteHeld]
  split
  · next hmay =>
    split
    · simp only [Bool.and_eq_true, Option.isNone_iff_eq_none] at hmay
      exact .inr ⟨hmay.2, _, rfl, rfl⟩
    · exact .inl rfl
  · exact .inl rfl

/-- `v` is `s` with some of its warps, held on nothing, held on a full queue. -/
structure Noted (s v : State) : Prop where
  rest : v = { s with frames := v.frames, fresh := v.fresh }
  distinct : Distinct v
  warps : ∀ i w, s.warp? i = some w → ∃ w', v.warp? i = some w' ∧ (w' = w ∨ w.hold = none ∧ ∃ h, w' = { w with hold := some h } ∧ h.why = .queueRoom)

theorem Noted.refl {s : State} (hs : Distinct s) : Noted s s := ⟨rfl, hs, fun _ w hw => ⟨w, hw, .inl rfl⟩⟩

theorem Noted.noteHeld {s v : State} {f : Frame} {w : Warp} (hv : Noted s v) (hw : s.warp? ⟨f.fid, w.idx⟩ = some w) : Noted s (v.noteHeld (f, w)) := by
  obtain heq | ⟨hnone, h, hwhy, heq⟩ := noteHeld_spec v f w
  · rwa [heq]
  · rw [heq]
    refine ⟨?_, Distinct.modWarp (s := v.tick) ⟨hv.distinct.frames, hv.distinct.warps⟩ fun _ => rfl, fun i x hx => ?_⟩
    · rw [hv.rest]
      rfl
    · obtain ⟨x', hx', hrel⟩ := hv.warps i x hx
      have hfind := warp_modWarp (s := v.tick) (i := ⟨f.fid, w.idx⟩) (g := fun v => { v with hold := some h }) (fun _ => rfl) i
      rw [hfind]
      split_ifs with hi
      · subst hi
        cases hw.symm.trans hx
        refine ⟨{ x' with hold := some h }, by rw [show v.tick.warp? ⟨f.fid, w.idx⟩ = v.warp? ⟨f.fid, w.idx⟩ from rfl, hx']; rfl, .inr ⟨hnone, h, ?_, hwhy⟩⟩
        obtain rfl | ⟨-, h', rfl, -⟩ := hrel <;> rfl
      · exact ⟨x', hx', hrel⟩

theorem noted_foldl {s : State} (hs : Distinct s) (p : Nat) : Noted s ((s.partWarps p).foldl State.noteHeld s) :=
  List.foldlRecOn (s.partWarps p) State.noteHeld (motive := Noted s) (Noted.refl hs) fun _ hv _ ha => hv.noteHeld (hs.find_partWarps ha).2.2

/-! ### Y hints (R47) -/

/-- The Y hint of a listed warp taken away. -/
def State.unhint (s : State) (x : Frame × Warp) : State :=
  if x.2.yHint then s.modWarp ⟨x.1.fid, x.2.idx⟩ fun w => { w with yHint := false } else s

/-- `v` is `u` with no Y hint left where `L` lists one. -/
structure Unhinted (u : State) (L : List (Frame × Warp)) (v : State) : Prop where
  rest : v = { u with frames := v.frames }
  warps : ∀ i w, u.warp? i = some w → ∃ b, v.warp? i = some { w with yHint := b } ∧ (w.yHint = false → b = false) ∧
    ((∃ x ∈ L, x.2.yHint = true ∧ (⟨x.1.fid, x.2.idx⟩ : WarpId) = i) → b = false)

theorem unhinted_foldl (u : State) (L : List (Frame × Warp)) : Unhinted u L (L.foldl State.unhint u) := by
  have step (v : State) (K : List (Frame × Warp)) (x : Frame × Warp) (hv : Unhinted u K v) : Unhinted u (K ++ [x]) (v.unhint x) := by
    obtain ⟨hrest, hwarps⟩ := hv
    unfold State.unhint
    split_ifs with hy
    · refine ⟨by rw [hrest]; rfl, fun i w hw => ?_⟩
      obtain ⟨b, hb, hkeep, hlist⟩ := hwarps i w hw
      have hfind := warp_modWarp (s := v) (i := ⟨x.1.fid, x.2.idx⟩) (g := fun w => { w with yHint := false }) (fun _ => rfl) i
      rw [hfind]
      split_ifs with hi
      · subst hi
        exact ⟨false, by rw [hb]; rfl, fun _ => rfl, fun _ => rfl⟩
      · refine ⟨b, hb, hkeep, fun ⟨z, hz, hzy, hzi⟩ => ?_⟩
        obtain hz | hz := List.mem_append.mp hz
        · exact hlist ⟨z, hz, hzy, hzi⟩
        · cases List.mem_singleton.mp hz
          exact absurd hzi.symm hi
    · refine ⟨hrest, fun i w hw => ?_⟩
      obtain ⟨b, hb, hkeep, hlist⟩ := hwarps i w hw
      refine ⟨b, hb, hkeep, fun ⟨z, hz, hzy, hzi⟩ => ?_⟩
      obtain hz | hz := List.mem_append.mp hz
      · exact hlist ⟨z, hz, hzy, hzi⟩
      · cases List.mem_singleton.mp hz
        exact absurd hzy hy
  have fold (K : List (Frame × Warp)) (v : State) (hv : Unhinted u K v) : Unhinted u (K ++ L) (L.foldl State.unhint v) := by
    induction L generalizing K v with
    | nil => rwa [List.append_nil]
    | cons x r ih =>
      rw [List.append_cons]
      exact ih _ _ (step v K x hv)
  exact fold [] u ⟨rfl, fun i w hw => ⟨w.yHint, hw, id, by simp⟩⟩

/-! ### The Y hint and the choice -/

/-- The warp with its Y hint set or taken away. -/
def Warp.hint (w : Warp) (b : Bool) : Warp := { w with yHint := b }

/-- A choice with the Y hint of its warp set or taken away. -/
def hintChoice (b : Bool) (x : Nat × List Nat × Warp) : Nat × List Nat × Warp := (x.1, x.2.1, x.2.2.hint b)

theorem burstNext_hint (w : Warp) (b : Bool) (B : Burst) (pcs : List Nat) : (w.hint b).burstNext B pcs = w.burstNext B pcs := by
  induction pcs with
  | nil => rfl
  | cons pc r ih =>
    unfold Warp.burstNext
    rw [ih]
    rfl

theorem burstIssue_hint (w : Warp) (b : Bool) (B : Burst) : (w.hint b).burstIssue B = (w.burstIssue B).map (hintChoice b) := by
  unfold Warp.burstIssue
  rw [burstNext_hint]
  cases w.burstNext B B.pcs with
  | none => rfl
  | some x =>
    obtain ⟨pc, ls, r⟩ := x
    cases r <;> rfl

theorem freshChoice_hint (w : Warp) (b : Bool) : (w.hint b).freshChoice = w.freshChoice.map (hintChoice b) := by
  have hissue : (w.hint b).freshIssue = w.freshIssue.map (hintChoice b) := by
    rw [freshIssue_eq, freshIssue_eq, show (w.hint b).undeferred = w.undeferred.hint b from rfl,
      show (w.hint b).starved = w.starved from rfl, show (w.hint b).guardBurst = w.guardBurst from rfl, burstIssue_hint]
    split_ifs <;> rfl
  unfold Warp.freshChoice
  rw [hissue]
  cases w.freshIssue with
  | some x => rfl
  | none =>
    show ((w.pcs w.candidates).head?.map (w.hint b).issueAt) = ((w.pcs w.candidates).head?.map w.issueAt).map (hintChoice b)
    rw [Option.map_map]
    rfl

/-- The choice does not look at the Y hint, and keeps it. -/
theorem chooseIssue_hint (w : Warp) (b : Bool) : (w.hint b).chooseIssue = w.chooseIssue.map (hintChoice b) := by
  cases hb : w.burst with
  | none => rw [chooseIssue_of_no_burst hb, chooseIssue_of_no_burst (w := w.hint b) hb, freshChoice_hint]
  | some B =>
    rw [chooseIssue_of_burst hb, chooseIssue_of_burst (w := w.hint b) hb, burstIssue_hint,
      show (w.hint b).burstEnd B = (w.burstEnd B).hint b from rfl, chooseIssue_of_no_burst (w := w.burstEnd B) rfl,
      chooseIssue_of_no_burst (w := (w.burstEnd B).hint b) rfl, freshChoice_hint]
    cases w.burstIssue B <;> rfl

theorem burstIssue_idx {w w' : Warp} {B : Burst} {pc : Nat} {ls : List Nat} (h : w.burstIssue B = some (pc, ls, w')) : w'.idx = w.idx := by
  obtain ⟨⟨pc', ls', r⟩, -, hx⟩ := Option.map_eq_some_iff.mp h
  simp only at hx
  split_ifs at hx <;> cases hx <;> rfl

theorem freshChoice_idx {w w' : Warp} {pc : Nat} {ls : List Nat} (h : w.freshChoice = some (pc, ls, w')) : w'.idx = w.idx := by
  unfold Warp.freshChoice at h
  cases hf : w.freshIssue with
  | some x =>
    rw [hf] at h
    cases h
    rw [freshIssue_eq] at hf
    split_ifs at hf
    exact burstIssue_idx (w := w.undeferred) hf
  | none =>
    rw [hf] at h
    obtain ⟨pc', -, hx⟩ := Option.map_eq_some_iff.mp h
    cases hx
    rfl

/-- The choice keeps the index of its warp. -/
theorem chooseIssue_idx {w w' : Warp} {pc : Nat} {ls : List Nat} (h : w.chooseIssue = some (pc, ls, w')) : w'.idx = w.idx := by
  cases hb : w.burst with
  | none => exact freshChoice_idx (chooseIssue_of_no_burst hb ▸ h)
  | some B =>
    rw [chooseIssue_of_burst hb, chooseIssue_of_no_burst (w := w.burstEnd B) rfl] at h
    cases hi : w.burstIssue B with
    | some x =>
      rw [hi] at h
      cases h
      exact burstIssue_idx hi
    | none =>
      rw [hi] at h
      exact freshChoice_idx (w := w.burstEnd B) h

theorem rollback_hint (w : Warp) (b : Bool) : (w.hint b).rollback = w.rollback.hint b := by
  unfold Warp.rollback
  show (match w.run with | none => w.hint b | some r => { w.hint b with wc := r.ckpt, run := none, burst := none }) = _
  cases w.run <;> rfl

/-- A warp as it would issue with its Y hint taken away. -/
theorem atIssue_hint (s : State) (f : Frame) (w : Warp) (b : Bool) : s.atIssue f (w.hint b) = (s.atIssue f w).hint b := by
  have hdeliver : s.deliver f (w.hint b) = (s.deliver f w).hint b := by
    unfold State.deliver
    rw [rollback_hint]
    rfl
  by_cases hdue : (w.hold.isNone && f.phase == .resident && s.interruptDue f w) = true
  · exact (if_pos hdue).trans (hdeliver.trans (congrArg (Warp.hint · b) (if_pos hdue).symm))
  · have hkeep : s.atIssue f w = { w with hold := none } := if_neg hdue
    rw [hkeep]
    exact if_neg hdue

theorem atIssue_idx (s : State) (f : Frame) (w : Warp) : (s.atIssue f w).idx = w.idx := by
  have hdeliver : (s.deliver f w).idx = w.rollback.idx := rfl
  unfold State.atIssue
  split_ifs
  · rw [hdeliver, Warp.rollback_idx]
  · rfl

/-! ### The rotating pointer (R219) -/

/-- The nearer to the pointer of the warp picked so far and the next one. -/
def nearer (ptr : Nat) (y x : Frame × Warp) : Frame × Warp := if slotRank ptr x.2.slot < slotRank ptr y.2.slot then x else y

theorem firstAt_cons (ptr : Nat) (y : Frame × Warp) (ws : List (Frame × Warp)) : firstAt ptr (y :: ws) = some (ws.foldl (nearer ptr) y) := by
  unfold firstAt
  rw [List.foldl_cons]
  induction ws generalizing y with
  | nil => rfl
  | cons x r ih =>
    rw [List.foldl_cons, List.foldl_cons, ← ih (nearer ptr y x)]
    refine congrArg (List.foldl _ · r) ?_
    exact (apply_ite some _ _ _).symm

theorem firstAt_ne_none {ptr : Nat} {ws : List (Frame × Warp)} (h : ws ≠ []) : firstAt ptr ws ≠ none := by
  obtain ⟨y, r, rfl⟩ := List.exists_cons_of_ne_nil h
  rw [firstAt_cons]
  exact Option.some_ne_none _

/-- The warp left over is one of those compared, and none of them is nearer. -/
theorem foldl_nearer_spec (ptr : Nat) (y : Frame × Warp) (ws : List (Frame × Warp)) :
    ws.foldl (nearer ptr) y ∈ y :: ws ∧ ∀ x ∈ y :: ws, slotRank ptr (ws.foldl (nearer ptr) y).2.slot ≤ slotRank ptr x.2.slot := by
  induction ws generalizing y with
  | nil => simp
  | cons x r ih =>
    obtain ⟨hmem, hle⟩ := ih (nearer ptr y x)
    obtain ⟨hfirst, hrest⟩ := List.forall_mem_cons.mp hle
    have hnear : (nearer ptr y x = y ∨ nearer ptr y x = x) ∧ slotRank ptr (nearer ptr y x).2.slot ≤ slotRank ptr y.2.slot ∧
        slotRank ptr (nearer ptr y x).2.slot ≤ slotRank ptr x.2.slot := by
      unfold nearer
      split_ifs with hlt
      · exact ⟨.inr rfl, hlt.le, le_rfl⟩
      · exact ⟨.inl rfl, le_rfl, Nat.not_lt.mp hlt⟩
    obtain ⟨hor, hy, hx⟩ := hnear
    rw [List.foldl_cons]
    refine ⟨?_, List.forall_mem_cons.mpr ⟨hfirst.trans hy, List.forall_mem_cons.mpr ⟨hfirst.trans hx, hrest⟩⟩⟩
    obtain heq | hin := List.mem_cons.mp hmem
    · rw [heq]
      exact List.mem_cons.mpr (hor.imp_right fun h => List.mem_cons.mpr (.inl h))
    · exact List.mem_cons_of_mem _ (List.mem_cons_of_mem _ hin)

/-- The warp picked is one of the list and stands at the least distance from the pointer. -/
theorem firstAt_spec {ptr : Nat} {ws : List (Frame × Warp)} {x : Frame × Warp} (h : firstAt ptr ws = some x) :
    x ∈ ws ∧ ∀ y ∈ ws, slotRank ptr x.2.slot ≤ slotRank ptr y.2.slot := by
  cases ws with
  | nil => cases h
  | cons y r =>
    rw [firstAt_cons] at h
    cases h
    exact foldl_nearer_spec ptr y r

/-! ### A partition's issue (R219) -/

theorem lateDue_eq_none {s : State} {p : Nat} (h : ∀ f ∈ s.frames, ∀ w ∈ f.warps, w.partNo = p → ∀ x, w.late = some x →
    s.warpRuns f w = false ∧ s.frameRuns f = false) : s.lateDue p = none := by
  unfold State.lateDue
  rw [List.findSome?_eq_none_iff]
  intro f hf
  rw [List.findSome?_eq_none_iff]
  intro w hw
  cases hl : w.late with
  | none => rfl
  | some x =>
    by_cases hp : w.partNo = p
    · obtain ⟨hruns, hframe⟩ := h f hf w hw hp x hl
      simp [hruns, hframe]
    · simp [hp]

theorem counted_iff {s : State} {x : Part} : s.counted x = true ↔ ∀ t, x.last = some t → t ≠ s.now ∧ (x.width = 64 → t + 1 ≠ s.now) := by
  unfold State.counted
  cases x.last with
  | none => simp
  | some t =>
    have heq : (∀ t', some t = some t' → t' ≠ s.now ∧ (x.width = 64 → t' + 1 ≠ s.now)) ↔ t ≠ s.now ∧ (x.width = 64 → t + 1 ≠ s.now) := by simp
    rw [heq]
    simp [imp_iff_not_or]

/-- The eligible warps of a partition. -/
def State.able (s : State) (p : Nat) : List (Frame × Warp) := (s.partWarps p).filter fun x => s.eligible x.1 x.2

/-- Those it picks from: the ones without a Y hint where there are any (R47). -/
def State.unhinted (s : State) (p : Nat) : List (Frame × Warp) :=
  if ((s.able p).filter fun x => !x.2.yHint) = [] then s.able p else (s.able p).filter fun x => !x.2.yHint

theorem execPartitionIssue_eq {s : State} {p : Nat} (hcur : s.cur = none) (hlate : s.lateDue p = none) :
    exec (.partitionIssue p) s = .next (
      let u := (s.partWarps p).foldl State.noteHeld s
      if !u.counted (u.part p) then u
      else match firstAt (u.part p).ptr (u.unhinted p) with
        | none => u
        | some x => ((u.partWarps p).foldl State.unhint u).issue p x.1 (x.2.hint false)) := by
  show execPartitionIssue p s = _
  unfold execPartitionIssue
  rw [hcur, hlate]
  dsimp only [Option.isSome_none]
  rw [if_neg Bool.false_ne_true]
  generalize (s.partWarps p).foldl State.noteHeld s = u
  by_cases hc : (!u.counted (u.part p)) = true
  · rw [if_pos hc, if_pos hc]
  · rw [if_neg hc, if_neg hc]
    show (match firstAt (u.part p).ptr (u.unhinted p) with | none => _ | some (f, w) => _) = _
    cases firstAt (u.part p).ptr (u.unhinted p) <;> rfl

theorem issue_eq {s : State} {p pc : Nat} {f : Frame} {w w' : Warp} {ls : List Nat} (h : (s.atIssue f w).chooseIssue = some (pc, ls, w')) :
    s.issue p f w = { (s.setPart p { s.part p with
        ptr := (w.slot + 1) % Config.slotsPerPart, last := some s.now, width := ((s.launch? f.lid).map Launch.width).getD 16 }).setWarp f.fid w' with
      cur := some { fid := f.fid, widx := w.idx, pc := pc, len := 0, lanes := ls } } := by
  unfold State.issue
  rw [h]

theorem warp_setWarp_same {s : State} {fid i : Nat} {v w : Warp} (h : s.warp? ⟨fid, i⟩ = some v) (hw : w.idx = i) :
    (s.setWarp fid w).warp? ⟨fid, i⟩ = some w := by
  obtain ⟨f, hf, hv⟩ := Option.bind_eq_some_iff.mp h
  rw [State.warp?, frame_setWarp w hf]
  exact warp_frame_setWarp w hv hw

theorem warp_setWarp_other {s : State} {fid : Nat} {w : Warp} {j : WarpId} (h : j ≠ ⟨fid, w.idx⟩) : (s.setWarp fid w).warp? j = s.warp? j := by
  rw [State.warp?, State.warp?]
  by_cases hfid : j.fid = fid
  · rw [hfid]
    cases hf : s.frame? fid with
    | none =>
      have hnone : (s.setWarp fid w).frame? fid = (s.frame? fid).map fun f => f.setWarp w :=
        find_modifyFirst_map (p := fun g : Frame => g.fid == fid) fun _ => rfl
      rw [hnone, hf]
      rfl
    | some f =>
      rw [frame_setWarp w hf]
      refine warp_frame_setWarp_other w fun hidx => h ?_
      cases j
      simp_all
  · rw [frame_setWarp_other w hfid]

/-- Only the frames differ in what a warp sees of itself as it would issue. -/
theorem atIssue_frames (s : State) (fs : List Frame) (f : Frame) (w : Warp) : { s with frames := fs }.atIssue f w = s.atIssue f w := rfl

theorem mem_unhinted {s : State} {p : Nat} {x : Frame × Warp} (h : x ∈ s.unhinted p) :
    x ∈ s.able p ∧ (x.2.yHint = true → ∀ y ∈ s.able p, y.2.yHint = true) := by
  unfold State.unhinted at h
  split_ifs at h with hnone
  · refine ⟨h, fun _ y hy => ?_⟩
    simpa using List.filter_eq_nil_iff.mp hnone y hy
  · obtain ⟨hx, hy⟩ := List.mem_filter.mp h
    exact ⟨hx, fun hyes => by simp [hyes] at hy⟩

theorem mem_unhinted_of {s : State} {p : Nat} {x y : Frame × Warp} (hx : x ∈ s.unhinted p) (hy : y ∈ s.able p)
    (h : x.2.yHint = false → y.2.yHint = false) : y ∈ s.unhinted p := by
  unfold State.unhinted at hx ⊢
  split_ifs at hx ⊢ with hnone
  · exact hy
  · exact List.mem_filter.mpr ⟨hy, by simpa using h (by simpa using (List.mem_filter.mp hx).2)⟩

theorem unhinted_ne_nil {s : State} {p : Nat} (h : s.able p ≠ []) : s.unhinted p ≠ [] := by
  unfold State.unhinted
  split_ifs with hnone
  · exact h
  · exact hnone

theorem unhinted_eq_nil {s : State} {p : Nat} (h : s.able p = []) : s.unhinted p = [] := by
  unfold State.unhinted
  rw [h]
  rfl

/-- The issue of the picked warp: what it changes, and that no hint stays. -/
theorem issue_spec {u : State} {p : Nat} {f : Frame} {w : Warp} (hu : Distinct u) (hin : (f, w) ∈ u.able p) (hparts : swf {} u.parts = true) :
    ∃ pc ls w', (u.atIssue f (w.hint false)).chooseIssue = some (pc, ls, w') ∧
      let t := ((u.partWarps p).foldl State.unhint u).issue p f (w.hint false)
      t.cur = some { fid := f.fid, widx := w.idx, pc := pc, len := 0, lanes := ls } ∧ t.warp? ⟨f.fid, w.idx⟩ = some w' ∧
        (t.part p).ptr = (w.slot + 1) % 16 ∧ (t.part p).last = some u.now ∧ t.mem = u.mem ∧ t.now = u.now ∧
        ∀ x ∈ u.partWarps p, u.warp? ⟨x.1.fid, x.2.idx⟩ = some x.2 → ∀ v, t.warp? ⟨x.1.fid, x.2.idx⟩ = some v → v.yHint = false := by
  obtain ⟨hlisted, heligible⟩ := List.mem_filter.mp hin
  obtain ⟨-, ⟨e, x, hx, -⟩, -⟩ := eligible_iff.mp heligible
  obtain ⟨⟨pc, ls, w₀⟩, hchoice⟩ := Option.ne_none_iff_exists'.mp (chooseIssue_of_upNext hx)
  have hchoose : (u.atIssue f (w.hint false)).chooseIssue = some (pc, ls, w₀.hint false) := by
    rw [atIssue_hint, chooseIssue_hint, hchoice]
    rfl
  have hidx : (w₀.hint false).idx = w.idx := (chooseIssue_idx hchoice).trans (atIssue_idx u f w)
  refine ⟨pc, ls, w₀.hint false, hchoose, ?_⟩
  obtain ⟨hrest, hwarps⟩ := unhinted_foldl u (u.partWarps p)
  generalize (u.partWarps p).foldl State.unhint u = v at hrest hwarps
  have hv : (v.atIssue f (w.hint false)).chooseIssue = some (pc, ls, w₀.hint false) := by
    rw [hrest, atIssue_frames]
    exact hchoose
  have hnow : v.now = u.now := by rw [hrest]
  have hvparts : v.parts = u.parts := by rw [hrest]
  have hvmem : v.mem = u.mem := by rw [hrest]
  obtain ⟨b, hb, -⟩ := hwarps _ w (hu.find_partWarps hlisted).2.2
  have hpart (X : Part) (fid : Nat) (y : Warp) (c : Option Issue) : ({ (v.setPart p X).setWarp fid y with cur := c } : State).part p = X :=
    sget_sset_same p X (by rw [hvparts]; exact hparts)
  intro t
  have ht : t = _ := issue_eq hv
  clear_value t
  subst ht
  have hsame : ({ v with frames := (v.setWarp f.fid (w₀.hint false)).frames } : State).warp? ⟨f.fid, w.idx⟩ = some (w₀.hint false) :=
    warp_setWarp_same hb hidx
  refine ⟨rfl, hsame, by rw [hpart]; rfl, by rw [hpart]; exact congrArg some hnow, hvmem, hnow, fun x hx hux z hz => ?_⟩
  by_cases hid : (⟨x.1.fid, x.2.idx⟩ : WarpId) = ⟨f.fid, w.idx⟩
  · rw [hid] at hz
    cases hsame.symm.trans hz
    rfl
  · obtain ⟨b', hb', hkeep, hlist⟩ := hwarps _ _ hux
    have hother : (v.setWarp f.fid (w₀.hint false)).warp? ⟨x.1.fid, x.2.idx⟩ = v.warp? ⟨x.1.fid, x.2.idx⟩ :=
      warp_setWarp_other (by rw [hidx]; exact hid)
    have hz' : (v.setWarp f.fid (w₀.hint false)).warp? ⟨x.1.fid, x.2.idx⟩ = some z := hz
    rw [hother, hb'] at hz'
    cases hz'
    cases hy : x.2.yHint with
    | false => exact hkeep hy
    | true => exact hlist ⟨x, hx, hy, rfl⟩

theorem partition_issues : partitionIssues := by
  intro s p hcur hframes hwarps hlate u ws able free
  have hs : Distinct s := ⟨hframes, hwarps⟩
  have hnoted : Noted s u := noted_foldl hs p
  have hparts : u.parts = s.parts := by rw [hnoted.rest]
  have hnow : u.now = s.now := by rw [hnoted.rest]
  have hmem : u.mem = s.mem := by rw [hnoted.rest]
  have hpart : u.part p = s.part p := by rw [State.part, State.part, hparts]
  have hexec := execPartitionIssue_eq hcur (lateDue_eq_none hlate)
  have hcounted : u.counted (u.part p) = true ↔ free := by rw [counted_iff, hpart, hnow]
  refine ⟨hnoted.warps, fun hno => ?_, fun hfree hable hswf => ?_⟩
  · rw [hexec]
    congr 1
    show (if !u.counted (u.part p) then u else _) = u
    split_ifs with hc
    · rfl
    · have hnil : u.able p = [] := hno.resolve_left fun hn => hn (hcounted.mp (by simpa using hc))
      rw [unhinted_eq_nil hnil]
      rfl
  · obtain ⟨⟨f, w⟩, hfirst⟩ := Option.ne_none_iff_exists'.mp (firstAt_ne_none (ptr := (u.part p).ptr) (unhinted_ne_nil hable))
    obtain ⟨hin, hleast⟩ := firstAt_spec hfirst
    obtain ⟨hmember, hhint⟩ := mem_unhinted hin
    obtain ⟨pc, ls, w', hchoose, hcur', hwarp, hptr, hlast, hmem', hnow', hclear⟩ := issue_spec hnoted.distinct hmember (hparts ▸ hswf)
    refine ⟨f, w, pc, ls, w', _, hmember, ?_, hchoose, hcur', hwarp, hptr, hnow ▸ hlast, hmem'.trans hmem, hnow'.trans hnow, hclear, hhint,
      fun x hx hle => hpart ▸ hleast x (mem_unhinted_of hin hx hle)⟩
    rw [hexec]
    congr 1
    show (if !u.counted (u.part p) then u else _) = _
    rw [hcounted.mpr hfree, hfirst]
    rfl

/-- Settles O40: its six parts, each proved above from how the choice, the holds and the picks compute. -/
theorem warpIssue : Obligations.WarpIssue := ⟨holds_end, issue_groups, burst_issues, eligibility_holds, queue_order, partition_issues⟩

end Sys2Proof.Machine
end

section
/-! How the instructions of chapter 5 complete. Outside runahead no write is ghost, so a scalar instruction is one write and a lane
instruction one write per executing lane, with the counts added (`scalarResult_eq`, `laneResult_eq`); what an instruction computes is then
all that its statement is about. -/

-- One declaration at a time: the threads of many small proofs at once pass the memory limit of the check.
set_option Elab.async false

namespace Sys2Proof.Machine

open Claims

/-- No count changes nothing (R81). -/
@[simp] theorem count_zero (w : Warp) : w.count 0 = w := by
  have hsat : addSat w.wc.satcnt 0 = w.wc.satcnt := by
    have hle : w.wc.satcnt.toNat ≤ 0xFFFFFFFF := Nat.le_of_lt_succ w.wc.satcnt.isLt
    rw [addSat, Nat.add_zero, min_eq_right hle, BitVec.ofNat_toNat, BitVec.setWidth_eq]
  rw [Warp.count, hsat]

section
variable {s : State} {e : Env} {i : Instr} {h : Hdr} {lat d : Nat} {srcs : List Opd}

theorem scalarResult_eq (ha : Acts s e h) (f : Env → W64 × Nat) :
    scalarResult s h lat (.s d) srcs f =
      finish s e h ((e.w.post s.now lat e.width [e.w.sWrite d (f e).1]).count (f e).2) := by
  obtain ⟨⟨he, hrun⟩, hex⟩ := ha
  rw [scalarResult, withEnv_env he, if_neg hex]
  simp [anyGhost_eq hrun, postG_eq hrun, Env.dst]

/-- A scalar instruction completes with one write and its count (R84). -/
theorem completes_of_scalarResult (ha : Acts s e h) {o : Opd} (ho : o = .s d) {f : Env → W64 × Nat}
    (hx : exec i s = scalarResult s h lat o srcs f) {x : W64} {n : Nat} (hf : f e = (x, n)) :
    Completes i s s e h ((e.w.post s.now lat e.width [e.w.sWrite d x]).count n) := by
  subst ho
  refine completes_of_finish ha.1.1 ?_ rfl rfl
  rw [hx, scalarResult_eq ha, hf]

/-- The same for an instruction that counts nothing. -/
theorem completes_of_scalarResult_uncounted (ha : Acts s e h) {o : Opd} (ho : o = .s d) {f : Env → W64 × Nat}
    (hx : exec i s = scalarResult s h lat o srcs f) {x : W64} (hf : f e = (x, 0)) :
    Completes i s s e h (e.w.post s.now lat e.width [e.w.sWrite d x]) := by
  simpa using completes_of_scalarResult ha ho hx hf

theorem laneResult_eq (hi : Issuing s e) (d : Opd) (f : Env → Nat → W64 × Nat) :
    laneResult s h lat d srcs f =
      finish s e h ((e.w.post s.now lat e.width ((e.exec h).flatMap fun l => e.dst d l (f e l).1)).count
        ((e.exec h).map fun l => (f e l).2).sum) := by
  obtain ⟨he, hrun⟩ := hi
  rw [laneResult, withEnv_env he]
  simp [anyGhost_eq hrun, postG_eq hrun, List.flatMap_map, List.map_flatMap, Function.comp_def]

/-- A lane instruction completes with one write per executing lane, and the counts of the lanes (R83). -/
theorem completes_of_laneResult (hi : Issuing s e) {o : Opd} {f : Env → Nat → W64 × Nat} (hx : exec i s = laneResult s h lat o srcs f)
    {g : Nat → RegWrite} {n : Nat → Nat} (hf : ∀ l, e.dst o l (f e l).1 = [g l] ∧ (f e l).2 = n l) :
    Completes i s s e h ((e.w.post s.now lat e.width ((e.exec h).map g)).count ((e.exec h).map n).sum) := by
  refine completes_of_finish hi.1 ?_ rfl rfl
  rw [hx, laneResult_eq hi, List.flatMap_congr fun l _ => (hf l).1, List.map_congr_left fun l _ => (hf l).2, List.map_eq_flatMap (f := g)]

/-- With a vector register as destination, the write takes the low 32 bits of the result. -/
theorem completes_of_laneResult_v (hi : Issuing s e) {o : Opd} (ho : o = .v d) {f : Env → Nat → W64 × Nat}
    (hx : exec i s = laneResult s h lat o srcs f) {g : Nat → W32 × Nat} (hf : ∀ l, f e l = ((g l).1.setWidth 64, (g l).2)) :
    Completes i s s e h ((e.w.post s.now lat e.width ((e.exec h).map fun l => .v d l (g l).1)).count ((e.exec h).map fun l => (g l).2).sum) := by
  subst ho
  refine completes_of_laneResult hi hx fun l => ?_
  rw [hf l]
  exact ⟨by simp [Env.dst], rfl⟩

theorem completes_of_laneResult_v_uncounted (hi : Issuing s e) {o : Opd} (ho : o = .v d) {f : Env → Nat → W64 × Nat}
    (hx : exec i s = laneResult s h lat o srcs f) {g : Nat → W32} (hf : ∀ l, f e l = ((g l).setWidth 64, 0)) :
    Completes i s s e h (e.w.post s.now lat e.width ((e.exec h).map fun l => .v d l (g l))) := by
  simpa using completes_of_laneResult_v hi ho hx (g := fun l => (g l, 0)) hf

/-- With a predicate register as destination, the write takes the low four bits. -/
theorem completes_of_laneResult_p (hi : Issuing s e) {o : Opd} (ho : o = .p d) {f : Env → Nat → W64 × Nat}
    (hx : exec i s = laneResult s h lat o srcs f) {g : Nat → BitVec 4} (hf : ∀ l, f e l = ((g l).setWidth 64, 0)) :
    Completes i s s e h (e.w.post s.now lat e.width ((e.exec h).map fun l => .p d l (g l))) := by
  subst ho
  have hwrites (l : Nat) : e.dst (.p d) l (f e l).1 = [.p d l (g l)] ∧ (f e l).2 = 0 := by
    rw [hf l]
    exact ⟨by simp [Env.dst], rfl⟩
  simpa using completes_of_laneResult hi hx hwrites

end

end Sys2Proof.Machine
end

section
/-! Integer formats and packed elements (R69, R72, R90 to R93). The model computes on codes, natural numbers that stand for themselves modulo
`2 ^ w`, and the statements on words of width `w`; here each operation on codes is the operation on their words (`asWord_fitI`,
`ofNat_divI` and their neighbours), and a word put together from codes is the word packed from their elements (`ofElems_range`). -/

-- One declaration at a time: the threads of many small proofs at once pass the memory limit of the check.
set_option Elab.async false

namespace Sys2Proof.Machine

open Claims

/-! ### Codes of an integer format as words -/

/-- A code and a count, the code as a word. -/
def asWord (w : Nat) (p : Nat × Nat) : BitVec w × Nat := (BitVec.ofNat w p.1, p.2)

/-- The value of a code is that of its word (R72). -/
theorem value_eq_num (w : Nat) (sg : Bool) (n : Nat) : IFmt.value ⟨w, sg⟩ n = num sg (BitVec.ofNat w n) := by
  cases sg with
  | false => simp [IFmt.value, num]
  | true =>
    simp [IFmt.value, num, BitVec.toInt_eq_msb_cond, BitVec.msb_eq_decide]

@[simp] theorem ofNat_intBits (w : Nat) (x : Int) : BitVec.ofNat w (intBits w x) = BitVec.ofInt w x := by
  apply BitVec.eq_of_toNat_eq
  rw [intBits, ← BitVec.toNat_ofInt, BitVec.ofNat_toNat, BitVec.setWidth_eq]

/-- A word is read back from its value. -/
@[simp] theorem ofInt_num {w : Nat} (sg : Bool) (x : BitVec w) : BitVec.ofInt w (num sg x) = x := by
  cases sg
  · simp [num, BitVec.ofInt_natCast]
  · exact BitVec.ofInt_toInt

/-- A value in a wider word is the word extended by its signedness (R90). -/
theorem ofInt_num_extend {v w : Nat} (sg : Bool) (x : BitVec v) :
    BitVec.ofInt w (num sg x) = if sg then x.signExtend w else x.setWidth w := by
  cases sg
  · simp [num, BitVec.ofInt_natCast]
  · rfl

theorem extendS_eq (w : Nat) (sg : Bool) (n : Nat) : extendS ⟨w, sg⟩ n = extended sg (BitVec.ofNat w n) := by
  rw [extendS, value_eq_num, ofInt_num_extend, extended]

section
variable (w : Nat) (sg : Bool) (a b c : Nat)

theorem asWord_fitI (sat : Bool) (x : Int) : asWord w (fitI sat ⟨w, sg⟩ x) = fit w sg sat x := by
  have hlo : (⟨w, sg⟩ : IFmt).lo = if sg then -(2 ^ (w - 1) : Int) else 0 := by simp [IFmt.lo]
  have hhi : ((⟨w, sg⟩ : IFmt).hi : Int) = if sg then (2 ^ (w - 1) : Int) - 1 else (2 ^ w : Int) - 1 := by
    cases sg <;> simp [IFmt.hi, Nat.cast_sub Nat.one_le_two_pow]
  cases sat with
  | false => simp [fitI, wrapI, fit, asWord]
  | true =>
    simp only [fitI, clampI, fit, clamp, hlo, hhi, if_true]
    generalize (if sg then -(2 ^ (w - 1) : Int) else 0) = lo
    generalize (if sg then (2 ^ (w - 1) : Int) - 1 else (2 ^ w : Int) - 1) = hi
    split_ifs <;> simp [asWord]

theorem asWord_addI (sat : Bool) : asWord w (addI sat ⟨w, sg⟩ a b) = fit w sg sat (num sg (BitVec.ofNat w a) + num sg (BitVec.ofNat w b)) := by
  rw [addI, asWord_fitI, value_eq_num, value_eq_num]

theorem asWord_subI (sat : Bool) : asWord w (subI sat ⟨w, sg⟩ a b) = fit w sg sat (num sg (BitVec.ofNat w a) - num sg (BitVec.ofNat w b)) := by
  rw [subI, asWord_fitI, value_eq_num, value_eq_num]

theorem asWord_mulI (sat : Bool) : asWord w (mulI sat ⟨w, sg⟩ a b) = fit w sg sat (num sg (BitVec.ofNat w a) * num sg (BitVec.ofNat w b)) := by
  rw [mulI, asWord_fitI, value_eq_num, value_eq_num]

theorem asWord_absI (sat : Bool) : asWord w (absI sat ⟨w, sg⟩ a) = fit w sg sat (num sg (BitVec.ofNat w a)).natAbs := by
  rw [absI, asWord_fitI, value_eq_num]

theorem ofNat_mulHiI :
    BitVec.ofNat w (mulHiI ⟨w, sg⟩ a b) = BitVec.ofInt w (num sg (BitVec.ofNat w a) * num sg (BitVec.ofNat w b) / 2 ^ w) := by
  rw [mulHiI, ofNat_intBits, value_eq_num, value_eq_num]
  push_cast
  rfl

theorem ofNat_madI : BitVec.ofNat w (madI ⟨w, sg⟩ a b c) = BitVec.ofNat w a * BitVec.ofNat w b + BitVec.ofNat w c := by
  rw [madI, ofNat_intBits]
  simp only [value_eq_num, BitVec.ofInt_add, BitVec.ofInt_mul, ofInt_num]

/-- Division truncates toward zero; by 0 it gives all ones (R91). -/
theorem ofNat_divI :
    BitVec.ofNat w (divI ⟨w, sg⟩ a b) =
      if BitVec.ofNat w b = 0 then BitVec.allOnes w
      else if sg then (BitVec.ofNat w a).sdiv (BitVec.ofNat w b) else (BitVec.ofNat w a).udiv (BitVec.ofNat w b) := by
  have hzero : b % 2 ^ w = 0 ↔ BitVec.ofNat w b = 0 := by simp [← BitVec.toNat_inj]
  unfold divI
  simp only [hzero]
  split_ifs with h0 hs
  · exact BitVec.eq_of_toNat_eq (by simp)
  · subst hs
    rw [ofNat_intBits, value_eq_num, value_eq_num]
    apply BitVec.eq_of_toInt_eq
    rw [BitVec.toInt_sdiv, BitVec.toInt_ofInt]
    rfl
  · simp only [Bool.not_eq_true] at hs
    subst hs
    rw [ofNat_intBits, value_eq_num, value_eq_num, num, num, if_neg (by decide), if_neg (by decide), ← Int.ofNat_tdiv, BitVec.ofInt_natCast,
      ← BitVec.toNat_udiv, BitVec.ofNat_toNat, BitVec.setWidth_eq]
    rfl

/-- The remainder has the sign of the dividend; by 0 it is the dividend (R91). -/
theorem ofNat_modI :
    BitVec.ofNat w (modI ⟨w, sg⟩ a b) =
      if BitVec.ofNat w b = 0 then BitVec.ofNat w a
      else if sg then (BitVec.ofNat w a).srem (BitVec.ofNat w b) else (BitVec.ofNat w a).umod (BitVec.ofNat w b) := by
  have hzero : b % 2 ^ w = 0 ↔ BitVec.ofNat w b = 0 := by simp [← BitVec.toNat_inj]
  unfold modI
  simp only [hzero]
  split_ifs with h0 hs
  · exact BitVec.eq_of_toNat_eq (by simp)
  · subst hs
    rw [ofNat_intBits, value_eq_num, value_eq_num, num, num, if_pos rfl, if_pos rfl, ← BitVec.toInt_srem, BitVec.ofInt_toInt]
  · simp only [Bool.not_eq_true] at hs
    subst hs
    rw [ofNat_intBits, value_eq_num, value_eq_num, num, num, if_neg (by decide), if_neg (by decide), ← Int.ofNat_tmod, BitVec.ofInt_natCast,
      ← BitVec.toNat_umod, BitVec.ofNat_toNat, BitVec.setWidth_eq]
    rfl

theorem ofNat_mod_two_pow : BitVec.ofNat w (a % 2 ^ w) = BitVec.ofNat w a := BitVec.eq_of_toNat_eq (by simp)

theorem ofNat_andI : BitVec.ofNat w (andI ⟨w, sg⟩ a b) = BitVec.ofNat w a &&& BitVec.ofNat w b := by
  rw [andI, ofNat_mod_two_pow, BitVec.ofNat_and]

theorem ofNat_orI : BitVec.ofNat w (orI ⟨w, sg⟩ a b) = BitVec.ofNat w a ||| BitVec.ofNat w b := by
  rw [orI, ofNat_mod_two_pow, BitVec.ofNat_or]

theorem ofNat_xorI : BitVec.ofNat w (xorI ⟨w, sg⟩ a b) = BitVec.ofNat w a ^^^ BitVec.ofNat w b := by
  rw [xorI, ofNat_mod_two_pow, BitVec.ofNat_xor]

/-- A shift amount taken modulo the width loses nothing in a word whose width is a power of two (R90, R92). -/
theorem ofNat_toNat_mod_width {w : Nat} (hw : w ∣ 2 ^ w) (b : Nat) : (BitVec.ofNat w b).toNat % w = b % w := by
  rw [BitVec.toNat_ofNat, Nat.mod_mod_of_dvd _ hw]

variable {w} in
theorem ofNat_shlI (hw : w ∣ 2 ^ w) :
    BitVec.ofNat w (shlI ⟨w, sg⟩ a b) = BitVec.ofNat w a <<< ((BitVec.ofNat w b).toNat % w) := by
  rw [ofNat_toNat_mod_width hw]
  apply BitVec.eq_of_toNat_eq
  simp [shlI, Nat.shiftLeft_eq]

variable {w} in
theorem ofNat_shrI (hw : w ∣ 2 ^ w) :
    BitVec.ofNat w (shrI ⟨w, sg⟩ a b) = BitVec.ofNat w a >>> ((BitVec.ofNat w b).toNat % w) := by
  rw [ofNat_toNat_mod_width hw]
  apply BitVec.eq_of_toNat_eq
  rw [shrI, BitVec.toNat_ushiftRight, BitVec.toNat_ofNat, BitVec.toNat_ofNat, Nat.shiftRight_eq_div_pow]
  exact Nat.mod_eq_of_lt ((Nat.div_le_self _ _).trans_lt (Nat.mod_lt _ (Nat.two_pow_pos w)))

variable {w} in
theorem ofNat_sarI (hw : w ∣ 2 ^ w) :
    BitVec.ofNat w (sarI ⟨w, sg⟩ a b) = (BitVec.ofNat w a).sshiftRight ((BitVec.ofNat w b).toNat % w) := by
  rw [ofNat_toNat_mod_width hw, sarI, ofNat_intBits, value_eq_num, BitVec.sshiftRight_eq, Int.shiftRight_eq_div_pow]
  rfl

theorem ofNat_minI :
    BitVec.ofNat w (minI ⟨w, sg⟩ a b) =
      if num sg (BitVec.ofNat w a) ≤ num sg (BitVec.ofNat w b) then BitVec.ofNat w a else BitVec.ofNat w b := by
  rw [minI, ofNat_intBits, value_eq_num, value_eq_num, min_def]
  split_ifs <;> exact ofInt_num _ _

theorem ofNat_maxI :
    BitVec.ofNat w (maxI ⟨w, sg⟩ a b) =
      if num sg (BitVec.ofNat w b) ≤ num sg (BitVec.ofNat w a) then BitVec.ofNat w a else BitVec.ofNat w b := by
  rw [maxI, ofNat_intBits, value_eq_num, value_eq_num, max_comm, max_def]
  split_ifs <;> exact ofInt_num _ _

theorem cmpI_eq_holds (cond : Nat) : cmpI ⟨w, sg⟩ cond a b = holds cond (num sg (BitVec.ofNat w a)) (num sg (BitVec.ofNat w b)) := by
  obtain _ | _ | _ | _ | _ | k := cond <;> simp [cmpI, holds, value_eq_num, Bool.beq_eq_decide_eq, bne]

/-- A field read from a code is the field of its word (R91). -/
theorem ofNat_bfxI (pos len : Nat) : BitVec.ofNat w (bfxI ⟨w, sg⟩ a pos len) = field sg (BitVec.ofNat w a) pos len := by
  have hbits : BitVec.ofNat len (a % 2 ^ w / 2 ^ pos % 2 ^ len) = ((BitVec.ofNat w a) >>> pos).setWidth len :=
    BitVec.eq_of_toNat_eq (by simp [Nat.shiftRight_eq_div_pow])
  unfold bfxI field
  split_ifs with hlen hs
  · rfl
  · rw [ofNat_intBits, value_eq_num, hbits, ofInt_num_extend, if_pos hs]
  · rw [ofNat_intBits, value_eq_num, hbits, ofInt_num_extend, if_neg hs]

/-! ### Bits -/

theorem bitOf_eq_testBit (n i : Nat) : bitOf n i = n.testBit i := by
  rw [bitOf, Nat.testBit_eq_decide_div_mod_eq]
  rfl

end

/-! ### Bits -/

/-- The number whose first `n` bits are given, as the model sums it. -/
def sumBits (n : Nat) (p : Nat → Bool) : Nat := (List.range n).foldl (fun x i => x + if p i then 2 ^ i else 0) 0

theorem sumBits_succ (n : Nat) (p : Nat → Bool) : sumBits (n + 1) p = sumBits n p + if p n then 2 ^ n else 0 := by
  simp [sumBits, List.range_succ]

theorem sumBits_lt (n : Nat) (p : Nat → Bool) : sumBits n p < 2 ^ n := by
  induction n with
  | zero => exact Nat.one_pos
  | succ n ih =>
    rw [sumBits_succ, Nat.pow_succ]
    split_ifs <;> omega

theorem testBit_sumBits (n : Nat) (p : Nat → Bool) (i : Nat) : (sumBits n p).testBit i = (decide (i < n) && p i) := by
  induction n with
  | zero => simp [sumBits]
  | succ n ih =>
    have hlt := sumBits_lt n p
    rw [sumBits_succ]
    cases hp : p n with
    | false =>
      rw [if_neg (by decide), Nat.add_zero, ih]
      by_cases hi : i = n
      · simp [hi, hp]
      · simp [show i < n ↔ i < n + 1 by omega]
    | true =>
      rw [if_pos rfl, Nat.add_comm, ← Nat.mul_one (2 ^ n), Nat.two_pow_add_eq_or_of_lt hlt, Nat.testBit_or, ih, Nat.mul_one,
        Nat.testBit_two_pow]
      by_cases hi : i = n
      · simp [hi, hp]
      · simp [show i < n ↔ i < n + 1 by omega, Ne.symm hi]

theorem getLsbD_sumBits (w n : Nat) (p : Nat → Bool) (i : Nat) :
    (BitVec.ofNat w (sumBits n p)).getLsbD i = (decide (i < w) && (decide (i < n) && p i)) := by
  rw [BitVec.getLsbD_ofNat, testBit_sumBits]

/-- The bits of a mask of `len` bits from `pos` up. -/
theorem getLsbD_fieldMask {w pos len i : Nat} (hi : i < w) (hw : w ≤ 256) :
    (fieldMask w pos len).getLsbD i = (decide (pos ≤ i) && decide (i < pos + len)) := by
  have h256 : i < 256 := by omega
  rw [Bool.eq_iff_iff]
  simp only [fieldMask, BitVec.getLsbD_setWidth, BitVec.getLsbD_and, BitVec.getLsbD_not, BitVec.getLsbD_shiftLeft, BitVec.getLsbD_allOnes,
    Bool.and_eq_true, Bool.not_eq_true', Bool.not_eq_false', decide_eq_true_eq, Bool.and_eq_false_iff, decide_eq_false_iff_not]
  omega

/-- A field put into a code is the word with the bits of the field from the other (R91). -/
theorem ofNat_bfiI {w : Nat} (hw : w ≤ 256) (sg : Bool) (d a pos len : Nat) :
    BitVec.ofNat w (bfiI ⟨w, sg⟩ d a pos len) =
      (BitVec.ofNat w d &&& ~~~fieldMask w pos len) ||| ((BitVec.ofNat w a <<< pos) &&& fieldMask w pos len) := by
  apply BitVec.eq_of_getLsbD_eq
  intro i hi
  have hsum := getLsbD_sumBits w w (fun i => if pos ≤ i && i < pos + len then bitOf a (i - pos) else bitOf d i) i
  have hsub : i - pos < w := by omega
  rw [show bfiI ⟨w, sg⟩ d a pos len = sumBits w _ from rfl, hsum]
  simp only [BitVec.getLsbD_or, BitVec.getLsbD_and, BitVec.getLsbD_not, BitVec.getLsbD_shiftLeft, BitVec.getLsbD_ofNat,
    getLsbD_fieldMask hi hw, hi, hsub, bitOf_eq_testBit, decide_true, Bool.true_and]
  by_cases hpos : pos ≤ i
  · by_cases hlen : i < pos + len <;> simp [hpos, hlen, show ¬i < pos by omega]
  · simp [hpos]

/-! ### Counts of bits -/

theorem bitOf_eq_getLsbD {w i : Nat} (hi : i < w) (a : Nat) : bitOf a i = (BitVec.ofNat w a).getLsbD i := by
  rw [BitVec.getLsbD_ofNat, bitOf_eq_testBit, decide_eq_true hi, Bool.true_and]

theorem length_filter_getLsbD {w : Nat} (x : BitVec w) (n : Nat) : ((List.range n).filter x.getLsbD).length = x.cpopNatRec n 0 := by
  induction n with
  | zero => simp
  | succ n ih =>
    rw [List.range_succ, List.filter_append, List.length_append, ih, BitVec.cpopNatRec_succ, Nat.zero_add,
      BitVec.cpopNatRec_eq (x.getLsbD n).toNat]
    cases h : x.getLsbD n <;> simp [h]

theorem ofNat_popcI (w : Nat) (sg : Bool) (a : Nat) : BitVec.ofNat w (popcI ⟨w, sg⟩ a) = (BitVec.ofNat w a).cpop := by
  have hbits : ((List.range w).filter fun i => bitOf a i) = (List.range w).filter (BitVec.ofNat w a).getLsbD :=
    List.filter_congr fun i hi => bitOf_eq_getLsbD (List.mem_range.mp hi) a
  rw [popcI, hbits, length_filter_getLsbD, BitVec.cpop]

theorem ofNat_clzI {w : Nat} (hw : 0 < w) (sg : Bool) (a : Nat) : BitVec.ofNat w (clzI ⟨w, sg⟩ a) = (BitVec.ofNat w a).clz := by
  unfold clzI
  simp only [← BitVec.toNat_ofNat]
  generalize BitVec.ofNat w a = x
  by_cases hx : x = 0#w
  · subst hx
    rw [if_pos (by simp)]
    exact (BitVec.clz_eq_iff_eq_zero.mpr rfl).symm
  · have hne : x.toNat ≠ 0 := fun h => hx (BitVec.eq_of_toNat_eq (by simpa using h))
    have hlt : x.clz.toNat < w := by
      have h := BitVec.lt_def.mp (BitVec.clz_lt_iff_ne_zero.mpr hx)
      rwa [BitVec.natCast_eq_ofNat, BitVec.toNat_ofNat, Nat.mod_eq_of_lt Nat.lt_two_pow_self] at h
    have hlog : x.toNat.log2 = w - 1 - x.clz.toNat := by
      rw [Nat.log2_eq_iff hne]
      refine ⟨BitVec.two_pow_sub_clz_le_toNat_of_ne_zero hw hx, ?_⟩
      rw [show w - 1 - x.clz.toNat + 1 = w - x.clz.toNat by omega]
      exact BitVec.toNat_lt_two_pow_sub_clz
    rw [if_neg hne, hlog, show w - 1 - (w - 1 - x.clz.toNat) = x.clz.toNat by omega, BitVec.ofNat_toNat, BitVec.setWidth_eq]

theorem ofNat_ctzI (w : Nat) (sg : Bool) (a : Nat) : BitVec.ofNat w (ctzI ⟨w, sg⟩ a) = (BitVec.ofNat w a).ctz := by
  unfold ctzI
  cases hf : (List.range w).find? fun i => bitOf a i with
  | none =>
    have hzero : BitVec.ofNat w a = 0#w := BitVec.eq_of_getLsbD_eq fun i hi => by
      rw [← bitOf_eq_getLsbD hi, BitVec.getLsbD_zero]
      simpa using List.find?_eq_none.mp hf i (List.mem_range.mpr hi)
    rw [hzero, BitVec.ctz_eq_reverse_clz, show (0#w).reverse = 0#w from BitVec.eq_of_getLsbD_eq fun i hi => by simp [BitVec.getLsbD_reverse]]
    exact (BitVec.clz_eq_iff_eq_zero.mpr rfl).symm
  | some k =>
    obtain ⟨hk, hmem, hlow⟩ := List.find?_range_eq_some.mp hf
    have hkw := List.mem_range.mp hmem
    rw [bitOf_eq_getLsbD hkw] at hk
    have hne : BitVec.ofNat w a ≠ 0#w := fun h => by simp [h] at hk
    have hone := BitVec.getLsbD_true_ctz_of_ne_zero hne
    have hge : k ≤ (BitVec.ofNat w a).ctz.toNat := by
      by_contra hlt
      have := hlow (BitVec.ofNat w a).ctz.toNat (Nat.not_le.mp hlt)
      rw [bitOf_eq_getLsbD (w := w) (by omega), hone] at this
      exact absurd this (by decide)
    have hle : (BitVec.ofNat w a).ctz.toNat ≤ k := by
      by_contra hlt
      rw [BitVec.getLsbD_false_of_lt_ctz (Nat.not_le.mp hlt)] at hk
      exact absurd hk (by decide)
    rw [Option.getD_some, le_antisymm hge hle, BitVec.ofNat_toNat, BitVec.setWidth_eq]

/-! ### Packed elements (R69) -/

/-- Element `i` of a word is the word of its part. -/
theorem elem_eq_part (x : W32) (w i : Nat) : elem x w i = (part w x i).toNat := by
  rw [elem, part, BitVec.extractLsb'_toNat, Nat.shiftRight_eq_div_pow]

theorem ofNat_elem (x : W32) (w i : Nat) : BitVec.ofNat w (elem x w i) = part w x i := by
  rw [elem_eq_part, BitVec.ofNat_toNat, BitVec.setWidth_eq]

/-- The number that elements of width `w` make, element 0 lowest. -/
def joined (w : Nat) (es : List Nat) : Nat := es.foldr (fun x acc => x % 2 ^ w + 2 ^ w * acc) 0

theorem joined_append (w : Nat) (es : List Nat) (x : Nat) : joined w (es ++ [x]) = joined w es + 2 ^ (w * es.length) * (x % 2 ^ w) := by
  induction es with
  | nil => simp [joined]
  | cons y ys ih =>
    have hcons (zs : List Nat) : joined w (y :: zs) = y % 2 ^ w + 2 ^ w * joined w zs := rfl
    rw [List.cons_append, hcons, hcons, ih, List.length_cons, Nat.mul_add w, Nat.mul_one, Nat.pow_add]
    ring

theorem joined_lt (w : Nat) (es : List Nat) : joined w es < 2 ^ (w * es.length) := by
  induction es with
  | nil => exact Nat.one_pos
  | cons y ys ih =>
    have hy : y % 2 ^ w < 2 ^ w := Nat.mod_lt _ (Nat.two_pow_pos w)
    calc joined w (y :: ys) = y % 2 ^ w + 2 ^ w * joined w ys := rfl
      _ < 2 ^ w * (joined w ys + 1) := by rw [Nat.mul_add]; omega
      _ ≤ 2 ^ w * 2 ^ (w * ys.length) := Nat.mul_le_mul_left _ ih
      _ = 2 ^ (w * (y :: ys).length) := by rw [← Nat.pow_add, List.length_cons, Nat.mul_add, Nat.mul_one, Nat.add_comm]

/-- A word built from codes is the word packed from their elements. -/
theorem ofElems_range (w n : Nat) (c : Nat → Nat) : ofElems w ((List.range n).map c) = packed n w fun i => BitVec.ofNat w (c i) := by
  show BitVec.ofNat 32 (joined w ((List.range n).map c)) = _
  induction n with
  | zero => rfl
  | succ n ih =>
    have hlt : joined w ((List.range n).map c) < 2 ^ (w * n) := by simpa using joined_lt w ((List.range n).map c)
    have htop : BitVec.ofNat 32 (2 ^ (w * n) * (c n % 2 ^ w)) = (BitVec.ofNat w (c n)).setWidth 32 <<< (w * n) :=
      BitVec.eq_of_toNat_eq (by simp [Nat.shiftLeft_eq, Nat.mul_comm])
    rw [List.range_succ, List.map_append, List.map_singleton, joined_append, List.length_map, List.length_range, Nat.add_comm,
      Nat.two_pow_add_eq_or_of_lt hlt, BitVec.ofNat_or, ih, htop, packed, packed, List.range_succ, List.foldl_append, BitVec.or_comm]
    rfl

/-- A word computed element by element (R69). -/
theorem mapElems_eq {ty : Ty} {n w : Nat} (ht : elemsOf ty = (n, w)) (f : Nat → Nat × Nat) :
    mapElems ty f = perElement n w fun k => asWord w (f k) := by
  simp only [mapElems, ht, perElement, asWord, List.map_map, ← ofElems_range]
  rfl

/-- A byte bit is the one given for it. -/
theorem getLsbD_byteBits (g : Nat → Bool) {i : Nat} (hi : i < 4) : (byteBits g).getLsbD i = g i := by
  have hbits : ∀ a b c d : Bool, ∀ j < 4,
      (BitVec.ofBool d ++ BitVec.ofBool c ++ BitVec.ofBool b ++ BitVec.ofBool a).getLsbD j = [a, b, c, d].getD j false := by decide
  exact (hbits (g 0) (g 1) (g 2) (g 3) i hi).trans (by interval_cases i <;> rfl)

/-- The byte bits of a predicate whose elements are given (R93). -/
theorem predOfElems_eq {ty : Ty} {n w : Nat} (ht : elemsOf ty = (n, w)) (f : Nat → Bool) :
    predOfElems ty f = byteBits fun j => f (j / (4 / n)) := by
  simp only [predOfElems, ht]
  rw [show (List.range 4).foldl (fun x b => x + if f (b / (4 / n)) then 2 ^ b else 0) 0 = sumBits 4 fun b => f (b / (4 / n)) from rfl]
  exact BitVec.eq_of_getLsbD_eq fun i hi => by rw [getLsbD_sumBits, getLsbD_byteBits _ hi]; simp [hi]

end Sys2Proof.Machine
end

section
/-! The scalar, vector integer and predicate instructions (Tables 5.5, 5.6 and 5.13). For the rows that compute per element of a type one
lemma says which operation on codes each is, and that it is the row's on words (`scalarRow_meaning`, `vectorRow_meaning`). -/

-- One declaration at a time: the threads of many small proofs at once pass the memory limit of the check.
set_option Elab.async false

namespace Sys2Proof.Machine

open Claims

/-! ### The scalar family -/

/-- A result with no count. -/
theorem asWord_uncounted {w n : Nat} {x : BitVec w} (h : BitVec.ofNat w n = x) : asWord w (n, 0) = (x, 0) := congrArg (·, 0) h

/-- A width of a type of the integer families: a power of two, and a word fits in the masks of a field. -/
structure WidthOk (w : Nat) : Prop where
  pos : 0 < w
  dvd : w ∣ 2 ^ w
  le : w ≤ 256

/-- The format of a scalar type, which the opcodes of the family take by default as `.i64` (R90). -/
theorem intFmt_scalarType {o : AluArgs} {op : Nat} (hty : o.ty ∈ scalarTypes) (hop : op ≤ 0x16) :
    intFmt (o.tyOf op) = ⟨(scalarType o.ty).1, (scalarType o.ty).2⟩ ∧ ((scalarType o.ty).1 = 32 ∨ (scalarType o.ty).1 = 64) := by
  have hdflt : dfltTy op = .i64 := by
    rw [dfltTy, if_neg (by omega), if_pos (by omega)]
  unfold AluArgs.tyOf
  rw [hdflt]
  generalize o.ty = ty at hty
  fin_cases hty <;> decide

theorem widthOk_scalar {w : Nat} (h : w = 32 ∨ w = 64) : WidthOk w := by
  obtain rfl | rfl := h <;> exact ⟨by decide, by decide, by decide⟩

/-- The position and length fields of a scalar operand lie in its low bits (R91). -/
theorem bits_field_scalar {w : Nat} (hw : w = 32 ∨ w = 64) (b : Nat) :
    bits b 5 0 = (BitVec.ofNat w b).toNat % 64 ∧ bits b 14 8 = (BitVec.ofNat w b).toNat / 256 % 128 := by
  obtain rfl | rfl := hw <;> simp only [bits, BitVec.toNat_ofNat] <;> omega

/-- What each scalar instruction computes on codes, and that it is the table's result on words. -/
theorem scalarRow_meaning {i : Instr} {row : ScalarRow} (hrow : scalarRow i = some row) :
    ∃ op f, op ≤ 0x16 ∧ (∀ s, exec i s = scalarInt s row.h row.o op row.lat f) ∧
      ∀ w sg a b, w = 32 ∨ w = 64 → asWord w (f ⟨w, sg⟩ a b) = row.f w sg (BitVec.ofNat w a) (BitVec.ofNat w b) := by
  cases i <;> cases hrow
  case sadd.refl h o => exact ⟨0x00, addI o.sat, by decide, fun _ => rfl, fun _ _ _ _ _ => asWord_addI ..⟩
  case ssub.refl h o => exact ⟨0x01, subI o.sat, by decide, fun _ => rfl, fun _ _ _ _ _ => asWord_subI ..⟩
  case smul.refl h o => exact ⟨0x02, mulI o.sat, by decide, fun _ => rfl, fun _ _ _ _ _ => asWord_mulI ..⟩
  case smulhi.refl => exact ⟨0x03, noCount mulHiI, by decide, fun _ => rfl, fun _ _ _ _ _ => asWord_uncounted (ofNat_mulHiI ..)⟩
  case sdiv.refl => exact ⟨0x04, noCount divI, by decide, fun _ => rfl, fun _ _ _ _ _ => asWord_uncounted (ofNat_divI ..)⟩
  case smod.refl => exact ⟨0x05, noCount modI, by decide, fun _ => rfl, fun _ _ _ _ _ => asWord_uncounted (ofNat_modI ..)⟩
  case sand.refl => exact ⟨0x06, noCount andI, by decide, fun _ => rfl, fun _ _ _ _ _ => asWord_uncounted (ofNat_andI ..)⟩
  case sor.refl => exact ⟨0x07, noCount orI, by decide, fun _ => rfl, fun _ _ _ _ _ => asWord_uncounted (ofNat_orI ..)⟩
  case sxor.refl => exact ⟨0x08, noCount xorI, by decide, fun _ => rfl, fun _ _ _ _ _ => asWord_uncounted (ofNat_xorI ..)⟩
  case sshl.refl => exact ⟨0x09, noCount shlI, by decide, fun _ => rfl, fun _ _ _ _ hw => asWord_uncounted (ofNat_shlI _ _ _ (widthOk_scalar hw).dvd)⟩
  case sshr.refl => exact ⟨0x0A, noCount shrI, by decide, fun _ => rfl, fun _ _ _ _ hw => asWord_uncounted (ofNat_shrI _ _ _ (widthOk_scalar hw).dvd)⟩
  case ssar.refl => exact ⟨0x0B, noCount sarI, by decide, fun _ => rfl, fun _ _ _ _ hw => asWord_uncounted (ofNat_sarI _ _ _ (widthOk_scalar hw).dvd)⟩
  case smin.refl => exact ⟨0x0C, noCount minI, by decide, fun _ => rfl, fun _ _ _ _ _ => asWord_uncounted (ofNat_minI ..)⟩
  case smax.refl => exact ⟨0x0D, noCount maxI, by decide, fun _ => rfl, fun _ _ _ _ _ => asWord_uncounted (ofNat_maxI ..)⟩
  case sbfx.refl =>
    refine ⟨0x0E, noCount fun t a b => bfxI t a (bits b 5 0) (min (bits b 14 8) t.width), by decide, fun _ => rfl, fun w sg a b hw => ?_⟩
    obtain ⟨hpos, hlen⟩ := bits_field_scalar hw b
    simp only [noCount, hpos, hlen]
    exact asWord_uncounted (ofNat_bfxI w sg a _ _)
  case spopc.refl => exact ⟨0x10, noCount fun t a _ => popcI t a, by decide, fun _ => rfl, fun _ _ _ _ _ => asWord_uncounted (ofNat_popcI ..)⟩
  case sclz.refl =>
    exact ⟨0x11, noCount fun t a _ => clzI t a, by decide, fun _ => rfl, fun _ _ _ _ hw => asWord_uncounted (ofNat_clzI (widthOk_scalar hw).pos ..)⟩
  case sctz.refl => exact ⟨0x12, noCount fun t a _ => ctzI t a, by decide, fun _ => rfl, fun _ _ _ _ _ => asWord_uncounted (ofNat_ctzI ..)⟩
  case scmp.refl h o =>
    refine ⟨0x13, noCount fun t a b => natOf (cmpI t o.sub a b), by decide, fun _ => rfl, fun w _ _ _ _ => asWord_uncounted ?_⟩
    rw [← cmpI_eq_holds]
    exact apply_ite (BitVec.ofNat w) _ 1 0
  case smov.refl => exact ⟨0x15, noCount fun _ a _ => a, by decide, fun _ => rfl, fun _ _ _ _ _ => asWord_uncounted rfl⟩

theorem scalar_results : scalarResults := by
  intro s e i row d hrow hd hty ha
  obtain ⟨op, f, hop, hx, hf⟩ := scalarRow_meaning hrow
  obtain ⟨hfmt, hw⟩ := intFmt_scalarType hty hop
  generalize scalarType row.o.ty = t at hfmt hw
  obtain ⟨w, sg⟩ := t
  refine completes_of_scalarResult ha hd (hx s) ?_
  simp only [hfmt, extendS_eq]
  rw [← BitVec.ofNat_toNat w (e.rdScalar row.o.a), ← BitVec.ofNat_toNat w (e.scalarB row.o)]
  exact congrArg (fun p : BitVec w × Nat => (extended sg p.1, p.2)) (hf w sg _ _ hw)

theorem scalar_moves : scalarMoves := by
  intro s e h o m d hd hty ha
  have hfmt (op : Nat) (hop : op ≤ 0x16) := intFmt_scalarType (op := op) hty hop
  generalize scalarType o.ty = t at hfmt
  obtain ⟨w, sg⟩ := t
  have hw : w = 32 ∨ w = 64 := (hfmt 0 (by decide)).2
  refine ⟨?_, fun hform => ?_, fun hform => ?_, ?_, ?_⟩
  · refine completes_of_scalarResult_uncounted ha hd (show exec (.sbfi h o) s = execSbfi h o s from rfl) ?_
    obtain ⟨hpos, hlen⟩ := bits_field_scalar hw (e.scalarB o).toNat
    simp only [(hfmt 0x0F (by decide)).1, extendS_eq, hpos, hlen, ofNat_bfiI (widthOk_scalar hw).le, BitVec.ofNat_toNat]
    rw [hd]
    rfl
  · refine completes_of_scalarResult_uncounted ha hd (show exec (.ssel h o) s = execSsel h o s from rfl) ?_
    have hzero : (e.rdScalar o.c).toNat % 2 ^ w = 0 ↔ (e.rdScalar o.c).setWidth w = 0#w := by simp [← BitVec.toNat_inj]
    rw [if_neg hform]
    simp only [(hfmt 0x14 (by decide)).1, extendS_eq, ne_eq, hzero, ite_not, apply_ite (BitVec.ofNat w), BitVec.ofNat_toNat]
  · refine completes_of_scalarResult_uncounted ha hd (show exec (.ssel h o) s = execSsel h o s from rfl) ?_
    have hzero : (e.rdScalar o.a).toNat = 0 ↔ e.rdScalar o.a = 0 := by simp [← BitVec.toNat_inj]
    rw [if_pos hform, hd]
    simp only [ne_eq, hzero, ite_not, Env.scalarB, if_pos hform]
    rfl
  · exact completes_of_scalarResult_uncounted ha rfl (show exec (.smovi h m) s = execSmovi h m s from rfl) rfl
  · exact completes_of_scalarResult_uncounted ha hd (show exec (.slea h o) s = execSlea h o s from rfl) rfl

/-- Settles O15: each instruction is one scalar write of what its row computes on codes. -/
theorem scalarResults : Obligations.ScalarResults := ⟨scalar_results, scalar_moves⟩

/-! ### The vector integer family -/

/-- The elements and the format of a vector type, which the opcodes of the family take by default as `.i32` (R69, R92). -/
theorem vectorType_spec {o : AluArgs} {op n w : Nat} {sg : Bool} (hty : o.ty ∈ vectorTypes) (hop : 0x17 < op ∧ op ≤ 0x36)
    (ht : vectorType o.ty = (n, w, sg)) : elemsOf (o.tyOf op) = (n, w) ∧ intFmt (o.tyOf op) = ⟨w, sg⟩ ∧ WidthOk w := by
  have hdflt : dfltTy op = .i32 := by
    rw [dfltTy, if_neg (by omega), if_neg (by omega), if_pos (by omega)]
  have h8 : WidthOk 8 := ⟨by decide, by decide, by decide⟩
  have h16 : WidthOk 16 := ⟨by decide, by decide, by decide⟩
  have h32 : WidthOk 32 := ⟨by decide, by decide, by decide⟩
  unfold AluArgs.tyOf
  rw [hdflt]
  generalize o.ty = ty at hty ht
  fin_cases hty <;> cases ht <;> exact ⟨by decide, by decide, by assumption⟩

/-- What each vector instruction computes on codes, and that it is the table's result on words. -/
theorem vectorRow_meaning {i : Instr} {row : VectorRow} (hrow : vectorRow i = some row) :
    ∃ op f, (0x17 < op ∧ op ≤ 0x36) ∧ (∀ s, exec i s = vectorInt s row.h row.o op row.lat f) ∧
      ∀ w sg a b c, WidthOk w →
        asWord w (f ⟨w, sg⟩ a b c) = row.f w sg (BitVec.ofNat w a) (BitVec.ofNat w b) (BitVec.ofNat w c) := by
  cases i <;> cases hrow
  case vadd.refl h o => exact ⟨0x20, fun t a b _ => addI o.sat t a b, by decide, fun _ => rfl, fun _ _ _ _ _ _ => asWord_addI ..⟩
  case vsub.refl h o => exact ⟨0x21, fun t a b _ => subI o.sat t a b, by decide, fun _ => rfl, fun _ _ _ _ _ _ => asWord_subI ..⟩
  case vmul.refl h o => exact ⟨0x22, fun t a b _ => mulI o.sat t a b, by decide, fun _ => rfl, fun _ _ _ _ _ _ => asWord_mulI ..⟩
  case vmulhi.refl => exact ⟨0x23, fun t a b _ => (mulHiI t a b, 0), by decide, fun _ => rfl, fun _ _ _ _ _ _ => asWord_uncounted (ofNat_mulHiI ..)⟩
  case vmad.refl => exact ⟨0x24, fun t a b c => (madI t a b c, 0), by decide, fun _ => rfl, fun _ _ _ _ _ _ => asWord_uncounted (ofNat_madI ..)⟩
  case vand.refl => exact ⟨0x25, fun t a b _ => (andI t a b, 0), by decide, fun _ => rfl, fun _ _ _ _ _ _ => asWord_uncounted (ofNat_andI ..)⟩
  case vor.refl => exact ⟨0x26, fun t a b _ => (orI t a b, 0), by decide, fun _ => rfl, fun _ _ _ _ _ _ => asWord_uncounted (ofNat_orI ..)⟩
  case vxor.refl => exact ⟨0x27, fun t a b _ => (xorI t a b, 0), by decide, fun _ => rfl, fun _ _ _ _ _ _ => asWord_uncounted (ofNat_xorI ..)⟩
  case vshl.refl =>
    exact ⟨0x28, fun t a b _ => (shlI t a b, 0), by decide, fun _ => rfl, fun _ _ _ _ _ hw => asWord_uncounted (ofNat_shlI _ _ _ hw.dvd)⟩
  case vshr.refl =>
    exact ⟨0x29, fun t a b _ => (shrI t a b, 0), by decide, fun _ => rfl, fun _ _ _ _ _ hw => asWord_uncounted (ofNat_shrI _ _ _ hw.dvd)⟩
  case vsar.refl =>
    exact ⟨0x2A, fun t a b _ => (sarI t a b, 0), by decide, fun _ => rfl, fun _ _ _ _ _ hw => asWord_uncounted (ofNat_sarI _ _ _ hw.dvd)⟩
  case vmin.refl => exact ⟨0x2B, fun t a b _ => (minI t a b, 0), by decide, fun _ => rfl, fun _ _ _ _ _ _ => asWord_uncounted (ofNat_minI ..)⟩
  case vmax.refl => exact ⟨0x2C, fun t a b _ => (maxI t a b, 0), by decide, fun _ => rfl, fun _ _ _ _ _ _ => asWord_uncounted (ofNat_maxI ..)⟩
  case vabs.refl h o => exact ⟨0x2D, fun t a _ _ => absI o.sat t a, by decide, fun _ => rfl, fun _ _ _ _ _ _ => asWord_absI ..⟩
  case vpopc.refl => exact ⟨0x30, fun t a _ _ => (popcI t a, 0), by decide, fun _ => rfl, fun _ _ _ _ _ _ => asWord_uncounted (ofNat_popcI ..)⟩
  case vclz.refl => exact ⟨0x31, fun t a _ _ => (clzI t a, 0), by decide, fun _ => rfl, fun _ _ _ _ _ hw => asWord_uncounted (ofNat_clzI hw.pos ..)⟩

/-- Settles O16: each instruction is one write per lane, of what its row computes on the codes of the lane's elements. -/
theorem vectorResults : Obligations.VectorResults := by
  intro s e i row d hrow hd hty hi
  obtain ⟨op, f, hop, hx, hf⟩ := vectorRow_meaning hrow
  have hspec := @vectorType_spec row.o op
  generalize vectorType row.o.ty = t at hspec
  obtain ⟨n, w, sg⟩ := t
  obtain ⟨helems, hfmt, hw⟩ := hspec hty hop rfl
  refine completes_of_laneResult_v hi hd (hx s) fun l => ?_
  simp only [hfmt, mapElems_eq helems, hf _ _ _ _ _ hw, ofNat_elem]

/-! ### The predicate family -/

section
variable {s : State} {e : Env} {i : Instr} {h : Hdr} {d : Nat}

/-- A vote completes with one scalar write (R84, R107). -/
theorem completes_of_voteResult (ha : Acts s e h) {o p : Opd} (ho : o = .s d) {f : Env → W64} (hx : exec i s = voteResult s h o p f) {x : W64}
    (hf : f e = x) : Completes i s s e h (e.w.post s.now 4 e.width [e.w.sWrite d x]) := by
  obtain ⟨⟨he, hrun⟩, hex⟩ := ha
  subst ho hf
  refine completes_of_finish he ?_ rfl rfl
  rw [hx, voteResult, withEnv_env he, if_neg hex]
  simp [ghost_eq hrun, postG_eq hrun, Env.dst]

/-- The lanes a program sees are seen once (R330). -/
theorem visible_visible (e : Env) (ls : List Nat) : e.visible (e.visible ls) = e.visible ls := by
  unfold Env.visible
  split_ifs <;> simp

theorem visible_filter (e : Env) (p : Nat → Bool) (ls : List Nat) : e.visible (ls.filter p) = (e.visible ls).filter p := by
  unfold Env.visible
  split_ifs
  · exact List.filter_comm _ _ _
  · rfl

/-- A set of visible lanes as the bits of a scalar. -/
theorem laneBits_of_visible {e : Env} {ls : List Nat} (hv : e.visible ls = ls) :
    e.laneBits ls = BitVec.ofNat 64 ((ls.map fun l => 2 ^ if e.l.prot then l / 2 else l).sum) := by
  have hsum : ∀ (n : Nat) (ks : List Nat), ks.foldl (fun n l => n + 2 ^ e.visIdx l) n = n + (ks.map fun l => 2 ^ e.visIdx l).sum := by
    intro n ks
    induction ks generalizing n with
    | nil => rfl
    | cons k ks ih => rw [List.foldl_cons, ih, List.map_cons, List.sum_cons, Nat.add_assoc]
  rw [Env.laneBits, hv, hsum, Nat.zero_add]
  rfl

theorem visible_voters (e : Env) (h : Hdr) (p : Opd) : e.visible (e.voters h p) = e.voters h p := by
  rw [Env.voters, visible_filter, visible_visible]

end

/-- The types of `PFROMV` and `PTOV` have the elements of the vector types (Table 5.13). -/
theorem elemsOf_predicate {o : AluArgs} {op n w : Nat} {sg : Bool} (hop : op = 0x6C ∨ op = 0x6D)
    (hty : o.ty ∈ [Ty.dflt, .b32, .b16x2, .b8x4]) (ht : vectorType o.ty = (n, w, sg)) : elemsOf (o.tyOf op) = (n, w) := by
  have hdflt : dfltTy op = .b32 := by obtain rfl | rfl := hop <;> rfl
  unfold AluArgs.tyOf
  rw [hdflt]
  generalize o.ty = ty at hty ht
  fin_cases hty <;> cases ht <;> rfl

/-- Settles O26: per bit and per element one write per lane, and a vote one scalar write. -/
theorem predicateResults : Obligations.PredicateResults := by
  intro s e h o d p q a ha
  have hi := ha.1
  refine ⟨fun hd ha' hb => ?_, fun hd ha' => ?_, fun hd ha' hty => ?_, fun hd ha' hty => ?_, fun hd ha' => ?_⟩
  · refine ⟨completes_of_laneResult_p hi hd (show exec (.pand h o) s = execPand h o s from rfl) fun l => ?_,
      completes_of_laneResult_p hi hd (show exec (.por h o) s = execPor h o s from rfl) fun l => ?_,
      completes_of_laneResult_p hi hd (show exec (.pxor h o) s = execPxor h o s from rfl) fun l => ?_⟩ <;> rw [ha', hb] <;> rfl
  · refine completes_of_laneResult_p hi hd (show exec (.pnot h o) s = execPnot h o s from rfl) fun l => ?_
    rw [ha']
    rfl
  · have helems := @elemsOf_predicate o 0x6C
    generalize vectorType o.ty = t at helems
    obtain ⟨n, w, sg⟩ := t
    refine completes_of_laneResult_p hi hd (show exec (.pfromv h o) s = execPfromv h o s from rfl) fun l => ?_
    have hzero (k : Nat) : (elem (e.rdVec o.a l) w k != 0) = (part w (e.rdVec o.a l) k != 0#w) := by
      rw [elem_eq_part, Bool.eq_iff_iff]
      simp [← BitVec.toNat_inj]
    simp only [predOfElems_eq (helems (.inl rfl) hty rfl), helems (.inl rfl) hty rfl, hzero]
    rw [ha']
    rfl
  · have helems := @elemsOf_predicate o 0x6D
    generalize vectorType o.ty = t at helems
    obtain ⟨n, w, sg⟩ := t
    refine completes_of_laneResult_v_uncounted hi hd (show exec (.ptov h o) s = execPtov h o s from rfl) fun l => ?_
    have hones (b : Bool) : asWord w (if b then 2 ^ w - 1 else 0, 0) = (if b then BitVec.allOnes w else 0#w, 0) :=
      asWord_uncounted (by cases b <;> exact BitVec.eq_of_toNat_eq (by simp))
    by_cases hraw : o.sub = 1
    · simp only [if_pos hraw, ha']
      exact congrArg (·, 0) (BitVec.eq_of_toNat_eq (by simp [Env.rdPred]))
    · simp only [if_neg hraw, mapElems_eq (helems (.inr rfl) hty rfl), helems (.inr rfl) hty rfl, perElement, hones, predBit, ha']
      rfl
  · have hvoters : e.voters h o.a = (e.visible (e.exec h)).filter fun l => (e.w.rdP p l).getLsbD 0 := by rw [ha']; rfl
    refine ⟨fun hsub => ?_, fun hsub => ?_, fun hsub => ?_, ?_⟩
    · refine completes_of_voteResult ha hd (show exec (.pvote h o) s = execPvote h o s from rfl) ?_
      rw [if_pos hsub, hvoters]
      cases (e.visible (e.exec h)).filter fun l => (e.w.rdP p l).getLsbD 0 <;> rfl
    · refine completes_of_voteResult ha hd (show exec (.pvote h o) s = execPvote h o s from rfl) ?_
      rw [if_neg (by omega), if_pos hsub, hvoters]
      simp only [natOf, beq_iff_eq, apply_ite (BitVec.ofNat 64)]
      rfl
    · refine completes_of_voteResult ha hd (show exec (.pvote h o) s = execPvote h o s from rfl) ?_
      rw [if_neg (by omega), if_neg (by omega), laneBits_of_visible (visible_voters e h o.a), hvoters]
    · refine completes_of_voteResult ha hd (show exec (.pcnt h o) s = execPcnt h o s from rfl) ?_
      rw [hvoters]

end Sys2Proof.Machine
end

section
/-! Rounding and Convert (R70, R77, R78). A mode's result follows from division with remainder. A code that is no infinity and no NaN stands
for a whole number of quanta (`Fmt.value_cases`), and Convert gives back the code of any whole number of quanta that the format can hold
(`convertF_scale`). -/

-- One declaration at a time: the threads of many small proofs at once pass the memory limit of the check.
set_option Elab.async false

namespace Sys2Proof.Machine

open Claims

/-! ### Rounding a fraction (R77) -/

section
variable {n d : Nat} (hd : 0 < d)
include hd

/-- The nearest whole number to a fraction, the even one of two (R77). -/
theorem roundNat_rn_nearest (s : Bool) (r : W32) :
    2 * (roundNat .rn s r n d * d) ≤ 2 * n + d ∧ 2 * n ≤ 2 * (roundNat .rn s r n d * d) + d ∧
      ((2 * (roundNat .rn s r n d * d) = 2 * n + d ∨ 2 * n = 2 * (roundNat .rn s r n d * d) + d) → roundNat .rn s r n d % 2 = 0) := by
  have hdiv : n / d * d + n % d = n := Nat.div_add_mod' n d
  have hlt : n % d < d := Nat.mod_lt n hd
  simp only [roundNat]
  split_ifs with hlow hhigh
  · refine ⟨by omega, by omega, fun h => ?_⟩
    omega
  · rw [Nat.add_mul, Nat.one_mul]
    omega
  · have hodd : n / d % 2 = 0 ∨ n / d % 2 = 1 := Nat.mod_two_eq_zero_or_one _
    obtain h | h := hodd <;> rw [h, Nat.add_mul] <;> omega

theorem roundNat_rz (s : Bool) (r : W32) : roundNat .rz s r n d * d ≤ n ∧ n < (roundNat .rz s r n d + 1) * d := by
  have hdiv : n / d * d + n % d = n := Nat.div_add_mod' n d
  have hlt : n % d < d := Nat.mod_lt n hd
  simp only [roundNat, Nat.add_mul, Nat.one_mul]
  omega

/-- The whole number at or above a fraction. -/
theorem le_ceil_mul : n ≤ (if n % d = 0 then n / d else n / d + 1) * d ∧ (if n % d = 0 then n / d else n / d + 1) * d < n + d := by
  have hdiv : n / d * d + n % d = n := Nat.div_add_mod' n d
  have hlt : n % d < d := Nat.mod_lt n hd
  split_ifs
  · omega
  · rw [Nat.add_mul, Nat.one_mul]
    omega

/-- By the random operand a fraction goes up exactly when the operand exceeds what the fraction leaves of one (R77). -/
theorem roundNat_rs (s : Bool) (r : W32) :
    roundNat .rs s r n d = roundNat .rz s r n d + if d * 2 ^ 32 ≤ n % d * 2 ^ 32 + r.toNat * d then 1 else 0 := by
  have hr : r.toNat < 2 ^ 32 := r.isLt
  have hlt : n % d < d := Nat.mod_lt n hd
  simp only [roundNat]
  generalize 2 ^ 32 = unit at hr ⊢
  have hpos : 0 < d * unit := Nat.mul_pos hd (by omega)
  have hsplit : n * unit + r.toNat * d = n % d * unit + r.toNat * d + d * unit * (n / d) := by
    conv_lhs => rw [← Nat.div_add_mod n d]
    ring
  have hrd : r.toNat * d < d * unit := by rw [Nat.mul_comm d]; exact Nat.mul_lt_mul_of_pos_right hr hd
  have hmd : n % d * unit < d * unit := Nat.mul_lt_mul_of_pos_right hlt (by omega)
  rw [hsplit, Nat.add_mul_div_left _ _ hpos, Nat.add_comm]
  congr 1
  split_ifs with hge
  · exact Nat.div_eq_of_lt_le (by omega) (by omega)
  · exact Nat.div_eq_of_lt (by omega)

end

theorem rounding_modes : roundingModes := by
  intro neg r n d hd k
  refine ⟨roundNat_rn_nearest hd neg r, roundNat_rz hd neg r, ?_, ?_, ?_, ?_, roundNat_rs hd neg r⟩
  · rintro rfl; rfl
  · rintro rfl; exact le_ceil_mul hd
  · rintro rfl; rfl
  · rintro rfl; exact le_ceil_mul hd

/-! ### A whole number of quanta (R77, R78) -/

/-- `k × 2^t` as numerator and denominator. -/
theorem scale_fin (s : Bool) (k : Nat) (t : Int) : XVal.scale (.fin s k 1) t = .fin s (k * 2 ^ t.toNat) (2 ^ (-t).toNat) := by
  unfold XVal.scale
  split_ifs with ht
  · simp [show (-t).toNat = 0 by omega]
  · simp [show t.toNat = 0 by omega]

theorem log2_mul_two_pow {k : Nat} (hk : k ≠ 0) (p : Nat) : (k * 2 ^ p).log2 = k.log2 + p := by
  have hpos : 0 < 2 ^ p := Nat.two_pow_pos p
  rw [Nat.log2_eq_iff (Nat.mul_ne_zero hk hpos.ne')]
  constructor
  · rw [Nat.pow_add]
    exact Nat.mul_le_mul_right _ (Nat.log2_self_le hk)
  · rw [Nat.add_right_comm, Nat.pow_add]
    exact Nat.mul_lt_mul_of_pos_right Nat.lt_log2_self hpos

theorem floorLog2_scale {k : Nat} (hk : k ≠ 0) (t : Int) : floorLog2 (k * 2 ^ t.toNat) (2 ^ (-t).toNat) = k.log2 + t := by
  have hlow : 2 ^ k.log2 ≤ k := Nat.log2_self_le hk
  have hexp : ((k * 2 ^ t.toNat).log2 : Int) - (2 ^ (-t).toNat).log2 = k.log2 + t := by
    rw [log2_mul_two_pow hk, Nat.log2_two_pow]
    omega
  unfold floorLog2
  simp only [hexp]
  have hge : (if 0 ≤ (k.log2 : Int) + t then decide (2 ^ (-t).toNat * 2 ^ ((k.log2 : Int) + t).toNat ≤ k * 2 ^ t.toNat)
      else decide (2 ^ (-t).toNat ≤ k * 2 ^ t.toNat * 2 ^ (-((k.log2 : Int) + t)).toNat)) = true := by
    split_ifs with h0
    · rw [decide_eq_true_eq, ← Nat.pow_add, show (-t).toNat + ((k.log2 : Int) + t).toNat = k.log2 + t.toNat by omega, Nat.pow_add]
      exact Nat.mul_le_mul_right _ hlow
    · rw [decide_eq_true_eq, Nat.mul_assoc, ← Nat.pow_add,
        show (-t).toNat = k.log2 + (t.toNat + (-((k.log2 : Int) + t)).toNat) by omega, Nat.pow_add 2 k.log2]
      exact Nat.mul_le_mul_right _ hlow
  rw [if_pos hge]

/-- Over its own power of two `k × 2^t` is the whole number `k`. -/
theorem divPow_scale (k : Nat) (t : Int) : ∃ u, 0 < u ∧ divPow (k * 2 ^ t.toNat) (2 ^ (-t).toNat) t = (k * u, u) := by
  unfold divPow
  split_ifs with ht
  · exact ⟨2 ^ t.toNat, Nat.two_pow_pos _, by simp [show (-t).toNat = 0 by omega]⟩
  · exact ⟨2 ^ (-t).toNat, Nat.two_pow_pos _, by simp [show t.toNat = 0 by omega]⟩

/-- A whole number is rounded to itself in every mode (R77). -/
theorem roundNat_exact (m : Rnd) (s : Bool) (r : W32) (k : Nat) {u : Nat} (hu : 0 < u) : roundNat m s r (k * u) u = k := by
  have hmod : k * u % u = 0 := Nat.mul_mod_left k u
  have hdiv : k * u / u = k := Nat.mul_div_cancel k hu
  cases m with
  | rn => simp [roundNat, hmod, hdiv, hu]
  | rz => exact hdiv
  | rp => simp [roundNat, hmod, hdiv]
  | rm => simp [roundNat, hmod, hdiv]
  | rs =>
    rw [roundNat_rs hu]
    have hr : r.toNat * u < u * 2 ^ 32 := by rw [Nat.mul_comm u]; exact Nat.mul_lt_mul_of_pos_right r.isLt hu
    rw [hmod, Nat.zero_mul, Nat.zero_add, if_neg (by omega)]
    exact hdiv

/-- A multiple of the quantum that the format can hold is converted to its code, uncounted, in every mode (R78). -/
theorem convertF_scale {f : Fmt} {k : Nat} {t : Int} (hk : k ≠ 0) (hq : max (k.log2 + t) (1 - (f.bias : Int)) - f.frac = t)
    (ha : f.above k t = false) (s : Bool) (m : Rnd) (sat : Bool) (r : W32) :
    convertF (XVal.scale (.fin s k 1) t) f m sat r = (f.encode s k t, 0) := by
  have hn : k * 2 ^ t.toNat ≠ 0 := Nat.mul_ne_zero hk (Nat.two_pow_pos _).ne'
  have hquantum : f.quantum (k * 2 ^ t.toNat) (2 ^ (-t).toNat) = t := by rw [Fmt.quantum, floorLog2_scale hk, hq]
  obtain ⟨u, hu, hdiv⟩ := divPow_scale k t
  rw [scale_fin]
  simp only [convertF, if_neg hn, hquantum, hdiv, roundNat_exact m s r k hu, ha, Bool.false_eq_true, if_false]

/-! ### The codes of a format (R70) -/

/-- The exponent and fraction fields of a code. -/
def Fmt.expField (f : Fmt) (c : Nat) : Nat := c / 2 ^ f.frac % 2 ^ f.expo
def Fmt.fracField (f : Fmt) (c : Nat) : Nat := c % 2 ^ f.frac
def Fmt.signField (f : Fmt) (c : Nat) : Bool := bitOf c (f.width - 1)

theorem Fmt.code_eq (f : Fmt) {c : Nat} (hc : c < 2 ^ f.width) :
    c = f.withSign (f.signField c) (f.expField c * 2 ^ f.frac + f.fracField c) := by
  have hw : f.width - 1 = f.frac + f.expo := by unfold Fmt.width; omega
  have hlow : f.expField c * 2 ^ f.frac + f.fracField c = c % 2 ^ (f.frac + f.expo) := by
    rw [Nat.pow_add, Nat.mod_mul, expField, fracField, Nat.add_comm, Nat.mul_comm]
  have hhigh : c / 2 ^ (f.frac + f.expo) < 2 := by
    rw [Nat.div_lt_iff_lt_mul (Nat.two_pow_pos _)]
    calc c < 2 ^ f.width := hc
      _ = 2 * 2 ^ (f.frac + f.expo) := by rw [← Nat.pow_succ', ← hw, Fmt.width]; congr 1; omega
  have hsplit := Nat.div_add_mod c (2 ^ (f.frac + f.expo))
  rw [hlow, withSign, signField, bitOf, hw, Nat.mod_eq_of_lt hhigh]
  interval_cases h : c / 2 ^ (f.frac + f.expo) <;> simp <;> omega

/-- The whole number of quanta that a finite code stands for, and the exponent of its quantum (R70). -/
def Fmt.sig (f : Fmt) (c : Nat) : Nat := if f.expField c = 0 then f.fracField c else 2 ^ f.frac + f.fracField c
def Fmt.quantumExp (f : Fmt) (c : Nat) : Int := (if f.expField c = 0 then 1 else f.expField c : Int) - f.bias - f.frac

/-- The fields of a code are those of no infinity and no NaN: its magnitude is at most the largest (Table 4.2). -/
def Fmt.Within (f : Fmt) (c : Nat) : Prop :=
  f.expField c ≤ f.expField f.maxCode ∧ (f.expField c = f.expField f.maxCode → f.fracField c ≤ f.fracField f.maxCode)

theorem Fmt.expField_lt (f : Fmt) (c : Nat) : f.expField c < 2 ^ f.expo := Nat.mod_lt _ (Nat.two_pow_pos _)
theorem Fmt.fracField_lt (f : Fmt) (c : Nat) : f.fracField c < 2 ^ f.frac := Nat.mod_lt _ (Nat.two_pow_pos _)

theorem Fmt.within_of_not_special {f : Fmt} {c : Nat} (hinf : ¬(f.expField c = 2 ^ f.expo - 1 ∧ f.hasInf = true))
    (hnan : ¬(f.expField c = 2 ^ f.expo - 1 ∧ f = .e4m3 ∧ f.fracField c = 7)) : f.Within c := by
  have he := f.expField_lt c
  have hm := f.fracField_lt c
  unfold Within
  generalize f.expField c = x at *
  generalize f.fracField c = y at *
  cases f <;> simp [expo, frac, hasInf, maxCode, expField, fracField] at * <;> omega

theorem Fmt.hasNan_of_hasInf {f : Fmt} (h : f.hasInf = true) : f.hasNan = true := by cases f <;> simp [hasInf, hasNan] at *

/-- A code is a NaN, an infinity, or a whole number of quanta (R70, Table 4.2). -/
theorem Fmt.value_cases (f : Fmt) (c : Nat) :
    (f.value c = .nan ∧ f.hasNan = true) ∨
    (f.value c = .inf (f.signField c) ∧ f.hasInf = true ∧ f.expField c = 2 ^ f.expo - 1 ∧ f.fracField c = 0) ∨
    (f.value c = XVal.scale (.fin (f.signField c) (f.sig c) 1) (f.quantumExp c) ∧ f.Within c) := by
  unfold value
  simp only [Bool.and_eq_true, decide_eq_true_eq, and_assoc]
  split_ifs with hinf hzero hnan hsub
  · exact .inr (.inl ⟨rfl, hinf.2, hinf.1, hzero⟩)
  · exact .inl ⟨rfl, hasNan_of_hasInf hinf.2⟩
  · exact .inl ⟨rfl, by rw [hnan.2.1]; rfl⟩
  · refine .inr (.inr ⟨?_, within_of_not_special hinf hnan⟩)
    have hexp : f.expField c = 0 := hsub
    rw [sig, quantumExp, if_pos hexp, if_pos hexp]
    rfl
  · refine .inr (.inr ⟨?_, within_of_not_special hinf hnan⟩)
    have hexp : f.expField c ≠ 0 := hsub
    rw [sig, quantumExp, if_neg hexp, if_neg hexp]
    rfl

theorem Fmt.above_eq_false {f : Fmt} {k k' : Nat} {t t' : Int} (hv : f.value f.maxCode = XVal.scale (.fin false k' 1) t')
    (h : k ≤ k' ∧ t ≤ t' ∨ k ≤ 2 * k' ∧ t + 1 ≤ t') : f.above k t = false := by
  have hle : k * 2 ^ t.toNat * 2 ^ (-t').toNat ≤ k' * 2 ^ t'.toNat * 2 ^ (-t).toNat := by
    rw [Nat.mul_assoc, Nat.mul_assoc, ← Nat.pow_add, ← Nat.pow_add]
    obtain ⟨hk, ht⟩ | ⟨hk, ht⟩ := h
    · exact Nat.mul_le_mul hk (Nat.pow_le_pow_right (by decide) (by omega))
    · calc k * 2 ^ (t.toNat + (-t').toNat) ≤ 2 * k' * 2 ^ (t.toNat + (-t').toNat) := Nat.mul_le_mul_right _ hk
        _ = k' * 2 ^ (t.toNat + (-t').toNat + 1) := by rw [Nat.pow_succ]; ring
        _ ≤ k' * 2 ^ (t'.toNat + (-t).toNat) := Nat.mul_le_mul_left _ (Nat.pow_le_pow_right (by decide) (by omega))
  have hpair : (if 0 ≤ t then (k * 2 ^ t.toNat, 1) else (k, 2 ^ (-t).toNat)) = (k * 2 ^ t.toNat, 2 ^ (-t).toNat) := by
    split_ifs with ht
    · simp [show (-t).toNat = 0 by omega]
    · simp [show t.toNat = 0 by omega]
  unfold above
  rw [hv, scale_fin, hpair]
  simpa using hle

theorem Fmt.value_maxCode (f : Fmt) : f.value f.maxCode = XVal.scale (.fin false (f.sig f.maxCode) 1) (f.quantumExp f.maxCode) := by
  cases f <;> decide

theorem Fmt.above_within {f : Fmt} {c : Nat} (h : f.Within c) : f.above (f.sig c) (f.quantumExp c) = false := by
  refine above_eq_false f.value_maxCode ?_
  obtain ⟨hexp, hfrac⟩ := h
  have hm := f.fracField_lt c
  have hmax : f.expField f.maxCode ≠ 0 := by cases f <;> decide
  unfold sig quantumExp
  rw [if_neg hmax, if_neg hmax]
  generalize f.expField c = x at *
  split_ifs <;> omega

theorem Fmt.encode_sig {f : Fmt} {c : Nat} (h : f.sig c ≠ 0) (s : Bool) :
    f.encode s (f.sig c) (f.quantumExp c) = f.withSign s (f.expField c * 2 ^ f.frac + f.fracField c) ∧
      max ((f.sig c).log2 + f.quantumExp c) (1 - (f.bias : Int)) - f.frac = f.quantumExp c := by
  have hm := f.fracField_lt c
  unfold sig quantumExp at *
  by_cases hsub : f.expField c = 0
  · simp only [hsub, if_true] at h ⊢
    have hlog : (f.fracField c).log2 < f.frac := (Nat.log2_lt h).mpr hm
    refine ⟨?_, by omega⟩
    unfold encode
    rw [if_neg h, if_pos (by omega)]
    simp
  · simp only [hsub, if_false] at h ⊢
    have hlog : (2 ^ f.frac + f.fracField c).log2 = f.frac := by
      rw [Nat.log2_eq_iff h, Nat.pow_succ]
      omega
    rw [hlog]
    refine ⟨?_, by omega⟩
    unfold encode
    rw [if_neg h, hlog, if_neg (by omega)]
    simp

/-- Only the codes of the two zeros stand for no quantum. -/
theorem Fmt.fields_of_sig_zero {f : Fmt} {c : Nat} (h : f.sig c = 0) : f.expField c * 2 ^ f.frac + f.fracField c = 0 := by
  have hpos : 0 < 2 ^ f.frac := Nat.two_pow_pos _
  unfold sig at h
  split_ifs at h with hsub
  · rw [hsub, h, Nat.zero_mul]
  · omega

theorem convert_exact : convertExact := by
  intro f c m sat r hc
  have hcode := f.code_eq hc
  obtain ⟨hv, hnan⟩ | ⟨hv, hinf, hexp, hfrac⟩ | ⟨hv, hwithin⟩ := f.value_cases c
  · rw [hv]
    simp [convertF, hnan]
  · rw [hexp, hfrac, Nat.add_zero] at hcode
    rw [hv]
    cases sat <;> simp [convertF, hinf, Fmt.infCode, ← hcode]
  · have hfin : convertF (f.value c) f m sat r = (c, 0) := by
      by_cases hzero : f.sig c = 0
      · have hfields := f.fields_of_sig_zero hzero
        rw [hfields] at hcode
        rw [hv, scale_fin, hzero, Nat.zero_mul]
        exact congrArg (·, 0) hcode.symm
      · obtain ⟨henc, hq⟩ := Fmt.encode_sig hzero (f.signField c)
        rw [hv, convertF_scale hzero hq (Fmt.above_within hwithin), henc, ← hcode]
    rw [hv, scale_fin] at hfin ⊢
    exact hfin

/-- Settles O20: each mode by division with remainder, and Convert on a code as on its whole number of quanta. -/
theorem rounding : Obligations.Rounding := ⟨rounding_modes, convert_exact⟩

end Sys2Proof.Machine
end

section
/-! The nearest LQ4 level (R74, R105). Between −1 and 1 the quotient is finite and so is every distance; distances compare as rational numbers
(`cmp_magnitude`), and the scan over the codes keeps the last of the least (`foldl_least`). -/

-- One declaration at a time: the threads of many small proofs at once pass the memory limit of the check.
set_option Elab.async false

namespace Sys2Proof.Machine

open Claims

/-! ### Finite values -/

/-- A finite value with a denominator. -/
def XVal.Finite (x : XVal) : Prop := ∃ s n d, x = .fin s n d ∧ 0 < d

/-- A finite value that is not negative. -/
def XVal.Magnitude (x : XVal) : Prop := ∃ n d, x = .fin false n d ∧ 0 < d

/-- The rational number of a magnitude. -/
def XVal.toRat : XVal → ℚ
  | .fin _ n d => n / d
  | _ => 0

theorem finite_value {f : Fmt} {c : Nat} {s : Bool} {n d : Nat} (h : f.value c = .fin s n d) : (f.value c).Finite := by
  obtain ⟨hv, -⟩ | ⟨hv, -⟩ | ⟨hv, -⟩ := f.value_cases c
  · cases hv.symm.trans h
  · cases hv.symm.trans h
  · exact ⟨_, _, _, hv.trans (scale_fin ..), Nat.two_pow_pos _⟩

theorem finite_neg {x : XVal} (h : x.Finite) : x.neg.Finite := by
  obtain ⟨s, n, d, rfl, hd⟩ := h
  exact ⟨!s, n, d, rfl, hd⟩

theorem magnitude_abs_add {x y : XVal} (rm : Bool) (hx : x.Finite) (hy : y.Finite) : (XVal.add rm x y).abs.Magnitude := by
  obtain ⟨s, n, d, rfl, hd⟩ := hx
  obtain ⟨s', n', d', rfl, hd'⟩ := hy
  unfold XVal.add
  simp only
  split_ifs
  · exact ⟨0, 1, rfl, Nat.one_pos⟩
  · exact ⟨0, 1, rfl, Nat.one_pos⟩
  · exact ⟨0, 1, rfl, Nat.one_pos⟩
  · exact ⟨_, _, rfl, Nat.mul_pos hd hd'⟩

/-- Magnitudes compare as their rational numbers. -/
theorem cmp_magnitude {x y : XVal} (hx : x.Magnitude) (hy : y.Magnitude) : XVal.cmp x y = compare x.toRat y.toRat := by
  obtain ⟨n, d, rfl, hd⟩ := hx
  obtain ⟨m, e, rfl, he⟩ := hy
  have hd' : (0 : ℚ) < d := Nat.cast_pos.mpr hd
  have he' : (0 : ℚ) < e := Nat.cast_pos.mpr he
  have hlt (a b c d : Nat) (hb : (0 : ℚ) < b) (hd : (0 : ℚ) < d) : (a : ℚ) / b < c / d ↔ ((a : Int) * d < c * b) := by
    rw [div_lt_div_iff₀ hb hd]
    exact_mod_cast Iff.rfl
  show compare ((n : Int) * e) (m * d) = compare ((n : ℚ) / d) (m / e)
  obtain h | h | h := lt_trichotomy ((n : Int) * e) (m * d)
  · rw [compare_lt_iff_lt.mpr h, compare_lt_iff_lt.mpr ((hlt n d m e hd' he').mpr h)]
  · rw [compare_eq_iff_eq.mpr h, eq_comm, compare_eq_iff_eq, div_eq_div_iff hd'.ne' he'.ne']
    exact_mod_cast h
  · rw [compare_gt_iff_gt.mpr h, compare_gt_iff_gt.mpr ((hlt m e n d he' hd').mpr h)]

/-! ### The nearest level (R74, R105) -/

/-- The index that a scan over the first `n + 1` keeps, the later of two that are equal, is the last of the least. -/
theorem foldl_least {α : Type} [LinearOrder α] (f : Nat → α) (n : Nat) :
    let r := (List.range (n + 1)).foldl (fun best c => if f best < f c then best else c) 0
    r ≤ n ∧ ∀ k ≤ n, f r ≤ f k ∧ (r < k → f r < f k) := by
  induction n with
  | zero => simp
  | succ n ih =>
    obtain ⟨hr, hleast⟩ := ih
    rw [List.range_succ, List.foldl_append, List.foldl_cons, List.foldl_nil]
    generalize (List.range (n + 1)).foldl (fun best c => if f best < f c then best else c) 0 = r at hr hleast
    split_ifs with hlt
    · refine ⟨by omega, fun k hk => ?_⟩
      obtain hk | rfl := Nat.le_succ_iff.mp hk
      · exact hleast k hk
      · exact ⟨hlt.le, fun _ => hlt⟩
    · refine ⟨le_rfl, fun k hk => ⟨?_, fun h => by omega⟩⟩
      obtain hk | rfl := Nat.le_succ_iff.mp hk
      · exact (not_lt.mp hlt).trans (hleast k hk).1
      · exact le_rfl

theorem finite_lq4Level (i : Nat) : (Fmt.bf16.value (lq4Level i)).Finite := by
  have hall : ∀ j < 8, ∃ s n d, Fmt.bf16.value (lq4Level j) = .fin s n d := by
    intro j hj
    interval_cases j <;> exact ⟨_, _, _, rfl⟩
  obtain ⟨s, n, d, h⟩ := hall (i % 8) (Nat.mod_lt _ (by decide))
  have hi : lq4Level (i % 8) = lq4Level i := by simp [lq4Level]
  rw [hi] at h
  exact finite_value h

theorem finite_lq4Value (c : Nat) : (lq4Value c).Finite := by
  unfold lq4Value
  split_ifs
  · exact finite_lq4Level _
  · exact finite_neg (finite_lq4Level _)

/-- How far a code's value lies from `t`. -/
def lq4Distance (t : XVal) (c : Nat) : XVal := (XVal.add false (lq4Value c) t.neg).abs

theorem magnitude_lq4Distance {t : XVal} (ht : t.Finite) (c : Nat) : (lq4Distance t c).Magnitude :=
  magnitude_abs_add false (finite_lq4Value c) (finite_neg ht)

/-- No code's value lies nearer than the one taken, and those as near are lower codes (R105). -/
theorem nearestLQ4_least {t : XVal} (ht : t.Finite) :
    nearestLQ4 t < 16 ∧ ∀ k < 16, XVal.cmp (lq4Distance t k) (lq4Distance t (nearestLQ4 t)) ≠ .lt ∧
      (nearestLQ4 t < k → XVal.cmp (lq4Distance t k) (lq4Distance t (nearestLQ4 t)) = .gt) := by
  have hscan : nearestLQ4 t = (List.range (15 + 1)).foldl
      (fun best c => if (lq4Distance t best).toRat < (lq4Distance t c).toRat then best else c) 0 := by
    unfold nearestLQ4
    congr 1
    funext best c
    have hxlt : xlt (lq4Distance t best) (lq4Distance t c) = true ↔ (lq4Distance t best).toRat < (lq4Distance t c).toRat := by
      rw [xlt, cmp_magnitude (magnitude_lq4Distance ht best) (magnitude_lq4Distance ht c), beq_iff_eq, compare_lt_iff_lt]
    exact if_congr hxlt rfl rfl
  obtain ⟨hle, hleast⟩ := foldl_least (fun c => (lq4Distance t c).toRat) 15
  rw [← hscan] at hle hleast
  refine ⟨Nat.lt_succ_of_le hle, fun k hk => ?_⟩
  obtain ⟨hge, hgt⟩ := hleast k (Nat.le_of_lt_succ hk)
  rw [cmp_magnitude (magnitude_lq4Distance ht k) (magnitude_lq4Distance ht _)]
  exact ⟨fun h => absurd (compare_lt_iff_lt.mp h) (not_lt.mpr hge), fun h => compare_gt_iff_gt.mpr (hgt h)⟩

/-- A quotient of two codes that is finite has a denominator. -/
theorem finite_div {f g : Fmt} {a b : Nat} {s : Bool} {n d : Nat} (h : (f.value a).div (g.value b) = .fin s n d) :
    ((f.value a).div (g.value b)).Finite := by
  cases hx : f.value a with
  | nan => simp [hx, XVal.div] at h
  | inf _ => cases hy : g.value b <;> simp [hx, hy, XVal.div] at h
  | fin s₁ n₁ d₁ =>
    cases hy : g.value b with
    | nan => simp [hx, hy, XVal.div] at h
    | inf s₂ => exact ⟨_, 0, 1, rfl, Nat.one_pos⟩
    | fin s₂ n₂ d₂ =>
      obtain ⟨_, _, _, hfin, hpos⟩ := finite_value hx
      cases hx.symm.trans hfin
      rw [hx, hy] at h
      unfold XVal.div at h ⊢
      simp only at h ⊢
      split_ifs at h ⊢ with hzero
      exact ⟨_, _, _, rfl, Nat.mul_pos hpos (Nat.pos_of_ne_zero hzero)⟩

/-- Between −1 and 1 a value is finite. -/
theorem fin_of_between {t : XVal} (hn : t ≠ .nan) (hhi : XVal.cmp (.ofInt 1) t ≠ .lt) (hlo : XVal.cmp t (.ofInt (-1)) ≠ .lt) :
    ∃ s n d, t = .fin s n d := by
  cases t with
  | nan => exact absurd rfl hn
  | inf s => cases s <;> simp [XVal.cmp, XVal.ofInt] at hhi hlo
  | fin s n d => exact ⟨_, _, _, rfl⟩

/-- Nothing lies above 1 and below −1. -/
theorem not_above_of_below {t : XVal} (hlo : XVal.cmp t (.ofInt (-1)) = .lt) : XVal.cmp (.ofInt 1) t ≠ .lt := by
  intro hhi
  cases t with
  | nan => simp [XVal.cmp, XVal.ofInt] at hlo
  | inf s => cases s <;> simp [XVal.cmp, XVal.ofInt] at hhi hlo
  | fin s n d =>
    simp only [XVal.cmp, XVal.ofInt, compare_lt_iff_lt] at hhi hlo
    simp [signed] at hhi hlo
    omega

/-- Settles O25: the scan keeps the last of the codes at the least distance. -/
theorem nearestLevel : Obligations.NearestLevel := by
  intro a b t dist
  have hnib : lq4Nib a b = if t.isNan then (8, 1) else if xlt (.ofInt 1) t then (15, 1) else if xlt t (.ofInt (-1)) then (0, 1)
      else (nearestLQ4 t, 0) := rfl
  have hnan (hn : t ≠ .nan) : ¬t.isNan = true := by
    cases ht : t with
    | nan => exact absurd ht hn
    | inf _ => exact Bool.false_ne_true
    | fin _ _ _ => exact Bool.false_ne_true
  have hlt (x y : XVal) : xlt x y = true ↔ XVal.cmp x y = .lt := beq_iff_eq
  rcases hp : lq4Nib a b with ⟨c, n⟩
  rw [hnib] at hp
  refine ⟨fun hn => ?_, fun hn hhi => ?_, fun hn hlo => ?_, fun hn hhi hlo => ?_⟩
  · rw [if_pos (by rw [hn]; rfl)] at hp
    obtain ⟨rfl, rfl⟩ := Prod.mk.inj hp
    exact ⟨rfl, rfl⟩
  · rw [if_neg (hnan hn), if_pos ((hlt _ _).mpr hhi)] at hp
    obtain ⟨rfl, rfl⟩ := Prod.mk.inj hp
    exact ⟨rfl, rfl⟩
  · rw [if_neg (hnan hn), if_neg (mt (hlt _ _).mp (not_above_of_below hlo)), if_pos ((hlt _ _).mpr hlo)] at hp
    obtain ⟨rfl, rfl⟩ := Prod.mk.inj hp
    exact ⟨rfl, rfl⟩
  · rw [if_neg (hnan hn), if_neg (mt (hlt _ _).mp hhi), if_neg (mt (hlt _ _).mp hlo)] at hp
    obtain ⟨rfl, rfl⟩ := Prod.mk.inj hp
    obtain ⟨s, n, d, hfin⟩ := fin_of_between hn hhi hlo
    exact ⟨rfl, nearestLQ4_least (finite_div hfin)⟩

end Sys2Proof.Machine
end
